-- ==== Sys2Proof/Word.lean ====
section
/-! DEFINITION. The word types of the Fovik 9 (R2, R5): registers, addresses and the bytes of memory. -/

namespace Sys2Proof

/-- One byte of memory, the smallest addressable unit (R5). -/
abbrev Byte := BitVec 8

/-- The value of a `v` register (R8). -/
abbrev W32 := BitVec 32

/-- The value of an `x` register, a generic address, a virtual PC (R8, R83, R178). -/
abbrev W64 := BitVec 64

/-- A mask of the 32 lanes of a gang, bit `n` for lane `n` (R162). -/
abbrev Mask := BitVec 32

end Sys2Proof
end

