-- ==== Sys2Proof/Machine/Bits.lean ====
section
/-! DEFINITION. Bit fields, sign extension, byte order and lane masks (R2, R5). -/

namespace Sys2Proof.Machine

/-- Bits [lo + n - 1 : lo] of a bit vector as a number (R2). -/
def bitsOf {w : Nat} (x : BitVec w) (lo n : Nat) : Nat := x.toNat / 2 ^ lo % 2 ^ n

/-- Bit `n`, false beyond the width. -/
def bitOf {w : Nat} (x : BitVec w) (n : Nat) : Bool := x.getLsbD n

/-- Sign extension to `v` bits (R46). -/
def sextTo {w : Nat} (v : Nat) (x : BitVec w) : BitVec v := x.signExtend v

/-- Little-endian bytes of a number (R5). -/
def leBytes (n v : Nat) : List Byte := (List.range n).map fun i => BitVec.ofNat 8 (v / 2 ^ (8 * i))

/-- The number that little-endian bytes stand for (R5). -/
def ofLe (bs : List Byte) : Nat :=
  match bs with
  | [] => 0
  | b :: r => b.toNat + 256 * ofLe r

/-- The lanes of a mask in ascending order (R7). -/
def lanesOf (m : Mask) : List Nat := (List.range 32).filter fun l => m.getLsbD l

/-- The mask with exactly the lanes that meet `p`. -/
def maskOf (p : Nat → Bool) : Mask :=
  (List.range 32).foldl (fun m l => if p l then m ||| BitVec.ofNat 32 (2 ^ l) else m) 0

/-- The mask of one lane. -/
def laneBit (l : Nat) : Mask := BitVec.ofNat 32 (2 ^ l)

/-- The lowest lane of a mask, 0 when it is empty. -/
def lowLane (m : Mask) : Nat := (lanesOf m).headD 0

/-- The number of lanes in a mask. -/
def countLanes (m : Mask) : Nat := (lanesOf m).length

/-- Bytes `[off, off + n)` of a byte list as a little-endian number. -/
def leAt (bs : List Byte) (off n : Nat) : Nat := ofLe ((bs.drop off).take n)

/-- The bytes of a list of 32-bit words. -/
def wordsToBytes (ws : List W32) : List Byte := ws.flatMap fun w => leBytes 4 w.toNat

/-- The 32-bit words of a byte list. -/
def bytesToWords (n : Nat) (bs : List Byte) : List W32 :=
  (List.range n).map fun i => BitVec.ofNat 32 (leAt bs (4 * i) 4)

end Sys2Proof.Machine
end

