-- ==== Sys2Proof/Syntax.lean ====
section
/-! DEFINITION. The syntax of the Fovik 9's steps: every ZN-V instruction with its decoded fields, and every native,
device and link step of the opcode table with its payload. -/

namespace Sys2Proof

/-- The type field (R39). -/
inductive Ty where
  | s32 | n32 | s64 | n64 | fp32 | fp16 | bf16 | fp64
  | s8x4 | n8x4 | s4x8 | n4x8 | e4m3x4 | e5m2x4 | e2m1x8 | b32
deriving DecidableEq, Repr

/-- The guard field, bits [46:42] (R38). -/
structure Guard where
  neg : Bool
  pred : BitVec 4
deriving DecidableEq, Repr

/-- Format A (R31): register numbers and codes already extended by the prefix (R36). -/
structure AForm where
  mod : BitVec 4
  ty : Ty
  g : Guard
  d : Nat
  a : Nat
  b : Nat
deriving DecidableEq, Repr

/-- Format I (R32). -/
structure IForm where
  mod : BitVec 4
  ty : Ty
  g : Guard
  d : Nat
  a : Nat
  imm : BitVec 14
deriving DecidableEq, Repr

/-- Format C (R33). -/
structure CForm where
  mod : BitVec 4
  ty : Ty
  g : Guard
  d : Nat
  a : Nat
  b : Nat
  c : Nat
  ext : BitVec 18
deriving DecidableEq, Repr

/-- Format L (R34). -/
structure LForm where
  mod : BitVec 4
  ty : Ty
  g : Guard
  d : Nat
  a : Nat
  b : Nat
  lit : BitVec 32
deriving DecidableEq, Repr

/-- A gang slot of a core (R13): `gang` runs from 0 to 31. -/
structure AtGang where
  core : Nat
  gang : Nat
deriving DecidableEq, Repr

/-- A numbered item of a gang: an interest slot, or a parked access in the order of parking. -/
structure AtItem where
  core : Nat
  gang : Nat
  item : Nat
deriving DecidableEq, Repr

/-- A user slot, scratchpad row, spawn bin or engine unit of a core, by number. -/
structure AtCore where
  core : Nat
  item : Nat
deriving DecidableEq, Repr

/-- The 512 bits of a native long word (R211): the header and the slots S0, S1, V0, V1, M, E, B. -/
structure LWord where
  header : BitVec 64
  s0 : BitVec 64
  s1 : BitVec 64
  v0 : BitVec 64
  v1 : BitVec 64
  m : BitVec 64
  e : BitVec 64
  b : BitVec 64
deriving DecidableEq, Repr

/-- One entry of a register map (R236): a virtual register of the `v` or `x` file and the native register, 0 to 511
in section order, that holds it. -/
structure RegMap where
  isX : Bool
  virt : Nat
  nreg : Nat
deriving DecidableEq, Repr

/-- A side-table record (R236). -/
structure SideRec where
  npc : Nat
  virt : BitVec 64
  replay : Nat
  map : Nat
  trapinfo : Nat
deriving DecidableEq, Repr

/-- A stored info word of an XTRAP; `fill` marks a word whose low half the hardware replaces by the PC group's lane
mask (R231). -/
structure InfoWord where
  value : BitVec 64
  fill : Bool
deriving DecidableEq, Repr

/-- The window that a function of a translation takes in each section (R209). -/
structure WindowSize where
  fn : BitVec 64
  a : Nat
  b : Nat
  c : Nat
  d : Nat
deriving DecidableEq, Repr

/-- What the operation of a slot of a native word stands for: the virtual instruction at `pc`, or, with none, no instruction of its
own, such as the load of a constant (R19, R302, R441; log entry 12). -/
structure Origin where
  word : Nat
  slot : Nat
  pc : Option (BitVec 64)
deriving DecidableEq, Repr

/-- A kiln translation (R435): native code, entry table, side table, register maps and window sizes. `cuts` holds the
virtual PCs after which a region ends when the translation is run as virtual code; `none` ends a region after every
virtual instruction. `fallbacks` holds the fallback that stands in the side table with each SPECEND (R240), by word, and `origins`
what slots stand for (log entry 12). -/
structure Transl where
  key : BitVec 256
  tenant : Nat
  isPublic : Bool
  glaze : Bool
  generation : Nat
  resident : Nat
  words : List LWord
  entries : List (BitVec 64 × Nat)
  side : List SideRec
  maps : List (List RegMap)
  infos : List (List InfoWord)
  windows : List WindowSize
  unhoisted : List (BitVec 64)
  cuts : Option (List (BitVec 64))
  fallbacks : List (Nat × Nat)
  origins : List Origin
  lastUse : Nat
deriving DecidableEq, Repr

/-- The holders of pending interests (R362, R363). -/
inductive Holder where
  | rendezvous (die slice : Nat)
  | dieRelay (die : Nat)
  | pkgRelay (pkg : Nat)
deriving DecidableEq, Repr

/-- A consumer of a name: (context, slot, serial) on a core (R363, R364), with the gang slot that holds it. -/
structure Consumer where
  pkg : Nat
  core : Nat
  ctx : Nat
  gang : Nat
  slot : Nat
  serial : BitVec 32
deriving DecidableEq, Repr

/-- A face of a pending entry (R363, R428): a consumer's core, a relay, or the rendezvous tarn of a prefetch. -/
inductive Face where
  | consumer (c : Consumer)
  | relay (h : Holder)
  | prefetch (launch : Nat)
deriving DecidableEq, Repr

/-- An interest on its way to a holder (R364). `until` is the tick at which its lifetime ends. -/
structure InterestMsg where
  holder : Holder
  tenant : Nat
  name : BitVec 64
  face : Face
  until_ : Nat
deriving DecidableEq, Repr

/-- A tile on its way to a relay (R365, R367), with the publisher's place in happens-before (R376). -/
structure TileMsg where
  holder : Holder
  tenant : Nat
  name : BitVec 64
  pubseq : Nat
  bytes : List Byte
  clock : List (Nat × Nat)
deriving DecidableEq, Repr

/-- A tile on its way to a consumer (R284, R367). -/
structure ArrivalMsg where
  consumer : Consumer
  tenant : Nat
  name : BitVec 64
  bytes : List Byte
  clock : List (Nat × Nat)
deriving DecidableEq, Repr

/-- A face whose lifetime ended 64 µs ago (R367). -/
structure FaceRef where
  holder : Holder
  tenant : Nat
  name : BitVec 64
  face : Face
deriving DecidableEq, Repr

/-- A rebind of a restored context's interest (R368): the old consumer and the new. -/
structure RebindMsg where
  tenant : Nat
  name : BitVec 64
  old : Consumer
  new : Consumer
deriving DecidableEq, Repr

/-- A FATOM contribution on its way to its home slice (R195): window key, sort key and addend. -/
structure Contribution where
  launch : Nat
  pa : Nat
  ty : Ty
  k1 : Nat
  k2 : Nat
  k3 : Nat
  value : BitVec 64
deriving DecidableEq, Repr

/-- A page of a tenant, for a walk on behalf of a core (R355). -/
structure WalkReq where
  core : Nat
  tenant : Nat
  va : BitVec 64
deriving DecidableEq, Repr

/-- The service core's answer for a not-present page: the leaf PTE it installs, or none when the page cannot be made
resident (R355). -/
structure ResidentMsg where
  tenant : Nat
  va : BitVec 64
  pte : Option (BitVec 64)
deriving DecidableEq, Repr

/-- Where a service request block lies (R176): a global page, a fibre's stack slice, or a scratchpad window. -/
inductive ReqPlace where
  | glob (tenant : Nat) (ea : BitVec 64)
  | stack (fibre : Nat) (off : Nat)
  | window (block : Nat) (off : Nat)
  | phys (pa : Nat)
deriving DecidableEq, Repr

/-- A service request with its seven argument words (R176, R444): its number, and the stack whose service core serves it, 16 for
the kiln (R443, R446). -/
structure SvcReq where
  service : Nat
  stk : Nat
  tenant : Nat
  ctx : Nat
  place : ReqPlace
  args : List (BitVec 64)
deriving DecidableEq, Repr

/-- A service reply to a stack or scratchpad block (R176): the reply words and the status. -/
structure SvcReply where
  ctx : Nat
  place : ReqPlace
  words : List (BitVec 64)
  status : BitVec 64
deriving DecidableEq, Repr

/-- A dispatcher message for a core's mailbox (R494). -/
structure MboxMsg where
  core : Nat
  ctx : Nat
  slot : Nat
  addr : BitVec 64
deriving DecidableEq, Repr

/-- A queue of a function (R406). Function 0 is the PF and `n` is VF `n`. -/
structure AtQueue where
  fn : Nat
  queue : Nat
deriving DecidableEq, Repr

/-- A write to a notification page (R408): the page's queue, the offset, the width in bytes and the value. -/
structure KickWrite where
  fn : Nat
  page : Nat
  offset : Nat
  bytes : Nat
  value : BitVec 64
deriving DecidableEq, Repr

/-- A 64-byte record read from a command buffer (R410, R411). -/
structure RecordMsg where
  fn : Nat
  queue : Nat
  bits : BitVec 512
deriving DecidableEq, Repr

/-- A command of an accepted batch: the journal entry and the command's index from 1 (R413, R429). -/
structure CmdRef where
  entry : Nat
  index : Nat
deriving DecidableEq, Repr

/-- A unit that fails (R432). -/
inductive FailUnit where
  | core (c : Nat)
  | cluster (c : Nat)
  | die (d : Nat)
  | stack (k : Nat)
  | service (k : Nat)
  | kiln (k : Nat)
  | link (p : Nat)
deriving DecidableEq, Repr

/-- A boot stage image in the flash (R447, R448). -/
structure StageImage where
  bytes : List Byte
  svn : Nat
  sig : List Byte
  chain : List Byte
deriving DecidableEq, Repr

/-- The readings of one 10 µs window of a die (R456): mean power in mW and the hottest sensor in units of 0.1 °C. -/
structure WindowRead where
  die : Nat
  power : Nat
  hottest : Nat
deriving DecidableEq, Repr

/-- What one patrol read of a 64-byte sector finds (R453, R454). -/
inductive ScrubResult where
  | clean
  | corrected
  | uncorrectable
deriving DecidableEq, Repr

/-- One sector read by the patrol scrubber (R453). -/
structure ScrubRead where
  stack : Nat
  pa : Nat
  result : ScrubResult
deriving DecidableEq, Repr

/-- The end of an HBM refresh interval for one bank (R349): whether requests to the bank are waiting. -/
structure RefreshTick where
  stack : Nat
  bank : Nat
  waiting : Bool
deriving DecidableEq, Repr

/-- An SPDM request at a host port (R450): its bytes after the message code. -/
structure SpdmMsg where
  port : Nat
  bytes : List Byte
deriving DecidableEq, Repr

/-- An IDE_KM message (R451): function, port, key set, direction and key. -/
structure IdeMsg where
  fn : Nat
  port : Nat
  keySet : Nat
  tx : Bool
  key : BitVec 256
deriving DecidableEq, Repr

/-- A protected stream end of the fabric (R452): peer package, tenant number or 4,096 for management, direction. -/
structure StreamRef where
  peer : Nat
  tenant : Nat
  tx : Bool
deriving DecidableEq, Repr

/-- Link training (R472): firmware enables it, or the keys of R452 are agreed. -/
structure TrainMsg where
  port : Nat
  agreed : Bool
deriving DecidableEq, Repr

/-- Management traffic between packages (R380, R381, R434, R436, R486, R487). -/
inductive Mgmt where
  | none
  | entryAsk (key : BitVec 256) (tenant launch : Nat)
  | entryAnswer (launch : Nat) (t : Option Transl)
  | ticketAsk (tag : Nat)
  | ticketGive (tag ticket : Nat)
  | ticketRelease (ticket : Nat)
  | ticketDone (ticket : Nat)
  | ticketHighAsk
  | ticketHigh (ticket : Nat)
  | witnessAccept (fn queue seq count : Nat)
  | witnessDone (fn queue seq index : Nat)
  | heartbeat
  | lossNotice (pkg : Nat)
  | suspicion (pkg : Nat)
  | lossConfirm (pkg : Nat)
  | routeChange (tenant space : Nat) (entry : BitVec 64)
  | invalidate (tenant : Nat) (base len : BitVec 64) (all : Bool) (tag : Nat)
  | invalidateAck (tag : Nat)
  | keyAgree (tenant : Nat) (slot : Nat) (key : BitVec 256)
  | keyAck (tenant : Nat) (slot : Nat)
  | rebind (m : RebindMsg)
  | windowsClose (launch : Nat) (keep : Bool)
  | windowsClosed (launch : Nat)
  | windowsDrop (launch : Nat) (keys : List Nat)
  | holdsEnd (launch : Nat)
  | svcCall (r : SvcReq)
  | lostWork (pkg fn queue seq index : Nat)
deriving DecidableEq, Repr

/-- A fabric packet (R473): the base header's fields, the extension's fields by type, and the payload. The spec gives
the extension no bit layout, so its fields stand apart (log entry 23). -/
structure Packet where
  dst : Nat
  src : Nat
  relay : Nat
  detoured : Bool
  response : Bool
  tenant : Nat
  mgmt : Bool
  seq : BitVec 32
  eack : BitVec 32
  addr : Nat
  size : Nat
  order : BitVec 3
  scope : BitVec 3
  tag : Nat
  op : Nat
  ty : Ty
  name : BitVec 64
  until_ : Nat
  consumer : Option Consumer
  contribution : Option Contribution
  data : List Byte
  data2 : List Byte
  body : Mgmt
deriving DecidableEq, Repr

/-- A packet as its flits spell it at a port (R473; log entry 23): what its extension and payload hold when they are decrypted,
the base header, the flits between it and the tag as they travel, the tag, the key slot its flits name (R452), and whether it
ends in a truncation flit (R474). -/
structure RxPacket where
  packet : Packet
  header : BitVec 128
  cipher : List Byte
  tag : BitVec 128
  slot : Nat
  cut : Bool
deriving DecidableEq, Repr

/-- A link group as received at a port (R470): the header flit, the fifteen body flits, and the packets whose last flit lies in
the group. -/
structure GroupMsg where
  port : Nat
  header : BitVec 512
  body : List (BitVec 512)
  packets : List RxPacket
deriving DecidableEq, Repr

/-- A packet of a stream that a timer concerns (R475). -/
structure ResendRef where
  peer : Nat
  tenant : Nat
  response : Bool
  seq : BitVec 32
deriving DecidableEq, Repr

/-- An operator request on a PF management queue (R406, R424, R427, R434, R442, R484). -/
inductive MgmtReq where
  | bindTenant (fn tenant : Nat) (desc : BitVec 64)
  | bindQueue (fn queue ctx : Nat)
  | setupQueue (fn queue size : Nat) (ring : BitVec 64)
  | setTickets (tenant tickets : Nat)
  | setQuota (tenant quota : Nat)
  | setBintime (ctx ck : Nat)
  | setPowerCap (watts : Nat)
  | bindWitnessRing (base : BitVec 64) (entries : Nat)
  | setAperture (tenant index : Nat) (base size : BitVec 64) (members : BitVec 16) (reduce : BitVec 8) (ty : Ty)
  | destroyContext (ctx : Nat)
deriving DecidableEq, Repr

/-- The driver's accepted feature bits of a function (R407). -/
structure FeatureMsg where
  fn : Nat
  bits : BitVec 64
deriving DecidableEq, Repr

/-- One step of the part (spec/opcode_table.json): each ZN-V instruction with its decoded fields, then each native,
device and link step with its payload. -/
inductive Instr where
  /-- ADD (R108): Format-A add of two registers per lane, wrapping modulo 2^w, element by element for packed types. -/
  | add (f : AForm)
  /-- ADD_I (R108): Format-I add of a register and a sign-extended imm14 per lane. -/
  | addI (f : IForm)
  /-- SUB (R108): Format-A subtract per lane, wrapping modulo 2^w. -/
  | sub (f : AForm)
  /-- SUB_I (R108): Format-I subtract of a sign-extended imm14 per lane. -/
  | subI (f : IForm)
  /-- MUL (R108): Format-A multiply per lane, keeping the low w bits. -/
  | mul (f : AForm)
  /-- MUL_I (R108): Format-I multiply by a sign-extended imm14 per lane. -/
  | mulI (f : IForm)
  /-- MULH (R108): Writes the high w bits of the exact 2w-bit product, signed or unsigned by ty. -/
  | mulh (f : AForm)
  /-- MADD (R108): Writes a times b plus c modulo 2^w per lane. -/
  | madd (f : CForm)
  /-- DIV (R110): Integer divide truncating toward zero, with fixed results for division by zero and overflow. -/
  | div (f : AForm)
  /-- REM (R110): Integer remainder with the sign of the dividend, with fixed corner-case results. -/
  | rem (f : AForm)
  /-- ABS (R108): Absolute value of signed elements; the most negative value returns itself. -/
  | abs (f : AForm)
  /-- NEG (R108): Negates each element modulo 2^w. -/
  | neg (f : AForm)
  /-- MIN (R108): Format-A minimum per element, signed or unsigned by ty. -/
  | min (f : AForm)
  /-- MIN_I (R108): Format-I minimum against an immediate extended per R46. -/
  | minI (f : IForm)
  /-- MAX (R108): Format-A maximum per element, signed or unsigned by ty. -/
  | max (f : AForm)
  /-- MAX_I (R108): Format-I maximum against an immediate extended per R46. -/
  | maxI (f : IForm)
  /-- AND (R111): Format-A bitwise AND over all w bits. -/
  | and (f : AForm)
  /-- AND_I (R111): Format-I bitwise AND with a zero-extended imm14. -/
  | andI (f : IForm)
  /-- OR (R111): Format-A bitwise OR. -/
  | or (f : AForm)
  /-- OR_I (R111): Format-I bitwise OR with a zero-extended imm14. -/
  | orI (f : IForm)
  /-- XOR (R111): Format-A bitwise XOR. -/
  | xor (f : AForm)
  /-- XOR_I (R111): Format-I bitwise XOR with a zero-extended imm14. -/
  | xorI (f : IForm)
  /-- ANDN (R111): Writes A AND NOT B. -/
  | andn (f : AForm)
  /-- NOT (R111): Writes the bitwise complement of A. -/
  | not (f : AForm)
  /-- SHL (R112): Format-A left shift by a register count; counts of w or more give zero. -/
  | shl (f : AForm)
  /-- SHL_I (R112): Format-I left shift by imm[5:0]. -/
  | shlI (f : IForm)
  /-- SHR (R112): Format-A logical right shift by a register count. -/
  | shr (f : AForm)
  /-- SHR_I (R112): Format-I logical right shift by imm[5:0]. -/
  | shrI (f : IForm)
  /-- SAR (R112): Format-A arithmetic right shift by a register count. -/
  | sar (f : AForm)
  /-- SAR_I (R112): Format-I arithmetic right shift by imm[5:0]. -/
  | sarI (f : IForm)
  /-- ROTL (R112): Format-A rotate left by a count modulo w. -/
  | rotl (f : AForm)
  /-- ROTL_I (R112): Format-I rotate left by imm[5:0]. -/
  | rotlI (f : IForm)
  /-- FUNNEL (R113): Shifts the joined 2w-bit value of A and B by a clamped or modular count and writes one half. -/
  | funnel (f : CForm)
  /-- BFX (R114): Format-A bit-field extract with position and width from a register. -/
  | bfx (f : AForm)
  /-- BFX_I (R114): Format-I bit-field extract with position and width from imm14. -/
  | bfxI (f : IForm)
  /-- BFI (R114): Inserts the low bits of B into A at the position and width held in c. -/
  | bfi (f : CForm)
  /-- POPC (R115): Writes the count of one bits of A to a v register. -/
  | popc (f : AForm)
  /-- CLZ (R115): Writes the count of leading zero bits of A. -/
  | clz (f : AForm)
  /-- CTZ (R115): Writes the count of trailing zero bits of A. -/
  | ctz (f : AForm)
  /-- BREV (R115): Writes A with its bit order reversed. -/
  | brev (f : AForm)
  /-- PRMT (R116): Builds a 32-bit word from an eight-byte pool under selector nibbles, with sign-fill. -/
  | prmt (f : CForm)
  /-- SEL (R117): Copies A or B bit for bit, chosen by a predicate and a negation bit. -/
  | sel (f : CForm)
  /-- MOV (R117): Copies a register bit for bit. -/
  | mov (f : AForm)
  /-- MOVI (R117): Writes a 32-bit literal, sign- or zero-extended into x registers. -/
  | movi (f : LForm)
  /-- LEA (R118): Format-C address computation: base plus shifted index plus displacement, unchecked. -/
  | lea (f : CForm)
  /-- LEA_I (R118): Format-I address computation: base plus a sign-extended imm14. -/
  | leaI (f : IForm)
  /-- ADDSAT (R109): Saturating add per element, setting SAT on any clamp. -/
  | addsat (f : AForm)
  /-- SUBSAT (R109): Saturating subtract per element, setting SAT on any clamp. -/
  | subsat (f : AForm)
  /-- CMP (R120): Format-A integer compare writing one predicate. -/
  | cmp (f : AForm)
  /-- CMP_I (R120): Format-I integer compare against an extended immediate. -/
  | cmpI (f : IForm)
  /-- FCMP (R121): Floating compare writing a predicate, with ordered and unordered conditions and NV rules. -/
  | fcmp (f : AForm)
  /-- PAND (R122): Predicate AND of two predicates. -/
  | pand (f : AForm)
  /-- POR (R122): Predicate OR of two predicates. -/
  | por (f : AForm)
  /-- PXOR (R122): Predicate XOR of two predicates. -/
  | pxor (f : AForm)
  /-- PNOT (R122): Predicate complement. -/
  | pnot (f : AForm)
  /-- PMOV (R123): Reads the whole predicate word into a v register, or sets it from one. -/
  | pmov (f : AForm)
  /-- PSEL (R122): Selects one of two predicates under a third. -/
  | psel (f : CForm)
  /-- FADD (R127): Format-A floating add rounded once in the selected mode. -/
  | fadd (f : AForm)
  /-- FSUB (R127): Floating subtract rounded once. -/
  | fsub (f : AForm)
  /-- FMUL (R127): Format-A floating multiply rounded once. -/
  | fmul (f : AForm)
  /-- FFMA (R127): Fused multiply-add with a single rounding. -/
  | ffma (f : CForm)
  /-- FMIN (R128): IEEE minimumNumber of two operands. -/
  | fmin (f : AForm)
  /-- FMAX (R128): IEEE maximumNumber of two operands. -/
  | fmax (f : AForm)
  /-- FDIV (R127): Floating divide rounded once, setting DZ on division of a nonzero finite by zero. -/
  | fdiv (f : AForm)
  /-- FSQRT (R127): Floating square root rounded once. -/
  | fsqrt (f : AForm)
  /-- FRCP (R132): Correctly rounded reciprocal. -/
  | frcp (f : AForm)
  /-- FRSQ (R132): Correctly rounded reciprocal square root. -/
  | frsq (f : AForm)
  /-- FEXP2 (R132): Correctly rounded base-2 exponential. -/
  | fexp2 (f : AForm)
  /-- FLOG2 (R132): Correctly rounded base-2 logarithm. -/
  | flog2 (f : AForm)
  /-- FSIN (R132): Correctly rounded sine with exact argument reduction. -/
  | fsin (f : AForm)
  /-- FCOS (R132): Correctly rounded cosine with exact argument reduction. -/
  | fcos (f : AForm)
  /-- FTANH (R132): Correctly rounded hyperbolic tangent. -/
  | ftanh (f : AForm)
  /-- FCLASS (R133): Writes a one-hot class mask of A. -/
  | fclass (f : AForm)
  /-- FSCALE (R129): Writes A times 2^B rounded once. -/
  | fscale (f : AForm)
  /-- FRND (R130): Rounds A to an integral value in the same format. -/
  | frnd (f : AForm)
  /-- CVT (R134): Converts between integer and floating types with rounding and optional saturation. -/
  | cvt (f : CForm)
  /-- FCOPYSIGN (R131): Writes A's magnitude with B's sign bit. -/
  | fcopysign (f : AForm)
  /-- FADD_L (R127): Format-L FP32 add of a literal. -/
  | faddL (f : LForm)
  /-- FMUL_L (R127): Format-L FP32 multiply by a literal. -/
  | fmulL (f : LForm)
  /-- DOT8 (R136): Four-element dot product added to an accumulator. -/
  | dot8 (f : CForm)
  /-- DOT4 (R136): Eight-element 4-bit dot product added to an accumulator. -/
  | dot4 (f : CForm)
  /-- DOT2 (R136): Two-element FP16 or BF16 dot product added to an FP32 accumulator. -/
  | dot2 (f : CForm)
  /-- PACK (R137): Converts two values and writes them into element pair k of D, saturating. -/
  | pack (f : AForm)
  /-- UNPACK (R138): Widens element i of A exactly. -/
  | unpack (f : AForm)
  /-- SCL (R139): Multiplies element i by its E8 block scale and writes FP32. -/
  | scl (f : CForm)
  /-- QNT (R140): Quantises an FP32 value into element i under its block scale. -/
  | qnt (f : CForm)
  /-- QNTSR (R141): Quantises with deterministic stochastic rounding keyed by the logical name. -/
  | qntsr (f : CForm)
  /-- HIST (R143): Counts exponents of A into the context's histogram at commit. -/
  | hist (f : AForm)
  /-- HCLIP (R145): Reads a percentile exponent from the histogram, optionally clearing it. -/
  | hclip (f : IForm)
  /-- LD_I (R185): Format-I load of each lane's naturally aligned bytes. -/
  | ldI (f : IForm)
  /-- LD_C (R185): Format-C load with an order, scope and 12-bit offset. -/
  | ldC (f : CForm)
  /-- ST_I (R185): Format-I store, gated until its region commits. -/
  | stI (f : IForm)
  /-- ST_C (R185): Format-C store with an order, scope and 12-bit offset. -/
  | stC (f : CForm)
  /-- LDROW (R188): Loads one 64-byte row into sixteen v registers. -/
  | ldrow (f : IForm)
  /-- STROW (R188): Stores sixteen v registers as one 64-byte row. -/
  | strow (f : IForm)
  /-- ROTM (R189): Composes a row from two row images at a byte shift, without memory access. -/
  | rotm (f : CForm)
  /-- PRES (R190): Tests a scratchpad row's presence bit without parking. -/
  | pres (f : AForm)
  /-- ATOM (R192): Atomic read-modify-write returning the old value. -/
  | atom (f : CForm)
  /-- CAS (R193): Atomic compare-and-swap with success and failure orders. -/
  | cas (f : CForm)
  /-- CAS128 (R194): Sixteen-byte compare-and-swap on register pairs. -/
  | cas128 (f : CForm)
  /-- FATOM (R195): Queues an ordered floating contribution to a global location's window at commit. -/
  | fatom (f : CForm)
  /-- FENCE (R198): Orders the gang's lane accesses at a scope, parking until earlier accesses are performed. -/
  | fence (f : CForm)
  /-- FENCEX (R199): Orders accesses of before classes ahead of after classes across paths. -/
  | fencex (f : CForm)
  /-- PREF (R191): Requests global bytes into L2 and lane cache with no architectural effect. -/
  | pref (f : IForm)
  /-- SHW (R276): Writes one field of a shape register's shadow half. -/
  | shw (f : CForm)
  /-- LDQ (R273): Pops or peeks queue entries into each lane. -/
  | ldq (f : AForm)
  /-- STQ (R273): Pushes each lane's value onto a queue register. -/
  | stq (f : AForm)
  /-- BRA (R153): Branches by a literal parcel offset, checking the target. -/
  | bra (f : LForm)
  /-- BRX (R153): Branches to each lane's x-register target. -/
  | brx (f : AForm)
  /-- CALL (R155): Opens a new activation at a direct function entry, copying linkage registers. -/
  | call (f : LForm)
  /-- CALLX (R155): Opens a new activation at each lane's indirect target. -/
  | callx (f : AForm)
  /-- RET (R156): Closes the activation, returning linkage registers and the saved PC. -/
  | ret (f : AForm)
  /-- EXIT (R158): Ends each fibre at its region's commit, updating sets, barriers and counters. -/
  | exit (f : AForm)
  /-- SPAWN (R159): Creates one Binned fibre per lane with a new spawn serial. -/
  | spawn (f : CForm)
  /-- FORK (R160): Pushes one task onto the core deque and increments its join counter. -/
  | fork (f : CForm)
  /-- JOIN (R161): Parks lanes until their join counter reads zero. -/
  | join (f : AForm)
  /-- JENTER (R164): Adds EXEC lanes to a rejoin set's membership. -/
  | jenter (f : AForm)
  /-- JQUIT (R164): Removes EXEC lanes from a rejoin set and may release it. -/
  | jquit (f : AForm)
  /-- JWAIT (R165): Marks arrival in a rejoin set, releasing it or parking the members. -/
  | jwait (f : AForm)
  /-- JREAD (R166): Reads a rejoin set's membership mask. -/
  | jread (f : AForm)
  /-- JINIT (R166): Replaces a rejoin set's membership from a register. -/
  | jinit (f : AForm)
  /-- JCLR (R166): Clears a rejoin set, raising ORPH if fibres are waiting. -/
  | jclr (f : AForm)
  /-- BAR (R168): Arrives at a block barrier slot and parks until all live fibres arrive. -/
  | bar (f : IForm)
  /-- BARN (R169): Arrives at a counted barrier phase, latching the count. -/
  | barn (f : CForm)
  /-- SYSCALL (R176): Sends one service request per lane and releases the arguments at package scope. -/
  | syscall (f : IForm)
  /-- GETID (R174): Reads a special register. -/
  | getid (f : IForm)
  /-- NOP (R174): Advances the PC only. -/
  | nop (f : AForm)
  /-- TRAP (R175): Raises trap TRAP when EXEC is nonempty. -/
  | trap (f : IForm)
  /-- BKPT (R175): Raises trap BKPT when EXEC is nonempty. -/
  | bkpt (f : IForm)
  /-- SHFL (R147): Moves values between lanes within segments and writes a valid predicate. -/
  | shfl (f : CForm)
  /-- VOTE (R148): Writes every, some or same of a predicate across EXEC. -/
  | vote (f : AForm)
  /-- BALLOT (R148): Writes the mask of a predicate across EXEC. -/
  | ballot (f : AForm)
  /-- GREDUCE (R149): Reduces a value over EXEC and writes it to every lane. -/
  | greduce (f : AForm)
  /-- GSCAN (R149): Writes the inclusive or exclusive prefix combination over EXEC. -/
  | gscan (f : AForm)
  /-- ELECT (R148): Sets a predicate in the lowest lane of EXEC only. -/
  | elect (f : AForm)
  /-- OCLAIM (R249): Claims a range of operand slots at once, or parks in the claim queue. -/
  | oclaim (f : IForm)
  /-- ORELEASE (R250): Checks and pushes a command that frees the named slots. -/
  | orelease (f : LForm)
  /-- OLOAD (R253): Checks and pushes a command that loads a tile into operand memory through h1. -/
  | oload (f : CForm)
  /-- MMA (R254): Checks and pushes a 128x128x128 product step command. -/
  | mma (f : CForm)
  /-- MMAS (R256): Checks and pushes a 2:4 sparse product step command. -/
  | mmas (f : CForm)
  /-- MMAG (R257): Checks and pushes a product step with a gathered B tile per 16-row group. -/
  | mmag (f : CForm)
  /-- ACCRD (R260): Reads accumulator words into registers as a stand-alone command. -/
  | accrd (f : CForm)
  /-- ACCWR (R260): Pushes a command writing register values into accumulator words. -/
  | accwr (f : CForm)
  /-- ACCZ (R260): Pushes a command clearing the masked accumulators. -/
  | accz (f : IForm)
  /-- ACTLUT (R259): Pushes a command copying an activation table from a slot. -/
  | actlut (f : AForm)
  /-- SEQRUN (R263): Snapshots operands and pushes a sequencer run of an image body. -/
  | seqrun (f : IForm)
  /-- COPY (R279): Checks and pushes a strided copy command onto q2. -/
  | copy (f : CForm)
  /-- COPYG (R280): Checks and pushes a per-lane slab gather or scatter command. -/
  | copyg (f : CForm)
  /-- NREG (R290): Issues a command installing a name route in the tenant's routing table. -/
  | nreg (f : AForm)
  /-- NWANT (R286): Checks a Free interest slot and issues an interest for a named tile. -/
  | nwant (f : CForm)
  /-- NPUB (R287): Publishes a tile from scratchpad rows at fabric-scope release. -/
  | npub (f : CForm)
  /-- NDROP (R288): Issues a command withdrawing or freeing the masked interest slots. -/
  | ndrop (f : AForm)
  /-- NWAIT (R289): Parks until named slots are Arrived or Expired, then acquires or raises NEXP. -/
  | nwait (f : AForm)
  /-- BULK (R481): Checks and pushes a fabric-engine get or put of a tensor box. -/
  | bulk (f : CForm)
  /-- ARMT (R482): Arms an arrival counter with a target, optionally clearing it. -/
  | armt (f : CForm)
  /-- ARWAIT (R482): Parks lanes until an arrival counter reaches its target. -/
  | arwait (f : AForm)
  /-- YOKE (R333): Waits to form a four-core lock-step yoke under a key. -/
  | yoke (f : AForm)
  /-- UNYOKE (R336): Dissolves the yoke of which the gang is a member. -/
  | unyoke (f : AForm)
  /-- MIGRATE (R339): Moves a free gang to the core nearest its data when room allows. -/
  | migrate (f : AForm)
  /-- CBAR (R331): Arrives once per gang at a cluster barrier slot with a latched count. -/
  | cbar (f : IForm)
  /-- SRD (R316): Reads a system register into an x register. -/
  | srd (f : IForm)
  /-- SWR (R316): Writes a system register under its access code; covers registers without a row of their own. -/
  | swr (f : IForm)
  /-- ERET (R308): Resumes, retries, kills or acknowledges a stopped gang and frees its record. -/
  | eret (f : AForm)
  /-- TLBINV (R316): Invalidates a tenant's mappings over a range and parks the firmware until complete. -/
  | tlbinv (f : CForm)
  /-- CTXSV (R309): Starts a background save of a slot's context to a save area. -/
  | ctxsv (f : AForm)
  /-- CTXLD (R312): Starts a background load of a save area into an empty slot. -/
  | ctxld (f : AForm)
  /-- ECLR (R304): Reads a slot's ENERGY counter and clears it unless .keep is given. -/
  | eclr (f : AForm)
  /-- HALT (R316): Stops all issue on the core until core reset. -/
  | halt (f : AForm)
  /-- WFI (R316): Parks the firmware fibre until a masked EVENT bit is set. -/
  | wfi (f : AForm)
  /-- KCALL (R316): Sends a firmware request block to the kiln as a service. -/
  | kcall (f : IForm)
  /-- LONG_WORD (R216): Issue of one native long word for a PC group, evaluating its condition tree and slots. -/
  | longWord (w : LWord)
  /-- REGION_COMMIT (R235): A commit word makes gated stores visible, sends held commands and discards popped entries. -/
  | regionCommit (at_ : AtGang)
  /-- INTERLOCKED_RESULT (R217): An interlocked result arrives and releases the PC group waiting for it. -/
  | interlockedResult (at_ : AtGang)
  /-- GLOBAL_ACCESS_COMPLETE (R187): A global miss or walk completes and the parked lane performs its access. -/
  | globalAccessComplete (it : AtItem)
  /-- PAGE_RESIDENT (R355): The service core makes a not-present page resident and parked accesses replay. -/
  | pageResident (r : ResidentMsg)
  /-- PAGE_WALK (R351): A walker walks the four-level table for a TLB miss and returns a result to its waiters. -/
  | pageWalk (r : WalkReq)
  /-- WALK_RETRY (R355): A miss that found its walker full is retried after 16 ck. -/
  | walkRetry (r : WalkReq)
  /-- TLBINV_COMPLETE (R356): Invalidation is acknowledged everywhere and the waiting firmware fibre resumes. -/
  | tlbinvComplete (core : Nat)
  /-- FILL_COMPLETE (R269): The last outstanding fill of a row completes, setting its presence bit and waking waiters. -/
  | fillComplete (it : AtCore)
  /-- PENDING_RECORD_WRITE (R305): A record pending for a full table is written once an entry frees. -/
  | pendingRecordWrite (at_ : AtGang)
  /-- DEFERRED_FAULT_TAKE (R247): A marked gang takes its deferred fault at its next commit point. -/
  | deferredFaultTake (at_ : AtGang)
  /-- OLOAD_CMD (R253): The matrix engine fills a tile from scratchpad, waiting for presence. -/
  | oloadCmd (at_ : AtGang)
  /-- PRODUCT_STEP (R255): The matrix array runs one product step into an accumulator and may push a token. -/
  | productStep (at_ : AtGang)
  /-- ACCRD_CMD (R260): The engine returns accumulator words to the gang's registers. -/
  | accrdCmd (at_ : AtGang)
  /-- ACCWR_CMD (R260): The engine writes register values into accumulator words. -/
  | accwrCmd (at_ : AtGang)
  /-- ACCZ_CMD (R260): The engine clears the masked accumulators. -/
  | acczCmd (at_ : AtGang)
  /-- ACTLUT_CMD (R259): The engine copies the activation table into the gang's state. -/
  | actlutCmd (at_ : AtGang)
  /-- ORELEASE_CMD (R250): The engine frees the released slots behind earlier commands. -/
  | oreleaseCmd (at_ : AtGang)
  /-- OCLAIM_GRANT (R249): The head of the claim queue is granted once its whole range is free. -/
  | oclaimGrant (it : AtCore)
  /-- SEQUENCER_RUN (R263): The sequencer expands a snapshot into generated commands in engine order. -/
  | sequencerRun (at_ : AtGang)
  /-- COPY_CMD (R279): The copy engine moves a strided box and may push a token. -/
  | copyCmd (at_ : AtGang)
  /-- COPYG_CMD (R280): The copy engine moves one slab per lane. -/
  | copygCmd (at_ : AtGang)
  /-- NREG_CMD (R361): The named engine writes a route and propagates it to relays. -/
  | nregCmd (at_ : AtGang)
  /-- NWANT_CMD (R284): The named engine begins fills, sends the interest and starts its lifetime. -/
  | nwantCmd (at_ : AtGang)
  /-- NPUB_CMD (R365): The named engine reads the rows, checks the publish record and sends the tile. -/
  | npubCmd (at_ : AtGang)
  /-- NDROP_CMD (R288): The named engine withdraws or frees the masked slots. -/
  | ndropCmd (at_ : AtGang)
  /-- BULK_GET (R481): The fabric engine reads a global box into the block's window. -/
  | bulkGet (at_ : AtGang)
  /-- BULK_PUT (R481): The fabric engine writes a dense box to global memory. -/
  | bulkPut (at_ : AtGang)
  /-- BULK_UNIT_ARRIVAL (R481): A get unit is written and its bytes are added to the arrival counter. -/
  | bulkUnitArrival (it : AtCore)
  /-- LDQ_WAKE (R273): A parked LDQ pops its entries once enough are present. -/
  | ldqWake (it : AtItem)
  /-- STQ_WAKE (R273): A parked STQ pushes once enough places are free. -/
  | stqWake (it : AtItem)
  /-- NWAIT_WAKE (R289): Parked NWAIT lanes resume once every named slot has an outcome. -/
  | nwaitWake (it : AtItem)
  /-- ARWAIT_WAKE (R482): Parked ARWAIT lanes resume once the counter reaches its target. -/
  | arwaitWake (it : AtItem)
  /-- JOIN_WAKE (R161): Lanes parked in JOIN resume when their counter reads zero. -/
  | joinWake (it : AtItem)
  /-- FENCE_COMPLETE (R198): Lanes parked on a fence resume once ordered accesses are performed. -/
  | fenceComplete (it : AtItem)
  /-- WFI_WAKE (R316): The firmware fibre resumes when a masked EVENT bit sets. -/
  | wfiWake (core : Nat)
  /-- NAMED_ARRIVAL (R284): A tile arrives for a Pending slot, is written to its rows and the slot becomes Arrived. -/
  | namedArrival (m : ArrivalMsg)
  /-- INTEREST_EXPIRY (R284): An interest's lifetime ends and its slot becomes Expired. -/
  | interestExpiry (it : AtItem)
  /-- INTEREST_ARRIVAL (R364): An interest reaches a holder and is merged, forwarded, refused or served from the tarn. -/
  | interestArrival (m : InterestMsg)
  /-- INTEREST_RESEND (R364): A refused interest is re-sent every 1 us until its lifetime ends. -/
  | interestResend (it : AtItem)
  /-- TILE_FORWARD (R365): A relay receives a tile copy and sends it along each of its faces. -/
  | tileForward (m : TileMsg)
  /-- FACE_DROP (R367): A holder drops a face 64 us after its lifetime. -/
  | faceDrop (r : FaceRef)
  /-- REBIND (R368): A restoring core redirects held faces to where the context now runs. -/
  | rebind (m : RebindMsg)
  /-- FATOM_CONTRIBUTION (R196): A contribution arrives at its home slice and is queued or folded in key order. -/
  | fatomContribution (m : Contribution)
  /-- BIN_TIMEOUT (R424): BINTIME passes for a bin and it launches a free gang. -/
  | binTimeout (it : AtCore)
  /-- TASK_TAKE (R301): A core takes or steals a task and forms a free gang. -/
  | taskTake (core : Nat)
  /-- MIGRATION_ARRIVAL (R339): A migrating gang's message arrives and it issues as the youngest gang. -/
  | migrationArrival (index : Nat)
  /-- YOKE_FORMATION (R333): A fourth waiting gang completes a yoke and all four are released. -/
  | yokeFormation (cluster key : Nat)
  /-- YOKE_TIMEOUT (R333): A YOKE not formed within 65,536 ck is released alone. -/
  | yokeTimeout (at_ : AtGang)
  /-- SLICE_END (R297): The arbiter's slice ends and the context is charged and chosen again. -/
  | sliceEnd (core : Nat)
  /-- YIELD_OVERRUN (R299): A gang's yield counter reaches zero, writing a YOVR notice and penalising its context. -/
  | yieldOverrun (at_ : AtGang)
  /-- ENERGY_INTERVAL (R303): At each 64-ck interval end, resident contexts receive their static energy share. -/
  | energyInterval (core : Nat)
  /-- SAVE_COMPLETE (R309): A background save ends, emptying the slot and setting its EVENT bit. -/
  | saveComplete (it : AtCore)
  /-- LOAD_COMPLETE (R312): A background load ends; the slot becomes resident and gangs eligible. -/
  | loadComplete (it : AtCore)
  /-- MBOX_LOAD (R494): The dispatcher places a LOAD message in a core's mailbox. -/
  | mboxLoad (m : MboxMsg)
  /-- MBOX_SAVE (R494): The dispatcher places a SAVE message in a core's mailbox. -/
  | mboxSave (m : MboxMsg)
  /-- SYSCALL_REPLY (R176): A service reply for a stack or scratchpad block is written with its completion word. -/
  | syscallReply (r : SvcReply)
  /-- PAGE_MAP (R445): Service call mapping zero-filled pages. -/
  | pageMap (r : SvcReq)
  /-- PAGE_UNMAP (R445): Service call unmapping a range after TLBINV. -/
  | pageUnmap (r : SvcReq)
  /-- PAGE_ATTR (R445): Service call changing page attributes or home. -/
  | pageAttr (r : SvcReq)
  /-- NSPACE_SET (R445): Service call installing a name-space descriptor. -/
  | nspaceSet (r : SvcReq)
  /-- SAMPLE_CFG (R445): Service call configuring the sample ring. -/
  | sampleCfg (r : SvcReq)
  /-- FAILED_QUERY (R445): Service call counting failed pages in a range. -/
  | failedQuery (r : SvcReq)
  /-- CACHE_DROP (R446): Kiln service evicting a tenant's unused cache entries. -/
  | cacheDrop (r : SvcReq)
  /-- KILN_CFG (R446): Kiln service setting GLAZETH and ALIASTH. -/
  | kilnCfg (r : SvcReq)
  /-- SKETCH_READ (R446): Kiln service returning a sketch estimate. -/
  | sketchRead (r : SvcReq)
  /-- MEASURE_READ (R446): Kiln service writing the measurement log. -/
  | measureRead (r : SvcReq)
  /-- KEY_REFRESH (R446): Kiln service starting a host or fabric key refresh. -/
  | keyRefresh (r : SvcReq)
  /-- CORE_RESET (R446): Kiln service resetting a halted core. -/
  | coreReset (r : SvcReq)
  /-- POWER_CAP (R446): Kiln service setting the package power cap. -/
  | powerCap (r : SvcReq)
  /-- KICK (R409): A kick register write updates the cached position and consumes available descriptors. -/
  | kick (k : KickWrite)
  /-- DESCRIPTOR_REREAD (R409): A stalled descriptor slot is read again every 1 us. -/
  | descriptorReread (q : AtQueue)
  /-- FUNCTION_RESET (R431): Writing 0 to device_status resets a VF and cancels its undecided commands. -/
  | functionReset (fn : Nat)
  /-- BEGIN (R410): Batch record opening a batch with its sequence number. -/
  | batchBegin (r : RecordMsg)
  /-- COMMIT (R412): Batch record closing a batch, triggering whole-batch validation. -/
  | batchCommit (r : RecordMsg)
  /-- BATCH_ACCEPT (R430): A validated batch is in both journal copies and its buffers are marked used. -/
  | batchAccept (q : AtQueue)
  /-- JOB_OPEN (R411): Command opening a job and returning its number. -/
  | jobOpen (c : CmdRef)
  /-- JOB_CLOSE (R416): Command closing a job; completes when the job completes. -/
  | jobClose (c : CmdRef)
  /-- CHECKPOINT (R416): Command ending a phase once it completes, retiring race records. -/
  | checkpoint (c : CmdRef)
  /-- IMAGE_LOAD (R411): Command defining an image handle. -/
  | imageLoad (c : CmdRef)
  /-- IMAGE_DROP (R411): Command dropping an image handle. -/
  | imageDrop (c : CmdRef)
  /-- LAUNCH (R411): Command queuing a launch and issuing adapter prefetch interests. -/
  | launch (c : CmdRef)
  /-- GRAPH_CREATE (R411): Command defining a graph handle. -/
  | graphCreate (c : CmdRef)
  /-- GRAPH_REPLAY (R426): Command snapshotting and replaying a graph. -/
  | graphReplay (c : CmdRef)
  /-- GRAPH_DROP (R411): Command dropping a graph handle. -/
  | graphDrop (c : CmdRef)
  /-- CANCEL (R417): Command cancelling a block, launch, replay, phase or job. -/
  | cancel (c : CmdRef)
  /-- PAGE_MIGRATE (R357): Command moving a page to a new stack or home by a deadline. -/
  | pageMigrate (c : CmdRef)
  /-- HCOPY (R411): Command copying between host and tenant memory. -/
  | hcopy (c : CmdRef)
  /-- PAGE_MIGRATE_COMPLETE (R358): A migrate command finishes after its TLBINV and the slip counter may rise. -/
  | pageMigrateComplete (c : CmdRef)
  /-- LAUNCH_START (R437): A launch starts: parameters read, translation chosen, placement begins. -/
  | launchStart (launch : Nat)
  /-- BLOCK_PLACE (R420): The dispatcher places the next block on a core with room. -/
  | blockPlace (launch : Nat)
  /-- COMPLETION_RECORD_WRITE (R413): A waiting completion record is written when a buffer is available. -/
  | completionRecordWrite (q : AtQueue)
  /-- DISPATCH_QUANTUM (R427): A 100-tick quantum begins and is granted to the lowest-pass runnable tenant. -/
  | dispatchQuantum
  /-- BISQUE_COMPLETE (R437): A bisque translation is installed and waiting launches proceed. -/
  | bisqueComplete (t : Transl)
  /-- GLAZE_COMPLETE (R439): A background glaze is installed with the next generation. -/
  | glazeComplete (t : Transl)
  /-- KILN_TRANSLATE_TARGET (R210): A run-time target is translated and the parked PC group resumes. -/
  | kilnTranslateTarget (it : AtItem)
  /-- SKETCH_DECAY (R440): Every 1,048,576 ticks all sketch counters are halved. -/
  | sketchDecay
  /-- ERROR_COUNT_REPORT (R442): Every 2^30 ticks the error counts are reported to the operator. -/
  | errorCountReport
  /-- REFRESH_INTERVAL (R349): An HBM refresh interval ends and banks are refreshed or postponed. -/
  | refreshInterval (r : RefreshTick)
  /-- PATROL_SCRUB (R453): The patrol scrubber reads and corrects a sector. -/
  | patrolScrub (r : ScrubRead)
  /-- UNIT_FAILURE (R432): A core, die, stack, service core, kiln core or link fails and work is requeued or reported. -/
  | unitFailure (u : FailUnit)
  /-- BOOT (R447): Release of PERST# boots the package through verified, measured stages. -/
  | boot (stages : List StageImage)
  /-- THROTTLE_WINDOW (R456): At each 10 us window end a die steps its clock state down or up. -/
  | throttleWindow (r : WindowRead)
  /-- THERMAL_TRIP (R458): A sensor at 120 C stops issue, notifies peers and removes power. -/
  | thermalTrip
  /-- SPDM_GET_VERSION (R450): SPDM request for supported versions. -/
  | spdmGetVersion (m : SpdmMsg)
  /-- SPDM_GET_CAPABILITIES (R450): SPDM request for capabilities. -/
  | spdmGetCapabilities (m : SpdmMsg)
  /-- SPDM_NEGOTIATE_ALGORITHMS (R450): SPDM request negotiating algorithms. -/
  | spdmNegotiateAlgorithms (m : SpdmMsg)
  /-- SPDM_GET_DIGESTS (R450): SPDM request for certificate digests. -/
  | spdmGetDigests (m : SpdmMsg)
  /-- SPDM_GET_CERTIFICATE (R450): SPDM request for a certificate chain. -/
  | spdmGetCertificate (m : SpdmMsg)
  /-- SPDM_CHALLENGE (R450): SPDM challenge authentication. -/
  | spdmChallenge (m : SpdmMsg)
  /-- SPDM_GET_MEASUREMENTS (R450): SPDM request returning measurement blocks. -/
  | spdmGetMeasurements (m : SpdmMsg)
  /-- SPDM_KEY_EXCHANGE (R450): SPDM ML-KEM key exchange. -/
  | spdmKeyExchange (m : SpdmMsg)
  /-- SPDM_FINISH (R450): SPDM session finish. -/
  | spdmFinish (m : SpdmMsg)
  /-- SPDM_KEY_UPDATE (R450): SPDM session key update. -/
  | spdmKeyUpdate (m : SpdmMsg)
  /-- SPDM_END_SESSION (R450): SPDM session end. -/
  | spdmEndSession (m : SpdmMsg)
  /-- KEY_PROG (R451): IDE_KM message programming a stream key. -/
  | keyProg (m : IdeMsg)
  /-- K_SET_GO (R451): IDE_KM message starting use of a key set. -/
  | kSetGo (m : IdeMsg)
  /-- K_SET_STOP (R451): IDE_KM message stopping a key set. -/
  | kSetStop (m : IdeMsg)
  /-- IDE_INTEGRITY_FAILURE (R451): An IDE integrity failure makes the stream Insecure and resets the VF. -/
  | ideIntegrityFailure (m : IdeMsg)
  /-- OLD_KEY_SLOT_EXPIRY (R452): 200 us after the first new-slot flit the receiver invalidates the old slot. -/
  | oldKeySlotExpiry (r : StreamRef)
  /-- KEY_REFRESH_REQUEST (R452): At 2^38 flits under one key the hardware requests a refresh. -/
  | keyRefreshRequest (r : StreamRef)
  /-- GROUP_RECEIVE (R471): A link group is checked, accepted in order or nacked. -/
  | groupReceive (g : GroupMsg)
  /-- IDLE_GROUP (R470): A link with nothing to send sends an idle group at least every 1 us. -/
  | idleGroup (port : Nat)
  /-- REPLAY_LIMIT (R471): A replay episode or ack stall lasting 20 us fails the link. -/
  | replayLimit (port : Nat)
  /-- LINK_HEADER_TIMEOUT (R472): No group header for 100 us fails the link. -/
  | linkHeaderTimeout (port : Nat)
  /-- LINK_TRAINING (R472): Firmware enables training; keys agreed within 100 ms bring the link Up, otherwise Failed. -/
  | linkTraining (m : TrainMsg)
  /-- READ_REQUEST (R477): Packet type 1: a remote read is performed at its home slice. -/
  | readRequest (p : Packet)
  /-- READ_DATA (R477): Packet type 2: read data returns to the requester. -/
  | readData (p : Packet)
  /-- WRITE (R477): Packet type 3: a remote write is performed at its home slice. -/
  | write (p : Packet)
  /-- WRITE_ACK (R478): Packet type 4: a remote write is acknowledged. -/
  | writeAck (p : Packet)
  /-- ATOMIC_REQUEST (R477): Packet type 5: a remote atomic is performed at the memory-side unit. -/
  | atomicRequest (p : Packet)
  /-- ATOMIC_RESULT (R477): Packet type 6: an atomic result returns. -/
  | atomicResult (p : Packet)
  /-- BULK_GET_REQUEST (R481): Packet type 7: a remote bulk get is requested. -/
  | bulkGetRequest (p : Packet)
  /-- BULK_DATA (R481): Packet type 8: a bulk data unit arrives. -/
  | bulkData (p : Packet)
  /-- NAMED_INTEREST (R486): Packet type 9: an interest crosses packages. -/
  | namedInterest (p : Packet)
  /-- NAMED_TILE (R486): Packet type 10: a tile copy crosses packages. -/
  | namedTile (p : Packet)
  /-- END_TO_END_ACK (R475): Packet type 11: a cumulative ack releases held packets. -/
  | endToEndAck (p : Packet)
  /-- MANAGEMENT (R486): Packet type 12: management traffic such as entries, tickets, witnesses and heartbeats. -/
  | management (p : Packet)
  /-- END_TO_END_RESEND (R475): A packet unacknowledged 200 us after its last transmission is resent. -/
  | endToEndResend (r : ResendRef)
  /-- HEARTBEAT (R487): Every 10 us a package with no Up link to a peer sends it a heartbeat. -/
  | heartbeat (pkg : Nat)
  /-- SUSPICION_TIMEOUT (R487): After 1 ms without word from a peer, the package suspects it. -/
  | suspicionTimeout (pkg : Nat)
  /-- LOSS_NOTICE (R458): A tripping package's loss notice reaches a peer. -/
  | lossNotice (pkg : Nat)
  /-- LOSS_CONFIRMATION (R488): A package loss is confirmed and survivors close streams, fail over and report. -/
  | lossConfirmation (pkg : Nat)
  /-- TICKET_REQUEST (R380): A fabric-scope SC operation takes a ticket from the fabric sequencer. -/
  | ticketRequest (it : AtItem)
  /-- MANAGEMENT_QUEUE_REQUEST (R442): An operator request on a PF management queue binds a queue to a context, sets tickets, quotas or BINTIME, or binds the host witness ring. -/
  | managementQueueRequest (r : MgmtReq)
  /-- FEATURES_OK (R407): The driver sets FEATURES_OK, and the device refuses it unless the required features were accepted. -/
  | featuresOk (m : FeatureMsg)
  /-- DRIVER_OK (R448): The driver sets DRIVER_OK, which is refused with DEVICE_NEEDS_RESET after a failed boot stage. -/
  | driverOk (fn : Nat)
  /-- HUB_RECOVERY (R430): After a hub recovery, every batch found in both journal copies is accepted and any unwritten used element is written. -/
  | hubRecovery
  /-- JOURNAL_REBUILD (R432): A lost or bad journal copy finishes rebuilding on another die's stack, and acceptance of batches resumes. -/
  | journalRebuild
  /-- TRAINING_TIMEOUT (R472): A link in Training whose keys are not agreed within 100 ms enters Failed. -/
  | trainingTimeout (port : Nat)
  /-- FLIT_LIMIT_HOLD (R452): At 2^40 flits under one key, the hardware holds the stream until the refresh completes. -/
  | flitLimitHold (r : StreamRef)
deriving DecidableEq, Repr

end Sys2Proof
end

