-- ==== Sys2Proof/Machine/Encoding.lean ====
section
/-! DEFINITION. The fields of ZN-V instructions: type codes, operand kinds, and for every instruction the encoding
faults of R62 that its field values make, as pairs of reason code and field code. -/

namespace Sys2Proof.Machine

/-- The code of a type (R39). -/
def tyCode (t : Ty) : Nat :=
  match t with
  | .s32 => 0 | .n32 => 1 | .s64 => 2 | .n64 => 3 | .fp32 => 4 | .fp16 => 5 | .bf16 => 6 | .fp64 => 7
  | .s8x4 => 8 | .n8x4 => 9 | .s4x8 => 10 | .n4x8 => 11 | .e4m3x4 => 12 | .e5m2x4 => 13 | .e2m1x8 => 14 | .b32 => 15

/-- The type of a code, every code beyond 14 giving raw B32 (R39). -/
def tyOf (n : Nat) : Ty :=
  match n with
  | 0 => .s32 | 1 => .n32 | 2 => .s64 | 3 => .n64 | 4 => .fp32 | 5 => .fp16 | 6 => .bf16 | 7 => .fp64
  | 8 => .s8x4 | 9 => .n8x4 | 10 => .s4x8 | 11 => .n4x8 | 12 => .e4m3x4 | 13 => .e5m2x4 | 14 => .e2m1x8 | _ => .b32

/-- Elements per register of a packed type code, 1 for the others (R39). -/
def elemCount (t : Nat) : Nat :=
  if t == 8 || t == 9 || t == 12 || t == 13 then 4 else if t == 10 || t == 11 || t == 14 then 8 else 1

/-- What an operand field names (R104, R106, R152, R248, R275). `setDst` is a rejoin set as destination. -/
inductive OperandKind where
  | none | reg | pred | set | setDst | shape | accum | slot | queue
deriving DecidableEq, Repr

/-- How many values a kind has, for kinds whose number is limited (R62 reason 0x07). -/
def kindLimit (k : OperandKind) : Nat :=
  match k with
  | .none => 1 | .reg => 2 ^ 32 | .pred => 12 | .set => 8 | .setDst => 8 | .shape => 4 | .accum => 4 | .slot => 32
  | .queue => 16

/-- The faults of one operand field with field code `fc` (R36, R40, R62): `n` is the number with its prefix bits. -/
def fieldFaults (k : OperandKind) (n fc : Nat) : List (Nat × Nat) :=
  match k with
  | .reg => if n < 2 ^ 32 then [] else [(7, fc)]
  | .none => (if n % 16384 = 0 then [] else [(6, fc)]) ++ (if n / 16384 = 0 then [] else [(8, 10)])
  | _ => (if n % 16384 < kindLimit k ∧ (k = .setDst → n % 16384 ≠ 0) then [] else [(7, fc)])
      ++ (if n / 16384 = 0 then [] else [(8, 10)])

/-- The reserved guards (R38). -/
def guardFaults (g : Guard) : List (Nat × Nat) :=
  if g.pred.toNat < 12 || (g.pred == 15 && !g.neg) then [] else [(3, 3)]

/-- Order and scope of the extension (R45), with the orders an entry accepts. -/
def orderFaults (e : BitVec 18) (orders : List Nat) : List (Nat × Nat) :=
  let o := e.toNat / 2 ^ 15
  let sc := e.toNat / 2 ^ 12 % 8
  if orders.contains o && sc < 6 && !(o == 0 && sc != 0) then [] else [(9, 8)]

/-- The failure order of CAS and CAS128 against the success order (R193). -/
def failFaults (e : BitVec 18) : List (Nat × Nat) :=
  let o := e.toNat / 2 ^ 15
  let fo := e.toNat % 8
  if fo == 1 || (fo == 2 && (o == 2 || o == 4 || o == 5)) || (fo == 5 && o == 5) then [] else [(9, 8)]

/-- ATOM on raw B32 accepts AND, OR, XOR and EXCH only (R192). -/
def atomTypeFaults (t : Ty) (e : BitVec 18) : List (Nat × Nat) :=
  if t = .b32 ∧ (e.toNat % 16 < 3 ∨ 7 ≤ e.toNat % 16) then [(4, 2)] else []

/-- The system-register numbers of R294. -/
def sysRegListed (n : Nat) : Bool :=
  (1 ≤ n && n ≤ 9) ||
  ((n / 4096 == 2 || n / 4096 == 3) && n < 16384 &&
    (let off := n % 4096
     off ≤ 8 || (256 ≤ off && off < 256 + 160 && (off - 256) % 32 ≤ 20)))

/-- Type, modifier and guard faults (R39, R40, R62). -/
def commonFaults (t : Ty) (m : BitVec 4) (g : Guard) (tys : List Nat) (modOk : BitVec 4 → Nat → Bool) :
    List (Nat × Nat) :=
  guardFaults g ++ (if tys.contains (tyCode t) then [] else [(4, 2)]) ++ (if modOk m (tyCode t) then [] else [(5, 1)])

/-- Faults of a format-A instruction. -/
def aFaults (f : AForm) (tys : List Nat) (modOk : BitVec 4 → Nat → Bool) (d a b : OperandKind) : List (Nat × Nat) :=
  commonFaults f.ty f.mod f.g tys modOk ++ fieldFaults d f.d 4 ++ fieldFaults a f.a 5 ++ fieldFaults b f.b 6

/-- Faults of a format-I instruction. -/
def iFaults (f : IForm) (tys : List Nat) (modOk : BitVec 4 → Nat → Bool) (d a : OperandKind)
    (immOk : BitVec 14 → Bool) : List (Nat × Nat) :=
  commonFaults f.ty f.mod f.g tys modOk ++ fieldFaults d f.d 4 ++ fieldFaults a f.a 5
    ++ (if immOk f.imm then [] else [(6, 6)])

/-- Faults of a format-C instruction. -/
def cFaults (f : CForm) (tys : List Nat) (modOk : BitVec 4 → Nat → Bool) (d a b c : OperandKind)
    (extOk : BitVec 18 → BitVec 4 → Nat → Bool) : List (Nat × Nat) :=
  commonFaults f.ty f.mod f.g tys modOk ++ fieldFaults d f.d 4 ++ fieldFaults a f.a 5 ++ fieldFaults b f.b 6
    ++ fieldFaults c f.c 7 ++ (if extOk f.ext f.mod (tyCode f.ty) then [] else [(6, 8)])

/-- Faults of a format-L instruction. -/
def lFaults (f : LForm) (tys : List Nat) (modOk : BitVec 4 → Nat → Bool) (d a b : OperandKind) : List (Nat × Nat) :=
  commonFaults f.ty f.mod f.g tys modOk ++ fieldFaults d f.d 4 ++ fieldFaults a f.a 5 ++ fieldFaults b f.b 6

/-- The encoding faults of an instruction's fields (R62), from the tables of forms of R107, R119, R126, R135, R146,
R152, R184, R248, R275, R315, R329 and R479. The other steps have no encoding and no fault (log entry 15). -/
def fieldFaultsOf (i : Instr) : List (Nat × Nat) :=
  match i with
  | .add f => aFaults f [0, 1, 2, 3, 8, 9, 10, 11] (fun m _ => m == 0) .reg .reg .reg
  | .addI f => iFaults f [0, 1, 2, 3] (fun m _ => m == 0) .reg .reg (fun _ => true)
  | .sub f => aFaults f [0, 1, 2, 3, 8, 9, 10, 11] (fun m _ => m == 0) .reg .reg .reg
  | .subI f => iFaults f [0, 1, 2, 3] (fun m _ => m == 0) .reg .reg (fun _ => true)
  | .mul f => aFaults f [0, 1, 2, 3] (fun m _ => m == 0) .reg .reg .reg
  | .mulI f => iFaults f [0, 1, 2, 3] (fun m _ => m == 0) .reg .reg (fun _ => true)
  | .mulh f => aFaults f [0, 1, 2, 3] (fun m _ => m == 0) .reg .reg .reg
  | .madd f => cFaults f [0, 1, 2, 3] (fun m _ => m == 0) .reg .reg .reg .reg (fun e _ _ => e == 0)
  | .div f => aFaults f [0, 1, 2, 3] (fun m _ => m == 0) .reg .reg .reg
  | .rem f => aFaults f [0, 1, 2, 3] (fun m _ => m == 0) .reg .reg .reg
  | .abs f => aFaults f [0, 2, 8, 10] (fun m _ => m == 0) .reg .reg .none
  | .neg f => aFaults f [0, 1, 2, 3, 8, 9, 10, 11] (fun m _ => m == 0) .reg .reg .none
  | .min f => aFaults f [0, 1, 2, 3, 8, 9, 10, 11] (fun m _ => m == 0) .reg .reg .reg
  | .minI f => iFaults f [0, 1, 2, 3] (fun m _ => m == 0) .reg .reg (fun _ => true)
  | .max f => aFaults f [0, 1, 2, 3, 8, 9, 10, 11] (fun m _ => m == 0) .reg .reg .reg
  | .maxI f => iFaults f [0, 1, 2, 3] (fun m _ => m == 0) .reg .reg (fun _ => true)
  | .and f => aFaults f [0, 1, 2, 3, 15] (fun m _ => m == 0) .reg .reg .reg
  | .andI f => iFaults f [0, 1, 2, 3, 15] (fun m _ => m == 0) .reg .reg (fun _ => true)
  | .or f => aFaults f [0, 1, 2, 3, 15] (fun m _ => m == 0) .reg .reg .reg
  | .orI f => iFaults f [0, 1, 2, 3, 15] (fun m _ => m == 0) .reg .reg (fun _ => true)
  | .xor f => aFaults f [0, 1, 2, 3, 15] (fun m _ => m == 0) .reg .reg .reg
  | .xorI f => iFaults f [0, 1, 2, 3, 15] (fun m _ => m == 0) .reg .reg (fun _ => true)
  | .andn f => aFaults f [0, 1, 2, 3, 15] (fun m _ => m == 0) .reg .reg .reg
  | .not f => aFaults f [0, 1, 2, 3, 15] (fun m _ => m == 0) .reg .reg .none
  | .shl f => aFaults f [0, 1, 2, 3] (fun m _ => m == 0) .reg .reg .reg
  | .shlI f => iFaults f [0, 1, 2, 3] (fun m _ => m == 0) .reg .reg (fun i => i.toNat < 64)
  | .shr f => aFaults f [0, 1, 2, 3] (fun m _ => m == 0) .reg .reg .reg
  | .shrI f => iFaults f [0, 1, 2, 3] (fun m _ => m == 0) .reg .reg (fun i => i.toNat < 64)
  | .sar f => aFaults f [0, 1, 2, 3] (fun m _ => m == 0) .reg .reg .reg
  | .sarI f => iFaults f [0, 1, 2, 3] (fun m _ => m == 0) .reg .reg (fun i => i.toNat < 64)
  | .rotl f => aFaults f [0, 1, 2, 3] (fun m _ => m == 0) .reg .reg .reg
  | .rotlI f => iFaults f [0, 1, 2, 3] (fun m _ => m == 0) .reg .reg (fun i => i.toNat < 64)
  | .funnel f => cFaults f [0, 1, 2, 3] (fun m _ => m.toNat < 4) .reg .reg .reg .reg (fun e _ _ => e == 0)
  | .bfx f => aFaults f [0, 1, 2, 3] (fun m _ => m == 0) .reg .reg .reg
  | .bfxI f => iFaults f [0, 1, 2, 3] (fun m _ => m == 0) .reg .reg (fun i => i.toNat < 8192)
  | .bfi f => cFaults f [0, 1, 2, 3, 15] (fun m _ => m == 0) .reg .reg .reg .reg (fun e _ _ => e == 0)
  | .popc f => aFaults f [0, 1, 2, 3, 15] (fun m _ => m == 0) .reg .reg .none
  | .clz f => aFaults f [0, 1, 2, 3, 15] (fun m _ => m == 0) .reg .reg .none
  | .ctz f => aFaults f [0, 1, 2, 3, 15] (fun m _ => m == 0) .reg .reg .none
  | .brev f => aFaults f [0, 1, 2, 3, 15] (fun m _ => m == 0) .reg .reg .none
  | .prmt f => cFaults f [15] (fun m _ => m == 0) .reg .reg .reg .reg (fun e _ _ => e == 0)
  | .sel f =>
    cFaults f [0, 1, 2, 3, 4, 5, 6, 7, 8, 9, 10, 11, 12, 13, 14, 15] (fun m _ => m == 0) .reg .reg .reg .pred (fun e _ _ => e.toNat < 2)
  | .mov f => aFaults f [0, 1, 2, 3, 4, 5, 6, 7, 8, 9, 10, 11, 12, 13, 14, 15] (fun m _ => m == 0) .reg .reg .none
  | .movi f => lFaults f [0, 1, 2, 3, 4, 15] (fun m _ => m == 0) .reg .none .none
  | .lea f => cFaults f [0, 1, 2, 3] (fun m _ => m == 0) .reg .reg .reg .none (fun _ _ _ => true)
  | .leaI f => iFaults f [0] (fun m _ => m == 0) .reg .reg (fun _ => true)
  | .addsat f => aFaults f [0, 1, 2, 3, 8, 9, 10, 11] (fun m _ => m == 0) .reg .reg .reg
  | .subsat f => aFaults f [0, 1, 2, 3, 8, 9, 10, 11] (fun m _ => m == 0) .reg .reg .reg
  | .cmp f => aFaults f [0, 1, 2, 3] (fun m _ => m.toNat < 6) .pred .reg .reg
  | .cmpI f => iFaults f [0, 1, 2, 3] (fun m _ => m.toNat < 6) .pred .reg (fun _ => true)
  | .fcmp f => aFaults f [4, 5, 6, 7] (fun m _ => m != 7 && m != 15) .pred .reg .reg
  | .pand f => aFaults f [0] (fun m _ => m == 0) .pred .pred .pred
  | .por f => aFaults f [0] (fun m _ => m == 0) .pred .pred .pred
  | .pxor f => aFaults f [0] (fun m _ => m == 0) .pred .pred .pred
  | .pnot f => aFaults f [0] (fun m _ => m == 0) .pred .pred .none
  | .pmov f =>
    aFaults f [0] (fun m _ => m.toNat < 2) (if f.mod.getLsbD 0 then .none else .reg) (if f.mod.getLsbD 0 then .reg else .none) .none
  | .psel f => cFaults f [0] (fun m _ => m == 0) .pred .pred .pred .pred (fun e _ _ => e == 0)
  | .fadd f => aFaults f [4, 5, 6, 7] (fun m _ => m.toNat < 4) .reg .reg .reg
  | .fsub f => aFaults f [4, 5, 6, 7] (fun m _ => m.toNat < 4) .reg .reg .reg
  | .fmul f => aFaults f [4, 5, 6, 7] (fun m _ => m.toNat < 4) .reg .reg .reg
  | .ffma f => cFaults f [4, 5, 6, 7] (fun m _ => m.toNat < 4) .reg .reg .reg .reg (fun e _ _ => e == 0)
  | .fmin f => aFaults f [4, 5, 6, 7] (fun m _ => m.toNat < 4) .reg .reg .reg
  | .fmax f => aFaults f [4, 5, 6, 7] (fun m _ => m.toNat < 4) .reg .reg .reg
  | .fdiv f => aFaults f [4, 5, 6, 7] (fun m _ => m.toNat < 4) .reg .reg .reg
  | .fsqrt f => aFaults f [4, 5, 6, 7] (fun m _ => m.toNat < 4) .reg .reg .none
  | .frcp f => aFaults f [4, 5, 6] (fun m _ => m.toNat < 4) .reg .reg .none
  | .frsq f => aFaults f [4, 5, 6] (fun m _ => m.toNat < 4) .reg .reg .none
  | .fexp2 f => aFaults f [4, 5, 6] (fun m _ => m.toNat < 4) .reg .reg .none
  | .flog2 f => aFaults f [4, 5, 6] (fun m _ => m.toNat < 4) .reg .reg .none
  | .fsin f => aFaults f [4, 5, 6] (fun m _ => m.toNat < 4) .reg .reg .none
  | .fcos f => aFaults f [4, 5, 6] (fun m _ => m.toNat < 4) .reg .reg .none
  | .ftanh f => aFaults f [4, 5, 6] (fun m _ => m.toNat < 4) .reg .reg .none
  | .fclass f => aFaults f [4, 5, 6, 7] (fun m _ => m.toNat < 4) .reg .reg .none
  | .fscale f => aFaults f [4, 5, 6, 7] (fun m _ => m.toNat < 4) .reg .reg .reg
  | .frnd f => aFaults f [4, 5, 6, 7] (fun m _ => m.toNat < 4) .reg .reg .none
  | .cvt f =>
    cFaults f [0, 1, 2, 3, 4, 5, 6, 7] (fun m _ => m.toNat < 8) .reg .reg .none .none (fun e _ _ => e.toNat < 8)
  | .fcopysign f => aFaults f [4, 5, 6, 7] (fun m _ => m.toNat < 4) .reg .reg .reg
  | .faddL f => lFaults f [4] (fun m _ => m.toNat < 4) .reg .reg .none
  | .fmulL f => lFaults f [4] (fun m _ => m.toNat < 4) .reg .reg .none
  | .dot8 f =>
    cFaults f [8, 9, 12, 13] (fun m t => m == 0 || (m == 1 && (t == 8 || t == 9))) .reg .reg .reg .reg (fun e _ t => e == 0 || (e == 1 && (t == 8 || t == 9)))
  | .dot4 f =>
    cFaults f [10, 11, 14] (fun m t => m == 0 || (m == 1 && (t == 10 || t == 11))) .reg .reg .reg .reg (fun e _ t => e == 0 || (e == 1 && (t == 10 || t == 11)))
  | .dot2 f => cFaults f [5, 6] (fun m _ => m.toNat < 4) .reg .reg .reg .reg (fun e _ _ => e == 0)
  | .pack f => aFaults f [8, 9, 10, 11, 12, 13, 14] (fun m t => m.toNat < elemCount t / 2) .reg .reg .reg
  | .unpack f => aFaults f [8, 9, 10, 11, 12, 13, 14] (fun m t => m.toNat < elemCount t) .reg .reg .none
  | .scl f =>
    cFaults f [4, 12, 13, 14] (fun m _ => m.toNat < 4) .reg .reg .reg .none (fun e _ t => e.toNat / 4 < elemCount t)
  | .qnt f =>
    cFaults f [8, 9, 10, 11, 12, 13, 14] (fun m _ => m.toNat < 4) .reg .reg .reg .none (fun e _ t => e.toNat / 4 < elemCount t)
  | .qntsr f =>
    cFaults f [8, 9, 10, 11, 12, 13, 14] (fun m _ => m == 0) .reg .reg .reg .reg (fun e _ t => e.toNat / 4 < elemCount t)
  | .hist f => aFaults f [4, 5, 6] (fun m _ => m == 0) .none .reg .none
  | .hclip f => iFaults f [0] (fun m _ => m == 0) .reg .none (fun i => i.toNat < 256 && i.toNat % 128 < 100)
  | .ldI f => iFaults f [0, 1, 2, 3, 4, 5, 6, 7, 8, 9, 12, 13, 15] (fun m _ => m.toNat < 3) .reg .reg (fun _ => true)
  | .ldC f =>
    cFaults f [0, 1, 2, 3, 4, 5, 6, 7, 8, 9, 12, 13, 15] (fun m _ => m.toNat < 3) .reg .reg .none .none (fun _ _ _ => true) ++ orderFaults f.ext [0, 1, 2, 5]
  | .stI f => iFaults f [0, 1, 2, 3, 4, 5, 6, 7, 8, 9, 12, 13, 15] (fun m _ => m.toNat < 3) .reg .reg (fun _ => true)
  | .stC f =>
    cFaults f [0, 1, 2, 3, 4, 5, 6, 7, 8, 9, 12, 13, 15] (fun m _ => m.toNat < 3) .reg .reg .none .none (fun _ _ _ => true) ++ orderFaults f.ext [0, 1, 3, 5]
  | .ldrow f => iFaults f [15] (fun m _ => m.toNat < 3) .reg .reg (fun _ => true)
  | .strow f => iFaults f [15] (fun m _ => m.toNat < 3) .reg .reg (fun _ => true)
  | .rotm f => cFaults f [15] (fun m _ => m == 0) .reg .reg .reg .reg (fun e _ _ => e == 0)
  | .pres f => aFaults f [0] (fun m _ => m == 0) .pred .reg .none
  | .atom f =>
    cFaults f [0, 1, 2, 3, 15] (fun m _ => m == 0) .reg .reg .reg .none (fun e _ _ => e.toNat % 4096 < 7) ++ atomTypeFaults f.ty f.ext ++ orderFaults f.ext [1, 2, 3, 4, 5]
  | .cas f =>
    cFaults f [0, 1, 2, 3, 15] (fun m _ => m == 0) .reg .reg .reg .reg (fun e _ _ => e.toNat % 4096 < 8) ++ failFaults f.ext ++ orderFaults f.ext [1, 2, 3, 4, 5]
  | .cas128 f =>
    cFaults f [3] (fun m _ => m == 0) .reg .reg .reg .reg (fun e _ _ => e.toNat % 4096 < 8) ++ failFaults f.ext ++ orderFaults f.ext [1, 2, 3, 4, 5]
  | .fatom f =>
    cFaults f [4, 5, 6, 7] (fun m _ => m == 0) .none .reg .reg .none (fun e _ _ => e.toNat % 4096 == 0) ++ orderFaults f.ext [1]
  | .fence f =>
    cFaults f [0] (fun m _ => m == 0) .none .none .none .none (fun e _ _ => e.toNat % 4096 == 0) ++ orderFaults f.ext [2, 3, 4, 5]
  | .fencex f =>
    cFaults f [0] (fun m _ => m == 0) .none .none .none .none (fun e _ _ => e.toNat % 4096 < 1024 && e.toNat % 32 != 0 && e.toNat / 32 % 32 != 0) ++ orderFaults f.ext [0, 2, 3, 4, 5]
  | .pref f => iFaults f [0] (fun m _ => m.toNat < 3) .none .reg (fun _ => true)
  | .shw f => cFaults f [0] (fun m _ => m == 0) .shape .reg .none .none (fun e _ _ => e.toNat < 20)
  | .ldq f => aFaults f [0] (fun m _ => m.toNat < 2) .reg .queue .none
  | .stq f => aFaults f [0] (fun m _ => m == 0) .queue .reg .none
  | .bra f => lFaults f [0] (fun m _ => m == 0) .none .none .none
  | .brx f => aFaults f [0] (fun m _ => m == 0) .none .reg .none
  | .call f => lFaults f [0] (fun m _ => m == 0) .none .none .none
  | .callx f => aFaults f [0] (fun m _ => m == 0) .none .reg .none
  | .ret f => aFaults f [0] (fun m _ => m == 0) .none .none .none
  | .exit f => aFaults f [0] (fun m _ => m == 0) .none .none .none
  | .spawn f =>
    cFaults f [0] (fun m _ => m == 0) .reg .reg .reg .reg (fun e _ _ => e.toNat % 32 < 17 && e.toNat / 32 < 9)
  | .fork f => cFaults f [0] (fun m _ => m == 0) .none .reg .reg .reg (fun e _ _ => e.toNat < 17)
  | .join f => aFaults f [0] (fun m _ => m == 0) .none .reg .none
  | .jenter f => aFaults f [0] (fun m _ => m == 0) .setDst .none .none
  | .jquit f => aFaults f [0] (fun m _ => m == 0) .setDst .none .none
  | .jwait f => aFaults f [0] (fun m _ => m == 0) .none .set .none
  | .jread f => aFaults f [0] (fun m _ => m == 0) .reg .set .none
  | .jinit f => aFaults f [0] (fun m _ => m == 0) .setDst .reg .none
  | .jclr f => aFaults f [0] (fun m _ => m == 0) .setDst .none .none
  | .bar f => iFaults f [0] (fun m _ => m == 0) .none .none (fun i => i.toNat < 16)
  | .barn f => cFaults f [0] (fun m _ => m.toNat < 2) .none .reg .none .none (fun e _ _ => e.toNat < 16)
  | .syscall f => iFaults f [0] (fun m _ => m == 0) .none .reg (fun i => i.toNat < 4096)
  | .getid f =>
    iFaults f [0] (fun m _ => m == 0) .reg .none (fun _ => true) ++ (if f.imm.toNat < 25 then [] else [(7, 6)])
  | .nop f => aFaults f [0] (fun m _ => m == 0) .none .none .none
  | .trap f => iFaults f [0] (fun m _ => m == 0) .none .none (fun _ => true)
  | .bkpt f => iFaults f [0] (fun m _ => m == 0) .none .none (fun _ => true)
  | .shfl f =>
    cFaults f [0, 1, 2, 3, 4, 5, 6, 7, 8, 9, 10, 11, 12, 13, 14, 15] (fun m _ => m.toNat < 4) .reg .reg .reg .pred (fun e _ _ => e.toNat < 6)
  | .vote f => aFaults f [0] (fun m _ => m.toNat < 3) .pred .pred .none
  | .ballot f => aFaults f [0] (fun m _ => m == 0) .reg .pred .none
  | .greduce f =>
    aFaults f [0, 1, 2, 3, 4, 5, 6, 7] (fun m t => if t < 4 then m.toNat < 6 else m.toNat / 4 != 2) .reg .reg .none
  | .gscan f =>
    aFaults f [0, 1, 2, 3, 4, 5, 6, 7] (fun m t => if t < 4 then m.toNat % 8 < 6 else true) .reg .reg .none
  | .elect f => aFaults f [0] (fun m _ => m == 0) .pred .none .none
  | .oclaim f => iFaults f [0] (fun m _ => m == 0) .none .none (fun i => i.toNat < 2048 && i.toNat / 32 != 0)
  | .orelease f => lFaults f [0] (fun m _ => m == 0) .none .none .none
  | .oload f =>
    cFaults f [5, 6, 8, 9, 10, 11, 12, 13, 14] (fun m _ => m == 0 || m == 8) .slot .none .none .none (fun e _ _ => e.toNat < 32)
  | .mma f =>
    cFaults f [5, 6, 8, 9, 10, 11, 12, 13, 14] (fun m t => (m.toNat % 4 == 0 || (m.toNat % 4 == 1 && 8 ≤ t && t < 14))) .accum .slot .slot .reg (fun e _ _ => e == 0)
  | .mmas f =>
    cFaults f [5, 6, 8, 9, 10, 11, 12, 13, 14] (fun m t => (m.toNat % 4 == 0 || (m.toNat % 4 == 1 && 8 ≤ t && t < 14))) .accum .slot .slot .reg (fun _ _ _ => true)
  | .mmag f =>
    cFaults f [5, 6, 8, 9, 10, 11, 12, 13, 14] (fun m t => (m.toNat % 4 == 0 || (m.toNat % 4 == 1 && 8 ≤ t && t < 14))) .accum .slot .none .reg (fun e _ _ => e == 0)
  | .accrd f => cFaults f [15] (fun m _ => m == 0) .reg .accum .reg .none (fun e _ _ => e == 0)
  | .accwr f => cFaults f [15] (fun m _ => m == 0) .accum .reg .reg .none (fun e _ _ => e == 0)
  | .accz f => iFaults f [0] (fun m _ => m == 0) .none .none (fun i => i.toNat < 16)
  | .actlut f => aFaults f [0] (fun m _ => m == 0) .none .slot .none
  | .seqrun f => iFaults f [0] (fun m _ => m == 0) .none .reg (fun _ => true)
  | .copy f => cFaults f [0] (fun m _ => m == 0 || m == 8) .none .reg .none .none (fun e _ _ => e.toNat < 16384)
  | .copyg f => cFaults f [0] (fun m _ => m == 0 || m == 8) .none .reg .reg .none (fun e _ _ => e.toNat < 16384)
  | .nreg f => aFaults f [0] (fun m _ => m == 0) .none .reg .reg
  | .nwant f => cFaults f [0] (fun m _ => m == 0 || m == 8) .none .reg .reg .none (fun e _ _ => e.toNat < 64)
  | .npub f => cFaults f [0] (fun m _ => m == 0 || m == 8) .none .reg .none .none (fun e _ _ => e.toNat < 2)
  | .ndrop f => aFaults f [0] (fun m _ => m == 0) .none .reg .none
  | .nwait f => aFaults f [0] (fun m _ => m == 0) .none .reg .none
  | .bulk f =>
    cFaults f [0] (fun m _ => m.toNat % 8 < 2) .reg .reg .reg .none (fun e m _ => e.toNat < 16384 && !(m.toNat % 2 == 1 && e.toNat / 2 % 2 == 1))
  | .armt f => cFaults f [0] (fun m _ => m == 0) .none .reg .reg .none (fun e _ _ => e.toNat < 2)
  | .arwait f => aFaults f [0] (fun m _ => m == 0) .none .reg .none
  | .yoke f => aFaults f [0] (fun m _ => m == 0) .pred .reg .none
  | .unyoke f => aFaults f [0] (fun m _ => m == 0) .none .none .none
  | .migrate f => aFaults f [0] (fun m _ => m == 0) .pred .reg .none
  | .cbar f =>
    iFaults f [0] (fun m _ => m == 0) .none .none (fun i => i.toNat < 2048 && i.toNat / 8 != 0 && i.toNat / 8 ≤ 128)
  | .srd f => iFaults f [0] (fun m _ => m == 0) .reg .none (fun i => sysRegListed i.toNat)
  | .swr f => iFaults f [0] (fun m _ => m == 0) .none .reg (fun i => sysRegListed i.toNat)
  | .eret f => aFaults f [0] (fun m _ => m.toNat < 4) .none .reg .none
  | .tlbinv f => cFaults f [0] (fun m _ => m.toNat < 2) .none .reg .reg .reg (fun e _ _ => e == 0)
  | .ctxsv f => aFaults f [0] (fun m _ => m == 0) .none .reg .reg
  | .ctxld f => aFaults f [0] (fun m _ => m == 0) .none .reg .reg
  | .eclr f => aFaults f [0] (fun m _ => m.toNat < 2) .reg .reg .none
  | .halt f => aFaults f [0] (fun m _ => m == 0) .none .none .none
  | .wfi f => aFaults f [0] (fun m _ => m == 0) .none .reg .none
  | .kcall f => iFaults f [0] (fun m _ => m == 0) .none .reg (fun i => i.toNat < 4096)
  | .longWord _ => []
  | .regionCommit _ => []
  | .interlockedResult _ => []
  | .globalAccessComplete _ => []
  | .pageResident _ => []
  | .pageWalk _ => []
  | .walkRetry _ => []
  | .tlbinvComplete _ => []
  | .fillComplete _ => []
  | .pendingRecordWrite _ => []
  | .deferredFaultTake _ => []
  | .oloadCmd _ => []
  | .productStep _ => []
  | .accrdCmd _ => []
  | .accwrCmd _ => []
  | .acczCmd _ => []
  | .actlutCmd _ => []
  | .oreleaseCmd _ => []
  | .oclaimGrant _ => []
  | .sequencerRun _ => []
  | .copyCmd _ => []
  | .copygCmd _ => []
  | .nregCmd _ => []
  | .nwantCmd _ => []
  | .npubCmd _ => []
  | .ndropCmd _ => []
  | .bulkGet _ => []
  | .bulkPut _ => []
  | .bulkUnitArrival _ => []
  | .ldqWake _ => []
  | .stqWake _ => []
  | .nwaitWake _ => []
  | .arwaitWake _ => []
  | .joinWake _ => []
  | .fenceComplete _ => []
  | .wfiWake _ => []
  | .namedArrival _ => []
  | .interestExpiry _ => []
  | .interestArrival _ => []
  | .interestResend _ => []
  | .tileForward _ => []
  | .faceDrop _ => []
  | .rebind _ => []
  | .fatomContribution _ => []
  | .binTimeout _ => []
  | .taskTake _ => []
  | .migrationArrival _ => []
  | .yokeFormation _ _ => []
  | .yokeTimeout _ => []
  | .sliceEnd _ => []
  | .yieldOverrun _ => []
  | .energyInterval _ => []
  | .saveComplete _ => []
  | .loadComplete _ => []
  | .mboxLoad _ => []
  | .mboxSave _ => []
  | .syscallReply _ => []
  | .pageMap _ => []
  | .pageUnmap _ => []
  | .pageAttr _ => []
  | .nspaceSet _ => []
  | .sampleCfg _ => []
  | .failedQuery _ => []
  | .cacheDrop _ => []
  | .kilnCfg _ => []
  | .sketchRead _ => []
  | .measureRead _ => []
  | .keyRefresh _ => []
  | .coreReset _ => []
  | .powerCap _ => []
  | .kick _ => []
  | .descriptorReread _ => []
  | .functionReset _ => []
  | .batchBegin _ => []
  | .batchCommit _ => []
  | .batchAccept _ => []
  | .jobOpen _ => []
  | .jobClose _ => []
  | .checkpoint _ => []
  | .imageLoad _ => []
  | .imageDrop _ => []
  | .launch _ => []
  | .graphCreate _ => []
  | .graphReplay _ => []
  | .graphDrop _ => []
  | .cancel _ => []
  | .pageMigrate _ => []
  | .hcopy _ => []
  | .pageMigrateComplete _ => []
  | .launchStart _ => []
  | .blockPlace _ => []
  | .completionRecordWrite _ => []
  | .dispatchQuantum => []
  | .bisqueComplete _ => []
  | .glazeComplete _ => []
  | .kilnTranslateTarget _ => []
  | .sketchDecay => []
  | .errorCountReport => []
  | .refreshInterval _ => []
  | .patrolScrub _ => []
  | .unitFailure _ => []
  | .boot _ => []
  | .throttleWindow _ => []
  | .thermalTrip => []
  | .spdmGetVersion _ => []
  | .spdmGetCapabilities _ => []
  | .spdmNegotiateAlgorithms _ => []
  | .spdmGetDigests _ => []
  | .spdmGetCertificate _ => []
  | .spdmChallenge _ => []
  | .spdmGetMeasurements _ => []
  | .spdmKeyExchange _ => []
  | .spdmFinish _ => []
  | .spdmKeyUpdate _ => []
  | .spdmEndSession _ => []
  | .keyProg _ => []
  | .kSetGo _ => []
  | .kSetStop _ => []
  | .ideIntegrityFailure _ => []
  | .oldKeySlotExpiry _ => []
  | .keyRefreshRequest _ => []
  | .groupReceive _ => []
  | .idleGroup _ => []
  | .replayLimit _ => []
  | .linkHeaderTimeout _ => []
  | .linkTraining _ => []
  | .readRequest _ => []
  | .readData _ => []
  | .write _ => []
  | .writeAck _ => []
  | .atomicRequest _ => []
  | .atomicResult _ => []
  | .bulkGetRequest _ => []
  | .bulkData _ => []
  | .namedInterest _ => []
  | .namedTile _ => []
  | .endToEndAck _ => []
  | .management _ => []
  | .endToEndResend _ => []
  | .heartbeat _ => []
  | .suspicionTimeout _ => []
  | .lossNotice _ => []
  | .lossConfirmation _ => []
  | .ticketRequest _ => []
  | .managementQueueRequest _ => []
  | .featuresOk _ => []
  | .driverOk _ => []
  | .hubRecovery => []
  | .journalRebuild => []
  | .trainingTimeout _ => []
  | .flitLimitHold _ => []

end Sys2Proof.Machine
end

