-- ==== Sys2Proof/WellFormed.lean ====
section
/-! DEFINITION. Well-formed instructions: those whose fields make no encoding fault (R6, R60, R62). -/

namespace Sys2Proof

/-- An instruction is well formed when none of its fields makes an encoding fault of R62. -/
abbrev WellFormed (i : Instr) : Prop := Machine.fieldFaultsOf i = []

end Sys2Proof
end

