-- ==== Sys2Proof/Decode.lean ====
section
/-! DEFINITION. Decoding of ZN-V parcels (R29 to R36, R48 to R56, R60 to R63, R495), total on any bytes, and after it the
encoder written from the same formats. -/

namespace Sys2Proof

/-- What a decoder makes of the parcels at an address: an instruction and its length in parcels, or an encoding fault
with reason, field code and length (R60, R62, R63). `bits` are bits [63:0] at the address (R61). -/
inductive Decoded where
  | ok (i : Instr) (parcels : Nat) (headAt : Nat) (bits : BitVec 64)
  | bad (reason field : Nat) (parcels : Nat) (bits : BitVec 64)
deriving DecidableEq, Repr

/-- The instruction formats (R30). -/
inductive Format where
  | a | i | c | l
deriving DecidableEq, Repr

/-- The fields of an instruction before its opcode gives them a meaning (R31 to R36). -/
structure RawFields where
  mod : BitVec 4
  ty : Ty
  g : Guard
  d : Nat
  a : Nat
  b : Nat
  c : Nat
  imm : BitVec 14
  ext : BitVec 18
  lit : BitVec 32
deriving DecidableEq, Repr

/-- The format-A view of raw fields (R31). -/
def RawFields.toA (r : RawFields) : AForm := { mod := r.mod, ty := r.ty, g := r.g, d := r.d, a := r.a, b := r.b }
/-- The format-I view of raw fields (R32). -/
def RawFields.toI (r : RawFields) : IForm := { mod := r.mod, ty := r.ty, g := r.g, d := r.d, a := r.a, imm := r.imm }
/-- The format-C view of raw fields (R33). -/
def RawFields.toC (r : RawFields) : CForm :=
  { mod := r.mod, ty := r.ty, g := r.g, d := r.d, a := r.a, b := r.b, c := r.c, ext := r.ext }
/-- The format-L view of raw fields (R34). -/
def RawFields.toL (r : RawFields) : LForm :=
  { mod := r.mod, ty := r.ty, g := r.g, d := r.d, a := r.a, b := r.b, lit := r.lit }

/-- The opcode map (R49 to R56): the format and the instruction of an assigned opcode. -/
def opcodeMap (op : Nat) : Option (Format × (RawFields → Instr)) :=
  match op with
  | 0x001 => some (.a, fun r => .add r.toA)
  | 0x002 => some (.i, fun r => .addI r.toI)
  | 0x003 => some (.a, fun r => .sub r.toA)
  | 0x004 => some (.i, fun r => .subI r.toI)
  | 0x005 => some (.a, fun r => .mul r.toA)
  | 0x006 => some (.i, fun r => .mulI r.toI)
  | 0x007 => some (.a, fun r => .mulh r.toA)
  | 0x008 => some (.c, fun r => .madd r.toC)
  | 0x009 => some (.a, fun r => .div r.toA)
  | 0x00A => some (.a, fun r => .rem r.toA)
  | 0x00B => some (.a, fun r => .abs r.toA)
  | 0x00C => some (.a, fun r => .neg r.toA)
  | 0x00D => some (.a, fun r => .min r.toA)
  | 0x00E => some (.i, fun r => .minI r.toI)
  | 0x00F => some (.a, fun r => .max r.toA)
  | 0x010 => some (.i, fun r => .maxI r.toI)
  | 0x011 => some (.a, fun r => .and r.toA)
  | 0x012 => some (.i, fun r => .andI r.toI)
  | 0x013 => some (.a, fun r => .or r.toA)
  | 0x014 => some (.i, fun r => .orI r.toI)
  | 0x015 => some (.a, fun r => .xor r.toA)
  | 0x016 => some (.i, fun r => .xorI r.toI)
  | 0x017 => some (.a, fun r => .andn r.toA)
  | 0x018 => some (.a, fun r => .not r.toA)
  | 0x019 => some (.a, fun r => .shl r.toA)
  | 0x01A => some (.i, fun r => .shlI r.toI)
  | 0x01B => some (.a, fun r => .shr r.toA)
  | 0x01C => some (.i, fun r => .shrI r.toI)
  | 0x01D => some (.a, fun r => .sar r.toA)
  | 0x01E => some (.i, fun r => .sarI r.toI)
  | 0x01F => some (.a, fun r => .rotl r.toA)
  | 0x020 => some (.i, fun r => .rotlI r.toI)
  | 0x021 => some (.c, fun r => .funnel r.toC)
  | 0x022 => some (.a, fun r => .bfx r.toA)
  | 0x023 => some (.i, fun r => .bfxI r.toI)
  | 0x024 => some (.c, fun r => .bfi r.toC)
  | 0x025 => some (.a, fun r => .popc r.toA)
  | 0x026 => some (.a, fun r => .clz r.toA)
  | 0x027 => some (.a, fun r => .ctz r.toA)
  | 0x028 => some (.a, fun r => .brev r.toA)
  | 0x029 => some (.c, fun r => .prmt r.toC)
  | 0x02A => some (.c, fun r => .sel r.toC)
  | 0x02B => some (.a, fun r => .mov r.toA)
  | 0x02C => some (.l, fun r => .movi r.toL)
  | 0x02D => some (.c, fun r => .lea r.toC)
  | 0x02E => some (.i, fun r => .leaI r.toI)
  | 0x02F => some (.a, fun r => .addsat r.toA)
  | 0x030 => some (.a, fun r => .subsat r.toA)
  | 0x040 => some (.a, fun r => .cmp r.toA)
  | 0x041 => some (.i, fun r => .cmpI r.toI)
  | 0x042 => some (.a, fun r => .fcmp r.toA)
  | 0x043 => some (.a, fun r => .pand r.toA)
  | 0x044 => some (.a, fun r => .por r.toA)
  | 0x045 => some (.a, fun r => .pxor r.toA)
  | 0x046 => some (.a, fun r => .pnot r.toA)
  | 0x047 => some (.a, fun r => .pmov r.toA)
  | 0x048 => some (.c, fun r => .psel r.toC)
  | 0x080 => some (.a, fun r => .fadd r.toA)
  | 0x081 => some (.a, fun r => .fsub r.toA)
  | 0x082 => some (.a, fun r => .fmul r.toA)
  | 0x083 => some (.c, fun r => .ffma r.toC)
  | 0x084 => some (.a, fun r => .fmin r.toA)
  | 0x085 => some (.a, fun r => .fmax r.toA)
  | 0x086 => some (.a, fun r => .fdiv r.toA)
  | 0x087 => some (.a, fun r => .fsqrt r.toA)
  | 0x088 => some (.a, fun r => .frcp r.toA)
  | 0x089 => some (.a, fun r => .frsq r.toA)
  | 0x08A => some (.a, fun r => .fexp2 r.toA)
  | 0x08B => some (.a, fun r => .flog2 r.toA)
  | 0x08C => some (.a, fun r => .fsin r.toA)
  | 0x08D => some (.a, fun r => .fcos r.toA)
  | 0x08E => some (.a, fun r => .ftanh r.toA)
  | 0x08F => some (.a, fun r => .fclass r.toA)
  | 0x090 => some (.a, fun r => .fscale r.toA)
  | 0x091 => some (.a, fun r => .frnd r.toA)
  | 0x092 => some (.c, fun r => .cvt r.toC)
  | 0x093 => some (.a, fun r => .fcopysign r.toA)
  | 0x094 => some (.l, fun r => .faddL r.toL)
  | 0x095 => some (.l, fun r => .fmulL r.toL)
  | 0x0C0 => some (.c, fun r => .dot8 r.toC)
  | 0x0C1 => some (.c, fun r => .dot4 r.toC)
  | 0x0C2 => some (.c, fun r => .dot2 r.toC)
  | 0x0C3 => some (.a, fun r => .pack r.toA)
  | 0x0C4 => some (.a, fun r => .unpack r.toA)
  | 0x0C5 => some (.c, fun r => .scl r.toC)
  | 0x0C6 => some (.c, fun r => .qnt r.toC)
  | 0x0C7 => some (.c, fun r => .qntsr r.toC)
  | 0x0C8 => some (.a, fun r => .hist r.toA)
  | 0x0C9 => some (.i, fun r => .hclip r.toI)
  | 0x100 => some (.i, fun r => .ldI r.toI)
  | 0x101 => some (.c, fun r => .ldC r.toC)
  | 0x102 => some (.i, fun r => .stI r.toI)
  | 0x103 => some (.c, fun r => .stC r.toC)
  | 0x104 => some (.i, fun r => .ldrow r.toI)
  | 0x105 => some (.i, fun r => .strow r.toI)
  | 0x106 => some (.c, fun r => .rotm r.toC)
  | 0x107 => some (.a, fun r => .pres r.toA)
  | 0x108 => some (.c, fun r => .atom r.toC)
  | 0x109 => some (.c, fun r => .cas r.toC)
  | 0x10A => some (.c, fun r => .cas128 r.toC)
  | 0x10B => some (.c, fun r => .fatom r.toC)
  | 0x10C => some (.c, fun r => .fence r.toC)
  | 0x10D => some (.c, fun r => .fencex r.toC)
  | 0x10E => some (.i, fun r => .pref r.toI)
  | 0x10F => some (.c, fun r => .shw r.toC)
  | 0x110 => some (.a, fun r => .ldq r.toA)
  | 0x111 => some (.a, fun r => .stq r.toA)
  | 0x140 => some (.l, fun r => .bra r.toL)
  | 0x141 => some (.a, fun r => .brx r.toA)
  | 0x142 => some (.l, fun r => .call r.toL)
  | 0x143 => some (.a, fun r => .callx r.toA)
  | 0x144 => some (.a, fun r => .ret r.toA)
  | 0x145 => some (.a, fun r => .exit r.toA)
  | 0x146 => some (.c, fun r => .spawn r.toC)
  | 0x147 => some (.c, fun r => .fork r.toC)
  | 0x148 => some (.a, fun r => .join r.toA)
  | 0x149 => some (.a, fun r => .jenter r.toA)
  | 0x14A => some (.a, fun r => .jquit r.toA)
  | 0x14B => some (.a, fun r => .jwait r.toA)
  | 0x14C => some (.a, fun r => .jread r.toA)
  | 0x14D => some (.a, fun r => .jinit r.toA)
  | 0x14E => some (.a, fun r => .jclr r.toA)
  | 0x14F => some (.i, fun r => .bar r.toI)
  | 0x150 => some (.c, fun r => .barn r.toC)
  | 0x151 => some (.i, fun r => .syscall r.toI)
  | 0x152 => some (.i, fun r => .getid r.toI)
  | 0x153 => some (.a, fun r => .nop r.toA)
  | 0x154 => some (.i, fun r => .trap r.toI)
  | 0x155 => some (.i, fun r => .bkpt r.toI)
  | 0x158 => some (.c, fun r => .shfl r.toC)
  | 0x159 => some (.a, fun r => .vote r.toA)
  | 0x15A => some (.a, fun r => .ballot r.toA)
  | 0x15B => some (.a, fun r => .greduce r.toA)
  | 0x15C => some (.a, fun r => .gscan r.toA)
  | 0x15D => some (.a, fun r => .elect r.toA)
  | 0x180 => some (.i, fun r => .oclaim r.toI)
  | 0x181 => some (.l, fun r => .orelease r.toL)
  | 0x182 => some (.c, fun r => .oload r.toC)
  | 0x183 => some (.c, fun r => .mma r.toC)
  | 0x184 => some (.c, fun r => .mmas r.toC)
  | 0x185 => some (.c, fun r => .mmag r.toC)
  | 0x186 => some (.c, fun r => .accrd r.toC)
  | 0x187 => some (.c, fun r => .accwr r.toC)
  | 0x188 => some (.i, fun r => .accz r.toI)
  | 0x189 => some (.a, fun r => .actlut r.toA)
  | 0x18A => some (.i, fun r => .seqrun r.toI)
  | 0x18C => some (.c, fun r => .copy r.toC)
  | 0x18D => some (.c, fun r => .copyg r.toC)
  | 0x190 => some (.a, fun r => .nreg r.toA)
  | 0x191 => some (.c, fun r => .nwant r.toC)
  | 0x192 => some (.c, fun r => .npub r.toC)
  | 0x193 => some (.a, fun r => .ndrop r.toA)
  | 0x194 => some (.a, fun r => .nwait r.toA)
  | 0x198 => some (.c, fun r => .bulk r.toC)
  | 0x199 => some (.c, fun r => .armt r.toC)
  | 0x19A => some (.a, fun r => .arwait r.toA)
  | 0x19C => some (.a, fun r => .yoke r.toA)
  | 0x19D => some (.a, fun r => .unyoke r.toA)
  | 0x19E => some (.a, fun r => .migrate r.toA)
  | 0x19F => some (.i, fun r => .cbar r.toI)
  | 0x1C0 => some (.i, fun r => .srd r.toI)
  | 0x1C1 => some (.i, fun r => .swr r.toI)
  | 0x1C2 => some (.a, fun r => .eret r.toA)
  | 0x1C3 => some (.c, fun r => .tlbinv r.toC)
  | 0x1C4 => some (.a, fun r => .ctxsv r.toA)
  | 0x1C5 => some (.a, fun r => .ctxld r.toA)
  | 0x1C6 => some (.a, fun r => .eclr r.toA)
  | 0x1C7 => some (.a, fun r => .halt r.toA)
  | 0x1C8 => some (.a, fun r => .wfi r.toA)
  | 0x1C9 => some (.i, fun r => .kcall r.toI)
  | _ => none

/-- The native-only opcodes (R58). -/
def nativeOnly (op : Nat) : Bool := 0x1E0 ≤ op && op ≤ 0x1EB

/-- Parcels of an instruction's last part (R30). -/
def partLength (op : Nat) : Nat :=
  match opcodeMap op with
  | some (.c, _) => 3
  | some (.l, _) => 3
  | _ => 2

/-- The opcode in a head parcel (R29, R31). -/
def headOp (p : BitVec 32) : Nat := (p.extractLsb' 23 9).toNat

/-- The lowest pair of a list of reason and field codes (R62). -/
def lowestFault (fs : List (Nat × Nat)) : Option (Nat × Nat) :=
  fs.foldl (fun acc p => match acc with
    | none => some p
    | some q => if p.1 < q.1 ∨ (p.1 = q.1 ∧ p.2 < q.2) then some p else acc) none

/-- The fields of bits [63:0] and of the third parcel, with the high bits of the prefixes (R31 to R36). -/
def rawFields (w : BitVec 64) (third : BitVec 32) (dh ah bh ch : BitVec 18) : RawFields :=
  { mod := w.extractLsb' 51 4, ty := Machine.tyOf (w.extractLsb' 47 4).toNat,
    g := { neg := w.getLsbD 46, pred := w.extractLsb' 42 4 },
    d := dh.toNat * 16384 + (w.extractLsb' 28 14).toNat,
    a := ah.toNat * 16384 + (w.extractLsb' 14 14).toNat,
    b := bh.toNat * 16384 + (w.extractLsb' 0 14).toNat,
    c := ch.toNat * 16384 + (third.extractLsb' 18 14).toNat,
    imm := w.extractLsb' 0 14, ext := third.extractLsb' 0 18, lit := third }

/-- The kind of a prefix (R35): bit [54]. -/
def prefixKind1 (w : BitVec 64) : Bool := w.getLsbD 54

/-- Whether prefixes `ps` may stand before format `f` (R36). -/
def prefixesOk (ps : List (BitVec 64)) (f : Format) : Bool :=
  match ps with
  | [] => true
  | [w] => if prefixKind1 w then f == .c && w.extractLsb' 18 36 == 0 else true
  | [w, u] => !prefixKind1 w && prefixKind1 u && f == .c && u.extractLsb' 18 36 == 0
  | _ => false

/-- The high bits that prefixes supply for fields d, a, b and c (R35, R36). -/
def prefixHighs (ps : List (BitVec 64)) : BitVec 18 × BitVec 18 × BitVec 18 × BitVec 18 :=
  let k0 := (ps.find? fun w => !prefixKind1 w).getD 0
  let k1 := (ps.find? fun w => prefixKind1 w).getD 0
  (k0.extractLsb' 36 18, k0.extractLsb' 18 18, k0.extractLsb' 0 18, k1.extractLsb' 0 18)

/-- Decode a last part of opcode `op` behind prefixes `ps` (R60, R62): the faults of its sequence and fields, or the
instruction. -/
def decodePart (ps : List (BitVec 64)) (w : BitVec 64) (third : BitVec 32) (len headAt : Nat) (bits : BitVec 64) :
    Decoded :=
  let op := (w.extractLsb' 55 9).toNat
  match opcodeMap op with
  | none =>
    if op = 0x1FE then .bad 8 10 len bits
    else if nativeOnly op then .bad 2 0 len bits
    else .bad 1 0 len bits
  | some (f, mk) =>
    let h := prefixHighs ps
    let i := mk (rawFields w third h.1 h.2.1 h.2.2.1 h.2.2.2)
    let fs := Machine.fieldFaultsOf i ++ (if prefixesOk ps f then [] else [(8, 10)])
      ++ (if f == .i && h.2.2.1 != 0 then [(8, 10)] else [])
    match lowestFault fs with
    | none => .ok i len headAt bits
    | some (r, fc) => .bad r fc len bits

/-- The 64 bits of two parcels, the head first, absent parcels as zero (R29, R63). -/
def pairAt (ps : List (BitVec 32)) (n : Nat) : BitVec 64 := ps.getD n 0 ++ ps.getD (n + 1) 0

/-- Decode the parcels from an instruction's address up to the end of the code section (R29, R63, R495). -/
def decodeParcels (ps : List (BitVec 32)) : Decoded :=
  let bits := pairAt ps 0
  let trunc : Decoded := .bad 0x0A 0 ps.length bits
  match ps with
  | [] => trunc
  | p0 :: _ =>
    if headOp p0 ≠ 0x1FE then
      let n := partLength (headOp p0)
      if ps.length < n then trunc else decodePart [] bits (ps.getD 2 0) n 0 bits
    else if ps.length < 3 then trunc
    else if headOp (ps.getD 2 0) ≠ 0x1FE then
      let n := 2 + partLength (headOp (ps.getD 2 0))
      if ps.length < n then trunc else decodePart [bits] (pairAt ps 2) (ps.getD 4 0) n 2 bits
    else if ps.length < 5 then trunc
    else
      let n := 4 + partLength (headOp (ps.getD 4 0))
      if ps.length < n then trunc else decodePart [bits, pairAt ps 2] (pairAt ps 4) (ps.getD 6 0) n 4 bits

/-- The parcels of bytes in address order (R5, R29); up to seven are needed (R495). -/
def parcelsOf (n : Nat) (bs : List Byte) : List (BitVec 32) :=
  match n, bs with
  | n + 1, b0 :: b1 :: b2 :: b3 :: r => (b3 ++ b2 ++ b1 ++ b0 : BitVec 32) :: parcelsOf n r
  | _, _ => []

/-- Decode the bytes at an instruction's address (R29, R495). -/
def decodeBytes (bs : List Byte) : Decoded := decodeParcels (parcelsOf 7 bs)

/-- The bytes of a parcel in address order (R5, R29). -/
def parcelBytes (p : BitVec 32) : List Byte :=
  [p.extractLsb' 0 8, p.extractLsb' 8 8, p.extractLsb' 16 8, p.extractLsb' 24 8]

/-- The bytes of the instruction that the opcode table numbers `w` in `nbits` bits, zeros above (seven parcels, R495). -/
def tableBytes (nbits w : Nat) : List Byte :=
  (List.range 7).flatMap fun k => parcelBytes (BitVec.ofNat 32 (w % 2 ^ nbits / 2 ^ (32 * k)))

/-- The instruction read from a word of the opcode table. -/
def decodeTableWord (nbits w : Nat) : Option Instr :=
  match decodeBytes (tableBytes nbits w) with
  | .ok i _ _ _ => some i
  | .bad _ _ _ _ => none

/-- The last part of an instruction as fields: opcode, format, fields (R31 to R34, R49 to R56). -/
structure Parts where
  op : Nat
  fmt : Format
  mod : BitVec 4
  ty : Ty
  g : Guard
  d : Nat
  a : Nat
  b : Nat
  c : Nat
  third : BitVec 32
deriving DecidableEq, Repr

/-- The parts of a format-A instruction. -/
def partsA (op : Nat) (f : AForm) : Parts :=
  { op := op, fmt := .a, mod := f.mod, ty := f.ty, g := f.g, d := f.d, a := f.a, b := f.b, c := 0, third := 0 }
/-- The parts of a format-I instruction. -/
def partsI (op : Nat) (f : IForm) : Parts :=
  { op := op, fmt := .i, mod := f.mod, ty := f.ty, g := f.g, d := f.d, a := f.a, b := f.imm.toNat, c := 0, third := 0 }
/-- The parts of a format-C instruction. -/
def partsC (op : Nat) (f : CForm) : Parts :=
  { op := op, fmt := .c, mod := f.mod, ty := f.ty, g := f.g, d := f.d, a := f.a, b := f.b, c := f.c,
    third := BitVec.ofNat 14 f.c ++ f.ext }
/-- The parts of a format-L instruction. -/
def partsL (op : Nat) (f : LForm) : Parts :=
  { op := op, fmt := .l, mod := f.mod, ty := f.ty, g := f.g, d := f.d, a := f.a, b := f.b, c := 0, third := f.lit }

/-- The parts of a ZN-V instruction; the other steps have no encoding. -/
def partsOf (i : Instr) : Option Parts :=
  match i with
  | .add f => some (partsA 0x001 f)
  | .addI f => some (partsI 0x002 f)
  | .sub f => some (partsA 0x003 f)
  | .subI f => some (partsI 0x004 f)
  | .mul f => some (partsA 0x005 f)
  | .mulI f => some (partsI 0x006 f)
  | .mulh f => some (partsA 0x007 f)
  | .madd f => some (partsC 0x008 f)
  | .div f => some (partsA 0x009 f)
  | .rem f => some (partsA 0x00A f)
  | .abs f => some (partsA 0x00B f)
  | .neg f => some (partsA 0x00C f)
  | .min f => some (partsA 0x00D f)
  | .minI f => some (partsI 0x00E f)
  | .max f => some (partsA 0x00F f)
  | .maxI f => some (partsI 0x010 f)
  | .and f => some (partsA 0x011 f)
  | .andI f => some (partsI 0x012 f)
  | .or f => some (partsA 0x013 f)
  | .orI f => some (partsI 0x014 f)
  | .xor f => some (partsA 0x015 f)
  | .xorI f => some (partsI 0x016 f)
  | .andn f => some (partsA 0x017 f)
  | .not f => some (partsA 0x018 f)
  | .shl f => some (partsA 0x019 f)
  | .shlI f => some (partsI 0x01A f)
  | .shr f => some (partsA 0x01B f)
  | .shrI f => some (partsI 0x01C f)
  | .sar f => some (partsA 0x01D f)
  | .sarI f => some (partsI 0x01E f)
  | .rotl f => some (partsA 0x01F f)
  | .rotlI f => some (partsI 0x020 f)
  | .funnel f => some (partsC 0x021 f)
  | .bfx f => some (partsA 0x022 f)
  | .bfxI f => some (partsI 0x023 f)
  | .bfi f => some (partsC 0x024 f)
  | .popc f => some (partsA 0x025 f)
  | .clz f => some (partsA 0x026 f)
  | .ctz f => some (partsA 0x027 f)
  | .brev f => some (partsA 0x028 f)
  | .prmt f => some (partsC 0x029 f)
  | .sel f => some (partsC 0x02A f)
  | .mov f => some (partsA 0x02B f)
  | .movi f => some (partsL 0x02C f)
  | .lea f => some (partsC 0x02D f)
  | .leaI f => some (partsI 0x02E f)
  | .addsat f => some (partsA 0x02F f)
  | .subsat f => some (partsA 0x030 f)
  | .cmp f => some (partsA 0x040 f)
  | .cmpI f => some (partsI 0x041 f)
  | .fcmp f => some (partsA 0x042 f)
  | .pand f => some (partsA 0x043 f)
  | .por f => some (partsA 0x044 f)
  | .pxor f => some (partsA 0x045 f)
  | .pnot f => some (partsA 0x046 f)
  | .pmov f => some (partsA 0x047 f)
  | .psel f => some (partsC 0x048 f)
  | .fadd f => some (partsA 0x080 f)
  | .fsub f => some (partsA 0x081 f)
  | .fmul f => some (partsA 0x082 f)
  | .ffma f => some (partsC 0x083 f)
  | .fmin f => some (partsA 0x084 f)
  | .fmax f => some (partsA 0x085 f)
  | .fdiv f => some (partsA 0x086 f)
  | .fsqrt f => some (partsA 0x087 f)
  | .frcp f => some (partsA 0x088 f)
  | .frsq f => some (partsA 0x089 f)
  | .fexp2 f => some (partsA 0x08A f)
  | .flog2 f => some (partsA 0x08B f)
  | .fsin f => some (partsA 0x08C f)
  | .fcos f => some (partsA 0x08D f)
  | .ftanh f => some (partsA 0x08E f)
  | .fclass f => some (partsA 0x08F f)
  | .fscale f => some (partsA 0x090 f)
  | .frnd f => some (partsA 0x091 f)
  | .cvt f => some (partsC 0x092 f)
  | .fcopysign f => some (partsA 0x093 f)
  | .faddL f => some (partsL 0x094 f)
  | .fmulL f => some (partsL 0x095 f)
  | .dot8 f => some (partsC 0x0C0 f)
  | .dot4 f => some (partsC 0x0C1 f)
  | .dot2 f => some (partsC 0x0C2 f)
  | .pack f => some (partsA 0x0C3 f)
  | .unpack f => some (partsA 0x0C4 f)
  | .scl f => some (partsC 0x0C5 f)
  | .qnt f => some (partsC 0x0C6 f)
  | .qntsr f => some (partsC 0x0C7 f)
  | .hist f => some (partsA 0x0C8 f)
  | .hclip f => some (partsI 0x0C9 f)
  | .ldI f => some (partsI 0x100 f)
  | .ldC f => some (partsC 0x101 f)
  | .stI f => some (partsI 0x102 f)
  | .stC f => some (partsC 0x103 f)
  | .ldrow f => some (partsI 0x104 f)
  | .strow f => some (partsI 0x105 f)
  | .rotm f => some (partsC 0x106 f)
  | .pres f => some (partsA 0x107 f)
  | .atom f => some (partsC 0x108 f)
  | .cas f => some (partsC 0x109 f)
  | .cas128 f => some (partsC 0x10A f)
  | .fatom f => some (partsC 0x10B f)
  | .fence f => some (partsC 0x10C f)
  | .fencex f => some (partsC 0x10D f)
  | .pref f => some (partsI 0x10E f)
  | .shw f => some (partsC 0x10F f)
  | .ldq f => some (partsA 0x110 f)
  | .stq f => some (partsA 0x111 f)
  | .bra f => some (partsL 0x140 f)
  | .brx f => some (partsA 0x141 f)
  | .call f => some (partsL 0x142 f)
  | .callx f => some (partsA 0x143 f)
  | .ret f => some (partsA 0x144 f)
  | .exit f => some (partsA 0x145 f)
  | .spawn f => some (partsC 0x146 f)
  | .fork f => some (partsC 0x147 f)
  | .join f => some (partsA 0x148 f)
  | .jenter f => some (partsA 0x149 f)
  | .jquit f => some (partsA 0x14A f)
  | .jwait f => some (partsA 0x14B f)
  | .jread f => some (partsA 0x14C f)
  | .jinit f => some (partsA 0x14D f)
  | .jclr f => some (partsA 0x14E f)
  | .bar f => some (partsI 0x14F f)
  | .barn f => some (partsC 0x150 f)
  | .syscall f => some (partsI 0x151 f)
  | .getid f => some (partsI 0x152 f)
  | .nop f => some (partsA 0x153 f)
  | .trap f => some (partsI 0x154 f)
  | .bkpt f => some (partsI 0x155 f)
  | .shfl f => some (partsC 0x158 f)
  | .vote f => some (partsA 0x159 f)
  | .ballot f => some (partsA 0x15A f)
  | .greduce f => some (partsA 0x15B f)
  | .gscan f => some (partsA 0x15C f)
  | .elect f => some (partsA 0x15D f)
  | .oclaim f => some (partsI 0x180 f)
  | .orelease f => some (partsL 0x181 f)
  | .oload f => some (partsC 0x182 f)
  | .mma f => some (partsC 0x183 f)
  | .mmas f => some (partsC 0x184 f)
  | .mmag f => some (partsC 0x185 f)
  | .accrd f => some (partsC 0x186 f)
  | .accwr f => some (partsC 0x187 f)
  | .accz f => some (partsI 0x188 f)
  | .actlut f => some (partsA 0x189 f)
  | .seqrun f => some (partsI 0x18A f)
  | .copy f => some (partsC 0x18C f)
  | .copyg f => some (partsC 0x18D f)
  | .nreg f => some (partsA 0x190 f)
  | .nwant f => some (partsC 0x191 f)
  | .npub f => some (partsC 0x192 f)
  | .ndrop f => some (partsA 0x193 f)
  | .nwait f => some (partsA 0x194 f)
  | .bulk f => some (partsC 0x198 f)
  | .armt f => some (partsC 0x199 f)
  | .arwait f => some (partsA 0x19A f)
  | .yoke f => some (partsA 0x19C f)
  | .unyoke f => some (partsA 0x19D f)
  | .migrate f => some (partsA 0x19E f)
  | .cbar f => some (partsI 0x19F f)
  | .srd f => some (partsI 0x1C0 f)
  | .swr f => some (partsI 0x1C1 f)
  | .eret f => some (partsA 0x1C2 f)
  | .tlbinv f => some (partsC 0x1C3 f)
  | .ctxsv f => some (partsA 0x1C4 f)
  | .ctxld f => some (partsA 0x1C5 f)
  | .eclr f => some (partsA 0x1C6 f)
  | .halt f => some (partsA 0x1C7 f)
  | .wfi f => some (partsA 0x1C8 f)
  | .kcall f => some (partsI 0x1C9 f)
  | .longWord _ => none
  | .regionCommit _ => none
  | .interlockedResult _ => none
  | .globalAccessComplete _ => none
  | .pageResident _ => none
  | .pageWalk _ => none
  | .walkRetry _ => none
  | .tlbinvComplete _ => none
  | .fillComplete _ => none
  | .pendingRecordWrite _ => none
  | .deferredFaultTake _ => none
  | .oloadCmd _ => none
  | .productStep _ => none
  | .accrdCmd _ => none
  | .accwrCmd _ => none
  | .acczCmd _ => none
  | .actlutCmd _ => none
  | .oreleaseCmd _ => none
  | .oclaimGrant _ => none
  | .sequencerRun _ => none
  | .copyCmd _ => none
  | .copygCmd _ => none
  | .nregCmd _ => none
  | .nwantCmd _ => none
  | .npubCmd _ => none
  | .ndropCmd _ => none
  | .bulkGet _ => none
  | .bulkPut _ => none
  | .bulkUnitArrival _ => none
  | .ldqWake _ => none
  | .stqWake _ => none
  | .nwaitWake _ => none
  | .arwaitWake _ => none
  | .joinWake _ => none
  | .fenceComplete _ => none
  | .wfiWake _ => none
  | .namedArrival _ => none
  | .interestExpiry _ => none
  | .interestArrival _ => none
  | .interestResend _ => none
  | .tileForward _ => none
  | .faceDrop _ => none
  | .rebind _ => none
  | .fatomContribution _ => none
  | .binTimeout _ => none
  | .taskTake _ => none
  | .migrationArrival _ => none
  | .yokeFormation _ _ => none
  | .yokeTimeout _ => none
  | .sliceEnd _ => none
  | .yieldOverrun _ => none
  | .energyInterval _ => none
  | .saveComplete _ => none
  | .loadComplete _ => none
  | .mboxLoad _ => none
  | .mboxSave _ => none
  | .syscallReply _ => none
  | .pageMap _ => none
  | .pageUnmap _ => none
  | .pageAttr _ => none
  | .nspaceSet _ => none
  | .sampleCfg _ => none
  | .failedQuery _ => none
  | .cacheDrop _ => none
  | .kilnCfg _ => none
  | .sketchRead _ => none
  | .measureRead _ => none
  | .keyRefresh _ => none
  | .coreReset _ => none
  | .powerCap _ => none
  | .kick _ => none
  | .descriptorReread _ => none
  | .functionReset _ => none
  | .batchBegin _ => none
  | .batchCommit _ => none
  | .batchAccept _ => none
  | .jobOpen _ => none
  | .jobClose _ => none
  | .checkpoint _ => none
  | .imageLoad _ => none
  | .imageDrop _ => none
  | .launch _ => none
  | .graphCreate _ => none
  | .graphReplay _ => none
  | .graphDrop _ => none
  | .cancel _ => none
  | .pageMigrate _ => none
  | .hcopy _ => none
  | .pageMigrateComplete _ => none
  | .launchStart _ => none
  | .blockPlace _ => none
  | .completionRecordWrite _ => none
  | .dispatchQuantum => none
  | .bisqueComplete _ => none
  | .glazeComplete _ => none
  | .kilnTranslateTarget _ => none
  | .sketchDecay => none
  | .errorCountReport => none
  | .refreshInterval _ => none
  | .patrolScrub _ => none
  | .unitFailure _ => none
  | .boot _ => none
  | .throttleWindow _ => none
  | .thermalTrip => none
  | .spdmGetVersion _ => none
  | .spdmGetCapabilities _ => none
  | .spdmNegotiateAlgorithms _ => none
  | .spdmGetDigests _ => none
  | .spdmGetCertificate _ => none
  | .spdmChallenge _ => none
  | .spdmGetMeasurements _ => none
  | .spdmKeyExchange _ => none
  | .spdmFinish _ => none
  | .spdmKeyUpdate _ => none
  | .spdmEndSession _ => none
  | .keyProg _ => none
  | .kSetGo _ => none
  | .kSetStop _ => none
  | .ideIntegrityFailure _ => none
  | .oldKeySlotExpiry _ => none
  | .keyRefreshRequest _ => none
  | .groupReceive _ => none
  | .idleGroup _ => none
  | .replayLimit _ => none
  | .linkHeaderTimeout _ => none
  | .linkTraining _ => none
  | .readRequest _ => none
  | .readData _ => none
  | .write _ => none
  | .writeAck _ => none
  | .atomicRequest _ => none
  | .atomicResult _ => none
  | .bulkGetRequest _ => none
  | .bulkData _ => none
  | .namedInterest _ => none
  | .namedTile _ => none
  | .endToEndAck _ => none
  | .management _ => none
  | .endToEndResend _ => none
  | .heartbeat _ => none
  | .suspicionTimeout _ => none
  | .lossNotice _ => none
  | .lossConfirmation _ => none
  | .ticketRequest _ => none
  | .managementQueueRequest _ => none
  | .featuresOk _ => none
  | .driverOk _ => none
  | .hubRecovery => none
  | .journalRebuild => none
  | .trainingTimeout _ => none
  | .flitLimitHold _ => none

/-- Bits [63:0] of an instruction's last part (R31). -/
def lastPart (p : Parts) : BitVec 64 :=
  BitVec.ofNat 9 p.op ++ p.mod ++ BitVec.ofNat 4 (Machine.tyCode p.ty) ++ BitVec.ofBool p.g.neg ++ p.g.pred
    ++ BitVec.ofNat 14 p.d ++ BitVec.ofNat 14 p.a ++ BitVec.ofNat 14 p.b

/-- The kind-0 prefix of high bits (R35). -/
def prefix0 (dh ah bh : Nat) : BitVec 64 :=
  BitVec.ofNat 9 0x1FE ++ BitVec.ofBool false ++ BitVec.ofNat 18 dh ++ BitVec.ofNat 18 ah ++ BitVec.ofNat 18 bh

/-- The kind-1 prefix of high bits (R35). -/
def prefix1 (ch : Nat) : BitVec 64 :=
  BitVec.ofNat 9 0x1FE ++ BitVec.ofBool true ++ BitVec.ofNat 36 0 ++ BitVec.ofNat 18 ch

/-- The two parcels of 64 bits, the head first (R29). -/
def parcels2 (w : BitVec 64) : List (BitVec 32) := [w.extractLsb' 32 32, w.extractLsb' 0 32]

/-- The parcels of a part with the prefixes its register numbers need (R29, R35, R36). -/
def encodeParts (p : Parts) : List (BitVec 32) :=
  (if p.d / 16384 = 0 ∧ p.a / 16384 = 0 ∧ p.b / 16384 = 0 then []
    else parcels2 (prefix0 (p.d / 16384) (p.a / 16384) (p.b / 16384)))
  ++ (if p.c / 16384 = 0 then [] else parcels2 (prefix1 (p.c / 16384)))
  ++ parcels2 (lastPart p)
  ++ (if p.fmt = .c ∨ p.fmt = .l then [p.third] else [])

/-- The parcels of an instruction, none for a step that is no ZN-V instruction (log entry 78). -/
def encode (i : Instr) : List (BitVec 32) :=
  match partsOf i with
  | some p => encodeParts p
  | none => []

/-- The bytes of an instruction in address order (R5, R29). -/
def encodeBytes (i : Instr) : List Byte := (encode i).flatMap parcelBytes

end Sys2Proof
end

