-- ==== Sys2Proof/Machine/Maps.lean ====
section
/-! DEFINITION. Maps keyed by numbers, kept as lists of pairs in rising order of keys. Reading an absent key gives the
default that the reader names. -/

namespace Sys2Proof.Machine

/-- The value at key `k`, or `d` when there is none. -/
def mget {β : Type} (d : β) (m : List (Nat × β)) (k : Nat) : β :=
  match m with
  | [] => d
  | (j, v) :: r => if j = k then v else mget d r k

/-- The value at key `k`, if there is one. -/
def mfind {β : Type} (m : List (Nat × β)) (k : Nat) : Option β :=
  match m with
  | [] => none
  | (j, v) :: r => if j = k then some v else mfind r k

/-- The map with `v` at key `k`, placed before the first larger key. -/
def mset {β : Type} (m : List (Nat × β)) (k : Nat) (v : β) : List (Nat × β) :=
  match m with
  | [] => [(k, v)]
  | (j, u) :: r => if j = k then (k, v) :: r else if k < j then (k, v) :: (j, u) :: r else (j, u) :: mset r k v

/-- The map without key `k`. -/
def mdel {β : Type} (m : List (Nat × β)) (k : Nat) : List (Nat × β) := m.filter fun p => p.1 != k

/-- The map with `f` applied at key `k`, an absent key counting as `d`. -/
def mmod {β : Type} (d : β) (m : List (Nat × β)) (k : Nat) (f : β → β) : List (Nat × β) := mset m k (f (mget d m k))

/-- The values at the `n` keys from `base` on, an absent key counting as `d`. -/
def mslice {β : Type} (d : β) (m : List (Nat × β)) (base n : Nat) : Array β :=
  m.foldr (fun p a => if base ≤ p.1 ∧ p.1 < base + n then a.setIfInBounds (p.1 - base) p.2 else a) (Array.replicate n d)

/-- The map with new values at consecutive keys from `base` on. -/
def mputs {β : Type} (m : List (Nat × β)) (base : Nat) (vs : List β) : List (Nat × β) :=
  (m.filter fun p => p.1 < base) ++ ((List.range vs.length).map fun i => base + i).zip vs
    ++ m.filter fun p => base + vs.length ≤ p.1

/-- Apply `f` to the first element of a list that meets `p`. -/
def updFirst {α : Type} (p : α → Bool) (f : α → α) (l : List α) : List α :=
  match l with
  | [] => []
  | a :: r => if p a then f a :: r else a :: updFirst p f r

/-- Remove the first element of a list that meets `p`. -/
def delFirst {α : Type} (p : α → Bool) (l : List α) : List α :=
  match l with
  | [] => []
  | a :: r => if p a then r else a :: delFirst p r

/-- Apply `f` to every element that meets `p`. -/
def updAll {α : Type} (p : α → Bool) (f : α → α) (l : List α) : List α := l.map fun a => if p a then f a else a

end Sys2Proof.Machine
end

