-- ==== Sys2Proof/Config.lean ====
section
/-! DEFINITION. What one implementation fixes, and the free values: constants without a body, whose value no proof can
see. Every constant is named in the assumption log. -/

namespace Sys2Proof.Config

/-- The silicon stepping that this model describes, code 0x1 (R1). -/
def stepping : BitVec 8 := 1

/-- The stream of free values: the `k`-th value, `w` bits wide, where the spec states no value
(log entry 22). -/
opaque freeBits (w : Nat) (k : Nat) : BitVec w

/-- The byte at a physical address homed in another package, as a unit of this package reads it at a cycle `ck` after `k`
free values (log entry 72). -/
opaque farByte (pa k ck : Nat) : BitVec 8

/-- Whether an ML-DSA-44 signature holds for a key and a byte string (R448, R450; log entry 8). -/
opaque mldsaVerify (key sig msg : List Byte) : Bool

/-- An ML-DSA-44 signature made with the device's key of a slot (R450; log entry 8). -/
opaque mldsaSign (slot : Nat) (msg : List Byte) : List Byte

/-- The certificate chain of slot 0 or 1, whose alias key follows from M0 to M3 (R450; log entry 8). -/
opaque certChain (slot : Nat) (m0 m1 m2 m3 : BitVec 256) : List Byte

/-- The ciphertext and shared secret that ML-KEM-768 gives for a public key (R450; log entry 8). -/
opaque mlkemEncaps (pub : List Byte) (k : Nat) : List Byte × BitVec 256

/-- The public key that a certificate chain certifies (R448; log entry 8). -/
opaque chainKey (chain : List Byte) : List Byte

/-- Whether a certificate chain leads to the root whose public key has the given digest (R448; log entry 8). -/
opaque chainOk (root : BitVec 256) (chain : List Byte) : Bool

/-- The digest of the Holrax root public key held in the ROM (R448; log entry 8). -/
opaque rootDigest : BitVec 256

/-- Whether the AES-256-GCM tag of a packet holds under a key (R452, R473; log entry 8). -/
opaque gcmTagOk (key : BitVec 256) (header : BitVec 128) (body : List Byte) (tag : BitVec 128) : Bool

/-- The bytes of an SPDM message field whose value the SPDM standard fixes (R450; log entry 8). -/
opaque spdmBytes (kind : Nat) (request : List Byte) (state : List Nat) : List Byte

/-- The message authentication code of an SPDM session's FINISH (R450; log entry 8). -/
opaque spdmFinishOk (secret : BitVec 256) (request : List Byte) : Bool

/-- The bytes of the measurement log, whose entries the spec lists without a layout (R446, R449; log entry 8). -/
opaque measureLogBytes (entries : List (Nat × Nat × BitVec 256)) : List Byte

/-- The functions and kernels that an image's symbol section lists: entry offset in the code section, whether it is a kernel,
and declared `v` and `x` counts; the spec gives the section no layout (R77, R85; log entry 6). -/
opaque imageFuncs (symbols : List Byte) : List (Nat × Bool × Nat × Nat)

/-- The value of a symbol of an image placed at a base address (R79; log entry 6). -/
opaque symbolValue (symbols : List Byte) (base index : Nat) : BitVec 64

/-- Whether a symbol of an image is exported, by its index in the symbol section (R72, R78; log entry 6). -/
opaque symbolExported (symbols : List Byte) (index : Nat) : Bool

/-- The name-space record that a symbol of an image stands for, by its number in section 5 (R74, R79; log entry 81). -/
opaque symbolRecord (symbols : List Byte) (index : Nat) : Nat

/-- The name-space records of an image's section 5, which the spec gives no layout (R74; log entry 81): type, tensor and tile
extents, and default lifetime. -/
opaque nameRecords (section_ : List Byte) : List (Nat × List (Nat × Nat) × Nat)

/-- The space index that the loader assigns to record `record` of an image placed at `base` (R74, R399; log entry 81). -/
opaque spaceIndex (tenant base record : Nat) : BitVec 12

/-- The publish records and the keep time of a space that the loader creates (R359; log entry 81). -/
opaque spacePlace (tenant : Nat) (space : BitVec 12) : BitVec 64 × BitVec 32

/-- The translation that a native pre-translation section holds, whose layout the spec does not give (R17; log entry 82). -/
opaque preTranslation (section_ : List Byte) : Option Transl

/-- Whether the signature section of an image verifies its native pre-translation (R17, R448; log entries 6 and 8). -/
opaque nativeSigned (native signature : List Byte) : Bool

/-- What a service core writes into SLICECFG of a slice, at its `k`-th write (R345; log entry 86). -/
opaque sliceCfg (die slice k : Nat) : BitVec 64

/-- The pending-interest entries that a holder of the fen has room for beside its first (R364; log entry 55). -/
opaque holderRoom (h : Holder) : Nat

/-- The pseudo-channel of a physical address in its stack, and that of a bank (R349; log entry 87). -/
opaque channelOf (pa : Nat) : Nat
/-- See `channelOf`. -/
opaque bankChannel (bank : Nat) : Nat

/-- The bytes that a spilled race record, and a pooled fibre or task, takes in its pool (R384, R425; log entry 88). -/
opaque recordBytes : Nat
/-- See `recordBytes`. -/
opaque poolItemBytes : Nat

/-- Start and final values of the CRC-64 of R470 and the CRC-16 of R473, whose polynomials alone the spec gives
(log entry 9). -/
opaque crc64Start : BitVec 64
/-- See `crc64Start`. -/
opaque crc64Final : BitVec 64
/-- See `crc64Start`. -/
opaque crc16Start : BitVec 16
/-- See `crc64Start`. -/
opaque crc16Final : BitVec 16

end Sys2Proof.Config
end

