-- ==== Sys2Proof/Machine/Event.lean ====
section
/-! DEFINITION. Events: what happens in the machine besides the issue of an instruction. An event has the name and the payload
of the step of `Instr` that it is; `Machine/Happen.lean` gives it that step's meaning. The type stands apart from `Instr`
because compiled Lean cannot build values of a type's constructors beyond the 245th, and a step makes events. -/

namespace Sys2Proof.Machine

/-- An event, by the row of spec/opcode_table.json with the same name. -/
inductive Event where
  | regionCommit (at_ : AtGang)
  | interlockedResult (at_ : AtGang)
  | globalAccessComplete (it : AtItem)
  | pageResident (r : ResidentMsg)
  | pageWalk (r : WalkReq)
  | walkRetry (r : WalkReq)
  | tlbinvComplete (core : Nat)
  | fillComplete (it : AtCore)
  | pendingRecordWrite (at_ : AtGang)
  | deferredFaultTake (at_ : AtGang)
  | oloadCmd (at_ : AtGang)
  | productStep (at_ : AtGang)
  | accrdCmd (at_ : AtGang)
  | accwrCmd (at_ : AtGang)
  | acczCmd (at_ : AtGang)
  | actlutCmd (at_ : AtGang)
  | oreleaseCmd (at_ : AtGang)
  | oclaimGrant (it : AtCore)
  | sequencerRun (at_ : AtGang)
  | copyCmd (at_ : AtGang)
  | copygCmd (at_ : AtGang)
  | nregCmd (at_ : AtGang)
  | nwantCmd (at_ : AtGang)
  | npubCmd (at_ : AtGang)
  | ndropCmd (at_ : AtGang)
  | bulkGet (at_ : AtGang)
  | bulkPut (at_ : AtGang)
  | bulkUnitArrival (it : AtCore)
  | ldqWake (it : AtItem)
  | stqWake (it : AtItem)
  | nwaitWake (it : AtItem)
  | arwaitWake (it : AtItem)
  | joinWake (it : AtItem)
  | fenceComplete (it : AtItem)
  | wfiWake (core : Nat)
  | namedArrival (m : ArrivalMsg)
  | interestExpiry (it : AtItem)
  | interestArrival (m : InterestMsg)
  | interestResend (it : AtItem)
  | tileForward (m : TileMsg)
  | faceDrop (r : FaceRef)
  | rebind (m : RebindMsg)
  | fatomContribution (m : Contribution)
  | binTimeout (it : AtCore)
  | taskTake (core : Nat)
  | migrationArrival (index : Nat)
  | yokeFormation (cluster key : Nat)
  | yokeTimeout (at_ : AtGang)
  | sliceEnd (core : Nat)
  | yieldOverrun (at_ : AtGang)
  | energyInterval (core : Nat)
  | saveComplete (it : AtCore)
  | loadComplete (it : AtCore)
  | mboxLoad (m : MboxMsg)
  | mboxSave (m : MboxMsg)
  | syscallReply (r : SvcReply)
  | pageMap (r : SvcReq)
  | pageUnmap (r : SvcReq)
  | pageAttr (r : SvcReq)
  | nspaceSet (r : SvcReq)
  | sampleCfg (r : SvcReq)
  | failedQuery (r : SvcReq)
  | cacheDrop (r : SvcReq)
  | kilnCfg (r : SvcReq)
  | sketchRead (r : SvcReq)
  | measureRead (r : SvcReq)
  | keyRefresh (r : SvcReq)
  | coreReset (r : SvcReq)
  | powerCap (r : SvcReq)
  | kick (k : KickWrite)
  | descriptorReread (q : AtQueue)
  | functionReset (fn : Nat)
  | batchBegin (r : RecordMsg)
  | batchCommit (r : RecordMsg)
  | batchAccept (q : AtQueue)
  | jobOpen (c : CmdRef)
  | jobClose (c : CmdRef)
  | checkpoint (c : CmdRef)
  | imageLoad (c : CmdRef)
  | imageDrop (c : CmdRef)
  | launch (c : CmdRef)
  | graphCreate (c : CmdRef)
  | graphReplay (c : CmdRef)
  | graphDrop (c : CmdRef)
  | cancel (c : CmdRef)
  | pageMigrate (c : CmdRef)
  | hcopy (c : CmdRef)
  | pageMigrateComplete (c : CmdRef)
  | launchStart (launch : Nat)
  | blockPlace (launch : Nat)
  | completionRecordWrite (q : AtQueue)
  | dispatchQuantum
  | bisqueComplete (t : Transl)
  | glazeComplete (t : Transl)
  | kilnTranslateTarget (it : AtItem)
  | sketchDecay
  | errorCountReport
  | refreshInterval (r : RefreshTick)
  | patrolScrub (r : ScrubRead)
  | unitFailure (u : FailUnit)
  | boot (stages : List StageImage)
  | throttleWindow (r : WindowRead)
  | thermalTrip
  | spdmGetVersion (m : SpdmMsg)
  | spdmGetCapabilities (m : SpdmMsg)
  | spdmNegotiateAlgorithms (m : SpdmMsg)
  | spdmGetDigests (m : SpdmMsg)
  | spdmGetCertificate (m : SpdmMsg)
  | spdmChallenge (m : SpdmMsg)
  | spdmGetMeasurements (m : SpdmMsg)
  | spdmKeyExchange (m : SpdmMsg)
  | spdmFinish (m : SpdmMsg)
  | spdmKeyUpdate (m : SpdmMsg)
  | spdmEndSession (m : SpdmMsg)
  | keyProg (m : IdeMsg)
  | kSetGo (m : IdeMsg)
  | kSetStop (m : IdeMsg)
  | ideIntegrityFailure (m : IdeMsg)
  | oldKeySlotExpiry (r : StreamRef)
  | keyRefreshRequest (r : StreamRef)
  | groupReceive (g : GroupMsg)
  | idleGroup (port : Nat)
  | replayLimit (port : Nat)
  | linkHeaderTimeout (port : Nat)
  | linkTraining (m : TrainMsg)
  | readRequest (p : Packet)
  | readData (p : Packet)
  | write (p : Packet)
  | writeAck (p : Packet)
  | atomicRequest (p : Packet)
  | atomicResult (p : Packet)
  | bulkGetRequest (p : Packet)
  | bulkData (p : Packet)
  | namedInterest (p : Packet)
  | namedTile (p : Packet)
  | endToEndAck (p : Packet)
  | management (p : Packet)
  | endToEndResend (r : ResendRef)
  | heartbeat (pkg : Nat)
  | suspicionTimeout (pkg : Nat)
  | lossNotice (pkg : Nat)
  | lossConfirmation (pkg : Nat)
  | ticketRequest (it : AtItem)
  | managementQueueRequest (r : MgmtReq)
  | featuresOk (m : FeatureMsg)
  | driverOk (fn : Nat)
  | hubRecovery
  | journalRebuild
  | trainingTimeout (port : Nat)
  | flitLimitHold (r : StreamRef)
deriving DecidableEq, Repr

end Sys2Proof.Machine
end

