-- ==== Sys2Proof/Machine/State.lean ====
section
/-! DEFINITION. The state of the machine as plain data: everything the spec gives the package, from fibre to fabric, the
reasons for a stop, and the state after reset. Maps keyed by a number are lists of pairs (`TMap`); an absent key reads
as the default that the reading operation names. -/

namespace Sys2Proof.Machine

/-- A map from numbers, as a list of pairs; `Machine/Maps.lean` reads and writes it. -/
abbrev TMap (β : Type) : Type := List (Nat × β)

/-- Why a fibre is parked (R90, R187, R313). `fetch` marks the translation of a page of its code (R37; log entry 83), `exiting` marks a fibre whose EXIT has issued and not yet committed (R91), and
`supervisor` the firmware fibre after a trap that its supervisor does not emulate (R183, R492; log entry 13). -/
inductive Cause where
  | presence | oslot | qempty | qfull | tlb | page | l2miss | named
  | bar (slot : Nat) | cbar | yoke | regather | jwait (set : Nat) | yield | fence
  | kiln | join | arrive | result | exiting | supervisor | fetch
deriving DecidableEq, Repr

/-- The state of a lane's fibre (R90): none (absent or exited), Ready, or Parked. -/
inductive FStat where
  | absent
  | ready
  | parked (c : Cause)
deriving DecidableEq, Repr

/-- The part of a logical name below the job (R12), and a service core as a party of R383. -/
inductive LName where
  | launched (x y z fibre : Nat)
  | spawned (serial : Nat)
  | service (index : Nat)
deriving DecidableEq, Repr

/-- A saved activation (R155, R156): return PC, caller window, native return and window bases, and the entry of the
caller's own function. -/
structure Activation where
  ret : W64
  v : TMap W32
  x : TMap W64
  nret : Nat
  nbase : TMap Nat
  fn : W64
deriving DecidableEq, Repr

/-- An entry of the hold latch (R221): its value and the number of words its lane's PC group has issued since. -/
structure LatchEntry where
  value : W64
  age : Nat
deriving DecidableEq, Repr

/-- The party of an access (R383): fibre and logical name, and where it lies, with its gang's uid (R372). -/
structure Party where
  uid : Nat
  job : Nat
  launchNo : Nat
  launch : Nat
  name : LName
  core : Nat
  gang : Nat
  gangUid : Nat
  tenant : Nat
deriving DecidableEq, Repr

/-- The head of a release sequence at a location (R374): the release's clock, scope and party. -/
structure Release where
  pa : Nat
  len : Nat
  clock : TMap Nat
  scope : BitVec 3
  party : Party
deriving DecidableEq, Repr

/-- A fibre (R82, R90) and its lane's native registers (R209, R221). `fn` is the entry of the function it is in (R85), `clock` its place in happens-before (R378),
`relFences` the clocks of its release fences by scope and `readHeads` the releases its atomic reads have read (R377). -/
structure Fibre where
  uid : Nat
  status : FStat
  pc : W64
  preds : BitVec 12
  v : TMap W32
  x : TMap W64
  callers : List Activation
  fn : W64
  stack : TMap Byte
  stackSize : Nat
  job : Nat
  launchNo : Nat
  name : LName
  entry : W64
  home : Nat
  launch : Nat
  task : Nat
  clock : TMap Nat
  relFences : TMap (TMap Nat)
  readHeads : List Release
  npc : Nat
  nregs : TMap W32
  nbase : TMap Nat
  latch : TMap LatchEntry
deriving DecidableEq, Repr

/-- A lane that holds no fibre. -/
def Fibre.absent : Fibre :=
  { uid := 0, status := .absent, pc := 0, preds := 0, v := [], x := [], callers := [], fn := 0, stack := [], stackSize := 0,
    job := 0, launchNo := 0, name := .spawned 0, entry := 0, home := 0, launch := 0, task := 0, clock := [], relFences := [], readHeads := [],
    npc := 0,
    nregs := [], nbase := [], latch := [] }

/-- One half of a shape register (R251). -/
structure Shape where
  base : W64
  fmt : BitVec 4
  rank : BitVec 3
  ext : TMap W32
  stride : TMap W32
  origin : TMap W32
deriving DecidableEq, Repr

/-- A cleared half (R251). -/
def Shape.zero : Shape := { base := 0, fmt := 0, rank := 0, ext := [], stride := [], origin := [] }

/-- The part of a gang that a rollback restores (R237): fibres, sticky flags, shape registers, metadata PC. -/
structure GArch where
  fibres : TMap Fibre
  fflags : W32
  hAct : TMap Shape
  hSh : TMap Shape
  mdpc : W32
deriving DecidableEq, Repr

/-- An empty architectural state. -/
def GArch.empty : GArch := { fibres := [], fflags := 0, hAct := [], hSh := [], mdpc := 0 }

/-- Where a byte lies (R369): physical memory, a lane's stack slice, or the core's scratchpad. -/
inductive Loc where
  | phys (pa : Nat)
  | stack (lane off : Nat)
  | scratch (off : Nat)
deriving DecidableEq, Repr

/-- The paths of R383. -/
inductive Path where
  | lane | copy | matrix | named | fabric
deriving DecidableEq, Repr

/-- The kinds of access of R383. -/
inductive AccKind where
  | read | write | rmw | fatom
deriving DecidableEq, Repr

/-- An access as race detection records it (R383, R384). `epoch` is the party's own clock at the access. -/
structure Access where
  pa : Nat
  len : Nat
  party : Party
  path : Path
  kind : AccKind
  order : BitVec 3
  scope : BitVec 3
  ea : W64
  pc : W64
  epoch : Nat
deriving DecidableEq, Repr

/-- A gated store (R20, R234), with the home of its page (R346). -/
structure GStore where
  loc : Loc
  home : Nat
  bytes : List Byte
  tracked : Bool
  acc : Access
deriving DecidableEq, Repr

/-- The kinds of engine command (R245, R277, R481). -/
inductive CmdKind where
  | oload | mma | mmas | mmag | accrd | accwr | accz | actlut | orelease | seqrun
  | copy | copyg | nreg | nwant | npub | ndrop | bulk
deriving DecidableEq, Repr

/-- A sequencer run's snapshot and position (R263, R266). -/
structure SeqPos where
  body : Nat
  h0 : Shape
  h1 : Shape
  vals : TMap (TMap W64)
  iter : List Nat
  entry : Nat
  mmas : TMap Nat
deriving DecidableEq, Repr

/-- An engine command as its instruction committed it (R245, R272, R277): every operand value it took. -/
structure EngCmd where
  kind : CmdKind
  gang : Nat
  ctx : Nat
  pc : W64
  stamp : Nat
  party : Party
  clock : TMap Nat
  ty : Ty
  mod : BitVec 4
  d : Nat
  a : Nat
  b : Nat
  ext : BitVec 18
  word : W32
  words : TMap W32
  vals : TMap (List W32)
  mask : Mask
  shape : Shape
  addr : W64
  addr2 : W64
  imm : Nat
  rows : List Nat
  seq : Option SeqPos
deriving DecidableEq, Repr

/-- The states of an interest slot (R284). -/
inductive IState where
  | free | pending | arrived | expired
deriving DecidableEq, Repr

/-- An interest slot (R282, R284). -/
structure Interest where
  state : IState
  name : W64
  serial : W32
  rows : List Nat
  tok : Bool
  until_ : Nat
  shape : Shape
  clock : TMap Nat
  refused : Option Nat
deriving DecidableEq, Repr

/-- A Free slot. -/
def Interest.none : Interest :=
  { state := .free, name := 0, serial := 0, rows := [], tok := false, until_ := 0, shape := Shape.zero, clock := [], refused := Option.none }

/-- A parked instruction: the lanes it holds, and what re-issues it (R187, R200). `pf` lists the 64 KiB pages whose faults the
service core could not resolve (R355). -/
structure Wait where
  mask : Mask
  instr : Instr
  pc : W64
  head : W64
  next : W64
  bits : W64
  cause : Cause
  va : W64
  since : Nat
  ticket : Nat
  pf : List Nat
  charged : Bool
deriving DecidableEq, Repr

/-- A deferred fault (R247): code and info words. -/
structure Deferred where
  code : BitVec 8
  infos : List W64
deriving DecidableEq, Repr

/-- A trap record (R306) before it is laid out in bytes. -/
structure TrapRec where
  code : BitVec 8
  notice : Bool
  deferred : Bool
  pc : W64
  job : Nat
  launchNo : Nat
  name : LName
  time : W64
  infos : List W64
deriving DecidableEq, Repr

/-- A stopped gang (R305, R308): its record, the table entry once written, where ERET mode 0 resumes and for whom. -/
structure Stop where
  record : TrapRec
  entry : Option Nat
  lanes : Mask
  resume : W64
deriving DecidableEq, Repr

/-- The uncommitted effects of a gang's commit region (R20, R234 to R237). `instrs` counts its instructions so far and
`start` is the virtual PC at which it began. -/
structure Region where
  stores : List GStore
  reads : List Access
  cmds : List EngCmd
  hist : List Nat
  pops : List (Nat × List W32)
  exits : Mask
  energy : List (Nat × Nat)
  samples : List (Mask × W64 × Nat)
  instrs : Nat
  start : W64
deriving DecidableEq, Repr

/-- A region without effects. -/
def Region.empty : Region :=
  { stores := [], reads := [], cmds := [], hist := [], pops := [], exits := 0, energy := [], samples := [], instrs := 0,
    start := 0 }

/-- A native destination (R212). -/
inductive NDest where
  | reg (n : Nat)
  | pred (p : Nat)
  | latch (e : Nat)
deriving DecidableEq, Repr

/-- A pending native result (R217, R219): written just before the word numbered `due`, or on arrival. -/
structure PendWrite where
  due : Nat
  interlocked : Bool
  lane : Nat
  dest : NDest
  value : W32
deriving DecidableEq, Repr

/-- A speculation (R239): open or pending, failed or not, or confirmed by a region that has still to commit, with what it holds back
and its fallback. -/
structure Spec where
  isOpen : Bool
  failed : Bool
  confirmed : Bool
  fallback : Nat
  lanes : Mask
  held : Region
deriving DecidableEq, Repr

/-- A gang (R82, R162, R245, R247, R251, R272, R282, R295, R296). `pathClock` holds, for each path, what FENCEX ordered
before the path's later accesses (R199, R387). `yieldDue` marks a gang that overran and is to park at its next commit point (R299),
`replayFor` the stall cause of a replay (R237, R314). In a replay the gang runs its region's virtual code (`replay`) or its replay
translation (`inOrder`, R236); `granted` names the lanes whose native access has waited and goes on (R187). -/
structure Gang where
  uid : Nat
  ctx : Nat
  tenant : Nat
  arch : GArch
  base : GArch
  member : TMap Mask
  arrive : TMap Mask
  tp : BitVec 5
  queues : TMap (List W32)
  q0 : List EngCmd
  q2 : List EngCmd
  claimed : Mask
  actLut : TMap W32
  seqBody : Option Nat
  interests : TMap Interest
  deferred : List Deferred
  region : Region
  yieldCtr : Nat
  declared : Nat
  yielded : Bool
  overran : Bool
  yieldDue : Bool
  starve : Nat
  age : Nat
  stop : Option Stop
  notices : List TrapRec
  overflow : BitVec 16
  spec : Option Spec
  words : Nat
  pend : List PendWrite
  group : TMap (List NDest)
  inNative : Bool
  replay : Bool
  inOrder : Bool
  granted : Mask
  replayFor : Option Nat
  transl : Nat
  block : Option Nat
  index : Nat
  launch : Nat
  home : Nat
  member4 : Option Nat
  decoupled : Bool
  waits : List Wait
  cancel : Bool
  pathClock : TMap (TMap Nat)
deriving DecidableEq, Repr

/-- A gang as formed before its fibres are placed (R90, R162, R296). -/
def Gang.empty : Gang :=
  { uid := 0, ctx := 0, tenant := 0, arch := GArch.empty, base := GArch.empty, member := [], arrive := [], tp := 0,
    queues := [], q0 := [], q2 := [], claimed := 0, actLut := [], seqBody := none, interests := [], deferred := [],
    region := Region.empty, yieldCtr := 1048512, declared := 1048512, yielded := false, overran := false, yieldDue := false, starve := 0, age := 0,
    stop := none, notices := [], overflow := 0, spec := none, words := 0, pend := [], group := [], inNative := false, replay := false,
    inOrder := false, granted := 0, replayFor := none, transl := 0, block := none, index := 0, launch := 0, home := 0, member4 := none, decoupled := false, waits := [],
    cancel := false, pathClock := [] }

/-- A barrier phase (R167 to R169): kind (true for BARN), latched count, arrivals that do not park and their lanes by gang
slot, parked lanes by gang slot. -/
structure BarPhase where
  barn : Bool
  count : Nat
  total : Nat
  parked : TMap Mask
  arrs : TMap Mask
  clock : TMap Nat
deriving DecidableEq, Repr

/-- An arrival counter (R480). `units` holds, for each unit counted since the value was last cleared, the value before it
and its clock (R482). -/
structure ArrCounter where
  value : W64
  target : W64
  armed : Bool
  units : List (Nat × TMap Nat)
deriving DecidableEq, Repr

/-- A counter at placement (R480). -/
def ArrCounter.zero : ArrCounter := { value := 0, target := 0, armed := false, units := [] }

/-- An OCLAIM request in a block's claim queue (R249). -/
structure Claim where
  gang : Nat
  mask : Mask
deriving DecidableEq, Repr

/-- A block on a core (R13, R167, R241, R249, R268, R272, R480). -/
structure Block where
  uid : Nat
  launch : Nat
  ctx : Nat
  x : Nat
  y : Nat
  z : Nat
  linear : Nat
  gangs : List Nat
  bars : TMap BarPhase
  barCount : Nat
  counters : TMap ArrCounter
  queues : TMap (List W32)
  queueClock : TMap (List (TMap Nat))
  rowBase : Nat
  rows : Nat
  oBase : Nat
  oCount : Nat
  accBase : Nat
  accCount : Nat
  claims : List Claim
  exited : Bool
deriving DecidableEq, Repr

/-- A fill of a scratchpad row (R269): the row and the command or interest that owes it. -/
structure Fill where
  row : Nat
  owner : Nat
  done : Bool
deriving DecidableEq, Repr

/-- A TLB entry (R354): tenant, context unless global, page and leaf PTE with the page's size. -/
structure TlbEntry where
  tenant : Nat
  ctx : Option Nat
  va : Nat
  size : Nat
  pte : W64
deriving DecidableEq, Repr

/-- A sector of the alias-detection table (R226): a global one by tenant and address, a stack row of a lane, or a scratchpad row. -/
inductive Sector where
  | global (tenant va : Nat)
  | stack (lane row : Nat)
  | scratch (row : Nat)
deriving DecidableEq, Repr

/-- An alias-detection entry (R226). -/
structure AliasEntry where
  gang : Nat
  sector : Sector
  tag : Nat
deriving DecidableEq, Repr

/-- A task (R160): entry, home block, arguments of each fibre, join counter, and the gang that forked it. -/
structure Task where
  uid : Nat
  ctx : Nat
  launch : Nat
  home : Nat
  entry : W64
  args : List (TMap W32)
  join : W64
  party : Party
  clock : TMap Nat
deriving DecidableEq, Repr

/-- A task that a core has taken (R160): whose last exit decrements its join counter, the word that the forking fibre
named. `owed` marks a decrement that waits for its page. -/
structure JoinRef where
  launch : Nat
  tenant : Nat
  addr : W64
  forker : Nat
  home : Nat
  party : Party
  clock : TMap Nat
  owed : Bool
deriving DecidableEq, Repr

/-- A spawn bin (R423, R424): its key, Binned fibres in serial order, and the ck of its first arrival. -/
structure Bin where
  ctx : Nat
  entry : W64
  home : Nat
  fibres : List Fibre
  opened : Nat
  closed : Bool
deriving DecidableEq, Repr

/-- A bulk get unit on its way to the window (R481). -/
structure BulkUnit where
  gang : Nat
  block : Nat
  off : Nat
  bytes : List Byte
  counter : Option Nat
  owner : Nat
  clock : TMap Nat
deriving DecidableEq, Repr

/-- A trap taken by the firmware's own supervisor (R492), with the pc of the instruction. -/
structure FwTrap where
  code : BitVec 8
  pc : W64
  infos : List W64
deriving DecidableEq, Repr

/-- A TLBINV in progress (R316, R356). -/
structure Invalidation where
  tenant : Nat
  base : W64
  len : W64
  all : Bool
  acks : BitVec 16
deriving DecidableEq, Repr

/-- The STATE field of a user slot (R294). -/
inductive SlotState where
  | empty | running | resident | loading | saving
deriving DecidableEq, Repr

/-- A user slot's registers (R292, R294). -/
structure UserSlot where
  ctx : BitVec 12
  state : SlotState
  rank : BitVec 2
  tickets : BitVec 8
  pass : BitVec 32
  penalty : BitVec 4
  trapbase : W64
  trapvalid : BitVec 64
  ovr : BitVec 32
  energy : BitVec 48
  stall : TMap (BitVec 48)
  wholeInterval : Bool
deriving DecidableEq, Repr

/-- An empty slot at its reset values (R294). -/
def UserSlot.empty : UserSlot :=
  { ctx := 0, state := .empty, rank := 0, tickets := 1, pass := 0, penalty := 0, trapbase := 0, trapvalid := 0, ovr := 0,
    energy := 0, stall := [], wholeInterval := false }

/-- A save or load in progress (R309, R312), with the ck at which it ends. -/
structure Move where
  slot : Nat
  saving : Bool
  addr : W64
  until_ : Nat
deriving DecidableEq, Repr

/-- A sample ring of a context (R441, R445). -/
structure SampleCfg where
  on : Bool
  ring : W64
  entries : Nat
  k : Nat
  write : Nat
  dropped : Nat
deriving DecidableEq, Repr

/-- Sampling disabled. -/
def SampleCfg.off : SampleCfg := { on := false, ring := 0, entries := 0, k := 4, write := 0, dropped := 0 }

/-- A core (R13, R268, R271, R292 to R294). -/
structure Core where
  gangs : TMap Gang
  blocks : List Block
  scratch : TMap Byte
  fills : List Fill
  opmem : TMap Byte
  acc : TMap W32
  laneCache : TMap (List (Nat × Nat))
  tlb : List TlbEntry
  aliases : List AliasEntry
  hist : TMap (TMap W32)
  deque : List Task
  bins : List Bin
  namedQ : List EngCmd
  fabricQ : List EngCmd
  units : List BulkUnit
  serial : W32
  fw : Fibre
  fwFlags : W32
  fwWait : Option Wait
  fwTraps : List FwTrap
  credit : Nat
  slice : BitVec 16
  fwshare : BitVec 5
  weights : W64
  static : BitVec 16
  event : BitVec 5
  ckcount : W64
  mbox : List (BitVec 4 × BitVec 12 × BitVec 1 × W64)
  slot0 : UserSlot
  slot1 : UserSlot
  running : Option Nat
  rem : Nat
  ckRun : Nat
  userCk : Nat
  slotBusy : TMap Nat
  halted : Bool
  failed : Bool
  moves : List Move
  sampleCtr : TMap Nat
  inval : Option Invalidation
  retries : List (WalkReq × Nat)
  nextAge : Nat
deriving DecidableEq, Repr

/-- The firmware fibre after a core reset (R292, R447; log entry 3). -/
def Fibre.firmware : Fibre := { Fibre.absent with status := .ready }

/-- A core after core reset (R294). -/
def Core.reset : Core :=
  { gangs := [], blocks := [], scratch := [], fills := [], opmem := [], acc := [], laneCache := [], tlb := [],
    aliases := [], hist := [], deque := [], bins := [], namedQ := [], fabricQ := [], units := [], serial := 0,
    fw := Fibre.firmware, fwFlags := 0, fwWait := none, fwTraps := [], credit := 0, slice := 256,
    fwshare := 4, weights := 0, static := 0, event := 0, ckcount := 0, mbox := [], slot0 := UserSlot.empty,
    slot1 := UserSlot.empty, running := none, rem := 0, ckRun := 0, userCk := 0, slotBusy := [], halted := false, failed := false,
    moves := [], sampleCtr := [], inval := none, retries := [], nextAge := 0 }

/-- A phase of a cluster barrier slot (R331): count and arrived gangs by uid. -/
structure CPhase where
  count : Nat
  gangs : List Nat
  clock : TMap Nat
deriving DecidableEq, Repr

/-- A cluster (R330 to R336): context entries of the barrier unit, waiting YOKEs in commit order (core, gang, key, ck),
the formed yoke's members by core index, turn pointer, REGATHER arrivals. -/
structure Cluster where
  entries : List (Nat × TMap CPhase)
  waiting : List (Nat × Nat × Nat × Nat)
  members : TMap Nat
  shared : Bool
  tp : BitVec 7
  regather : BitVec 4
deriving DecidableEq, Repr

/-- A cluster without arrivals or yoke. -/
def Cluster.empty : Cluster := { entries := [], waiting := [], members := [], shared := false, tp := 0, regather := 0 }

/-- An L2 line (R344): line number, valid and dirty sectors, and whether pinned (R346); the lines of a set stand in order of last use. -/
structure L2Line where
  line : Nat
  valid : BitVec 8
  dirty : BitVec 8
  pinned : Bool
deriving DecidableEq, Repr

/-- A walk in progress (R355) with its waiting cores. -/
structure Walk where
  slice : Nat
  tenant : Nat
  page : Nat
  waiters : List Nat
deriving DecidableEq, Repr

/-- A non-leaf entry of a slice's walk cache (R354): the level whose table it stands in, the number of the range it covers at that
level, and the table it names. -/
structure WalkEntry where
  tenant : Nat
  lvl : Nat
  idx : Nat
  tbl : Nat
deriving DecidableEq, Repr

/-- A FATOM accumulation window (R195, R196): its queued contributions, and the sum of those that early combining has folded (R348). -/
structure Window where
  launch : Nat
  pa : Nat
  ty : Ty
  folded : Option W64
  items : List (Nat × Nat × Nat × W64)
  counts : TMap Nat
deriving DecidableEq, Repr

/-- A place in memory that holds an uncorrectable error (R453, R454): a 64-byte sector of the package's memory, in HBM or in the slice that
caches it; a scratchpad row, an operand slot or an accumulator of a core; a translation of the kiln cache; a copy of the journal. -/
inductive Flaw where
  | sector (n : Nat)
  | row (core row : Nat)
  | oslot (core n : Nat)
  | acc (core n : Nat)
  | kiln (transl : Nat)
  | journal (copy : Nat)
deriving DecidableEq, Repr

/-- The slice ways register SLICECFG (R345). -/
structure SliceCfg where
  pinw : BitVec 4
  tarnw : BitVec 4
  mdcache : BitVec 11
deriving DecidableEq, Repr

/-- SLICECFG at reset (R345). -/
def SliceCfg.reset : SliceCfg := { pinw := 0, tarnw := 0, mdcache := 1024 }

/-- A pending-interest entry (R363): holder, name, faces with their lifetimes and whether copies are held (R368). -/
structure FenEntry where
  holder : Holder
  tenant : Nat
  name : W64
  faces : List (Face × Nat × Bool)
  sentUntil : Nat
  held : List (Nat × List Byte × TMap Nat)
  forwarded : List (Face × Nat)
deriving DecidableEq, Repr

/-- A tile in a tarn (R366): where, whose, its bytes, keep time, use order, and prefetch holds (R428). -/
structure Tarn where
  die : Nat
  slice : Nat
  tenant : Nat
  name : W64
  bytes : List Byte
  clock : TMap Nat
  keepUntil : Nat
  lastUse : Nat
  holds : List Nat
deriving DecidableEq, Repr

/-- A spilled fibre or task of the die pool (R425). -/
structure PoolItem where
  ctx : Nat
  core : Nat
  fibre : Option Fibre
  task : Option Task
  opened : Nat
deriving DecidableEq, Repr

/-- The clock states (R15). -/
inductive Clock where
  | ghz1_1 | ghz0_9 | ghz0_7 | ghz0_5
deriving DecidableEq, Repr

/-- A compute die with its cache die (R342 to R349, R384, R425, R440, R442, R456). -/
structure Die where
  l2 : TMap (List L2Line)
  slices : TMap SliceCfg
  walks : List Walk
  walkCaches : TMap (List WalkEntry)
  windows : List Window
  poolPages : List Nat
  records : List Access
  recordPages : List Nat
  releases : List Release
  refresh : TMap Nat
  forced : List Nat
  refreshing : TMap Nat
  launchSk : TMap W32
  pcSk : TMap W32
  aliasSk : TMap W32
  pool : List PoolItem
  tarns : List Tarn
  clock : Clock
  coolWindows : Nat
  corrected : Nat
  uncorrected : Nat
  failed : Bool
deriving DecidableEq, Repr

/-- A die at reset (log entry 3 for the clock state). -/
def Die.reset : Die :=
  { l2 := [], slices := [], walks := [], walkCaches := [], windows := [], poolPages := [], records := [], recordPages := [], releases := [], refresh := [], forced := [], refreshing := [],
    launchSk := [], pcSk := [], aliasSk := [], pool := [], tarns := [], clock := .ghz1_1, coolWindows := 0,
    corrected := 0, uncorrected := 0, failed := false }

/-- A kernel descriptor (R78). -/
structure Kernel where
  entry : Nat
  fibres : Nat
  vregs : Nat
  xregs : Nat
  scratch : Nat
  stack : Nat
  acc : Nat
  slots : Nat
  bars : Nat
  restartable : Bool
  adapter : Bool
  params : Nat
  consts : Nat
  shapes : List Nat
  affinity : Nat
  exported : Bool
deriving DecidableEq, Repr

/-- A function or kernel entry of an image (R85, R154, R159): its address and declared register counts. -/
structure Func where
  entry : W64
  isKernel : Bool
  vregs : Nat
  xregs : Nat
deriving DecidableEq, Repr

/-- An image as placed (R77 to R79), with its sections apart (log entry 6). -/
structure Image where
  tenant : Nat
  handle : Nat
  base : W64
  bytes : List Byte
  code : List Byte
  kernels : List Kernel
  funcs : List Func
  shapes : List Shape
  metadata : List Byte
  bodies : List (List Byte)
  isPublic : Bool
  hasNative : Bool
  native : List Byte
  signed : Bool
  malformed : Bool
deriving DecidableEq, Repr

/-- The status of a completion record (R413). -/
inductive Status where
  | ok | failed | cancelled | depfail | lost | noeffect
deriving DecidableEq, Repr

/-- The progress of a launch (R414, R415, R437). -/
inductive LaunchState where
  | waiting | kilnWait | placing | running | cancelling | done
deriving DecidableEq, Repr

/-- A launch (R196, R414, R415, R419, R422, R433, R490): `closing` names the packages whose windows of it are not yet closed, `entry` and `index` name its command, `node` its place in a replay counted from 1,
`graph` the graph replayed, `clock` the place in hb of its completion and `start` that of its first instructions (R376). -/
structure Launch where
  uid : Nat
  tenant : Nat
  ctx : Nat
  job : Nat
  number : Nat
  image : Image
  kernel : Nat
  transl : Nat
  gx : Nat
  gy : Nat
  gz : Nat
  paramVa : W64
  paramBytes : List Byte
  paramPage : W64
  constVa : W64
  constBytes : List Byte
  constPage : W64
  consts : List W64
  adapter : W64
  adapterTiles : Nat
  state : LaunchState
  nextBlock : Nat
  blocksDone : Nat
  spawned : Nat
  outcome : Option Status
  code : Nat
  cause : Nat
  restarted : Bool
  blockCancel : List Nat
  entry : Nat
  index : Nat
  node : Nat
  preds : List Nat
  fns : List (W64 × W64)
  phase : Nat
  graph : Nat
  clock : TMap Nat
  start : TMap Nat
  closing : BitVec 16
deriving DecidableEq, Repr

/-- A job (R12, R414 to R416): `phase` counts its accepted CHECKPOINTs, `bad` holds the commands of it, by journal entry and index,
that did not end OK or NOEFFECT, and `clock` what its completed checkpoints order (R376). -/
structure Job where
  tenant : Nat
  number : Nat
  openTick : Nat
  closed : Bool
  completed : Bool
  nextLaunch : Nat
  nextSerial : Nat
  phase : Nat
  bad : List (Nat × Nat)
  clock : TMap Nat
deriving DecidableEq, Repr

/-- A graph handle (R411, R426): node launch records with predecessor masks. -/
structure Graph where
  tenant : Nat
  handle : Nat
  id : Nat
  nodes : List (BitVec 512 × BitVec 64)
deriving DecidableEq, Repr

/-- A 32-byte completion record (R413). -/
structure CRec where
  kind : Nat
  status : Nat
  flags : Nat
  seq : Nat
  index : Nat
  value : W64
  time : W64
deriving DecidableEq, Repr

/-- The progress of a command in the journal (R429). -/
inductive CmdState where
  | waiting | running | decided | recorded
deriving DecidableEq, Repr

/-- A command of an accepted batch (R429) with its outcome, the launches it made and a replay's parameter snapshots
(R426). -/
structure JCmd where
  bits : BitVec 512
  state : CmdState
  status : Status
  value : W64
  restarted : Bool
  launches : List Nat
  params : List (List Byte)
  job : Nat
deriving DecidableEq, Repr

/-- A journal entry (R429). -/
structure JEntry where
  uid : Nat
  fn : Nat
  queue : Nat
  seq : Nat
  cmds : List JCmd
  copy0 : Bool
  copy1 : Bool
  usedWritten : Bool
  time : Nat
deriving DecidableEq, Repr

/-- A batch being read or waiting for acceptance (R410, R412): its seq, commands, first failure so far (reason and index), and
the records it takes in its buffers. -/
structure Batch where
  seq : W64
  recs : List (BitVec 512)
  bad : Option (Nat × Nat)
  held : Nat
deriving DecidableEq, Repr

/-- A command buffer not yet marked used (R430): its descriptor id and the records of it that no decided batch holds. -/
structure BufUse where
  id : BitVec 16
  left : Nat
deriving DecidableEq, Repr

/-- A queue of a function (R406 to R410, R413). `unread` holds records read and not yet taken into a batch, none for a malformed
descriptor; `partBuf` a completion buffer being filled: id, address, length and bytes written. -/
structure Queue where
  enabled : Bool
  size : Nat
  ring : W64
  ctx : Nat
  c : Nat
  k : Nat
  stalled : Option Nat
  expSeq : W64
  open_ : Option Batch
  ready : Option Batch
  bufs : List BufUse
  used : Nat
  recs : List CRec
  unread : List (Option (BitVec 512))
  partBuf : Option (BitVec 16 × W64 × Nat × Nat)
deriving DecidableEq, Repr

/-- A queue before it is enabled (R409, R410). -/
def Queue.reset : Queue :=
  { enabled := false, size := 0, ring := 0, ctx := 0, c := 0, k := 0, stalled := none, expSeq := 1, open_ := none,
    ready := none, bufs := [], used := 0, recs := [], unread := [], partBuf := none }

/-- An IDE stream (R451): keys of the two sets in each direction, the set sent under, and whether it is Secure. -/
structure IdeStream where
  rxKey0 : Option (BitVec 256)
  rxKey1 : Option (BitVec 256)
  txKey0 : Option (BitVec 256)
  txKey1 : Option (BitVec 256)
  txSet : Option Nat
  rxGo0 : Bool
  rxGo1 : Bool
  secure : Bool
  refreshing : Bool
deriving DecidableEq, Repr

/-- An unprogrammed stream. -/
def IdeStream.insecure : IdeStream :=
  { rxKey0 := none, rxKey1 := none, txKey0 := none, txKey1 := none, txSet := none, rxGo0 := false, rxGo1 := false,
    secure := false, refreshing := false }

/-- A PCIe function (R406, R407, R431, R448). -/
structure Fn where
  tenant : Nat
  bound : Bool
  features : W64
  status : BitVec 8
  resetting : Bool
  queues : TMap Queue
  ide : TMap IdeStream
deriving DecidableEq, Repr

/-- A function at reset. -/
def Fn.reset : Fn :=
  { tenant := 0, bound := false, features := 0, status := 0, resetting := false, queues := [], ide := [] }

/-- A multicast aperture (R484). -/
structure Aperture where
  base : W64
  size : W64
  members : BitVec 16
  reduce : BitVec 8
  ty : Ty
deriving DecidableEq, Repr

/-- A tenant (R352, R414, R427, R484). -/
structure Tenant where
  desc : Nat
  tickets : Nat
  pass : Nat
  nextJob : Nat
  apertures : TMap Aperture
  runnable : Bool
deriving DecidableEq, Repr

/-- A tenant before the operator binds it (log entry 3). -/
def Tenant.reset : Tenant := { desc := 0, tickets := 1, pass := 0, nextJob := 1, apertures := [], runnable := false }

/-- A context (R292, R420, R424, R441, R445, R494): its tenant, the cores and slots where it is resident or awaited with the areas
that it is loaded from, the save areas that hold parts of it, and its settings. -/
structure Ctx where
  tenant : Nat
  places : List (Nat × Nat × W64)
  areas : List W64
  bintime : Nat
  sample : SampleCfg
deriving DecidableEq, Repr

/-- A context that nothing has bound. -/
def Ctx.reset : Ctx :=
  { tenant := 0, places := [], areas := [], bintime := 1024, sample := SampleCfg.off }

/-- A request to another package that awaits its answer (R477): a write, an atomic, or a read. `own` holds the gang's own gated stores that a read was issued
after, which it sees (R185). -/
structure Remote where
  tag : Nat
  core : Nat
  gang : Nat
  lane : Nat
  pkg : Nat
  isWrite : Bool
  atomic : Bool
  engine : Bool
  data : Option (List Byte)
  own : List GStore
deriving DecidableEq, Repr

/-- A saved context (R310): the contents of its save area beyond the header, which the area names by `uid` (log entry 11). A context
that has been loaded again leaves what was saved, no longer `current`. `heads` are the release heads in its windows, `answers` what
other packages have answered its gangs. -/
structure Saved where
  uid : Nat
  current : Bool
  core : Nat
  ctx : Nat
  regs : UserSlot
  gangs : List (Nat × Gang)
  blocks : List Block
  scratch : TMap Byte
  fills : List Fill
  opmem : TMap Byte
  acc : TMap W32
  hist : TMap W32
  bins : List Bin
  namedQ : List EngCmd
  fabricQ : List EngCmd
  heads : List Release
  answers : List Remote
deriving DecidableEq, Repr

/-- A free gang in flight between cores, with its own barrier slots and queues (R339). -/
structure Migration where
  src : Nat
  dst : Nat
  slot : Nat
  gang : Gang
  block : Option Block
  arrives : Nat
deriving DecidableEq, Repr

/-- The states of a link (R472). -/
inductive LinkState where
  | down | training | up | replay | failed
deriving DecidableEq, Repr

/-- A fabric port's link (R470 to R472). Each packet that waits or is held stands with whether a truncation flit ends it (R474);
`partSent` counts the flits of the first waiting packet that earlier groups carried. -/
structure Link where
  state : LinkState
  nextSeq : BitVec 12
  unacked : List (BitVec 12 × List (Packet × Bool))
  resendFrom : Option (BitVec 12)
  expect : BitVec 12
  owesNack : Bool
  episode : Option (Nat × BitVec 12)
  lastHeader : Nat
  lastSent : Nat
  lastAdvance : Nat
  upmask : BitVec 16
  tagFails : Nat
  trainedAt : Nat
  outQ : List (Packet × Bool)
  partSent : Nat
deriving DecidableEq, Repr

/-- A link after reset (R472). -/
def Link.reset : Link :=
  { state := .down, nextSeq := 0, unacked := [], resendFrom := none, expect := 0, owesNack := false, episode := none,
    lastHeader := 0, lastSent := 0, lastAdvance := 0, upmask := 0, tagFails := 0, trainedAt := 0, outQ := [], partSent := 0 }

/-- An end-to-end stream's two ends towards a peer (R475): tenant number, or 4,096 for management. -/
structure Stream where
  peer : Nat
  tenant : Nat
  response : Bool
  nextSeq : BitVec 32
  unacked : List (Packet × Nat × Nat)
  expect : BitVec 32
  reorder : List Packet
deriving DecidableEq, Repr

/-- A protected fabric stream end (R452): key slots, slot in use, flits under the key, and refresh state. -/
structure KeySlots where
  key0 : Option (BitVec 256)
  key1 : Option (BitVec 256)
  cur : Nat
  flits : Nat
  oldUntil : Option Nat
  refreshing : Bool
  held : Bool
deriving DecidableEq, Repr

/-- A stream end without keys. -/
def KeySlots.none : KeySlots :=
  { key0 := .none, key1 := .none, cur := 0, flits := 0, oldUntil := .none, refreshing := false, held := false }

/-- The SPDM responder of one port (R450): connection state, negotiated values and session secret. -/
structure Spdm where
  versioned : Bool
  capable : Bool
  negotiated : Bool
  session : Option (BitVec 256)
  established : Bool
  transcript : List Byte
  replies : List (List Byte)
deriving DecidableEq, Repr

/-- A responder before its first message. -/
def Spdm.reset : Spdm :=
  { versioned := false, capable := false, negotiated := false, session := none, established := false,
    transcript := [], replies := [] }

/-- An acknowledgement of an invalidation that older accesses of this package hold back (R356): to whom it goes, with which tag, the
last of the requests to other packages that it waits for, and the range. -/
structure OwedAck where
  pkg : Nat
  tag : Nat
  last : Nat
  range : Invalidation
deriving DecidableEq, Repr

/-- An invalidation that a service or a command awaits (R356): the packages yet to acknowledge it, by tag. Until they have, accesses
that come for the page that a migration left, of a first address and size, go to the page that it moved to (R357). -/
structure Await where
  tag : Nat
  acks : BitVec 16
  req : Option SvcReq
  cmd : Option CmdRef
  moved : Option (Nat × Nat × Nat)
deriving DecidableEq, Repr

/-- A report on the PF's management queue (R442). -/
structure Report where
  kind : Nat
  tenant : Nat
  time : Nat
  words : List Nat
deriving DecidableEq, Repr

/-- The PC group that issues (R7, R151): set by the step before an instruction's meaning runs. Gang slot 32 is the
firmware fibre. `granted` marks lanes whose parked access may now be performed, `pf` lists the pages whose walks ended in
unresolvable page faults (R355). `charged` marks an instruction issued again that is charged for already (R302). -/
structure Issue where
  core : Nat
  gang : Nat
  lanes : Mask
  pc : W64
  head : W64
  next : W64
  bits : W64
  granted : Bool
  inNative : Bool
  pf : List Nat
  charged : Bool
deriving DecidableEq, Repr

/-- An engine command that waits for a scratchpad bank or a refresh (R313, R314): core, gang slot, engine and cause. -/
structure BusyWait where
  core : Nat
  gang : Nat
  engine : Nat
  cause : Nat
deriving DecidableEq, Repr

/-- One entry of the schedule (log entry 4): the core that moves, the ck and ticks that pass, whether the turn skips the events that are
due, the uncorrectable errors that stand while it lasts (R453; log entry 86), and the engine commands that wait in it for a bank or a
refresh (R314; log entry 87). -/
structure Turn where
  core : Nat
  ck : Nat
  ticks : Nat
  skipDue : Bool
  flaws : List Flaw
  busy : List BusyWait
deriving DecidableEq, Repr

/-- The state of the machine. `owedAcks` holds the acknowledgements of invalidations that older requests to other packages hold back
(R356): the package that asked, the tag, and the last such request; `witness` what other packages have accepted and not
recorded complete (R434): package, function, queue, seq and index. -/
structure State where
  -- the model's own fields (log entries 4 and 22)
  cur : Issue
  agenda : List Event
  sched : List Turn
  free : Nat
  uids : Nat
  -- time and power (R4, R413, R458)
  ck : Nat
  ticks : Nat
  powered : Bool
  tripped : Bool
  powerCap : Nat
  -- the package and the fabric (R468, R487, R488)
  self : Nat
  npkg : Nat
  live : BitVec 16
  suspects : BitVec 16
  lastHeard : TMap Nat
  -- memory (R343, R406, R455)
  mem : List Host.Cell
  hostMem : List Host.Cell
  failedPages : List Nat
  flaws : List Flaw
  pager : List ResidentMsg
  nextFrame : TMap Nat
  nextArea : Nat
  farPtes : TMap W64
  -- units
  cores : TMap Core
  clusters : TMap Cluster
  dies : TMap Die
  migrations : List Migration
  fen : List FenEntry
  saved : List Saved
  serviceDown : BitVec 16
  kilnDown : BitVec 16
  stackDown : BitVec 16
  -- tenants, contexts, work (R352, R406 to R434)
  tenants : TMap Tenant
  ctxs : TMap Ctx
  images : List Image
  graphs : List Graph
  jobs : List Job
  launches : List Launch
  journal : List JEntry
  journalOk : Bool
  journalAt : Nat × Nat
  fns : TMap Fn
  pfReports : List Report
  pfRecs : List CRec
  witness : List (Nat × Nat × Nat × Nat × Nat)
  witnessRing : Option (W64 × Nat)
  witnessNext : Nat
  quantum : Option Nat
  quantumEnd : Nat
  requests : List SvcReq
  heldReplies : List SvcReply
  awaits : List Await
  owedAcks : List OwedAck
  tasks : TMap JoinRef
  -- kiln (R435 to R440)
  kiln : List Transl
  kilnAsks : TMap (BitVec 16)
  kilnWaiting : List (Nat × W64)
  glazeth : Nat
  aliasth : Nat
  newestCounts : TMap Nat
  -- boot, measurement, security (R447 to R452)
  bootStage : Nat
  bootFailed : Bool
  minSvn : TMap Nat
  measures : TMap (BitVec 256)
  measureLog : List (Nat × Nat × BitVec 256)
  spdm : TMap Spdm
  keys : List (StreamRef × KeySlots)
  -- links and streams (R468 to R478)
  links : TMap Link
  detours : TMap (List Nat)
  streams : List Stream
  remotes : List Remote
  nextTag : Nat
  highsOwed : BitVec 16
  nextTicket : Nat
  doneTicket : Nat
  ticketWaits : List (Nat × Nat)
deriving DecidableEq, Repr

/-- Why a step stops with a fault. -/
inductive Fault where
  /-- Raised by `step` alone, when the package has no power or has tripped (R458): no issue takes place. Safe: the
  hardware takes no step either. -/
  | powerLost
deriving DecidableEq, Repr

/-- Why a step refuses. -/
inductive Refusal where
  /-- Raised by `exec` for an instruction without a meaning yet, named as the opcode table names it. Safe. -/
  | notModelled (mnemonic : String)
deriving DecidableEq, Repr

/-- No PC group. -/
def Issue.none : Issue :=
  { core := 0, gang := 0, lanes := 0, pc := 0, head := 0, next := 0, bits := 0, granted := false, inNative := false,
    pf := [], charged := false }

/-- The package at the release of PERST#, before boot stage 0 (R447): nothing retained, every register at its reset value.
The fields without a reset value in the spec are those of log entries 2 and 3. -/
def State.reset : State :=
  { cur := Issue.none, agenda := [], sched := [], free := 0, uids := 1,
    ck := 0, ticks := 0, powered := true, tripped := false, powerCap := 5200,
    self := 0, npkg := 1, live := 1, suspects := 0, lastHeard := [],
    mem := [], hostMem := [], failedPages := [], flaws := [], pager := [], nextFrame := [], nextArea := 0, farPtes := [],
    cores := [], clusters := [], dies := [], migrations := [], fen := [], saved := [],
    serviceDown := 0, kilnDown := 0, stackDown := 0,
    tenants := [], ctxs := [], images := [], graphs := [], jobs := [], launches := [],
    journal := [], journalOk := true, journalAt := (0, 4), fns := [], pfReports := [], pfRecs := [], witness := [], witnessRing := none,
    witnessNext := 0, quantum := none, quantumEnd := 0, requests := [], heldReplies := [], awaits := [], owedAcks := [], tasks := [],
    kiln := [], kilnAsks := [], kilnWaiting := [], glazeth := 8, aliasth := 1, newestCounts := [],
    bootStage := 0, bootFailed := false, minSvn := [], measures := [], measureLog := [], spdm := [], keys := [],
    links := [], detours := [], streams := [], remotes := [], nextTag := 0,
    highsOwed := 0, nextTicket := 0, doneTicket := 0, ticketWaits := [] }

end Sys2Proof.Machine
end

