-- ==== Sys2Proof/Machine/Store.lean ====
section
/-! DEFINITION. Bytes of memory in their canonical form, and the accessors of cores, gangs, fibres and registers. -/

namespace Sys2Proof.Machine

/-! ### Memory (R5, R343; log entry 2) -/

/-- What an unlisted byte of memory reads as (log entry 2). -/
def unlisted : Byte := 0

/-- The byte at an address. -/
def memByte (m : List Host.Cell) (a : Nat) : Byte :=
  match m with
  | [] => unlisted
  | (k, b) :: r => if k = a then b else memByte r a

/-- The memory with byte `b` at `a`, in canonical form. -/
def memSet (m : List Host.Cell) (a : Nat) (b : Byte) : List Host.Cell :=
  match m with
  | [] => if b = unlisted then [] else [(a, b)]
  | (k, c) :: r =>
    if k = a then (if b = unlisted then r else (a, b) :: r)
    else if a < k then (if b = unlisted then (k, c) :: r else (a, b) :: (k, c) :: r)
    else (k, c) :: memSet r a b

/-- Every address of the list is above `lo`, addresses rise strictly, and no byte equals the unlisted one. -/
def Memory.above (lo : Nat) (m : List Host.Cell) : Bool :=
  match m with
  | [] => true
  | (k, b) :: r => decide (lo < k) && decide (b ≠ unlisted) && Memory.above k r

/-- The canonical form of memory: strictly rising addresses, no entry equal to the unlisted byte. -/
def Memory.wf (m : List Host.Cell) : Bool :=
  match m with
  | [] => true
  | (k, b) :: r => decide (b ≠ unlisted) && Memory.above k r

/-- `n` bytes from an address upward. -/
def memRead (m : List Host.Cell) (a n : Nat) : List Byte := (List.range n).map fun i => memByte m (a + i)

/-- The memory with bytes `bs` from an address upward. -/
def memWrite (m : List Host.Cell) (a : Nat) (bs : List Byte) : List Host.Cell :=
  match bs with
  | [] => m
  | b :: r => memWrite (memSet m a b) (a + 1) r

/-- The little-endian number of `n` bytes at an address (R5, MEMn of the pseudocode). -/
def memNat (m : List Host.Cell) (a n : Nat) : Nat := ofLe (memRead m a n)

/-- Where `State.hostMem` keeps the byte that a function names by a host bus address: its accesses carry its requester ID, so what one
function reaches no other one does (R27, R406; log entry 7). -/
def hostAt (fn a : Nat) : Nat := 2 ^ 65 * fn + a

/-- Bytes of this package's physical memory (R343): the offset and the package number make the address. -/
def State.rd (s : State) (pa n : Nat) : Nat := memNat s.mem pa n

/-- Write `n` little-endian bytes of a number to physical memory. -/
def State.wr (s : State) (pa n v : Nat) : State := { s with mem := memWrite s.mem pa (leBytes n v) }

/-- Write bytes to physical memory. -/
def State.wrBytes (s : State) (pa : Nat) (bs : List Byte) : State := { s with mem := memWrite s.mem pa bs }

/-! ### Units -/

/-- Core number `c` (R346: die × 256 + cluster × 4 + core). -/
def State.core (s : State) (c : Nat) : Core := mget Core.reset s.cores c
/-- Replace a core. -/
def State.setCore (s : State) (c : Nat) (k : Core) : State := { s with cores := mset s.cores c k }
/-- Apply `f` to a core. -/
def State.modCore (s : State) (c : Nat) (f : Core → Core) : State := s.setCore c (f (s.core c))
/-- Die number `d`. -/
def State.die (s : State) (d : Nat) : Die := mget Die.reset s.dies d
/-- Apply `f` to a die. -/
def State.modDie (s : State) (d : Nat) (f : Die → Die) : State := { s with dies := mset s.dies d (f (s.die d)) }
/-- Cluster number `k` of the package (die × 64 + cluster). -/
def State.cluster (s : State) (k : Nat) : Cluster := mget Cluster.empty s.clusters k
/-- Apply `f` to a cluster. -/
def State.modCluster (s : State) (k : Nat) (f : Cluster → Cluster) : State :=
  { s with clusters := mset s.clusters k (f (s.cluster k)) }
/-- A tenant. -/
def State.tenant (s : State) (t : Nat) : Tenant := mget Tenant.reset s.tenants t
/-- Apply `f` to a tenant. -/
def State.modTenant (s : State) (t : Nat) (f : Tenant → Tenant) : State :=
  { s with tenants := mset s.tenants t (f (s.tenant t)) }
/-- A context. -/
def State.ctx (s : State) (x : Nat) : Ctx := mget Ctx.reset s.ctxs x
/-- Apply `f` to a context. -/
def State.modCtx (s : State) (x : Nat) (f : Ctx → Ctx) : State := { s with ctxs := mset s.ctxs x (f (s.ctx x)) }
/-- A function of the host ports. -/
def State.fn (s : State) (n : Nat) : Fn := mget Fn.reset s.fns n
/-- Apply `f` to a function. -/
def State.modFn (s : State) (n : Nat) (f : Fn → Fn) : State := { s with fns := mset s.fns n (f (s.fn n)) }
/-- A launch by its uid. -/
def State.launch? (s : State) (u : Nat) : Option Launch := s.launches.find? fun l => l.uid == u
/-- Apply `f` to a launch. -/
def State.modLaunch (s : State) (u : Nat) (f : Launch → Launch) : State :=
  { s with launches := updFirst (fun l => l.uid == u) f s.launches }
/-- A job of a tenant. -/
def State.job? (s : State) (t j : Nat) : Option Job := s.jobs.find? fun b => b.tenant == t && b.number == j
/-- Apply `f` to a job. -/
def State.modJob (s : State) (t j : Nat) (f : Job → Job) : State :=
  { s with jobs := updFirst (fun b => b.tenant == t && b.number == j) f s.jobs }
/-- Queue an event behind those already waiting. -/
def State.push (s : State) (i : Event) : State := { s with agenda := s.agenda ++ [i] }
/-- Queue several events. -/
def State.pushAll (s : State) (is : List Event) : State := { s with agenda := s.agenda ++ is }
/-- A fresh uid. -/
def State.fresh (s : State) : Nat × State := (s.uids, { s with uids := s.uids + 1 })
/-- A fresh free value of `w` bits (log entry 22). -/
def State.freeVal (s : State) (w : Nat) : BitVec w × State :=
  (Config.freeBits w s.free, { s with free := s.free + 1 })

/-- Apply `f` to every core. -/
def State.mapCores (s : State) (f : Core → Core) : State := { s with cores := s.cores.map fun (q : Nat × Core) => (q.1, f q.2) }
/-- Apply `f` to every die. -/
def State.mapDies (s : State) (f : Die → Die) : State := { s with dies := s.dies.map fun (q : Nat × Die) => (q.1, f q.2) }

/-- The user slot `n` of a core. -/
def Core.slotOf (k : Core) (n : Nat) : UserSlot := if n = 0 then k.slot0 else k.slot1
/-- Apply `f` to user slot `n`. -/
def Core.modSlot (k : Core) (n : Nat) (f : UserSlot → UserSlot) : Core :=
  if n = 0 then { k with slot0 := f k.slot0 } else { k with slot1 := f k.slot1 }
/-- Whether a slot is occupied (CTXID[12]). -/
def UserSlot.occupied (u : UserSlot) : Bool := u.state != .empty
/-- The slot of a core that a context occupies, loading excepted. -/
def Core.slotFor (k : Core) (ctx : Nat) : Option Nat :=
  if k.slot0.occupied && k.slot0.ctx.toNat == ctx then some 0
  else if k.slot1.occupied && k.slot1.ctx.toNat == ctx then some 1 else none
/-- A block of a core. -/
def Core.block? (k : Core) (u : Nat) : Option Block := k.blocks.find? fun b => b.uid == u
/-- Apply `f` to a block of a core. -/
def Core.modBlock (k : Core) (u : Nat) (f : Block → Block) : Core :=
  { k with blocks := updFirst (fun b => b.uid == u) f k.blocks }

/-! ### Fibres and gangs -/

/-- The fibre in a lane. -/
def GArch.lane (a : GArch) (l : Nat) : Fibre := mget Fibre.absent a.fibres l
/-- Apply `f` to the fibres of the lanes in a mask. -/
def mapLanes (m : Mask) (f : Nat → Fibre → Fibre) (fs : TMap Fibre) : TMap Fibre :=
  fs.map fun p => (p.1, if m.getLsbD p.1 then f p.1 p.2 else p.2)
/-- Apply `f` to the fibres of the lanes in a mask of a gang. -/
def Gang.mapLanes (g : Gang) (m : Mask) (f : Nat → Fibre → Fibre) : Gang :=
  { g with arch := { g.arch with fibres := Machine.mapLanes m f g.arch.fibres } }
/-- Apply `f` to the fibres of the lanes in a mask of a gang, at its commit point too: a change from outside the gang's
region (a release, R163). -/
def Gang.mapBoth (g : Gang) (m : Mask) (f : Nat → Fibre → Fibre) : Gang :=
  { g with arch := { g.arch with fibres := Machine.mapLanes m f g.arch.fibres }
           base := { g.base with fibres := Machine.mapLanes m f g.base.fibres } }
/-- The fibre in a lane of a gang. -/
def Gang.lane (g : Gang) (l : Nat) : Fibre := g.arch.lane l
/-- The lanes whose fibre meets `p`. -/
def Gang.lanesWhere (g : Gang) (p : Fibre → Bool) : Mask := maskOf fun l => p (g.lane l)
/-- The live fibres (R90): j0's membership (R162). -/
def Gang.live (g : Gang) : Mask := g.lanesWhere fun f => f.status != .absent
/-- The Ready fibres. -/
def Gang.ready (g : Gang) : Mask := g.lanesWhere fun f => f.status == .ready
/-- The membership mask of set `j` (R162): j0 is the live mask. -/
def Gang.memberOf (g : Gang) (j : Nat) : Mask := if j = 0 then g.live else mget 0 g.member j
/-- The arrival mask of set `j` (R162). -/
def Gang.arriveOf (g : Gang) (j : Nat) : Mask := mget 0 g.arrive j

/-- The slot number that stands for the firmware fibre in `Issue.gang`. -/
def fwSlot : Nat := 32

/-- The firmware fibre seen as a gang of one lane (R292). -/
def Core.fwGang (k : Core) : Gang :=
  { Gang.empty with arch := { GArch.empty with fibres := [(0, k.fw)], fflags := k.fwFlags }, waits := k.fwWait.toList }

/-- The gang in a slot of a core, the firmware's for slot 32. -/
def State.gang? (s : State) (c g : Nat) : Option Gang :=
  if g = fwSlot then some (s.core c).fwGang else mfind (s.core c).gangs g

/-- Replace the gang in a slot. -/
def State.setGang (s : State) (c g : Nat) (x : Gang) : State :=
  if g = fwSlot then s.modCore c fun k => { k with fw := x.lane 0, fwFlags := x.arch.fflags, fwWait := x.waits.head? }
  else s.modCore c fun k => { k with gangs := mset k.gangs g x }

/-- Apply `f` to the gang in a slot, if there is one. -/
def State.modGang (s : State) (c g : Nat) (f : Gang → Gang) : State :=
  match s.gang? c g with
  | some x => s.setGang c g (f x)
  | none => s

/-- Apply `f` to every gang that stands on no core: migrating, or saved with its context. -/
def State.mapAway (s : State) (f : Gang → Gang) : State :=
  { s with migrations := s.migrations.map fun m => { m with gang := f m.gang }
           saved := s.saved.map fun v => if v.current then { v with gangs := v.gangs.map fun (g : Nat × Gang) => (g.1, f g.2) } else v }
/-- Apply `f` to every gang, wherever it is. -/
def State.mapGangs (s : State) (f : Gang → Gang) : State :=
  (s.mapCores fun k => { k with gangs := k.gangs.map fun (g : Nat × Gang) => (g.1, f g.2) }).mapAway f
/-- The gangs that stand on no core. -/
def State.awayGangs (s : State) : List Gang :=
  s.migrations.map (fun m => m.gang)
    ++ s.saved.flatMap fun v => if v.current then v.gangs.map fun (g : Nat × Gang) => g.2 else []
/-- Every gang, wherever it is. -/
def State.allGangs (s : State) : List Gang :=
  (s.cores.flatMap fun (k : Nat × Core) => k.2.gangs.map fun (g : Nat × Gang) => g.2) ++ s.awayGangs

/-- The owner of the fills of an interest slot. -/
def interestOwner (gangUid slot : Nat) : Nat := 2 ^ 60 + gangUid * 32 + slot

/-- A gang by its uid, wherever it is: on a core, migrating, or saved. -/
def State.gangByUid (s : State) (uid : Nat) : Option Gang := s.allGangs.find? fun g => g.uid == uid
/-- Apply `f` to the gang of a uid, wherever it is. -/
def State.modGangByUid (s : State) (uid : Nat) (f : Gang → Gang) : State := s.mapGangs fun g => if g.uid = uid then f g else g
/-- The core and slot of the gang of a uid, when it is on a core. -/
def State.gangPlace (s : State) (uid : Nat) : Option (Nat × Nat) :=
  s.cores.findSome? fun (k : Nat × Core) => (k.2.gangs.find? fun (g : Nat × Gang) => g.2.uid == uid).map fun (g : Nat × Gang) => (k.1, g.1)

/-- The named commands of a gang, on whichever core's engine they are (R277). -/
def namedOf (s : State) (uid : Nat) : List EngCmd :=
  s.cores.flatMap fun (q : Nat × Core) => q.2.namedQ.filter fun m => m.party.gangUid == uid

/-- Whether a gang has named commands that have not run, saved ones too. -/
def namedBusy (s : State) (uid : Nat) : Bool :=
  namedOf s uid != [] || s.saved.any fun v => v.current && v.namedQ.any fun m => m.party.gangUid == uid

/-- Free a gang slot. -/
def State.delGang (s : State) (c g : Nat) : State := s.modCore c fun k => { k with gangs := mdel k.gangs g }

/-! ### Registers (R39, R85, R104) -/

/-- Read a `v` register. -/
def Fibre.rv (f : Fibre) (n : Nat) : W32 := mget 0 f.v n
/-- Read an `x` register. -/
def Fibre.rx (f : Fibre) (n : Nat) : W64 := mget 0 f.x n
/-- Write a `v` register. -/
def Fibre.wv (f : Fibre) (n : Nat) (w : W32) : Fibre := { f with v := mset f.v n w }
/-- Write an `x` register. -/
def Fibre.wx (f : Fibre) (n : Nat) (w : W64) : Fibre := { f with x := mset f.x n w }
/-- Read predicate `n`. -/
def Fibre.rp (f : Fibre) (n : Nat) : Bool := f.preds.getLsbD n
/-- Write predicate `n` (R84). -/
def Fibre.wp (f : Fibre) (n : Nat) (b : Bool) : Fibre :=
  { f with preds := (f.preds &&& ~~~(BitVec.ofNat 12 (2 ^ n))) ||| (if b then BitVec.ofNat 12 (2 ^ n) else 0) }

/-- Whether a type's values lie in the `x` file (R39). -/
def isX (t : Ty) : Bool := t == .s64 || t == .n64 || t == .fp64
/-- The width in bits of a type's element (R39). -/
def elemWidth (t : Ty) : Nat :=
  match t with
  | .s32 | .n32 | .fp32 | .b32 => 32
  | .s64 | .n64 | .fp64 => 64
  | .fp16 | .bf16 => 16
  | .s8x4 | .n8x4 | .e4m3x4 | .e5m2x4 => 8
  | .s4x8 | .n4x8 | .e2m1x8 => 4
/-- Whether a type's integers are signed (R92). -/
def isSigned (t : Ty) : Bool := t == .s32 || t == .s64 || t == .s8x4 || t == .s4x8

/-- Read a T operand as 64 bits, zero-extended from a `v` register (R39, R104). -/
def Fibre.rt (f : Fibre) (t : Ty) (n : Nat) : W64 := if isX t then f.rx n else (f.rv n).setWidth 64
/-- Write a T operand; FP16 and BF16 clear bits [31:16] (R39). -/
def Fibre.wt (f : Fibre) (t : Ty) (n : Nat) (w : W64) : Fibre :=
  if isX t then f.wx n w
  else if t == .fp16 || t == .bf16 then f.wv n ((w.setWidth 16).setWidth 32)
  else f.wv n (w.setWidth 32)

end Sys2Proof.Machine
end

