-- ==== Sys2Proof/Machine/Race.lean ====
section
/-! DEFINITION. Happens-before and race detection (R369 to R387): clocks of fibres, release sequences, and the records of
accesses to tracked locations. -/

namespace Sys2Proof.Machine

/-- Pointwise maximum of two clocks: what both parties know (log entry 18). -/
def clockJoin (a b : TMap Nat) : TMap Nat := b.foldl (fun m p => mset m p.1 (max (mget 0 m p.1) p.2)) a

/-- A fibre that has learnt clock `c` (an acquire, R375, R376). -/
def Fibre.learn (f : Fibre) (c : TMap Nat) : Fibre := { f with clock := clockJoin f.clock c }

/-- A fibre after it published its clock (a release): its next accesses are later than what it published. -/
def Fibre.tick (f : Fibre) : Fibre := { f with clock := mset f.clock f.uid (mget 0 f.clock f.uid + 1) }

/-- The fibre's own epoch. -/
def Fibre.epoch (f : Fibre) : Nat := mget 0 f.clock f.uid

/-- The party a fibre makes, on a core and gang slot (R372, R383). -/
def partyOf (g : Gang) (c slot : Nat) (f : Fibre) : Party :=
  { uid := f.uid, job := f.job, launchNo := f.launchNo, launch := f.launch, name := f.name, core := c, gang := slot,
    gangUid := g.uid, tenant := g.tenant }

/-- Whether a party is a service core (R372, R383). -/
def Party.isService (p : Party) : Bool := match p.name with | .service _ => true | _ => false

/-- Whether a scope code at party `p` includes party `q` (R10, R372): gang, core, cluster, die, package, fabric; a service core lies in
its package and the fabric alone. -/
def scopeIncludes (scope : BitVec 3) (p q : Party) : Bool :=
  if scope.toNat < 4 && (p.isService || q.isService) then false
  else match scope.toNat with
  | 0 => p.gangUid == q.gangUid
  | 1 => p.core == q.core
  | 2 => p.core / 4 == q.core / 4
  | 3 => p.core / 256 == q.core / 256
  | _ => true

/-- The uid under which an engine's accesses for a gang are recorded (R371, R387). -/
def engineUid (gangUid : Nat) (p : Path) : Nat :=
  2 ^ 48 + gangUid * 8 + (match p with | .lane => 0 | .copy => 1 | .matrix => 2 | .named => 3 | .fabric => 4)

/-- The HBM stack of a physical address (R343). -/
def stackOf (pa : Nat) : Nat := pa / 2 ^ 36 % 16
/-- The die of a physical address (R343). -/
def dieOf (pa : Nat) : Nat := stackOf pa / 4
/-- The home slice within the die of a physical address (R343). -/
def sliceOf (pa : Nat) : Nat :=
  (pa / 2 ^ 9 % 128) ^^^ (pa / 2 ^ 16 % 128) ^^^ (pa / 2 ^ 23 % 128) ^^^ (pa / 2 ^ 30 % 64)
/-- The place of a sector's race metadata in its stack (R347). -/
def metaOf (pa : Nat) : Nat := pa / 2 ^ 36 * 2 ^ 36 + 62 * 2 ^ 30 + pa % 2 ^ 36 / 64 * 64 / 32

/-- The package of a physical address (R343). -/
def pkgOf (pa : Nat) : Nat := pa / 2 ^ 48 % 16

/-- A number for a location (R369) and the die that holds its release heads; those of stack slices, which move with their fibres, stand in
die 0. -/
def locKey (core : Nat) (uid : Nat) (l : Loc) : Nat × Nat :=
  match l with
  | .phys pa => (pa, dieOf pa)
  | .scratch off => (2 ^ 60 + 2 ^ 20 * core + off, core / 256)
  | .stack _ off => (2 ^ 61 + 2 ^ 32 * uid + off, 0)

/-- Whether two byte ranges overlap. -/
def overlaps (a n b m : Nat) : Bool := a < b + m && b < a + n

/-- Whether an access writes. -/
def AccKind.writes (k : AccKind) : Bool := k != .read

/-- Whether an access is atomic (R369). -/
def Access.atomic (a : Access) : Bool := a.order != 0 || a.kind == .rmw || a.kind == .fatom

/-- Matched atomic pairs do not race (R382). -/
def matchedPair (a b : Access) : Bool :=
  (a.kind == .fatom && b.kind == .fatom) ||
  (a.atomic && b.atomic && a.pa == b.pa && a.len == b.len && scopeIncludes a.scope a.party b.party
    && scopeIncludes b.scope b.party a.party)

/-- Whether an earlier recorded access `r` races with the access `a` made under clock `clk` (R382), given whether `r` is a
FATOM whose window is still open (R197). -/
def racesWith (clk : TMap Nat) (a r : Access) (openWindow : Bool) : Bool :=
  overlaps a.pa a.len r.pa r.len && (a.kind.writes || r.kind.writes) && r.party.uid != a.party.uid
    && !matchedPair a r
    && (mget 0 clk r.party.uid < r.epoch || (openWindow && r.party.launch == a.party.launch))

/-- Whether a launch has an open FATOM window over bytes of an access (R197). -/
def State.windowOpen (s : State) (r : Access) : Bool :=
  r.kind == .fatom && (s.die (dieOf r.pa)).windows.any fun w =>
    w.launch == r.party.launch && overlaps w.pa (elemWidth w.ty / 8) r.pa r.len

/-- The recorded access that an access to a tracked location races with, if any (R382, R383). -/
def State.findRace (s : State) (clk : TMap Nat) (a : Access) : Option Access :=
  (s.die (dieOf a.pa)).records.find? fun r =>
    (r.party.uid != a.party.uid || (r.kind == .fatom && a.kind != .fatom && s.windowOpen r))
      && (racesWith clk a r (s.windowOpen r)
        || (r.kind == .fatom && a.kind != .fatom && r.party.launch == a.party.launch && s.windowOpen r
            && overlaps a.pa a.len r.pa r.len))

/-- Record an access to a tracked location (R384): a write retires the records it covers and follows. -/
def State.recordAccess (s : State) (clk : TMap Nat) (a : Access) : State :=
  s.modDie (dieOf a.pa) fun d =>
    { d with records :=
        a :: (if a.kind.writes then
                d.records.filter fun r =>
                  !(a.pa ≤ r.pa && r.pa + r.len ≤ a.pa + a.len && r.epoch ≤ mget 0 clk r.party.uid
                    && !s.windowOpen r)
              else d.records) }

/-- The race records of a die that its slices' caches, of MDCACHE entries each, do not hold: the oldest (R345, R384). -/
def spilledRecords (d : Die) : List Access :=
  (d.records.foldl (fun (acc : TMap Nat × List Access) r =>
    let n := mget 0 acc.1 (sliceOf r.pa)
    if n < (mget SliceCfg.reset d.slices (sliceOf r.pa)).mdcache.toNat then (mset acc.1 (sliceOf r.pa) (n + 1), acc.2)
    else (acc.1, acc.2 ++ [r])) ([], [])).2

/-- Whether a physical address lies in a stack's race-metadata area (R347). -/
def State.inMeta (s : State) (pa : Nat) : Bool := pkgOf pa == s.self && decide (62 * 2 ^ 30 ≤ pa % 2 ^ 36)

/-- A byte of the race-metadata area (R347, R384): its sector's entry says where the sector's records are, and how many there are. -/
def State.metaByte (s : State) (pa : Nat) : Byte :=
  let k := pa % 2 ^ 36 - 62 * 2 ^ 30
  let d := s.die (dieOf pa)
  let mine (r : Access) : Bool := overlaps r.pa r.len (pa / 2 ^ 36 * 2 ^ 36 + 64 * (k / 2)) 64
  let rs := d.records.filter mine
  let st := if rs = [] then 0 else if (spilledRecords d).any mine then 2 else 1
  BitVec.ofNat 8 ((st + 4 * min 16383 rs.length) / 256 ^ (k % 2))

/-- Drop the records of a region's reads when it rolls back (R369). -/
def State.unrecord (s : State) (as : List Access) : State :=
  as.foldl (fun t a => t.modDie (dieOf a.pa) fun d => { d with records := d.records.erase a }) s

/-- The kind code of R383. -/
def AccKind.code (k : AccKind) : Nat := match k with | .read => 0 | .write => 1 | .rmw => 2 | .fatom => 3
/-- The path code of R383. -/
def Path.code (p : Path) : Nat := match p with | .lane => 0 | .copy => 1 | .matrix => 2 | .named => 3 | .fabric => 4

/-- The info1 and info5 layout of an MMX record (R383). -/
def accessWord (a : Access) : W64 :=
  BitVec.ofNat 64 (a.kind.code + 4 * a.path.code + 2 ^ 8 * a.len + 2 ^ 16 * a.order.toNat + 2 ^ 19 * a.scope.toNat)

/-- The info words of an MMX record (R383): completing access, other party, and for a deferred MMX the command's PC. -/
def mmxInfos (a r : Access) (cmdPc : W64) : List W64 :=
  let who : Nat × W64 × Nat × Nat := match r.party.name with
    | .launched x y z f => (r.party.launchNo, BitVec.ofNat 64 (x + 2 ^ 32 * y), z, f)
    | .spawned n => (0xFFFFFFFF, BitVec.ofNat 64 (n % 2 ^ 48), 0, 0)
    | .service k => (0xFFFFFFFF, BitVec.ofNat 64 (k % 16), 0, 0)
  [a.ea, accessWord a, BitVec.ofNat 64 (r.party.job + 2 ^ 32 * who.1), who.2.1,
    BitVec.ofNat 64 (who.2.2.1 + 2 ^ 32 * who.2.2.2), accessWord r, r.pc, r.ea, cmdPc]

/-! ### Release sequences (R373 to R377) -/

/-- The release heads at a location. -/
def State.headsAt (s : State) (key die : Nat) : List Release := (s.die die).releases.filter fun r => r.pa == key

/-- What a write does to the release heads of the bytes it writes (R374): a write that is no RMW ends their sequences. -/
def State.endSequences (s : State) (key len die : Nat) : State :=
  s.modDie die fun d => { d with releases := d.releases.filter fun r => !overlaps key len r.pa r.len }

/-- An RMW ends the sequences of other locations that it overlaps: it continues only those of its own (R374; log entry 77). -/
def State.endOthers (s : State) (key len die : Nat) : State :=
  s.modDie die fun d => { d with releases := d.releases.filter fun r => !overlaps key len r.pa r.len || (r.pa == key && r.len == len) }

/-- The release heads in a range of a core's scratchpad. -/
def State.scratchHeads (s : State) (c lo n : Nat) : List Release :=
  (s.die (c / 256)).releases.filter fun r => overlaps (2 ^ 60 + 2 ^ 20 * c + lo) n r.pa r.len

/-- Drop the release heads in a range of a core's scratchpad: its bytes are another block's from now on (R268). -/
def State.dropScratchHeads (s : State) (c lo n : Nat) : State := s.endSequences (2 ^ 60 + 2 ^ 20 * c + lo) n (c / 256)

/-- Make a location the head of a release with a clock and scope (R374). -/
def State.addHead (s : State) (die : Nat) (r : Release) : State :=
  s.modDie die fun d => { d with releases := r :: d.releases }

/-- The release heads that an atomic write adds: its own when it has a release role, and those of the release fences
before it (R377). -/
def headsOf (f : Fibre) (p : Party) (key len : Nat) (isRelease : Bool) (scope : BitVec 3) : List Release :=
  (if isRelease then [{ pa := key, len := len, clock := f.clock, scope := scope, party := p }] else []) ++
  f.relFences.map fun q => { pa := key, len := len, clock := q.2, scope := BitVec.ofNat 3 q.1, party := p }

/-- The clock that an acquire learns from the heads it reads: those whose scopes include each other's parties (R375). -/
def acquireClock (heads : List Release) (p : Party) (scope : BitVec 3) : TMap Nat :=
  heads.foldl (fun c r =>
    if scopeIncludes r.scope r.party p && scopeIncludes scope p r.party then clockJoin c r.clock else c) []

end Sys2Proof.Machine
end

