-- ==== Sys2Proof/Machine/Translations.lean ====
section
/-! DEFINITION. What a translation says (R209 to R211, R236): the bytes of its long words and side records, its entries, the native
registers of an activation, and how virtual and native state stand for each other at a commit point. -/

namespace Sys2Proof

open Machine

/-! ### Layouts (R211, R236) -/

/-- The 64 bytes of a long word: the header, then the slots S0 to B (R211). -/
def LWord.bytes (w : LWord) : List Byte :=
  [w.header, w.s0, w.s1, w.v0, w.v1, w.m, w.e, w.b].flatMap fun x => leBytes 8 x.toNat

/-- The long word in 64 bytes (R211). -/
def LWord.ofBytes (bs : List Byte) : LWord :=
  let at_ (i : Nat) : BitVec 64 := BitVec.ofNat 64 (leAt bs (8 * i) 8)
  { header := at_ 0, s0 := at_ 1, s1 := at_ 2, v0 := at_ 3, v1 := at_ 4, m := at_ 5, e := at_ 6, b := at_ 7 }

/-- The 32 bytes of a side-table record (R236). -/
def SideRec.bytes (r : SideRec) : List Byte :=
  leBytes 8 r.npc ++ leBytes 8 r.virt.toNat ++ leBytes 4 r.replay ++ leBytes 4 r.map ++ leBytes 4 r.trapinfo ++ leBytes 4 0

/-- The side-table record in 32 bytes (R236). -/
def SideRec.ofBytes (bs : List Byte) : SideRec :=
  { npc := leAt bs 0 8, virt := BitVec.ofNat 64 (leAt bs 8 8), replay := leAt bs 16 4, map := leAt bs 20 4, trapinfo := leAt bs 24 4 }

/-- The bytes of a translation's code as a privileged debugger reads them (R17, R210). -/
def Transl.codeBytes (t : Transl) : List Byte := t.words.flatMap LWord.bytes

/-- The bytes of a translation's side table as a privileged debugger reads them (R236). -/
def Transl.sideBytes (t : Transl) : List Byte := t.side.flatMap SideRec.bytes

/-- The opcode of slot bits (R212). -/
def slotOp (x : BitVec 64) : Nat := bitsOf x 55 9

namespace Machine

/-! ### Entries (R210, R236) -/

/-- The translation that a gang runs (R437). -/
def translOf (s : State) (g : Gang) : Option Transl := (s.kiln[g.transl]?).bind fun t => if t.resident = 0 then none else some t

/-- The side-table record of a native PC. -/
def sideAt (t : Transl) (npc : Nat) : Option SideRec := t.side.find? fun r => r.npc == 64 * npc

/-- The native entry of a virtual target (R210). -/
def entryOf (t : Transl) (pc : W64) : Option Nat := (t.entries.find? fun e => e.1 == pc).map fun e => e.2 / 64

/-- Whether a commit point belongs to a replay translation: its record then names the commit point itself as its replay (R236; log
entry 12). -/
def inReplay (t : Transl) (npc : Nat) : Bool := match sideAt t npc with | some r => r.replay == npc | none => false

/-- Whether a record is that of a commit point, not of an XTRAP. -/
def isCommitPoint (t : Transl) (r : SideRec) : Bool := match t.words[r.npc / 64]? with | some w => slotOp w.b != 0x1E8 | none => false

/-- Where a fibre at a virtual PC resumes optimised native code: at its entry, or at a commit point (R233, R236, R237). -/
def resumeAt (t : Transl) (pc : W64) : Option Nat :=
  match entryOf t pc with
  | some n => some n
  | none => (t.side.find? fun r => r.virt == pc && isCommitPoint t r && !inReplay t (r.npc / 64)).map fun r => r.npc / 64

/-- The first word of the replay translation of the region that begins at a native PC (R236). -/
def replayAt (t : Transl) (npc : Nat) : Option Nat :=
  (sideAt t npc).bind fun r => if decide (r.replay < t.words.length) && r.replay != npc then some r.replay else none

/-- What the operation of a slot stands for, when the translation says it (log entry 12). -/
def originOf (t : Transl) (npc k : Nat) : Option Origin := t.origins.find? fun o => o.word == npc && o.slot == k

/-! ### Native registers (R209) -/

/-- Where a lane keeps the native register that a 9-bit number names under some window bases: its section and its number there. -/
def nativeKeyAt (base : TMap Nat) (n : Nat) : Nat := 2 ^ 16 * (n / 128) + mget 0 base (n / 128) + n % 128

/-- Where a lane keeps a native register of its running activation. -/
def nativeKey (f : Fibre) (n : Nat) : Nat := nativeKeyAt f.nbase n

/-- A native register of a lane. -/
def Fibre.rn (f : Fibre) (n : Nat) : W32 := mget 0 f.nregs (nativeKey f n)
/-- Write a native register of a lane. -/
def Fibre.wn (f : Fibre) (n : Nat) (w : W32) : Fibre := { f with nregs := mset f.nregs (nativeKey f n) w }
/-- A pair of native registers, the lower number in the lower half. -/
def Fibre.rn64 (f : Fibre) (n : Nat) : W64 := f.rn (n + 1) ++ f.rn n

/-- The value of a hold-latch entry (R221). -/
def Fibre.held (f : Fibre) (e : Nat) : W64 := ((mfind f.latch e).map fun x => x.value).getD 0

/-- The window of a function in each section; the largest that R209 allows where the translation declares none (log entry 12). -/
def windowFor (t : Transl) (fn : W64) : WindowSize :=
  (t.windows.find? fun w => w.fn == fn).getD { fn := fn, a := 128, b := 128, c := 128, d := 125 }

/-- The bases of a window past that of the function `fn`, whose bases are `base` (R209). -/
def basesPast (t : Transl) (fn : W64) (base : TMap Nat) : TMap Nat :=
  let w := windowFor t fn
  [(0, mget 0 base 0 + w.a), (1, mget 0 base 1 + w.b), (2, mget 0 base 2 + w.c), (3, mget 0 base 3 + w.d)]

/-- A fibre that a call has put into a new activation, in a window past its caller's (R209), where its translation has native code. -/
def Fibre.slide (t : Option Transl) (fn : W64) (f : Fibre) : Fibre :=
  match t.filter fun q => q.words != [] with
  | some q => { f with nbase := basesPast q fn f.nbase }
  | none => f

/-! ### Virtual and native state at a commit point (R210, R236) -/

/-- The virtual registers of a fibre as a register map gives them (R236). -/
def syncVirtual (t : Transl) (r : SideRec) (f : Fibre) : Fibre :=
  (t.maps.getD r.map []).foldl (fun x m => if m.isX then x.wx m.virt (f.rn64 m.nreg) else x.wv m.virt (f.rn m.nreg))
    { f with pc := r.virt }

/-- Native registers as a register map gives them, for an activation with some window bases and virtual registers. -/
def loadWindow (t : Transl) (r : SideRec) (base : TMap Nat) (v : TMap W32) (x : TMap W64) (regs : TMap W32) : TMap W32 :=
  (t.maps.getD r.map []).foldl (fun m q =>
    if q.isX then mset (mset m (nativeKeyAt base q.nreg) ((mget 0 x q.virt).setWidth 32)) (nativeKeyAt base (q.nreg + 1))
      ((mget 0 x q.virt).extractLsb' 32 32)
    else mset m (nativeKeyAt base q.nreg) (mget 0 v q.virt)) regs

/-- The native registers of a fibre that enters native code at a record: those of its callers' windows, by the maps of their return
points, and those of its own. -/
def syncNative (t : Transl) (r : SideRec) (f : Fibre) : Fibre :=
  let callers := f.callers.foldl (fun m a => match (entryOf t a.ret).bind (sideAt t) with
    | some q => loadWindow t q a.nbase a.v a.x m
    | none => m) f.nregs
  { f with nregs := loadWindow t r f.nbase f.v f.x callers }

/-- Put a fibre into native code where its PC resumes it. -/
def enterNative (t : Transl) (f : Fibre) : Fibre :=
  match resumeAt t f.pc with
  | none => f
  | some n => match sideAt t n with
    | some r => { syncNative t r f with npc := n, latch := [] }
    | none => { f with npc := n, latch := [] }

/-- Whether every live fibre of a gang is Ready where its translation's native code can be resumed. -/
def mayEnter (t : Transl) (g : Gang) : Bool :=
  t.words != [] && (lanesOf g.live).all fun l => (g.lane l).status == .ready && (resumeAt t (g.lane l).pc).isSome

/-- A gang that resumes, or begins, its optimised translation at a commit point (R237). -/
def Gang.goNative (g : Gang) (t : Transl) : Gang :=
  let g1 := g.mapLanes g.live fun _ f => enterNative t f
  { g1 with inNative := true, replay := false, inOrder := false, replayFor := none, base := g1.arch, pend := [], group := [] }

/-- A gang that has rolled back to a commit point of optimised code, at the replay translation of each fibre's region; none where the
translation has no such words (R236, R237; log entry 12). -/
def Gang.toReplay (t : Transl) (g : Gang) : Option Gang :=
  if (lanesOf g.ready).all fun l => (replayAt t (g.lane l).npc).isSome then
    some { (g.mapBoth g.ready fun _ f => { f with npc := (replayAt t f.npc).getD f.npc }) with replay := false, inOrder := true }
  else none

end Machine

end Sys2Proof
end

