-- ==== Sys2Proof/Machine/Ops.lean ====
section
/-! DEFINITION. The named operations that meanings share: the executing lanes, charging energy, parking and releasing,
rollback, taking a trap and returning from one. -/

namespace Sys2Proof.Machine

/-! ### Trap codes (R11) -/

def tcILL : BitVec 8 := 0x01
def tcILLB : BitVec 8 := 0x02
def tcICONV : BitVec 8 := 0x03
def tcORPH : BitVec 8 := 0x04
def tcBARX : BitVec 8 := 0x05
def tcMMX : BitVec 8 := 0x06
def tcPF : BitVec 8 := 0x07
def tcPROT : BitVec 8 := 0x08
def tcWIN : BitVec 8 := 0x09
def tcALGN : BitVec 8 := 0x0A
def tcNEXP : BitVec 8 := 0x0B
def tcNDUP : BitVec 8 := 0x0C
def tcECC : BitVec 8 := 0x0D
def tcOSLOT : BitVec 8 := 0x0E
def tcQERR : BitVec 8 := 0x0F
def tcYOVR : BitVec 8 := 0x10
def tcBKPT : BitVec 8 := 0x11
def tcTRAP : BitVec 8 := 0x12
def tcSEQE : BitVec 8 := 0x14
def tcXLAT : BitVec 8 := 0x15
def tcCANC : BitVec 8 := 0x16

/-! ### The executing PC group (R7, R38, R151) -/

/-- The gang that issues. -/
def State.curGang? (s : State) : Option Gang := s.gang? s.cur.core s.cur.gang
/-- Replace the gang that issues. -/
def State.putCur (s : State) (g : Gang) : State := s.setGang s.cur.core s.cur.gang g
/-- Whether the firmware fibre issues (R292). -/
def State.inFirmware (s : State) : Bool := s.cur.gang == fwSlot
/-- The core that issues. -/
def State.curCore (s : State) : Core := s.core s.cur.core

/-- The guard of a lane (R38): reserved guards never reach execution. -/
def guardPasses (g : Guard) (f : Fibre) : Bool := if g.pred == 15 then true else f.rp g.pred.toNat != g.neg

/-- The lanes of the issuing PC group. -/
def groupLanes (s : State) (g : Gang) : Mask := maskOf fun l => s.cur.lanes.getLsbD l && (g.lane l).status == .ready

/-- EXEC (R7): the lanes of the PC group that pass the guard. -/
def execLanes (s : State) (g : Gang) (gd : Guard) : Mask :=
  maskOf fun l => s.cur.lanes.getLsbD l && (g.lane l).status == .ready && guardPasses gd (g.lane l)

/-- The gang with the PCs of the lanes in a mask moved to the next instruction. -/
def Gang.advance (g : Gang) (m : Mask) (next : W64) : Gang := g.mapLanes m fun _ f => { f with pc := next }

/-- The state after the PC group moved past its instruction. -/
def retire (s : State) : State :=
  match s.curGang? with
  | some g => s.putCur (g.advance (groupLanes s g) s.cur.next)
  | none => s

/-- Charge `units` of an energy class to the gang's region (R302; log entry 36). -/
def Gang.charge (g : Gang) (cls units : Nat) : Gang :=
  { g with region := { g.region with energy := (cls, units) :: g.region.energy } }

/-- Charge class 4 for the instruction that issues: once, however often lanes of it park and issue it again (R302). -/
def Gang.chargeOnce (g : Gang) (s : State) : Gang := if s.cur.charged then g else g.charge 4 1

/-- Set sticky flags of a gang (R101, R102). -/
def Gang.raiseFlags (g : Gang) (fl : W32) : Gang := { g with arch := { g.arch with fflags := g.arch.fflags ||| fl } }

/-- The state after an instruction charged once per instruction (R302, class 4), whose group moves past it with the gang
changed by `f`. -/
def retireWith (s : State) (f : Gang → Gang) : State :=
  match s.curGang? with
  | some g => s.putCur (((f g).advance (groupLanes s g) s.cur.next).chargeOnce s)
  | none => s

/-- The shape of the instructions that only change registers, predicates and sticky flags of their own lanes: `upd`
gives the new fibre of an executing lane from the old gang, and `flags` the flags it raises; the whole group then moves
on (R7, R102, R302). -/
def laneOp (s : State) (gd : Guard) (cls weight : Nat) (upd : Gang → Nat → Fibre → Fibre)
    (flags : Gang → Nat → Fibre → W32 := fun _ _ _ => 0) : State :=
  match s.curGang? with
  | none => s
  | some g =>
    let e := execLanes s g gd
    let fl := (lanesOf e).foldl (fun acc l => acc ||| flags g l (g.lane l)) 0
    let g1 := (g.mapLanes e (upd g)).raiseFlags fl
    let g2 := g1.advance (groupLanes s g) s.cur.next
    s.putCur (g2.charge cls (weight * countLanes e))

/-! ### Energy (R302, R303) -/

/-- The weight of a class (R294 WEIGHTS). -/
def Core.weight (k : Core) (cls : Nat) : Nat := bitsOf k.weights (8 * cls) 8

/-- Add to a 48-bit counter, saturating (R303). -/
def sat48 (x : BitVec 48) (n : Nat) : BitVec 48 := BitVec.ofNat 48 (min (x.toNat + n) (2 ^ 48 - 1))

/-- Add energy of a class to the counter of a context on a core (R302). -/
def Core.addEnergy (k : Core) (ctx cls units : Nat) : Core :=
  match k.slotFor ctx with
  | some n => k.modSlot n fun u => { u with energy := sat48 u.energy (k.weight cls * units) }
  | none => k

/-- Add `n` ck to a STALL counter of a context: engine `e`, cause `k` (R313). -/
def Core.addStall (k : Core) (ctx e cause n : Nat) : Core :=
  match k.slotFor ctx with
  | some q => k.modSlot q fun u =>
      { u with stall := mset u.stall (32 * e + cause) (sat48 (mget 0 u.stall (32 * e + cause)) n) }
  | none => k

/-- The cause code of R313 of a parking cause. -/
def Cause.code (c : Cause) : Nat :=
  match c with
  | .presence => 0 | .oslot => 1 | .qempty => 2 | .qfull => 3 | .tlb => 7 | .page => 7 | .l2miss => 8 | .named => 10
  | .bar _ => 11 | .cbar => 11 | .yoke => 11 | .regather => 11 | .jwait _ => 12 | .yield => 13 | .fence => 14
  | .fetch => 7 | .kiln => 16 | .join => 17 | .arrive => 18 | .exiting => 19 | .result => 20 | .supervisor => 20

/-! ### Parking and release (R90, R187) -/

/-- Park the lanes of a mask with a cause; they keep their PC, and the instruction waits to be issued again for them. `charged` says
whether it has been charged for (R302). -/
def Gang.parkWith (charged : Bool) (g : Gang) (s : State) (i : Instr) (m : Mask) (c : Cause) (va : W64) : Gang :=
  if m = 0 then g else
  let g1 := g.mapLanes m fun _ f => { f with status := .parked c }
  { g1 with waits := g1.waits ++ [{ mask := m, instr := i, pc := s.cur.pc, head := s.cur.head, next := s.cur.next,
                                    bits := s.cur.bits, cause := c, va := va, since := s.ck, ticket := 0,
                                    pf := s.cur.pf, charged := charged }] }

/-- Park lanes of an instruction that has issued for the whole group, and is charged for. -/
def Gang.park (g : Gang) (s : State) (i : Instr) (m : Mask) (c : Cause) (va : W64) : Gang := g.parkWith true s i m c va

/-- Remove lanes from every parked instruction, dropping those without lanes. -/
def dropWaits (m : Mask) (ws : List Wait) : List Wait :=
  (ws.map fun w => { w with mask := w.mask &&& ~~~m }).filter fun w => w.mask != 0

/-- Whether a wait holds a PC group at a native word (R187, R222; log entry 12). -/
def Wait.isNative (w : Wait) : Bool := match w.instr with | .longWord _ => true | _ => false

/-- The next PC of a parked lane. -/
def Gang.nextOf (g : Gang) (l : Nat) : W64 :=
  ((g.waits.find? fun w => w.mask.getLsbD l).map fun w => w.next).getD (g.lane l).pc

/-- Release lanes parked at an instruction that is complete: each becomes Ready at its own next instruction. -/
def Gang.release (g : Gang) (m : Mask) : Gang :=
  let g1 := g.mapBoth m fun l f => { f with status := .ready, pc := g.nextOf l }
  { g1 with waits := dropWaits m g1.waits }

/-- Make parked lanes Ready at the instruction that parked them. -/
def Gang.unpark (g : Gang) (m : Mask) : Gang :=
  let g1 := g.mapBoth m fun _ f => { f with status := .ready }
  { g1 with waits := dropWaits m g1.waits }

/-- Set the issuing PC group to the lanes of a parked instruction of a gang, made Ready, so that it is issued again for
them; `granted` lets the access proceed past the wait that parked it. -/
def State.reissue (s : State) (c g : Nat) (w : Wait) (granted : Bool) : State :=
  match s.gang? c g with
  | none => s
  | some x =>
    let s1 := s.setGang c g (x.unpark w.mask)
    { s1 with cur := { core := c, gang := g, lanes := w.mask, pc := w.pc, head := w.head, next := w.next,
                       bits := w.bits, granted := granted, inNative := false,
                       pf := w.pf, charged := w.charged } }

/-! ### Rollback (R237) -/

/-- A gang back at its commit point (R237): its registers, queue heads and latches, without the region's effects and waits; a
speculation that is pending stays (R239). -/
def Gang.undone (g : Gang) : Gang :=
  { g with arch := { g.base with fibres := g.base.fibres.map fun p => (p.1, { p.2 with latch := [] }) }
           queues := g.region.pops.foldl (fun q p => mset q p.1 (p.2 ++ mget [] q p.1)) g.queues
           region := Region.empty, pend := [], group := [], overflow := 0, granted := 0
           waits := dropWaits (maskOf fun l => (((mfind g.base.fibres l).map fun f => f.status).getD .absent) == .ready) g.waits
           spec := match g.spec with | some p => if p.isOpen then none else some { p with confirmed := false } | none => none }

/-- A gang back at its commit point, to replay its virtual code with each instruction committing alone (R21, R237). -/
def Gang.rolledBack (g : Gang) : Gang := { g.undone with replay := true, inOrder := false }

/-- A gang after a rollback (R236, R237): in optimised native code it goes on in its replay translation, otherwise, and where its
translation has no such words, in virtual code (log entry 12). -/
def Gang.toRerun (t : Option Transl) (g : Gang) : Gang :=
  if g.inNative && !g.replay && !g.inOrder then (t.bind fun q => g.undone.toReplay q).getD g.rolledBack else g.rolledBack

/-- Pre-emption and migration fail a gang's speculation (R239). -/
def Gang.endSpec (g : Gang) : Gang := { g with spec := g.spec.map fun p => { p with isOpen := false, failed := true } }

/-- Take a gang's region back: its stores, commands, histogram counts, pops and reads never were (R237). `back` says how the gang then
stands. -/
def undoRegion (s : State) (c g : Nat) (back : Gang → Gang) : State :=
  match s.gang? c g with
  | none => s
  | some x =>
    let s1 := s.unrecord x.region.reads
    let s2 := s1.setGang c g (back x)
    s2.modCore c fun k => { k with aliases := k.aliases.filter fun a =>
      !(a.gang == g && (a.tag != 15 || (match x.spec with | some p => p.isOpen | none => false))) }

/-- Roll a gang's region back; it replays in order (R237). -/
def rollback (s : State) (c g : Nat) : State :=
  undoRegion s c g fun x => x.toRerun (translOf s x)

/-- Roll a gang's region back; what replays it is its virtual code. -/
def rollbackVirtual (s : State) (c g : Nat) : State := undoRegion s c g Gang.rolledBack

/-! ### Traps (R11, R305 to R308, R491) -/

/-- The package time of a tenant's job in schedule ticks (R88, R413). -/
def State.timeOf (s : State) (tenant job : Nat) : W64 :=
  match s.job? tenant job with
  | some j => BitVec.ofNat 64 (s.ticks - j.openTick)
  | none => BitVec.ofNat 64 s.ticks

/-- The record of a trap that names a fibre (R306). -/
def trapRecord (s : State) (g : Gang) (f : Fibre) (code : BitVec 8) (notice deferred : Bool) (pc : W64)
    (infos : List W64) : TrapRec :=
  { code := code, notice := notice, deferred := deferred, pc := pc, job := f.job, launchNo := f.launchNo, name := f.name,
    time := s.timeOf g.tenant f.job, infos := infos }

/-- The 128 bytes of a record (R306). -/
def recordBytes (r : TrapRec) : List Byte :=
  let nm : Nat × List Byte × Nat := match r.name with
    | .launched x y z f => (r.launchNo, leBytes 4 x ++ leBytes 4 y ++ leBytes 4 z, f)
    | .spawned n | .service n => (0xFFFFFFFF, leBytes 8 (n % 2 ^ 48) ++ leBytes 4 0, 0)
  [r.code, BitVec.ofNat 8 ((if r.notice then 1 else 0) + (if r.deferred then 2 else 0))] ++ leBytes 6 0
    ++ leBytes 8 r.pc.toNat ++ leBytes 4 r.job ++ leBytes 4 nm.1 ++ nm.2.1 ++ leBytes 4 nm.2.2 ++ leBytes 8 r.time.toNat
    ++ leBytes 8 0 ++ (List.range 9).flatMap fun i => leBytes 8 (r.infos.getD i 0).toNat

/-- The lowest free entry of a record table (R305). -/
def freeEntry (valid : BitVec 64) : Option Nat := (List.range 64).find? fun i => !valid.getLsbD i

/-- The physical address that a firmware address names (R493). -/
def fwPhys (a : W64) : Nat := a.toNat % 2 ^ 52

/-- Whether an address that firmware names passes the checks of R493: this package's, within a stack. -/
def fwAddrOk (s : State) (a : W64) : Bool := bitsOf a 52 12 == 0 && bitsOf a 48 4 == s.self && bitsOf a 40 8 == 0

/-- Write a record into the context's table on its core: entry, TRAPVALID and EVENT (R305). None when the table is full
or the context is not resident there. -/
def writeRecord (s : State) (c ctx : Nat) (r : TrapRec) : Option (Nat × State) :=
  match (s.core c).slotFor ctx with
  | none => none
  | some n =>
    let u := (s.core c).slotOf n
    match freeEntry u.trapvalid with
    | none => none
    | some i =>
      let s1 := s.wrBytes (fwPhys u.trapbase + 128 * i) (recordBytes r)
      some (i, s1.modCore c fun k =>
        let k1 := k.modSlot n fun u => { u with trapvalid := u.trapvalid ||| BitVec.ofNat 64 (2 ^ i) }
        { k1 with event := k1.event ||| BitVec.ofNat 5 (2 ^ n) })

/-- Dissolve the yoke of a core's cluster: each member goes on alone, and members parked in REGATHER are released
(R335, R336). -/
def dissolveYoke (s : State) (c : Nat) : State :=
  let k := s.cluster (c / 4)
  let s1 := k.members.foldl (fun t m =>
    t.modGang (c / 4 * 4 + m.1) m.2 fun g =>
      let g1 := { g with member4 := none, decoupled := false }
      g1.release (g1.lanesWhere fun f => f.status == .parked .regather)) s
  s1.modCluster (c / 4) fun k => { k with members := [], shared := false, tp := 0, regather := 0 }

/-- Stop a gang with a record (R305): written at once when the table has room, pending otherwise. `lanes` are those that
resume at `resume` under ERET mode 0 (R308). A yoke with this member dissolves (R336). -/
def stopGang (s : State) (c g : Nat) (r : TrapRec) (lanes : Mask) (resume : W64) : State :=
  match s.gang? c g with
  | none => s
  | some x =>
    let s0 := if x.member4.isSome then dissolveYoke s c else s
    match writeRecord s0 c x.ctx r with
    | some (i, s1) =>
      s1.modGang c g fun y => { y with stop := some { record := r, entry := some i, lanes := lanes, resume := resume } }
    | none =>
      s0.modGang c g fun y => { y with stop := some { record := r, entry := none, lanes := lanes, resume := resume } }

/-- A trap of the firmware fibre, taken by its own supervisor (R492): the fibre stops there (log entry 13). -/
def fwTrap (s : State) (code : BitVec 8) (infos : List W64) : State :=
  s.modCore s.cur.core fun k =>
    { k with fwTraps := k.fwTraps ++ [{ code := code, pc := s.cur.pc, infos := infos }]
             fw := { k.fw with pc := s.cur.pc, status := .parked .supervisor } }

/-- The firmware fibre goes on after an instruction that its supervisor has emulated (R183). -/
def fwEmulated (s : State) (infos : List W64) : State :=
  (fwTrap s tcALGN infos).modCore s.cur.core fun k => { k with fw := { k.fw with pc := s.cur.next, status := .ready } }

/-- The bytes of a fibre's image from an address to the end of the code section, at most seven parcels (R29). -/
def codeBytes (s : State) (launch : Nat) (pc : W64) : List Byte :=
  match s.launch? launch with
  | some l => (l.image.code.drop (pc.toNat - l.image.base.toNat)).take 28
  | none => []

/-- The address after the instruction at an address of a launch's code (R495). -/
def nextAfter (s : State) (launch : Nat) (pc : W64) : W64 :=
  match decodeBytes (codeBytes s launch pc) with
  | .ok _ parcels _ _ => pc + BitVec.ofNat 64 (4 * parcels)
  | .bad _ _ parcels _ => pc + BitVec.ofNat 64 (4 * parcels)

/-- An uncorrectable error found at places in this package's memory: their pages are to enter the failed-page map (R454, R455). -/
def eccFound (s : State) (places : List W64) : State :=
  s.pushAll ((places.filter fun a => bitsOf a 48 4 == s.self).map fun a =>
    .patrolScrub { stack := stackOf a.toNat, pa := a.toNat, result := .uncorrectable })

/-- Abort a region for an uncorrectable error (R200, R237): it rolls back, is not replayed, and ECC is reported at the commit point,
where the gang stands (log entry 84). -/
def abortRegion (s : State) (g : Gang) (lane : Nat) : State :=
  let f := g.base.lane lane
  let s1 := rollbackVirtual s s.cur.core s.cur.gang
  stopGang s1 s.cur.core s.cur.gang (trapRecord s g f tcECC false false f.pc [])
    (maskOf fun l => (g.base.lane l).status == .ready && (g.base.lane l).pc == f.pc) (nextAfter s f.launch f.pc)

/-- Taking a trap at an instruction, where nothing is left to report to a service core. -/
def takeTrapAt (s : State) (code : BitVec 8) (lane : Nat) (infos : List W64) : State :=
  if s.inFirmware then fwTrap s code infos
  else match s.curGang? with
  | none => s
  | some g =>
    if code = tcECC ∧ (g.region.instrs ≠ 0 ∨ (g.inNative ∧ ¬ g.replay)) then abortRegion s g lane
    else if g.region.instrs ≠ 0 ∨ (g.inNative ∧ ¬ g.replay) then rollback s s.cur.core s.cur.gang
    else stopGang s s.cur.core s.cur.gang (trapRecord s g (g.lane lane) code false false s.cur.pc infos)
      (groupLanes s g) s.cur.next

/-- Taking a trap at the issuing instruction (R19, R21, R60, R237, R305, R491): the one operation through which every
instruction raises. `lane` is the lane whose fibre the record names. In a region with earlier instructions, or in native
code, the region rolls back and replays in order, and the trap is met again with nothing before it uncommitted; an ECC aborts
the region without a replay. -/
def takeTrap (s : State) (code : BitVec 8) (lane : Nat) (infos : List W64) : State :=
  if code = tcECC then takeTrapAt (eccFound s infos) code lane [] else takeTrapAt s code lane infos

/-- The PROT that the firmware fibre meets at an instruction it does not have (R492), else the instruction itself. -/
def userOp (s : State) (k : Gang → State) : State :=
  if s.inFirmware then takeTrap s tcPROT 0 [s.cur.bits, 0x8F]
  else match s.curGang? with
  | none => s
  | some g => k g

/-- The PROT that a user context meets at a privileged instruction, whatever its guard (R57), named by the lowest lane of EXEC or, when
it is empty, of the PC group (R491), else the instruction. -/
def privOp (s : State) (gd : Guard) (k : Gang → State) : State :=
  match s.curGang? with
  | none => s
  | some g =>
    let e := execLanes s g gd
    if s.inFirmware then k g else takeTrap s tcPROT (lowLane (if e = 0 then groupLanes s g else e)) [s.cur.bits, 0x80]

/-- A collective instruction (R173): EXEC must equal j0's membership, else ICONV, named by the lowest lane of EXEC or,
when it is empty, of the PC group (R491; log entry 33) (log entry 46). -/
def collectiveOp (s : State) (gd : Guard) (k : Gang → Mask → State) : State :=
  userOp s fun g =>
    let e := execLanes s g gd
    if e = g.live then k g e
    else takeTrap s tcICONV (lowLane (if e = 0 then groupLanes s g else e)) [(g.live ++ e : W64)]

/-- Returning from a trap (R308): free entry `i` of the context's table, and resume the stopped gang as the mode says.
`resumeAfter` is mode 0, otherwise mode 1. -/
def resumeGang (g : Gang) (st : Stop) (resumeAfter : Bool) : Gang :=
  let g1 := { g with stop := none }
  if resumeAfter && !st.record.deferred then
    (g1.release (st.lanes &&& g1.lanesWhere fun f => f.status != .absent)).mapBoth st.lanes
      fun _ f => if f.status == .absent then f else { f with pc := st.resume }
  else g1

end Sys2Proof.Machine
end

