-- ==== Sys2Proof/Machine/Net.lean ====
section
/-! DEFINITION. Sending packets to other packages: ports, routes, detours and streams (R468, R469, R475). -/

namespace Sys2Proof

/-- A packet with every field empty. -/
def Packet.blank : Packet :=
  { dst := 0, src := 0, relay := 0, detoured := false, response := false, tenant := 0, mgmt := false, seq := 0, eack := 0,
    addr := 0, size := 0, order := 0, scope := 0, tag := 0, op := 0, ty := .s32, name := 0, until_ := 0, consumer := none,
    contribution := none, data := [], data2 := [], body := .none }

/-- The key of a packet's stream: tenant number, or 4,096 for management (R475). -/
def Packet.streamKey (p : Packet) : Nat := if p.mgmt then 4096 else p.tenant

end Sys2Proof

namespace Sys2Proof.Machine

/-- The port wired to package `j` (R468). -/
def State.portTo (s : State) (j : Nat) : Nat := (j + 16 - s.self % 16 + 15) % 16
/-- The package that port `p` is wired to (R468). -/
def State.peerOf (s : State) (p : Nat) : Nat := (s.self + p + 1) % 16
/-- The link at a port. -/
def State.link (s : State) (p : Nat) : Link := mget Link.reset s.links p
/-- Apply `f` to a link. -/
def State.modLink (s : State) (p : Nat) (f : Link → Link) : State := { s with links := mset s.links p (f (s.link p)) }

/-- The key slots of a protected stream's end (R452). -/
def State.keySlots (s : State) (r : StreamRef) : Option KeySlots := (s.keys.find? fun k => k.1 == r).map fun k => k.2
/-- Apply `f` to the key slots of a stream's end. -/
def State.modKeys (s : State) (r : StreamRef) (f : KeySlots → KeySlots) : State :=
  if s.keys.any fun k => k.1 == r then { s with keys := updFirst (fun k => k.1 == r) (fun k => (k.1, f k.2)) s.keys }
  else { s with keys := s.keys ++ [(r, f KeySlots.none)] }

/-- Put a key into a slot. -/
def KeySlots.put (k : KeySlots) (slot : Nat) (key : BitVec 256) : KeySlots :=
  if slot = 0 then { k with key0 := some key } else { k with key1 := some key }

/-- Whether a link is Up (R472). -/
def Link.isUp (l : Link) : Bool := l.state == .up

/-- Whether a stream is held for the refresh of its key (R452). -/
def State.isHeld (s : State) (peer tenant : Nat) : Bool :=
  match s.keySlots { peer := peer, tenant := tenant, tx := true } with | some k => k.held | none => false

/-- The relays for a destination in order of preference, as firmware wrote them or as shipped (R469). -/
def State.relaysFor (s : State) (j : Nat) : List Nat :=
  match mfind s.detours j with
  | some l => l
  | none => (((List.range s.npkg).map fun k => (j + 1 + k) % s.npkg).filter fun k => k != s.self && k != j).take 3

/-- The route to a package: port, relay package and whether it is a detour (R469). A management packet may also use a
link in Training (R472). -/
def State.routeTo (s : State) (j : Nat) (mgmt : Bool) : Option (Nat × Nat × Bool) :=
  let p := s.portTo j
  if (s.link p).isUp || (mgmt && (s.link p).state == .training) then some (p, 0, false)
  else
    ((s.relaysFor j).find? fun r =>
      (s.link (s.portTo r)).isUp && (s.link (s.portTo r)).upmask.getLsbD j && s.live.getLsbD r).map fun r =>
        (s.portTo r, r, true)

/-- The port number that marks a packet waiting at the sender for a route (R469). -/
def noPort : Nat := 16

/-- A new stream towards a peer (R475): numbering starts at 1. -/
def Stream.fresh (peer tenant : Nat) (response : Bool) : Stream :=
  { peer := peer, tenant := tenant, response := response, nextSeq := 1, unacked := [], expect := 1, reorder := [] }

/-- The stream with a key. -/
def State.stream (s : State) (peer tenant : Nat) (response : Bool) : Stream :=
  (s.streams.find? fun t => t.peer == peer && t.tenant == tenant && t.response == response).getD
    (Stream.fresh peer tenant response)

/-- Apply `f` to a stream, opening it when it does not exist. -/
def State.modStream (s : State) (peer tenant : Nat) (response : Bool) (f : Stream → Stream) : State :=
  let is (t : Stream) : Bool := t.peer == peer && t.tenant == tenant && t.response == response
  if s.streams.any is then { s with streams := updFirst is f s.streams }
  else { s with streams := s.streams ++ [f (Stream.fresh peer tenant response)] }

/-- Put a packet on its way by the route of the moment (R469, R475), or leave it at the sender, as a held stream's are
(R452). -/
def State.transmit (s : State) (p : Packet) : State :=
  match (if s.isHeld p.dst p.streamKey then none else s.routeTo p.dst p.mgmt) with
  | none =>
    s.modStream p.dst p.streamKey p.response fun t =>
      { t with unacked := updFirst (fun u => u.1.seq == p.seq) (fun u => (u.1, s.ticks, noPort)) t.unacked }
  | some (port, relay, det) =>
    let q := { p with relay := relay, detoured := det, eack := (s.stream p.dst p.streamKey p.response).expect - 1 }
    let s1 := s.modStream p.dst p.streamKey p.response fun t =>
      { t with unacked := updFirst (fun u => u.1.seq == p.seq) (fun _ => (q, s.ticks, port)) t.unacked }
    s1.modLink port fun l => { l with outQ := l.outQ ++ [(q, false)] }

/-- Send a packet: it takes the next number of its stream and is held until acknowledged (R475). -/
def State.send (s : State) (p : Packet) : State :=
  let q := { p with src := s.self, seq := (s.stream p.dst p.streamKey p.response).nextSeq }
  let s1 := s.modStream q.dst q.streamKey q.response fun t =>
    { t with nextSeq := t.nextSeq + 1, unacked := t.unacked ++ [(q, s.ticks, noPort)] }
  s1.transmit q

/-- A management packet (R486). -/
def State.sendMgmt (s : State) (dst : Nat) (b : Mgmt) : State :=
  s.send { Packet.blank with dst := dst, mgmt := true, body := b }

/-- The other live packages of the fabric. -/
def State.peers (s : State) : List Nat := (List.range s.npkg).filter fun j => j != s.self && s.live.getLsbD j

/-- The lowest-numbered live package, which hosts the fabric sequencer (R380). -/
def State.hostPkg (s : State) : Nat := ((List.range s.npkg).find? fun j => s.live.getLsbD j).getD s.self

end Sys2Proof.Machine
end

