-- ==== Sys2Proof/Machine/Flags.lean ====
section
/-! DEFINITION. The sticky flags of R101 and the integer results that set them. -/

namespace Sys2Proof.Machine

/-- NV, invalid operation (R101 bit 0). -/
def flNV : W32 := 1
/-- DZ, division of a nonzero finite value by zero (R101 bit 1). -/
def flDZ : W32 := 2
/-- OF, overflow (R101 bit 2). -/
def flOF : W32 := 4
/-- UF, underflow (R101 bit 3). -/
def flUF : W32 := 8
/-- NX, inexact (R101 bit 4). -/
def flNX : W32 := 16
/-- SAT, a saturating instruction clamped a value (R101 bit 5). -/
def flSAT : W32 := 32
/-- FZ, an E4M3 or E5M2 value was flushed (R101 bit 6). -/
def flFZ : W32 := 64

/-- The flag word with `f` when `b` holds. -/
def flagIf (b : Bool) (f : W32) : W32 := if b then f else 0

/-- The integer that the low `w` bits of `v` stand for (R92). -/
def intOf (signed : Bool) (w : Nat) (v : Nat) : Int :=
  let u := v % 2 ^ w
  if signed && 2 * u ≥ 2 ^ w then (u : Int) - 2 ^ w else u

/-- The least value of an integer type (R92). -/
def intMin (signed : Bool) (w : Nat) : Int := if signed then -(2 ^ (w - 1)) else 0

/-- The greatest value of an integer type (R92). -/
def intMax (signed : Bool) (w : Nat) : Int := if signed then 2 ^ (w - 1) - 1 else 2 ^ w - 1

/-- The `w` bits of an integer, wrapping (R92). -/
def intBits (w : Nat) (i : Int) : Nat := (i % 2 ^ w).toNat

/-- An exact integer clamped to a type's range, and whether it was clamped (R109). -/
def intClamp (signed : Bool) (w : Nat) (i : Int) : Int × Bool :=
  if i < intMin signed w then (intMin signed w, true)
  else if intMax signed w < i then (intMax signed w, true)
  else (i, false)

end Sys2Proof.Machine
end

