-- ==== Sys2Proof/Machine/Operands.lean ====
section
/-! DEFINITION. Operand forms: immediates, packed elements, typed element-wise results, addresses and access sizes (R46,
R47, R104, R178, R181). -/

namespace Sys2Proof.Machine

/-- imm14 sign-extended to 64 bits (R46). -/
def immS (i : BitVec 14) : W64 := i.signExtend 64
/-- imm14 zero-extended to 64 bits (R46). -/
def immZ (i : BitVec 14) : W64 := i.setWidth 64
/-- imm14 by the type's signedness (R46: MIN, MAX, CMP). -/
def immT (t : Ty) (i : BitVec 14) : W64 := if isSigned t then immS i else immZ i

/-- Element `i` of `w` bits of a register value (R5). -/
def elemAt (w : Nat) (v : W64) (i : Nat) : Nat := v.toNat / 2 ^ (w * i) % 2 ^ w

/-- The value with element `i` of `w` bits replaced (R5). -/
def setElem (w : Nat) (v : W64) (i : Nat) (e : Nat) : W64 :=
  v - BitVec.ofNat 64 (elemAt w v i * 2 ^ (w * i)) + BitVec.ofNat 64 (e % 2 ^ w * 2 ^ (w * i))

/-- The register value of a list of elements, element 0 first (R5). -/
def packElems (w : Nat) (es : List Nat) : W64 :=
  BitVec.ofNat 64 (es.foldr (fun e acc => e % 2 ^ w + 2 ^ w * acc) 0)

/-- How many elements a type packs in a register (R39). -/
def elemsOf (t : Ty) : Nat := elemCount (tyCode t)

/-- Apply an operation on elements to each element of two values (R92, R108). -/
def zipElems (t : Ty) (op : Nat → Nat → Nat) (a b : W64) : W64 :=
  let w := elemWidth t
  packElems w ((List.range (elemsOf t)).map fun i => op (elemAt w a i) (elemAt w b i))

/-- The result of an element-wise integer operation given on exact integers, wrapping (R92). -/
def intOp (t : Ty) (op : Int → Int → Int) (a b : W64) : W64 :=
  let w := elemWidth t
  zipElems t (fun x y => intBits w (op (intOf (isSigned t) w x) (intOf (isSigned t) w y))) a b

end Sys2Proof.Machine

namespace Sys2Proof

/-- The operand values of a format-A instruction in a lane. -/
def AForm.va (f : AForm) (x : Machine.Fibre) : W64 := x.rt f.ty f.a
/-- See `AForm.va`. -/
def AForm.vb (f : AForm) (x : Machine.Fibre) : W64 := x.rt f.ty f.b
/-- The first source of a format-I instruction. -/
def IForm.va (f : IForm) (x : Machine.Fibre) : W64 := x.rt f.ty f.a
/-- The sources of a format-C instruction. -/
def CForm.va (f : CForm) (x : Machine.Fibre) : W64 := x.rt f.ty f.a
/-- See `CForm.va`. -/
def CForm.vb (f : CForm) (x : Machine.Fibre) : W64 := x.rt f.ty f.b
/-- See `CForm.va`. -/
def CForm.vc (f : CForm) (x : Machine.Fibre) : W64 := x.rt f.ty f.c
/-- The first source of a format-L instruction. -/
def LForm.va (f : LForm) (x : Machine.Fibre) : W64 := x.rt f.ty f.a

end Sys2Proof

namespace Sys2Proof.Machine

/-- The access size of LD and ST (R181). -/
def accessSize (t : Ty) : Nat :=
  match t with
  | .s32 | .n32 | .fp32 | .b32 => 4
  | .s64 | .n64 | .fp64 => 8
  | .fp16 | .bf16 => 2
  | _ => 1

/-- The value that LD writes for the bytes it read (R181). -/
def loadExtend (t : Ty) (n : Nat) : W64 :=
  if t == .s8x4 then ((BitVec.ofNat 8 n).signExtend 32).setWidth 64 else BitVec.ofNat 64 n

/-- The bytes that ST writes for its data register (R181). -/
def storeBytes (t : Ty) (v : W64) : List Byte := leBytes (accessSize t) v.toNat

/-- The order, scope and low fields of an extension (R45). -/
def extOrder (e : BitVec 18) : BitVec 3 := e.extractLsb' 15 3
/-- See `extOrder`. -/
def extScope (e : BitVec 18) : BitVec 3 := e.extractLsb' 12 3
/-- See `extOrder`. -/
def extLow (e : BitVec 18) : BitVec 12 := e.extractLsb' 0 12

/-- A run of 16 `v` registers as 64 bytes (R188). -/
def Fibre.row (f : Fibre) (n : Nat) : List Byte := (List.range 16).flatMap fun i => leBytes 4 (f.rv (n + i)).toNat

/-- Write a run of 16 `v` registers from 64 bytes (R188). -/
def Fibre.putRow (f : Fibre) (n : Nat) (bs : List Byte) : Fibre :=
  (List.range 16).foldl (fun g i => g.wv (n + i) (BitVec.ofNat 32 (leAt bs (4 * i) 4))) f

/-- Write a run of `v` registers. -/
def Fibre.putV (f : Fibre) (n : Nat) (ws : List W32) : Fibre :=
  (List.range ws.length).foldl (fun g i => g.wv (n + i) (ws.getD i 0)) f

end Sys2Proof.Machine
end

