-- ==== Sys2Proof/Machine/Access.lean ====
section
/-! DEFINITION. From a generic address to a location: apertures, checks, translation, windows, and the caches that decide
only when an access is performed (R178 to R180, R187, R271, R344, R350 to R355, R484, R493). -/

namespace Sys2Proof.Machine

/-! ### Translation (R350 to R354) -/

/-- A leaf PTE's fields (R350). -/
def ptePa (e : W64) : Nat := 2 ^ 16 * bitsOf e 16 36
/-- See `ptePa`. -/
def pteHome (e : W64) : Nat := bitsOf e 8 2
/-- See `ptePa`. -/
def pteHomeSel (e : W64) : Nat := bitsOf e 52 10
/-- A page's home as one number: HOME in its two low bits, HOMESEL above (R346). -/
def homeCode (e : W64) : Nat := pteHome e + 4 * pteHomeSel e
/-- See `ptePa`. -/
def pteR (e : W64) : Bool := e.getLsbD 2
/-- See `ptePa`. -/
def pteW (e : W64) : Bool := e.getLsbD 3
/-- See `ptePa`. -/
def pteX (e : W64) : Bool := e.getLsbD 4
/-- See `ptePa`. -/
def pteG (e : W64) : Bool := e.getLsbD 5
/-- See `ptePa`. -/
def pteT (e : W64) : Bool := e.getLsbD 6

/-- Whether a package number names a package of the fabric (R489). -/
def State.namesPkg (s : State) (p : Nat) : Bool := p < s.npkg

/-- The outcome of a walk (R351). -/
inductive WalkResult where
  | leaf (pte : W64) (size : Nat)
  | notPresent
  | malformed
deriving DecidableEq, Repr

/-- The page size of a level (R350). -/
def levelSize (lvl : Nat) : Nat := match lvl with | 1 => 2 ^ 30 | 2 => 2 ^ 21 | _ => 2 ^ 16

/-- The index of a virtual address at a level (R350). -/
def levelIndex (va : Nat) (lvl : Nat) : Nat :=
  match lvl with
  | 0 => va / 2 ^ 39 % 2 ^ 17
  | 1 => va / 2 ^ 30 % 2 ^ 9
  | 2 => va / 2 ^ 21 % 2 ^ 9
  | _ => va / 2 ^ 16 % 2 ^ 5

/-- Whether a leaf PTE keeps the rules of R350 and R351 at a level. -/
def leafOk (s : State) (e : W64) (lvl : Nat) : Bool :=
  !e.getLsbD 7 && bitsOf e 10 6 == 0 && bitsOf e 62 2 == 0
    && (lvl != 2 || bitsOf e 16 5 == 0) && (lvl != 1 || bitsOf e 16 14 == 0)
    && ((pteHome e != 0 && pteHome e != 3) || pteHomeSel e == 0)
    && bitsOf e 40 8 == 0 && s.namesPkg (bitsOf e 48 4)
    && (pteHome e != 1 || (pteHomeSel e < 512 && pteHomeSel e / 128 == dieOf (ptePa e)))

/-- Whether a non-leaf PTE keeps the rules of R350 and R351: the table below it is at level `lvl + 1`. -/
def nonLeafOk (s : State) (e : W64) (lvl : Nat) : Bool :=
  bitsOf e 2 6 == 0 && bitsOf e 52 12 == 0 && s.namesPkg (bitsOf e 48 4)
    && (lvl == 2 || bitsOf e 8 4 == 0)

/-- Whether a physical page is in the failed-page map: by an error, or because its stack has failed (R432, R455). -/
def State.pageFailed (s : State) (page : Nat) : Bool :=
  s.failedPages.contains page || (pkgOf (2 ^ 16 * page) == s.self && s.stackDown.getLsbD (stackOf (2 ^ 16 * page)))

/-- Whether some of `n` bytes at a physical address lie in a sector with an uncorrectable error, or, on a tracked page, in one whose race
metadata has one (R347, R454). -/
def State.flawed (s : State) (tracked : Bool) (pa n : Nat) : Bool :=
  s.flaws.any fun x => match x with
    | .sector q => (pa / 64 ≤ q && decide (q ≤ (pa + n - 1) / 64)) || (tracked && metaOf pa / 64 == q)
    | _ => false

/-- Whether a physical access meets an uncorrectable error (R200, R454). -/
def State.uncorrectable (s : State) (tracked : Bool) (pa n : Nat) : Bool := s.pageFailed (pa / 2 ^ 16) || s.flawed tracked pa n

/-- Whether one of some rows of a core's scratchpad has an uncorrectable error (R454). -/
def State.rowFlawed (s : State) (c : Nat) (rows : List Nat) : Bool := rows.any fun r => s.flaws.contains (.row c r)

/-- The PTE at a physical address, read at its home: another package's as its read data brought it (R351, R486). -/
def State.pteAt (s : State) (pa : Nat) : W64 :=
  if pkgOf pa = s.self then BitVec.ofNat 64 (memNat s.mem pa 8) else mget 0 s.farPtes pa

/-- The shift of a level's index (R350). -/
def levelShift (lvl : Nat) : Nat := match lvl with | 0 => 39 | 1 => 30 | 2 => 21 | _ => 16

/-- The walk of R351 from a table at a level, with `fuel` levels left. -/
def walkFrom (s : State) (fuel : Nat) (lvl tbl va : Nat) : WalkResult :=
  match fuel with
  | 0 => .malformed
  | k + 1 =>
    let e : W64 := s.pteAt (tbl + 8 * levelIndex va lvl)
    if !e.getLsbD 0 then .notPresent
    else if !e.getLsbD 1 then
      if lvl = 3 ∨ nonLeafOk s e lvl = false then .malformed else walkFrom s k (lvl + 1) (2 ^ 8 * bitsOf e 8 44) va
    else if lvl = 0 ∨ leafOk s e lvl = false then .malformed
    else .leaf e (levelSize lvl)

/-- The PA of a tenant's level-0 table (R352). -/
def State.root (s : State) (tenant : Nat) : Nat :=
  2 ^ 20 * bitsOf (BitVec.ofNat 64 (memNat s.mem (s.tenant tenant).desc 8) : W64) 20 32

/-- A walk from a table at a level; a page in a failed-page map resolves as not present (R351, R455). -/
def walkAt (s : State) (va : W64) (from_ : Nat × Nat) : WalkResult :=
  match walkFrom s (4 - from_.1) from_.1 from_.2 va.toNat with
  | .leaf e n => if s.pageFailed ((ptePa e + va.toNat % n) / 2 ^ 16) then .notPresent else .leaf e n
  | r => r

/-- The walk of a tenant's table for a virtual address (R351, R352). -/
def walk (s : State) (tenant : Nat) (va : W64) : WalkResult := walkAt s va (0, s.root tenant)

/-- The TLB entry of a core that serves an address of a tenant's context (R354). -/
def Core.tlbFind (k : Core) (tenant ctx : Nat) (va : W64) : Option TlbEntry :=
  k.tlb.find? fun e => e.tenant == tenant && (e.ctx == none || e.ctx == some ctx)
    && e.va ≤ va.toNat && va.toNat < e.va + e.size

/-- The launch whose launch page holds a physical address (R490). -/
def launchPage? (s : State) (pa : Nat) : Option Launch :=
  s.launches.find? fun l => l.state != .done && (pa / 2 ^ 16 == l.paramPage.toNat / 2 ^ 16 && l.paramPage != 0
    || pa / 2 ^ 16 == l.constPage.toNat / 2 ^ 16 && l.constPage != 0)

/-- Whether a physical address passes a tenant's windows (R352, R353), for a fibre of launch `launch` (R490). -/
def windowPass (s : State) (tenant launch pa : Nat) : Bool :=
  match launchPage? s pa with
  | some l => l.uid == launch
  | none =>
  (List.range 8).any fun i =>
    let at_ := (s.tenant tenant).desc + 32 + 16 * i
    let b := memNat s.mem at_ 8
    let l := memNat s.mem (at_ + 8) 8
    b % 2 == 1 && decide (2 ^ 16 * (b / 2 ^ 16 % 2 ^ 36) ≤ pa) && decide (pa < 2 ^ 16 * (l / 2 ^ 16 % 2 ^ 36))

/-- The enabled multicast aperture of a tenant that holds an address (R484). -/
def apertureAt (s : State) (tenant : Nat) (va : W64) : Option Aperture :=
  ((List.range 8).map fun i => mfind (s.tenant tenant).apertures i).findSome? fun o =>
    match o with
    | some a => if a.base.getLsbD 0 && 2 ^ 16 * (a.base.toNat / 2 ^ 16) ≤ va.toNat
        && va.toNat < 2 ^ 16 * (a.base.toNat / 2 ^ 16) + a.size.toNat then some a else none
    | none => none

/-- The member packages of an aperture in ascending order. -/
def Aperture.packages (a : Aperture) : List Nat := (List.range 16).filter fun m => a.members.getLsbD m

/-! ### Checks (R179, R180, R200) -/

/-- What the checks of R179 make of one lane's address: a place on the core, physical addresses (several for a multicast
aperture) with the page's tracked bit and home (`homeCode`), a fault, or a translation that must be walked. -/
inductive Found where
  | here (loc : Loc)
  | mem (pas : List Nat) (tracked : Bool) (home : Nat) (ap : Option Aperture)
  | fault (code : BitVec 8) (infos : List W64)
  | missing (va : W64)
deriving DecidableEq, Repr

/-- A PROT record of R180. -/
def protInfos (ea : W64) (kind sub : Nat) : List W64 := [ea, BitVec.ofNat 64 (2 ^ 8 * kind + sub)]

/-- The home block of a gang, when it lies on core `c` (R89). -/
def homeBlock? (s : State) (c : Nat) (g : Gang) : Option Block := (s.core c).block? g.home

/-- The scratchpad window of a gang on a core: its first byte in the core's scratchpad and its size (R89, R178). -/
def windowOf (s : State) (c : Nat) (g : Gang) : Nat × Nat :=
  match homeBlock? s c g with
  | some b => (64 * b.rowBase, 64 * b.rows)
  | none => (0, 0)

/-- The stack size of a fibre; the firmware fibre has none (R493). -/
def stackSizeOf (s : State) (f : Fibre) : Nat := if s.inFirmware then 0 else f.stackSize

/-- The checks of R179 (and R493 for firmware) on an access of `n` bytes by lane `l` at `ea`, aligned; `kind` is 0 read,
1 write, 2 read-modify-write (R180), `op` the opcode for an ALGN record (R183), and `fatom` marks a FATOM (R195, R328). -/
def checkAccess (s : State) (c : Nat) (g : Gang) (l : Nat) (ea : W64) (n kind op : Nat) (fatom : Bool) : Found :=
  let off := ea.toNat % 2 ^ 48
  let low := off / n * n
  if bitsOf ea 56 8 ≠ 0 then .fault tcPROT (protInfos ea kind 0x01)
  else if bitsOf ea 49 15 = 0x7F then
    if ea.getLsbD 48 then
      let w := if s.inFirmware then (0, 0) else windowOf s c g
      if w.2 < low + n then .fault tcPROT (protInfos ea kind 0x03)
      else if fatom then .fault tcPROT (protInfos ea kind 0x07)
      else if s.rowFlawed c [(w.1 + low) / 64, (w.1 + low + n - 1) / 64] then .fault tcECC []
      else .here (.scratch (w.1 + low))
    else if stackSizeOf s (g.lane l) < low + n then .fault tcPROT (protInfos ea kind 0x04)
    else if fatom then .fault tcPROT (protInfos ea kind 0x07)
    else .here (.stack l low)
  else if s.inFirmware then
    if ea.toNat % n ≠ 0 then .fault tcALGN [ea, BitVec.ofNat 64 op]
    else if !fwAddrOk s ea then
      .fault tcPROT (protInfos ea kind 0x01)
    else if s.uncorrectable false ea.toNat n then .fault tcECC [ea]
    else .mem [ea.toNat] false 0 none
  else
    let va : W64 := BitVec.ofNat 64 (ea.toNat / n * n)
    match (s.core c).tlbFind g.tenant g.ctx va with
    | none =>
      if s.cur.pf.contains (va.toNat / 2 ^ 16) then
        .fault tcPF [ea, BitVec.ofNat 64 (2 ^ 8 * kind)]
      else .missing va
    | some e =>
      let pa := ptePa e.pte + (va.toNat - e.va)
      if kind ≠ 1 ∧ pteR e.pte = false then .fault tcPROT (protInfos ea kind 0x05)
      else if kind ≠ 0 ∧ pteW e.pte = false then .fault tcPROT (protInfos ea kind 0x06)
      else
        let ap := apertureAt s g.tenant va
        let pas := match ap with
          | some a => a.packages.map fun m => 2 ^ 48 * m + pa % 2 ^ 48
          | none => [pa]
        if pas.any fun p => !s.live.getLsbD (pkgOf p) then .fault tcPF [ea, BitVec.ofNat 64 (2 ^ 8 * kind)]
        else if pas.any fun p => !windowPass s g.tenant (g.lane l).launch p then .fault tcWIN [ea, BitVec.ofNat 64 (2 ^ 8 * kind)]
        else if fatom ∧ pteHome e.pte = 2 then .fault tcPROT (protInfos ea kind 0x07)
        else match pas.find? fun p => s.uncorrectable (pteT e.pte) p n with
          | some p => .fault tcECC [BitVec.ofNat 64 p]
          | none => .mem pas (pteT e.pte) (homeCode e.pte) ap

/-- The PROT of R485 for a use that a multicast aperture forbids. -/
def apertureFault (ea : W64) (kind sub : Nat) : Found := .fault tcPROT (protInfos ea kind sub)

/-- The rows that a place on the core's scratchpad touches. -/
def rowsAt (off n : Nat) : List Nat := (List.range ((off + n - 1) / 64 - off / 64 + 1)).map fun i => off / 64 + i

/-- Whether a row's presence bit is set: no fill of it is outstanding (R269). -/
def Core.present (k : Core) (row : Nat) : Bool := !k.fills.any fun f => f.row == row

/-- The Expired interest, with its slot, that has left a row of a core absent (R187, R284), wherever its gang now is (R291). -/
def State.expiredAt (s : State) (c : Nat) (rows : List Nat) : Option (Nat × Interest) :=
  let owed := (s.core c).fills.filter fun f => rows.contains f.row && decide (2 ^ 60 ≤ f.owner)
  if owed = [] then none
  else s.allGangs.findSome? fun g => g.interests.find? fun (q : Nat × Interest) =>
    q.2.state == .expired && owed.any fun f => f.owner == interestOwner g.uid q.1

/-- An Expired interest turns a lane access to its rows into NEXP (R187, R289). -/
def namedFault (s : State) (c : Nat) (ea : W64) (n : Nat) (f : Found) : Found :=
  match f with
  | .here (.scratch off) =>
    match s.expiredAt c (rowsAt off n) with
    | some (slot, i) => .fault tcNEXP [i.name, BitVec.ofNat 64 slot, ea]
    | none => f
  | _ => f

/-- The lanes' addresses after their checks (R200): all are translated before any has an effect. -/
inductive Resolved where
  | park (va : W64)
  | trap (code : BitVec 8) (lane : Nat) (infos : List W64)
  | go (accs : List (Nat × W64 × Found))
deriving DecidableEq, Repr

/-- R200: a lane whose translation is missing parks the access; then the lowest lane's fault is the instruction's. -/
def resolveAll (accs : List (Nat × W64 × Found)) : Resolved :=
  match accs.findSome? fun a => match a.2.2 with | .missing va => some va | _ => none with
  | some va => .park va
  | none =>
    match accs.findSome? fun a => match a.2.2 with | .fault c i => some (a.1, c, i) | _ => none with
    | some (l, c, i) => .trap c l i
    | none => .go accs

/-! ### Sketches (R439, R440) -/

/-- The four counters of a key: counter index row × 8,192 + index (R440). -/
def sketchSlots (key : Nat) : List Nat :=
  [(0, 0x9E3779B97F4A7C15), (1, 0xC2B2AE3D27D4EB4F), (2, 0x165667B19E3779F9), (3, 0x85EBCA77C2B2AE63)].map fun (r : Nat × Nat) =>
    8192 * r.1 + key * r.2 % 2 ^ 64 / 2 ^ 51

/-- Add 1 to a key's counters, saturating (R440). -/
def sketchAdd (m : TMap W32) (key : Nat) : TMap W32 :=
  (sketchSlots key).foldl (fun m i => let c := mget 0 m i; mset m i (if c = BitVec.allOnes 32 then c else c + 1)) m

/-- The estimate of a key: the least of its counters (R440). -/
def sketchEstimate (m : TMap W32) (key : Nat) : Nat :=
  (sketchSlots key).foldl (fun n i => min n (mget 0 m i).toNat) (2 ^ 32)

/-- The kernel ID of a translation's key and a kernel index (R439). -/
def kernelId (key : BitVec 256) (kernel : Nat) : Nat := bitsOf key 0 64 ^^^ (2 ^ 48 * kernel % 2 ^ 64)

/-- The kernel ID of what a gang runs. -/
def gangKernel (s : State) (g : Gang) : Nat :=
  kernelId (((translOf s g).map fun t => t.key).getD 0) (((s.launch? g.launch).map fun l => l.kernel).getD 0)

/-! ### Walkers (R355) -/

/-- The walker's slice for a miss (R355). -/
def walkerSlice (tenant : Nat) (va : W64) : Nat := (va.toNat / 2 ^ 16 % 128) ^^^ (tenant % 128)

/-- Send a miss to its walker (R355): attach to a walk in progress, start one, or retry after 16 ck when it is full. -/
def startWalk (s : State) (c tenant : Nat) (va : W64) : State :=
  let d := c / 256
  let sl := walkerSlice tenant va
  let page := va.toNat / 2 ^ 16
  let ws := (s.die d).walks
  let req : WalkReq := { core := c, tenant := tenant, va := va }
  let mine (w : Walk) : Bool := w.slice == sl && w.tenant == tenant && w.page == page
  let later : State := s.modCore c fun k => { k with retries := k.retries ++ [(req, s.ck + 16)] }
  if (ws.filter fun w => w.slice == sl).foldl (fun n w => n + w.waiters.length) 0 ≥ 4096 then later
  else if ws.any mine then
    s.modDie d fun k => { k with walks := updFirst mine (fun w => { w with waiters := w.waiters ++ [c] }) k.walks }
  else if (ws.filter fun w => w.slice == sl).length ≥ 32 then later
  else
    (s.modDie d fun k => { k with walks := k.walks ++ [{ slice := sl, tenant := tenant, page := page, waiters := [c] }] }).push
      (.pageWalk req)

/-- Whether a wait is for a translation (R37, R187). -/
def Wait.translates (w : Wait) : Bool := w.cause == .tlb || w.cause == .page || w.cause == .fetch

/-- What the checks of R179 make of the page of a fibre's code that holds an address (R37, R350; log entry 83). -/
def fetchAt (s : State) (c : Nat) (g : Gang) (f : Fibre) (va : W64) : Found :=
  match (s.core c).tlbFind g.tenant g.ctx va with
  | none => .missing va
  | some e =>
    let pa := ptePa e.pte + (va.toNat - e.va)
    if !pteX e.pte then .fault tcPROT [va, (Config.freeBits 8 s.free).setWidth 64]
    else if !s.live.getLsbD (pkgOf pa) then .fault tcPF [va, 0]
    else if !windowPass s g.tenant f.launch pa then .fault tcWIN [va, 0]
    else if s.uncorrectable false pa 4 then .fault tcECC [BitVec.ofNat 64 pa]
    else .mem [pa] false (homeCode e.pte) none

/-- What stops the fetch of a fibre's instruction of `n` bytes, on its first page or its last (R37). -/
def fetchStop (s : State) (c : Nat) (g : Gang) (f : Fibre) (n : Nat) : Option Found :=
  let last : W64 := BitVec.ofNat 64 ((f.pc.toNat + n - 1) / 2 ^ 16 * 2 ^ 16)
  ([f.pc] ++ if f.pc.toNat < last.toNat then [last] else []).findSome? fun va =>
    match fetchAt s c g f va with
    | .mem _ _ _ _ | .here _ => none
    | x => some x

/-- Park the lanes of an access whose translation is missing, and send the miss to a walker (R187, R355). -/
def parkTlb (s : State) (g : Gang) (i : Instr) (e : Mask) (va : W64) : State :=
  startWalk (s.putCur ((g.parkWith s.cur.charged s i e .tlb va).advance (groupLanes s g &&& ~~~e) s.cur.next)) s.cur.core g.tenant va

/-! ### L2 and lane cache: timing only (R271, R344; log entry 5) -/

/-- The slice of the die in which a page with a home keeps its lines (R343, R346). -/
def l2Slice (pa home : Nat) : Nat := if home % 4 = 1 then home / 4 % 128 else sliceOf pa

/-- The key of a set of a slice. -/
def l2Key (pa home : Nat) : Nat := 512 * l2Slice pa home + pa / 512 % 512

/-- Whether a sector is held by its home slice (R344, R346). -/
def State.l2Hit (s : State) (pa home : Nat) : Bool :=
  (mget [] (s.die (dieOf pa)).l2 (l2Key pa home)).any fun l => l.line == pa / 512 && l.valid.getLsbD (pa / 64 % 8)

/-- The ways of a slice that serve normal lines (R345). -/
def SliceCfg.normal (x : SliceCfg) : Nat := 16 - x.pinw.toNat - x.tarnw.toNat

/-- The lines of a set that stay when it holds `ways` normal ones, most recently used first, and those that are evicted (R344, R345). -/
def keepWays (ways : Nat) (set : List L2Line) : List L2Line × List L2Line :=
  set.foldl (fun (acc : List L2Line × List L2Line) l =>
    if l.pinned || (acc.1.filter fun q => !q.pinned).length < ways then (acc.1 ++ [l], acc.2) else (acc.1, acc.2 ++ [l])) ([], [])

/-- Lines leave a slice: a dirty sector found uncorrectable is not written back, and its page enters the failed-page map (R344,
R454). -/
def evictLines (s : State) (ls : List L2Line) : State :=
  s.pushAll (ls.flatMap fun l => (List.range 8).filterMap fun i =>
    if l.dirty.getLsbD i && s.flaws.contains (.sector (8 * l.line + i)) then
      some (.patrolScrub { stack := stackOf (512 * l.line), pa := 512 * l.line + 64 * i, result := .uncorrectable })
    else none)

/-- Fill a sector in its home slice (R344 to R346): a pinned page's lines take pinned ways and are never evicted, the others share the
normal ways, the least recently used going first; a page in a core's SRAM, or never cached, has no line. -/
def State.l2Fill (s : State) (pa home : Nat) (dirty : Bool) : State :=
  if home % 4 = 2 ∨ home % 4 = 3 then s
  else
    let d := s.die (dieOf pa)
    let key := l2Key pa home
    let set := mget [] d.l2 key
    let bit : BitVec 8 := BitVec.ofNat 8 (2 ^ (pa / 64 % 8))
    let old := (set.find? fun l => l.line == pa / 512).getD { line := pa / 512, valid := 0, dirty := 0, pinned := home % 4 == 1 }
    let new := { old with valid := old.valid ||| bit, dirty := if dirty then old.dirty ||| bit else old.dirty }
    let r := keepWays (mget SliceCfg.reset d.slices (l2Slice pa home)).normal (new :: set.filter fun l => l.line != pa / 512)
    evictLines (s.modDie (dieOf pa) fun d => { d with l2 := mset d.l2 key r.1 }) r.2

/-- A service core's write of SLICECFG (R345): ignored when fewer than four ways would serve normal lines, or a field is above 8; the
lines that no longer fit are written back or evicted first. -/
def writeSliceCfg (s : State) (die slice : Nat) (v : W64) : State :=
  let x : SliceCfg := { mget SliceCfg.reset (s.die die).slices slice with pinw := v.extractLsb' 0 4, tarnw := v.extractLsb' 4 4 }
  if 12 < x.pinw.toNat + x.tarnw.toNat ∨ 8 < x.pinw.toNat ∨ 8 < x.tarnw.toNat then s
  else
    let mine (q : Nat × List L2Line) : Bool := q.1 / 512 == slice
    let out := (s.die die).l2.flatMap fun q => if mine q then (keepWays x.normal q.2).2 else []
    evictLines (s.modDie die fun d => { d with
      slices := mset d.slices slice x
      l2 := d.l2.map fun (q : Nat × List L2Line) => if mine q then (q.1, (keepWays x.normal q.2).1) else q }) out

/-- The service cores write every slice's SLICECFG, at boot and when a tenant's quota changes (R345; log entry 86). -/
def writeSlices (s : State) : State :=
  let all := (List.range 4).flatMap fun d => (List.range 128).map fun n => (d, n)
  { all.foldl (fun t q => writeSliceCfg t q.1 q.2 (Config.sliceCfg q.1 q.2 s.free)) s with free := s.free + 1 }

/-- Whether the lane cache of a core holds a sector for a tenant (R271). -/
def Core.lcHit (k : Core) (tenant : Nat) (va : W64) : Bool :=
  (mget [] k.laneCache (va.toNat / 64 % 128)).contains (tenant, va.toNat / 2 ^ 13)

/-- Fill a lane-cache sector under a policy of R43: 0 most recent, 1 least recent, 2 not at all. -/
def Core.lcFill (k : Core) (tenant : Nat) (va : W64) (policy : Nat) : Core :=
  if policy = 2 then k else
  let set := mget [] k.laneCache (va.toNat / 64 % 128)
  let t := (tenant, va.toNat / 2 ^ 13)
  let rest := (set.filter fun p => p != t).take 15
  { k with laneCache := mset k.laneCache (va.toNat / 64 % 128) (if policy = 0 then t :: rest else rest ++ [t]) }

/-- Drop every sector of a tenant (R271: an acquire at cluster scope or wider, or TLBINV). -/
def Core.lcDrop (k : Core) (tenant : Nat) : Core :=
  { k with laneCache := k.laneCache.map fun p => (p.1, p.2.filter fun t => t.1 != tenant) }

/-- Why a checked access of a lane must wait, if it must (R187, R477): an absent row, a miss of a page that is cached or never cached
(R346), or data of another package not yet here. A `.nolc` access looks past the lane cache (R271); a page in a core's SRAM has its
home there and is not missed (R326, R327). -/
def accessWait (s : State) (c : Nat) (g : Gang) (l : Nat) (ea : W64) (n policy : Nat) (loads : Bool) (f : Found) : Option Cause :=
  match f with
  | .here (.scratch off) => if (rowsAt off n).all (s.core c).present then none else some .presence
  | .mem pas _ home _ =>
    if pas.any fun p => pkgOf p != s.self then
      if !loads then none
      else if pas.all fun p => pkgOf p == s.self || s.remotes.any fun r =>
          r.core == c && r.gang == s.cur.gang && r.lane == l && r.pkg == pkgOf p && r.data.isSome then none
      else some .l2miss
    else if s.cur.granted || home % 4 == 2 then none
    else if home % 4 != 3 && ((policy != 2 && (s.core c).lcHit g.tenant ea) || pas.all fun p => s.l2Hit p home) then none
    else some .l2miss
  | _ => none

end Sys2Proof.Machine
end

