-- ==== Sys2Proof/Machine/Integer.lean ====
section
/-! DEFINITION. Class 000: integer, shift, bit-field, move and address instructions (R104 to R118). -/

namespace Sys2Proof.Machine

/-- The outcome type of every meaning. -/
abbrev Result := Host.Outcome State Fault Refusal

/-- A format-A integer instruction on A and B (R7, R105). -/
def intA (f : AForm) (s : State) (op : W64 → W64 → W64) : Result :=
  .next (laneOp s f.g 0 1 fun _ _ x => x.wt f.ty f.d (op (f.va x) (f.vb x)))

/-- A format-I integer instruction on A and an extended immediate (R46, R105). -/
def intI (f : IForm) (s : State) (b : W64) (op : W64 → W64 → W64) : Result :=
  .next (laneOp s f.g 0 1 fun _ _ x => x.wt f.ty f.d (op (f.va x) b))

/-- ADD (R108). -/
def addT (t : Ty) (a b : W64) : W64 := intOp t (· + ·) a b
/-- SUB (R108). -/
def subT (t : Ty) (a b : W64) : W64 := intOp t (· - ·) a b
/-- MUL (R108). -/
def mulT (t : Ty) (a b : W64) : W64 := intOp t (· * ·) a b
/-- MULH (R108): the high half of the exact product. -/
def mulhT (t : Ty) (a b : W64) : W64 := intOp t (fun x y => (x * y) / 2 ^ elemWidth t) a b
/-- MIN (R108). -/
def minT (t : Ty) (a b : W64) : W64 := intOp t (fun x y => if x < y then x else y) a b
/-- MAX (R108). -/
def maxT (t : Ty) (a b : W64) : W64 := intOp t (fun x y => if x > y then x else y) a b

/-- DIV and REM (R110) on one value each: quotient truncated toward zero, and remainder. -/
def divRem (signed : Bool) (w : Nat) (a b : Int) : Int × Int :=
  if b = 0 then (2 ^ w - 1, a)
  else if signed ∧ a = -(2 ^ (w - 1)) ∧ b = -1 then (a, 0)
  else (Int.tdiv a b, a - Int.tdiv a b * b)
/-- DIV (R110). -/
def divT (t : Ty) (a b : W64) : W64 := intOp t (fun x y => (divRem (isSigned t) (elemWidth t) x y).1) a b
/-- REM (R110). -/
def remT (t : Ty) (a b : W64) : W64 := intOp t (fun x y => (divRem (isSigned t) (elemWidth t) x y).2) a b

/-- The exact result of a saturating instruction's element, clamped, and whether it was clamped (R109). -/
def satElem (t : Ty) (op : Int → Int → Int) (x y : Nat) : Int × Bool :=
  intClamp (isSigned t) (elemWidth t)
    (op (intOf (isSigned t) (elemWidth t) x) (intOf (isSigned t) (elemWidth t) y))
/-- The value of ADDSAT or SUBSAT (R109). -/
def satT (t : Ty) (op : Int → Int → Int) (a b : W64) : W64 :=
  zipElems t (fun x y => intBits (elemWidth t) (satElem t op x y).1) a b
/-- Whether any element of ADDSAT or SUBSAT was clamped (R109). -/
def satFlag (t : Ty) (op : Int → Int → Int) (a b : W64) : W32 :=
  flagIf ((List.range (elemsOf t)).any fun i =>
    (satElem t op (elemAt (elemWidth t) a i) (elemAt (elemWidth t) b i)).2) flSAT
/-- ADDSAT and SUBSAT (R109). -/
def satA (f : AForm) (s : State) (op : Int → Int → Int) : Result :=
  .next (laneOp s f.g 0 1 (fun _ _ x => x.wt f.ty f.d (satT f.ty op (f.va x) (f.vb x)))
    (fun _ _ x => satFlag f.ty op (f.va x) (f.vb x)))

/-- SHL (R112) by a count. -/
def shlW (w a n : Nat) : Nat := if n < w then a * 2 ^ n % 2 ^ w else 0
/-- SHR (R112). -/
def shrW (w a n : Nat) : Nat := if n < w then a % 2 ^ w / 2 ^ n else 0
/-- SAR (R112). -/
def sarW (w a n : Nat) : Nat :=
  if n < w then intBits w (intOf true w a / 2 ^ n) else if a / 2 ^ (w - 1) % 2 = 1 then 2 ^ w - 1 else 0
/-- ROTL (R112). -/
def rotlW (w a n : Nat) : Nat := (a % 2 ^ w * 2 ^ (n % w)) % 2 ^ w + a % 2 ^ w / 2 ^ (w - n % w)

/-- A format-A shift: the count is the whole `v` register in b (R112). -/
def shiftA (f : AForm) (s : State) (op : Nat → Nat → Nat → Nat) : Result :=
  .next (laneOp s f.g 0 1 fun _ _ x =>
    x.wt f.ty f.d (BitVec.ofNat 64 (op (elemWidth f.ty) (f.va x).toNat (x.rv f.b).toNat)))
/-- A format-I shift: the count is imm[5:0] (R46, R112). -/
def shiftI (f : IForm) (s : State) (op : Nat → Nat → Nat → Nat) : Result :=
  .next (laneOp s f.g 0 1 fun _ _ x =>
    x.wt f.ty f.d (BitVec.ofNat 64 (op (elemWidth f.ty) (f.va x).toNat (f.imm.toNat % 64))))

/-- FUNNEL (R113). -/
def funnelW (w : Nat) (hi modw : Bool) (a b n : Nat) : Nat :=
  let sh := if modw then n % w else min n w
  let v := a % 2 ^ w * 2 ^ w + b % 2 ^ w
  if hi then v * 2 ^ sh / 2 ^ w % 2 ^ w else v / 2 ^ sh % 2 ^ w

/-- BFX (R114): field at `pos` of width `wid`, sign-extended for signed types. -/
def bfxW (w : Nat) (signed : Bool) (pos wid a : Nat) : Nat :=
  if w ≤ pos ∨ wid = 0 then 0
  else
    let k := min wid (w - pos)
    intBits w (intOf signed k (a / 2 ^ pos))
/-- BFI (R114): insert the low bits of `b` into `a`. -/
def bfiW (w : Nat) (pos wid a b : Nat) : Nat :=
  if w ≤ pos ∨ wid = 0 then a
  else
    let k := min wid (w - pos)
    let m := (2 ^ k - 1) * 2 ^ pos
    (a &&& (2 ^ w - 1 - m)) ||| (b * 2 ^ pos % 2 ^ w &&& m)

/-- POPC (R115): the one bits below bit `w`. -/
def popcW (w a : Nat) : Nat := ((List.range w).filter fun i => a.testBit i).length
/-- CLZ (R115): the zero bits above the highest one bit. -/
def clzW (w a : Nat) : Nat := (((List.range w).reverse).takeWhile fun i => !a.testBit i).length
/-- CTZ (R115): the zero bits below the lowest one bit. -/
def ctzW (w a : Nat) : Nat := ((List.range w).takeWhile fun i => !a.testBit i).length
/-- BREV (R115): bit i moves to bit w - 1 - i. -/
def brevW (w a : Nat) : Nat :=
  (List.range w).foldl (fun acc i => if a.testBit i then acc + 2 ^ (w - 1 - i) else acc) 0

/-- A bit count of A into a `v` register (R115). -/
def countA (f : AForm) (s : State) (op : Nat → Nat → Nat) : Result :=
  .next (laneOp s f.g 0 1 fun _ _ x => x.wv f.d (BitVec.ofNat 32 (op (elemWidth f.ty) (f.va x).toNat)))

/-- PRMT (R116): one result byte. -/
def prmtByte (a b : W32) (nib : Nat) : Nat :=
  let p := bitsOf (b ++ a : BitVec 64) (8 * (nib % 8)) 8
  if nib / 8 % 2 = 0 then p else if 128 ≤ p then 255 else 0
/-- PRMT (R116). -/
def prmt (a b c : W32) : W32 :=
  BitVec.ofNat 32 (((List.range 4).map fun k => prmtByte a b (bitsOf c (4 * k) 4)).foldr (fun e acc => e + 256 * acc) 0)

/-- The value MOVI writes (R47, R117). -/
def moviValue (t : Ty) (lit : BitVec 32) : W64 := if t == .s64 then lit.signExtend 64 else lit.setWidth 64

/-- The index of LEA format C (R118). -/
def leaIndex (f : CForm) (x : Fibre) : W64 :=
  match f.ty with
  | .s32 => (x.rv f.b).signExtend 64
  | .n32 => (x.rv f.b).setWidth 64
  | _ => x.rx f.b

/-- ADD (R108). -/
def execAdd (f : AForm) (s : State) : Result :=
  intA f s (addT f.ty)

/-- SUB (R108). -/
def execSub (f : AForm) (s : State) : Result :=
  intA f s (subT f.ty)

/-- MUL (R108). -/
def execMul (f : AForm) (s : State) : Result :=
  intA f s (mulT f.ty)

/-- MULH (R108). -/
def execMulh (f : AForm) (s : State) : Result :=
  intA f s (mulhT f.ty)

/-- DIV (R110). -/
def execDiv (f : AForm) (s : State) : Result :=
  intA f s (divT f.ty)

/-- REM (R110). -/
def execRem (f : AForm) (s : State) : Result :=
  intA f s (remT f.ty)

/-- MIN (R108). -/
def execMin (f : AForm) (s : State) : Result :=
  intA f s (minT f.ty)

/-- MAX (R108). -/
def execMax (f : AForm) (s : State) : Result :=
  intA f s (maxT f.ty)

/-- ADD with an immediate (R46, R108). -/
def execAddI (f : IForm) (s : State) : Result :=
  intI f s (immS f.imm) (addT f.ty)

/-- SUB with an immediate (R46, R108). -/
def execSubI (f : IForm) (s : State) : Result :=
  intI f s (immS f.imm) (subT f.ty)

/-- MUL with an immediate (R46, R108). -/
def execMulI (f : IForm) (s : State) : Result :=
  intI f s (immS f.imm) (mulT f.ty)

/-- MIN with an immediate (R46, R108). -/
def execMinI (f : IForm) (s : State) : Result :=
  intI f s (immT f.ty f.imm) (minT f.ty)

/-- MAX with an immediate (R46, R108). -/
def execMaxI (f : IForm) (s : State) : Result :=
  intI f s (immT f.ty f.imm) (maxT f.ty)

/-- MADD (R108). -/
def execMadd (f : CForm) (s : State) : Result :=
  .next (laneOp s f.g 0 1 fun _ _ x => x.wt f.ty f.d (addT f.ty (mulT f.ty (f.va x) (f.vb x)) (f.vc x)))

/-- ABS (R108). -/
def execAbs (f : AForm) (s : State) : Result :=
  .next (laneOp s f.g 0 1 fun _ _ x => x.wt f.ty f.d (intOp f.ty (fun a _ => if a < 0 then 0 - a else a) (f.va x) 0))

/-- NEG (R108). -/
def execNeg (f : AForm) (s : State) : Result :=
  .next (laneOp s f.g 0 1 fun _ _ x => x.wt f.ty f.d (intOp f.ty (fun a _ => 0 - a) (f.va x) 0))

/-- AND (R111). -/
def execAnd (f : AForm) (s : State) : Result :=
  intA f s fun a b => a &&& b

/-- OR (R111). -/
def execOr (f : AForm) (s : State) : Result :=
  intA f s fun a b => a ||| b

/-- XOR (R111). -/
def execXor (f : AForm) (s : State) : Result :=
  intA f s fun a b => a ^^^ b

/-- ANDN (R111). -/
def execAndn (f : AForm) (s : State) : Result :=
  intA f s fun a b => a &&& ~~~b

/-- AND with an immediate (R46, R111). -/
def execAndI (f : IForm) (s : State) : Result :=
  intI f s (immZ f.imm) fun a b => a &&& b

/-- OR with an immediate (R46, R111). -/
def execOrI (f : IForm) (s : State) : Result :=
  intI f s (immZ f.imm) fun a b => a ||| b

/-- XOR with an immediate (R46, R111). -/
def execXorI (f : IForm) (s : State) : Result :=
  intI f s (immZ f.imm) fun a b => a ^^^ b

/-- NOT (R111). -/
def execNot (f : AForm) (s : State) : Result :=
  intA f s fun a _ => ~~~a

/-- SHL (R112). -/
def execShl (f : AForm) (s : State) : Result :=
  shiftA f s shlW

/-- SHL with an immediate (R112). -/
def execShlI (f : IForm) (s : State) : Result :=
  shiftI f s shlW

/-- SHR (R112). -/
def execShr (f : AForm) (s : State) : Result :=
  shiftA f s shrW

/-- SHR with an immediate (R112). -/
def execShrI (f : IForm) (s : State) : Result :=
  shiftI f s shrW

/-- SAR (R112). -/
def execSar (f : AForm) (s : State) : Result :=
  shiftA f s sarW

/-- SAR with an immediate (R112). -/
def execSarI (f : IForm) (s : State) : Result :=
  shiftI f s sarW

/-- ROTL (R112). -/
def execRotl (f : AForm) (s : State) : Result :=
  shiftA f s rotlW

/-- ROTL with an immediate (R112). -/
def execRotlI (f : IForm) (s : State) : Result :=
  shiftI f s rotlW

/-- FUNNEL (R113). -/
def execFunnel (f : CForm) (s : State) : Result :=
  .next (laneOp s f.g 0 1 fun _ _ x =>
    x.wt f.ty f.d (BitVec.ofNat 64 (funnelW (elemWidth f.ty) (f.mod.getLsbD 0) (f.mod.getLsbD 1) (f.va x).toNat
      (f.vb x).toNat (x.rv f.c).toNat)))

/-- BFX (R114). -/
def execBfx (f : AForm) (s : State) : Result :=
  .next (laneOp s f.g 0 1 fun _ _ x =>
    x.wt f.ty f.d (BitVec.ofNat 64 (bfxW (elemWidth f.ty) (isSigned f.ty) (bitsOf (x.rv f.b) 0 6) (bitsOf (x.rv f.b) 6 7)
      (f.va x).toNat)))

/-- BFX with an immediate (R46, R114). -/
def execBfxI (f : IForm) (s : State) : Result :=
  .next (laneOp s f.g 0 1 fun _ _ x =>
    x.wt f.ty f.d (BitVec.ofNat 64 (bfxW (elemWidth f.ty) (isSigned f.ty) (bitsOf f.imm 0 6) (bitsOf f.imm 6 7)
      (f.va x).toNat)))

/-- BFI (R114). -/
def execBfi (f : CForm) (s : State) : Result :=
  .next (laneOp s f.g 0 1 fun _ _ x =>
    x.wt f.ty f.d (BitVec.ofNat 64 (bfiW (elemWidth f.ty) (bitsOf (x.rv f.c) 0 6) (bitsOf (x.rv f.c) 6 7) (f.va x).toNat
      (f.vb x).toNat)))

/-- POPC (R115). -/
def execPopc (f : AForm) (s : State) : Result :=
  countA f s popcW

/-- CLZ (R115). -/
def execClz (f : AForm) (s : State) : Result :=
  countA f s clzW

/-- CTZ (R115). -/
def execCtz (f : AForm) (s : State) : Result :=
  countA f s ctzW

/-- BREV (R115). -/
def execBrev (f : AForm) (s : State) : Result :=
  .next (laneOp s f.g 0 1 fun _ _ x => x.wt f.ty f.d (BitVec.ofNat 64 (brevW (elemWidth f.ty) (f.va x).toNat)))

/-- PRMT (R116). -/
def execPrmt (f : CForm) (s : State) : Result :=
  .next (laneOp s f.g 0 1 fun _ _ x => x.wv f.d (prmt (x.rv f.a) (x.rv f.b) (x.rv f.c)))

/-- SEL (R117). -/
def execSel (f : CForm) (s : State) : Result :=
  .next (laneOp s f.g 0 1 fun _ _ x =>
    x.wt f.ty f.d (if x.rp f.c != f.ext.getLsbD 0 then f.va x else f.vb x))

/-- MOV (R117). -/
def execMov (f : AForm) (s : State) : Result :=
  .next (laneOp s f.g 0 1 fun _ _ x => x.wt f.ty f.d (f.va x))

/-- MOVI (R117). -/
def execMovi (f : LForm) (s : State) : Result :=
  .next (laneOp s f.g 0 1 fun _ _ x => x.wt f.ty f.d (moviValue f.ty f.lit))

/-- LEA format C (R118). -/
def execLea (f : CForm) (s : State) : Result :=
  .next (laneOp s f.g 0 1 fun _ _ x =>
    x.wx f.d (x.rx f.a + (leaIndex f x <<< (bitsOf f.ext 0 4)) + (f.ext.extractLsb' 4 14).signExtend 64))

/-- LEA format I (R118). -/
def execLeaI (f : IForm) (s : State) : Result :=
  .next (laneOp s f.g 0 1 fun _ _ x => x.wx f.d (x.rx f.a + immS f.imm))

/-- ADDSAT (R109). -/
def execAddsat (f : AForm) (s : State) : Result :=
  satA f s (· + ·)

/-- SUBSAT (R109). -/
def execSubsat (f : AForm) (s : State) : Result :=
  satA f s (· - ·)

end Sys2Proof.Machine
end

