-- ==== Sys2Proof/Machine/Predicate.lean ====
section
/-! DEFINITION. Class 001: integer compare and predicate instructions (R119 to R123). FCMP stands with the floating
instructions. -/

namespace Sys2Proof.Machine

/-- The integer conditions of R42. -/
def intCond (m : BitVec 4) (a b : Int) : Bool :=
  match m.toNat with
  | 0 => a == b
  | 1 => a != b
  | 2 => a < b
  | 3 => a ≤ b
  | 4 => a > b
  | _ => a ≥ b

/-- CMP on two register values (R120). -/
def cmpT (m : BitVec 4) (t : Ty) (a b : W64) : Bool :=
  intCond m (intOf (isSigned t) (elemWidth t) a.toNat) (intOf (isSigned t) (elemWidth t) b.toNat)

/-- CMP (R120). -/
def execCmp (f : AForm) (s : State) : Result :=
  .next (laneOp s f.g 0 1 fun _ _ x => x.wp f.d (cmpT f.mod f.ty (f.va x) (f.vb x)))

/-- CMP with an immediate (R46, R120). -/
def execCmpI (f : IForm) (s : State) : Result :=
  .next (laneOp s f.g 0 1 fun _ _ x => x.wp f.d (cmpT f.mod f.ty (f.va x) (immT f.ty f.imm)))

/-- PAND (R122). -/
def execPand (f : AForm) (s : State) : Result :=
  .next (laneOp s f.g 0 1 fun _ _ x => x.wp f.d (x.rp f.a && x.rp f.b))

/-- POR (R122). -/
def execPor (f : AForm) (s : State) : Result :=
  .next (laneOp s f.g 0 1 fun _ _ x => x.wp f.d (x.rp f.a || x.rp f.b))

/-- PXOR (R122). -/
def execPxor (f : AForm) (s : State) : Result :=
  .next (laneOp s f.g 0 1 fun _ _ x => x.wp f.d (x.rp f.a != x.rp f.b))

/-- PNOT (R122). -/
def execPnot (f : AForm) (s : State) : Result :=
  .next (laneOp s f.g 0 1 fun _ _ x => x.wp f.d (!x.rp f.a))

/-- PSEL (R122). -/
def execPsel (f : CForm) (s : State) : Result :=
  .next (laneOp s f.g 0 1 fun _ _ x => x.wp f.d (if x.rp f.c then x.rp f.a else x.rp f.b))

/-- PMOV (R123). -/
def execPmov (f : AForm) (s : State) : Result :=
  .next (laneOp s f.g 0 1 fun _ _ x =>
    if f.mod.getLsbD 0 then { x with preds := (x.rv f.a).setWidth 12 } else x.wv f.d (x.preds.setWidth 32))

end Sys2Proof.Machine
end

