-- ==== Sys2Proof/Machine/Float.lean ====
section
/-! DEFINITION. Floating values and the one rounding of every floating result (R41, R93 to R100): formats, exact values,
rounding in four modes, conversion between formats and integers. -/

namespace Sys2Proof.Machine

/-- The rounding modes of R41. -/
inductive RMode where
  | rne | rz | rdn | rup
deriving DecidableEq, Repr

/-- mod[1:0] as a rounding mode (R41). -/
def rmodeOf (m : BitVec 4) : RMode :=
  match bitsOf m 0 2 with
  | 0 => .rne
  | 1 => .rz
  | 2 => .rdn
  | _ => .rup

/-- A floating format (R93, R94): width, fraction bits, bias, code of the largest finite magnitude, code of infinity if it
has one, code of its canonical NaN if it has one, whether subnormals are flushed (R96), whether conversions into it always
saturate (R100). -/
structure FFmt where
  w : Nat
  m : Nat
  bias : Nat
  maxCode : Nat
  inf : Option Nat
  nan : Option Nat
  flush : Bool
  sat : Bool
deriving DecidableEq, Repr

/-- FP64 (R93, R94). -/
def fp64 : FFmt := { w := 64, m := 52, bias := 1023, maxCode := 0x7FEFFFFFFFFFFFFF, inf := some 0x7FF0000000000000,
                     nan := some 0x7FF8000000000000, flush := false, sat := false }
/-- FP32 (R93, R94). -/
def fp32 : FFmt := { w := 32, m := 23, bias := 127, maxCode := 0x7F7FFFFF, inf := some 0x7F800000, nan := some 0x7FC00000,
                     flush := false, sat := false }
/-- FP16 (R93, R94). -/
def fp16 : FFmt := { w := 16, m := 10, bias := 15, maxCode := 0x7BFF, inf := some 0x7C00, nan := some 0x7E00,
                     flush := false, sat := false }
/-- BF16 (R93, R94). -/
def bf16 : FFmt := { w := 16, m := 7, bias := 127, maxCode := 0x7F7F, inf := some 0x7F80, nan := some 0x7FC0,
                     flush := false, sat := false }
/-- E5M2 (R93, R94). -/
def e5m2 : FFmt := { w := 8, m := 2, bias := 15, maxCode := 0x7B, inf := some 0x7C, nan := some 0x7E, flush := true,
                     sat := false }
/-- E4M3 (R93, R94). -/
def e4m3 : FFmt := { w := 8, m := 3, bias := 7, maxCode := 0x7E, inf := none, nan := some 0x7F, flush := true, sat := true }
/-- E2M1 (R93 to R95). -/
def e2m1 : FFmt := { w := 4, m := 1, bias := 1, maxCode := 0x7, inf := none, nan := none, flush := false, sat := true }

/-- The format of a floating type; FP32 for the others. -/
def fmtOf (t : Ty) : FFmt :=
  match t with
  | .fp64 => fp64
  | .fp16 => fp16
  | .bf16 => bf16
  | .e4m3x4 => e4m3
  | .e5m2x4 => e5m2
  | .e2m1x8 => e2m1
  | _ => fp32

/-- Whether a type is floating. -/
def isFloat (t : Ty) : Bool :=
  t == .fp32 || t == .fp64 || t == .fp16 || t == .bf16 || t == .e4m3x4 || t == .e5m2x4 || t == .e2m1x8

/-- A floating value: a NaN, an infinity, or (-1)^neg × n × 2^e exactly. -/
inductive FVal where
  | nan (signalling : Bool)
  | inf (neg : Bool)
  | fin (neg : Bool) (n : Nat) (e : Int)
deriving DecidableEq, Repr

/-- A magnitude to be rounded: it lies at n × 2^e when `sticky` is false, and strictly between n × 2^e and (n + 1) × 2^e
when it is true. -/
structure Approx where
  n : Nat
  e : Int
  sticky : Bool
deriving DecidableEq, Repr

/-- The exponent of the smallest normal. -/
def FFmt.emin (f : FFmt) : Int := 1 - (f.bias : Int)

/-- The sign bit of an encoding. -/
def FFmt.signBit (f : FFmt) (v : Nat) : Bool := v.testBit (f.w - 1)

/-- The value of an encoding (R93 to R96), and whether the encoding was flushed. -/
def decodeFloat (f : FFmt) (v : Nat) : FVal × Bool :=
  let neg := f.signBit v
  let code := v % 2 ^ (f.w - 1)
  let frac := code % 2 ^ f.m
  let ex := code / 2 ^ f.m
  let isNan := match f.inf with
    | some i => decide (i < code)
    | none => f.nan == some code
  if isNan then (.nan (f.inf.isSome && !f.flush && frac < 2 ^ (f.m - 1)), false)
  else if f.inf == some code then (.inf neg, false)
  else if ex = 0 then
    if f.flush then (.fin neg 0 0, frac != 0) else (.fin neg frac (f.emin - f.m), false)
  else (.fin neg (2 ^ f.m + frac) (ex - f.bias - f.m), false)

/-- The value of a register operand of a floating type (R39, R124). -/
def floatOf (t : Ty) (v : W64) : FVal := (decodeFloat (fmtOf t) (v.toNat % 2 ^ elemWidth t)).1

/-- The bits of a sign and a magnitude code. -/
def FFmt.signed (f : FFmt) (neg : Bool) (code : Nat) : Nat := code + (if neg then 2 ^ (f.w - 1) else 0)

/-- The canonical NaN of a format; +0 where it has none (R94, R100). -/
def FFmt.nanBits (f : FFmt) : Nat := f.nan.getD 0

/-- The largest number of bits k with 2^k ≤ n, 0 for n = 0. -/
def log2 (n : Nat) : Nat := Nat.log2 n

/-- Whether a mode rounds the magnitude up, from the discarded part: below, at, or above one half. -/
def roundsUp (md : RMode) (neg odd : Bool) (half : Ordering) (inexact : Bool) : Bool :=
  match md with
  | .rne => half == .gt || (half == .eq && odd)
  | .rz => false
  | .rdn => neg && inexact
  | .rup => !neg && inexact

/-- A magnitude rounded to a multiple of 2^q (R99): the multiple, and whether it is inexact. -/
def roundAt (md : RMode) (neg : Bool) (x : Approx) (q : Int) : Nat × Bool :=
  if q ≤ x.e then (x.n * 2 ^ (x.e - q).toNat, x.sticky)
  else
    let d := (q - x.e).toNat
    if x.n = 0 ∨ log2 x.n + 1 < d then
      let inexact := x.n != 0 || x.sticky
      (if roundsUp md neg false .lt inexact then 1 else 0, inexact)
    else
    let hi := x.n / 2 ^ d
    let lo := x.n % 2 ^ d
    let half := if lo < 2 ^ (d - 1) then Ordering.lt
      else if lo = 2 ^ (d - 1) ∧ x.sticky = false then Ordering.eq else Ordering.gt
    let inexact := lo != 0 || x.sticky
    (if roundsUp md neg (hi % 2 == 1) half inexact then hi + 1 else hi, inexact)

/-- The code of the magnitude r × 2^q, for q at or above the exponent of the smallest subnormal. -/
def FFmt.code (f : FFmt) (r : Nat) (q : Int) : Int := r + (q - (f.emin - f.m)) * 2 ^ f.m

/-- The result of overflow where nothing saturates (R99). -/
def overflowBits (f : FFmt) (md : RMode) (neg : Bool) : Nat :=
  let toInf := match md with
    | .rne => true
    | .rz => false
    | .rdn => neg
    | .rup => !neg
  f.signed neg (if toInf then f.inf.getD f.maxCode else f.maxCode)

/-- A nonzero magnitude rounded once to a format (R96, R99, R100): bits and flags. -/
def roundFin (f : FFmt) (md : RMode) (sat : Bool) (neg : Bool) (x : Approx) : Nat × W32 :=
  let q1 := (log2 x.n : Int) + x.e - f.m
  let r1 := roundAt md neg x q1
  let big := f.code r1.1 q1
  if (f.maxCode : Int) < big then
    if sat then (f.signed neg f.maxCode, flSAT ||| flNX) else (overflowBits f md neg, flOF ||| flNX)
  else
    let tiny := decide ((log2 r1.1 : Int) + q1 < f.emin)
    if f.flush then
      if (log2 r1.1 : Int) + q1 < f.emin then (f.signed neg 0, flUF ||| flNX ||| flFZ)
      else (f.signed neg big.toNat, flagIf r1.2 flNX)
    else
      let q := max q1 (f.emin - f.m)
      let r := roundAt md neg x q
      (f.signed neg (f.code r.1 q).toNat, flagIf r.2 flNX ||| flagIf (tiny && r.2) flUF)

/-- A magnitude rounded to a format; a zero keeps its sign. -/
def roundTo (f : FFmt) (md : RMode) (sat : Bool) (neg : Bool) (x : Approx) : Nat × W32 :=
  if x.n = 0 then (f.signed neg 0, 0) else roundFin f md sat neg x

/-- A value converted to a format (R98, R100); `sat` is a saturating instruction. -/
def convFloat (f : FFmt) (md : RMode) (sat : Bool) (v : FVal) : Nat × W32 :=
  match v with
  | .nan sig => (f.nanBits, flagIf (sig || f.sat) flNV)
  | .inf neg =>
    if sat || f.sat then (f.signed neg f.maxCode, flSAT) else (f.signed neg (f.inf.getD f.maxCode), 0)
  | .fin neg n e => roundTo f md (sat || f.sat) neg { n := n, e := e, sticky := false }

/-- The result of an operation on values: a value with flags raised by the operation itself. -/
def invalid : FVal × W32 := (.nan false, flNV)

/-- The signalling flag of a value (R98). -/
def FVal.sigFlag (v : FVal) : W32 := match v with | .nan s => flagIf s flNV | _ => 0

/-- Whether a value is a NaN. -/
def FVal.isNan (v : FVal) : Bool := match v with | .nan _ => true | _ => false

/-- The sign of a value; a NaN counts as positive. -/
def FVal.negative (v : FVal) : Bool := match v with | .nan _ => false | .inf n => n | .fin n _ _ => n

/-- A value with its sign flipped. -/
def FVal.flip (v : FVal) : FVal := match v with | .nan s => .nan s | .inf n => .inf !n | .fin n m e => .fin (!n) m e

/-- The exact product of two values (R127, R136). -/
def mulVals (a b : FVal) : FVal × W32 :=
  match a, b with
  | .nan s, y => (.nan false, flagIf s flNV ||| y.sigFlag)
  | x, .nan s => (.nan false, flagIf s flNV ||| x.sigFlag)
  | .inf n, .inf k => (.inf (n != k), 0)
  | .inf n, .fin k m _ => if m = 0 then invalid else (.inf (n != k), 0)
  | .fin n m _, .inf k => if m = 0 then invalid else (.inf (n != k), 0)
  | .fin n m e, .fin k l g => (.fin (n != k) (m * l) (e + g), 0)

/-- The signed integer that a finite value is at scale 2^q, for q at most its exponent. -/
def scaleTo (v : FVal) (q : Int) : Int :=
  match v with
  | .fin n m e => (if n then -1 else 1) * (m * 2 ^ (e - q).toNat : Nat)
  | _ => 0

/-- The least exponent of the finite values of a list. -/
def minExp (vs : List FVal) : Int :=
  vs.foldl (fun q v => match v with | .fin _ _ e => min q e | _ => q) 0

/-- The exact sum of terms (R127, R136, R149): NaNs, opposing infinities, and the sign of an exact zero in a mode
(log entry 17). A NaN term gives the canonical NaN and NV for a signalling NaN alone, beside infinities of both signs too, for which R127
has no case (log entry 80). -/
def sumVals (md : RMode) (vs : List FVal) : FVal × W32 :=
  let sig := vs.foldl (fun acc v => acc ||| v.sigFlag) 0
  if vs.any FVal.isNan then (.nan false, sig)
  else
    let pos := vs.any fun v => v == .inf false
    let neg := vs.any fun v => v == .inf true
    if pos && neg then invalid
    else if pos then (.inf false, 0)
    else if neg then (.inf true, 0)
    else
      let q := minExp vs
      let t := vs.foldl (fun acc v => acc + scaleTo v q) 0
      if t = 0 then
        let allNeg := vs.all FVal.negative
        let allPos := vs.all fun v => !v.negative
        (.fin (if allNeg then true else if allPos then false else md == .rdn) 0 0, 0)
      else (.fin (t < 0) t.natAbs q, 0)

/-- An operation's value rounded once to a type's format, with all flags (R99). -/
def finish (f : FFmt) (md : RMode) (r : FVal × W32) : Nat × W32 :=
  let c := convFloat f md false r.1
  (c.1, c.2 ||| r.2)

/-- The mode in which an instruction of the BF16 arithmetic of R125 rounds. -/
def arithMode (t : Ty) (m : BitVec 4) : RMode := if t == .bf16 then .rne else rmodeOf m

/-- A pair of bits and flags as a register value and flags. -/
def asReg (r : Nat × W32) : W64 × W32 := (BitVec.ofNat 64 r.1, r.2)

/-- FADD (R127). -/
def faddT (t : Ty) (m : BitVec 4) (a b : W64) : W64 × W32 :=
  let md := arithMode t m
  asReg (finish (fmtOf t) md (sumVals md [floatOf t a, floatOf t b]))
/-- FSUB (R127). -/
def fsubT (t : Ty) (m : BitVec 4) (a b : W64) : W64 × W32 :=
  let md := arithMode t m
  asReg (finish (fmtOf t) md (sumVals md [floatOf t a, (floatOf t b).flip]))
/-- FMUL (R127). -/
def fmulT (t : Ty) (m : BitVec 4) (a b : W64) : W64 × W32 :=
  let md := arithMode t m
  asReg (finish (fmtOf t) md (mulVals (floatOf t a) (floatOf t b)))
/-- FFMA (R127): an invalid product sets NV even beside a quiet NaN addend. -/
def ffmaT (t : Ty) (m : BitVec 4) (a b c : W64) : W64 × W32 :=
  let md := arithMode t m
  let p := mulVals (floatOf t a) (floatOf t b)
  let r := sumVals md [p.1, floatOf t c]
  asReg (finish (fmtOf t) md (r.1, r.2 ||| p.2))

/-- The quotient of two finite nonzero magnitudes. -/
def divApprox (m : Nat) (e : Int) (l : Nat) (g : Int) : Approx :=
  let k := 64 + log2 l
  { n := m * 2 ^ k / l, e := e - g - k, sticky := m * 2 ^ k % l != 0 }

/-- A division rounded once (R127, R132). -/
def divVals (f : FFmt) (md : RMode) (a b : FVal) : Nat × W32 :=
  match a, b with
  | .nan s, y => (f.nanBits, flagIf s flNV ||| y.sigFlag)
  | x, .nan s => (f.nanBits, flagIf s flNV ||| x.sigFlag)
  | .inf _, .inf _ => (f.nanBits, flNV)
  | .inf n, .fin k _ _ => (f.signed (n != k) (f.inf.getD 0), 0)
  | .fin n _ _, .inf k => (f.signed (n != k) 0, 0)
  | .fin n m e, .fin k l g =>
    if l = 0 then (if m = 0 then (f.nanBits, flNV) else (f.signed (n != k) (f.inf.getD 0), flDZ))
    else if m = 0 then (f.signed (n != k) 0, 0)
    else roundTo f md false (n != k) (divApprox m e l g)
/-- FDIV (R127). -/
def fdivT (t : Ty) (m : BitVec 4) (a b : W64) : W64 × W32 :=
  asReg (divVals (fmtOf t) (arithMode t m) (floatOf t a) (floatOf t b))
/-- FRCP (R132). -/
def frcpT (t : Ty) (m : BitVec 4) (a : W64) : W64 × W32 :=
  asReg (divVals (fmtOf t) (arithMode t m) (.fin false 1 0) (floatOf t a))

/-- The integer square root of a number below 2^(2k), bit by bit. -/
def isqrt (k n : Nat) : Nat :=
  (List.range k).foldl (fun r i => let c := r + 2 ^ (k - 1 - i); if c * c ≤ n then c else r) 0

/-- The square root of a nonzero magnitude. -/
def sqrtApprox (m : Nat) (e : Int) : Approx :=
  let k : Nat := if (e - 128) % 2 = 0 then 128 else 129
  let v := m * 2 ^ k
  let r := isqrt (log2 v / 2 + 1) v
  { n := r, e := (e - k) / 2, sticky := r * r != v }

/-- FSQRT (R127). -/
def fsqrtT (t : Ty) (m : BitVec 4) (a : W64) : W64 × W32 :=
  let f := fmtOf t
  asReg (match floatOf t a with
    | .nan s => (f.nanBits, flagIf s flNV)
    | .inf neg => if neg then (f.nanBits, flNV) else (f.signed false (f.inf.getD 0), 0)
    | .fin neg n e =>
      if n = 0 then (f.signed neg 0, 0)
      else if neg then (f.nanBits, flNV)
      else roundTo f (arithMode t m) false false (sqrtApprox n e))

/-- The reciprocal square root of a nonzero magnitude. -/
def rsqApprox (m : Nat) (e : Int) : Approx :=
  let ev := if e % 2 = 0 then (m, e) else (2 * m, e - 1)
  let k := 64 + log2 ev.1
  let v := 2 ^ (2 * k) / ev.1
  let r := isqrt (log2 v / 2 + 1) v
  { n := r, e := -(ev.2 / 2) - k, sticky := r * r * ev.1 != 2 ^ (2 * k) }

/-- FRSQ (R132). -/
def frsqT (t : Ty) (m : BitVec 4) (a : W64) : W64 × W32 :=
  let f := fmtOf t
  asReg (match floatOf t a with
    | .nan s => (f.nanBits, flagIf s flNV)
    | .inf neg => if neg then (f.nanBits, flNV) else (0, 0)
    | .fin neg n e =>
      if n = 0 then (f.signed neg (f.inf.getD 0), flDZ)
      else if neg then (f.nanBits, flNV)
      else roundTo f (arithMode t m) false false (rsqApprox n e))

/-- Whether finite or infinite value `a` is below `b`; zeros of either sign are equal. -/
def ltVals (a b : FVal) : Bool :=
  match a, b with
  | .inf n, .inf k => n && !k
  | .inf n, _ => n
  | _, .inf k => !k
  | x, y => let q := minExp [x, y]; decide (scaleTo x q < scaleTo y q)

/-- FMIN and FMAX on values (R128): whether the first operand is chosen when neither is a NaN. -/
def minPicksA (isMax : Bool) (a b : FVal) : Bool :=
  let x := if isMax then b else a
  let y := if isMax then a else b
  if ltVals x y then true else if ltVals y x then false else x.negative || !y.negative

/-- FMIN and FMAX (R128). -/
def fminmaxT (isMax : Bool) (t : Ty) (a b : W64) : W64 × W32 :=
  let va := floatOf t a
  let vb := floatOf t b
  let fl := va.sigFlag ||| vb.sigFlag
  if va.isNan then (if vb.isNan then BitVec.ofNat 64 (fmtOf t).nanBits else b, fl)
  else if vb.isNan then (a, fl)
  else (if minPicksA isMax va vb then a else b, fl)

/-- FSCALE (R129). -/
def fscaleT (t : Ty) (m : BitVec 4) (a : W64) (b : Int) : W64 × W32 :=
  asReg (finish (fmtOf t) (rmodeOf m) (match floatOf t a with
    | .nan s => (.nan s, 0)
    | .inf n => (.inf n, 0)
    | .fin n k e => (.fin n k (e + b), 0)))

/-- FRND (R130). -/
def frndT (t : Ty) (m : BitVec 4) (a : W64) : W64 × W32 :=
  asReg (match floatOf t a with
    | .nan s => ((fmtOf t).nanBits, flagIf s flNV)
    | .fin n k e =>
      if e < 0 then
        ((roundTo (fmtOf t) .rne false n
          { n := (roundAt (rmodeOf m) n { n := k, e := e, sticky := false } 0).1, e := 0, sticky := false }).1, 0)
      else (a.toNat % 2 ^ elemWidth t, 0)
    | .inf _ => (a.toNat % 2 ^ elemWidth t, 0))

/-- FCOPYSIGN (R131). -/
def fcopysignT (t : Ty) (a b : W64) : W64 × W32 :=
  let f := fmtOf t
  asReg (match floatOf t a with
    | .nan s => (f.nanBits, flagIf s flNV)
    | _ => (f.signed (f.signBit b.toNat) (a.toNat % 2 ^ (f.w - 1)), 0))

/-- FCLASS (R133). -/
def fclassT (t : Ty) (a : W64) : W32 :=
  let f := fmtOf t
  BitVec.ofNat 32 (2 ^ (match floatOf t a with
    | .nan s => if s then 8 else 9
    | .inf n => if n then 0 else 7
    | .fin n k e =>
      if k = 0 then (if n then 3 else 4)
      else if (log2 k : Int) + e < f.emin then (if n then 2 else 5)
      else (if n then 1 else 6)))

/-- FCMP (R42, R121): the predicate and NV. -/
def fcmpT (c : BitVec 4) (t : Ty) (a b : W64) : Bool × W32 :=
  let va := floatOf t a
  let vb := floatOf t b
  let un := va.isNan || vb.isNan
  let lt := !un && ltVals va vb
  let gt := !un && ltVals vb va
  let eq := !un && !lt && !gt
  let r := match c.toNat with
    | 0 => eq
    | 1 => lt || gt
    | 2 => lt
    | 3 => lt || eq
    | 4 => gt
    | 5 => gt || eq
    | 6 => !un
    | 8 => un || eq
    | 9 => un || lt || gt
    | 10 => un || lt
    | 11 => un || lt || eq
    | 12 => un || gt
    | 13 => un || gt || eq
    | _ => un
  (r, if 2 ≤ c.toNat && c.toNat ≤ 5 && un then flNV else va.sigFlag ||| vb.sigFlag)

/-- A float converted to an integer type (R100). -/
def floatToInt (md : RMode) (signed : Bool) (w : Nat) (v : FVal) : Nat × W32 :=
  match v with
  | .nan _ => (0, flNV)
  | .inf n => (intBits w (if n then intMin signed w else intMax signed w), flNV)
  | .fin n k e =>
    let r := roundAt md n { n := k, e := e, sticky := false } 0
    let c := intClamp signed w (if n then -(r.1 : Int) else r.1)
    (intBits w c.1, if c.2 then flNV else flagIf r.2 flNX)

/-- An integer as a value. -/
def intVal (i : Int) : FVal := .fin (decide (i < 0)) i.natAbs 0

/-- CVT (R134). -/
def cvtT (src dst : Ty) (m : BitVec 4) (a : W64) : W64 × W32 :=
  let md := rmodeOf m
  let sat := m.getLsbD 2
  let i := intOf (isSigned src) (elemWidth src) a.toNat
  asReg (
    if isFloat src then
      if isFloat dst then convFloat (fmtOf dst) md sat (floatOf src a)
      else floatToInt md (isSigned dst) (elemWidth dst) (floatOf src a)
    else if isFloat dst then convFloat (fmtOf dst) md sat (intVal i)
    else if sat then
      let c := intClamp (isSigned dst) (elemWidth dst) i
      (intBits (elemWidth dst) c.1, flagIf c.2 flSAT)
    else (intBits (elemWidth dst) i, 0))

end Sys2Proof.Machine
end

