-- ==== Sys2Proof/Machine/Transcend.lean ====
section
/-! DEFINITION. The functions of R132 that are not algebraic: FEXP2, FLOG2, FSIN, FCOS and FTANH. Each is evaluated as a
fixed-point number with 320 fraction bits, of which the low 40 absorb every error of the evaluation, and the result is
rounded once. The values are irrational but for the operands that the definitions single out, so the discarded part is
never zero (log entry 25). -/

namespace Sys2Proof.Machine

/-- Fraction bits of the fixed-point evaluation. -/
def fxBits : Nat := 320

/-- The sum of atanh's series (1) or atan's series (-1) for 1/q-like arguments: Σ s^k z^(2k+1) / (2k+1), `terms` terms, in
fixed point with `p` fraction bits; `z` and `z2` are the argument and its square. -/
def oddSeries (p : Nat) (s : Int) (z : Int) (terms : Nat) : Int :=
  let z2 := z * z / 2 ^ p
  ((List.range terms).foldl (fun (acc : Int × Int) (k : Nat) =>
    (acc.1 + acc.2 / (2 * k + 1), s * (acc.2 * z2 / 2 ^ p))) (0, z)).1

/-- ln 2 in fixed point: 2 atanh(1/3). -/
def fxLn2 (p : Nat) : Int := 2 * oddSeries p 1 (2 ^ p / 3) (p / 3 + 4)

/-- π in fixed point: 16 atan(1/5) − 4 atan(1/239). -/
def fxPi (p : Nat) : Int :=
  16 * oddSeries p (-1) (2 ^ p / 5) (p / 4 + 4) - 4 * oddSeries p (-1) (2 ^ p / 239) (p / 15 + 4)

/-- e^x in fixed point for 0 ≤ x < 1. -/
def fxExp (p : Nat) (x : Int) : Int :=
  ((List.range (p / 3 + 16)).foldl (fun (acc : Int × Int) (k : Nat) =>
    (acc.1 + acc.2, acc.2 * x / 2 ^ p / (k + 1))) (0, 2 ^ p)).1

/-- sin x and cos x in fixed point for |x| ≤ 1. -/
def fxSinCos (p : Nat) (x : Int) : Int × Int :=
  let x2 := x * x / 2 ^ p
  let go (t : Int) (o : Nat) : Int := ((List.range (p / 6 + 16)).foldl (fun (acc : Int × Int) (k : Nat) =>
    (acc.1 + acc.2, -(acc.2 * x2 / 2 ^ p / ((2 * k + o + 1) * (2 * k + o + 2))))) (0, t)).1
  (go x 1, go (2 ^ p) 0)

/-- An irrational magnitude known to within 2^-280 from a fixed-point value. -/
def fxApprox (p : Nat) (v : Int) : Approx := { n := v.natAbs / 2 ^ 40, e := 40 - (p : Int), sticky := true }

/-- A finite value as a fixed-point integer, for values whose exponent is at least -p. -/
def fxOf (p : Nat) (v : FVal) : Int :=
  match v with
  | .fin n k e => (if n then -1 else 1) * (if 0 ≤ e + p then (k * 2 ^ (e + p).toNat : Nat) else (k / 2 ^ (-(e + p)).toNat : Nat))
  | _ => 0

/-- A magnitude just below k × 2^e. -/
def justBelow (k : Nat) (e : Int) : Approx := { n := k * 2 ^ 64 - 1, e := e - 64, sticky := true }
/-- A magnitude just above k × 2^e. -/
def justAbove (k : Nat) (e : Int) : Approx := { n := k * 2 ^ 64, e := e - 64, sticky := true }

/-- Whether a finite nonzero magnitude is below 2^-60. -/
def isTinyVal (k : Nat) (e : Int) : Bool := (log2 k : Int) + e < -60

/-- 2^x of a finite value that is not zero (R132): exact for integers. -/
def exp2Approx (neg : Bool) (k : Nat) (e : Int) : Approx :=
  if isTinyVal k e then (if neg then justBelow 1 0 else justAbove 1 0)
  else if 12 < (log2 k : Int) + e then { n := 1, e := if neg then -8192 else 8192, sticky := false }
  else
    let p := fxBits
    let x := fxOf p (.fin neg k e)
    let i := x / 2 ^ p
    let f := x % 2 ^ p
    if f = 0 then { n := 1, e := i, sticky := false }
    else
      let a := fxApprox p (fxExp p (f * fxLn2 p / 2 ^ p))
      { a with e := a.e + i }

/-- log₂ x of a finite positive value that is not a power of two (R132), with its sign. -/
def log2Approx (k : Nat) (e : Int) : Bool × Approx :=
  let p := fxBits
  let b := log2 k
  let i := (b : Int) + e
  -- m = k / 2^b in [1, 2); z = (m - 1) / (m + 1)
  let z : Int := (((k - 2 ^ b) * 2 ^ p / (k + 2 ^ b) : Nat) : Int)
  let v := i * 2 ^ p + 2 * oddSeries p 1 z (p / 3 + 4) * 2 ^ p / fxLn2 p
  (decide (v < 0), fxApprox p v)

/-- sin and cos of a finite nonzero value in fixed point, with exact argument reduction by multiples of π/2 (R132). -/
def sinCosFx (neg : Bool) (k : Nat) (e : Int) : Int × Int :=
  let p := fxBits
  let wide := p + 192
  let x := fxOf wide (.fin neg k e)
  let half := fxPi (wide + 160) / 2 ^ 161
  let q := (2 * x + half) / (2 * half)
  let r := (x - q * half) / 2 ^ 192
  let sc := fxSinCos p r
  match (q % 4).toNat with
  | 0 => (sc.1, sc.2)
  | 1 => (sc.2, -sc.1)
  | 2 => (-sc.1, -sc.2)
  | _ => (-sc.2, sc.1)

/-- tanh of a finite nonzero magnitude (R132). -/
def tanhApprox (k : Nat) (e : Int) : Approx :=
  if isTinyVal k e then justBelow k e
  else if 5 < (log2 k : Int) + e then justBelow 1 0
  else
    let p := fxBits
    -- e^(2x) = 2^(2x / ln 2)
    let y := 2 * fxOf p (.fin false k e)
    let ln2 := fxLn2 p
    let i := y / ln2
    let g := fxExp p (y - i * ln2) * 2 ^ i.toNat
    fxApprox p ((g - 2 ^ p) * 2 ^ p / (g + 2 ^ p))

/-- The functions of R132 with their special operands. -/
def transT (t : Ty) (m : BitVec 4) (a : W64) (spec : FVal → Option (FVal × W32))
    (fn : Bool → Nat → Int → Bool × Approx) : W64 × W32 :=
  let f := fmtOf t
  let md := arithMode t m
  let v := floatOf t a
  asReg (match v with
    | .nan s => (f.nanBits, flagIf s flNV)
    | _ =>
      match spec v with
      | some r => finish f md r
      | none =>
        match v with
        | .fin neg k e => let r := fn neg k e; roundTo f md false r.1 r.2
        | _ => (f.nanBits, flNV))

/-- The value one. -/
def oneVal : FVal := .fin false 1 0

/-- FEXP2 (R132). -/
def fexp2T (t : Ty) (m : BitVec 4) (a : W64) : W64 × W32 :=
  transT t m a
    (fun v => match v with
      | .inf n => some (if n then .fin false 0 0 else .inf false, 0)
      | .fin _ k _ => if k = 0 then some (oneVal, 0) else none
      | .nan _ => none)
    (fun neg k e => (false, exp2Approx neg k e))

/-- FLOG2 (R132). -/
def flog2T (t : Ty) (m : BitVec 4) (a : W64) : W64 × W32 :=
  transT t m a
    (fun v => match v with
      | .inf n => some (if n then invalid else (.inf false, 0))
      | .fin n k e =>
        if k = 0 then some (.inf true, flDZ)
        else if n then some invalid
        else if k = 2 ^ log2 k then some (intVal (log2 k + e), 0)
        else none
      | .nan _ => none)
    (fun _ k e => log2Approx k e)

/-- FSIN (R132). -/
def fsinT (t : Ty) (m : BitVec 4) (a : W64) : W64 × W32 :=
  transT t m a
    (fun v => match v with
      | .inf _ => some invalid
      | .fin n k e => if k = 0 then some (.fin n k e, 0) else none
      | .nan _ => none)
    (fun neg k e => if isTinyVal k e then (neg, justBelow k e)
      else let r := (sinCosFx neg k e).1; (decide (r < 0), fxApprox fxBits r))

/-- FCOS (R132). -/
def fcosT (t : Ty) (m : BitVec 4) (a : W64) : W64 × W32 :=
  transT t m a
    (fun v => match v with
      | .inf _ => some invalid
      | .fin _ k _ => if k = 0 then some (oneVal, 0) else none
      | .nan _ => none)
    (fun neg k e => if isTinyVal k e then (false, justBelow 1 0)
      else let r := (sinCosFx neg k e).2; (decide (r < 0), fxApprox fxBits r))

/-- FTANH (R132). -/
def ftanhT (t : Ty) (m : BitVec 4) (a : W64) : W64 × W32 :=
  transT t m a
    (fun v => match v with
      | .inf n => some (.fin n 1 0, 0)
      | .fin n k e => if k = 0 then some (.fin n k e, 0) else none
      | .nan _ => none)
    (fun neg k e => (neg, tanhApprox k e))

end Sys2Proof.Machine
end

