-- ==== Sys2Proof/Machine/Floating.lean ====
section
/-! DEFINITION. Class 010, the floating instructions, and FCMP (R121, R124 to R134). -/

namespace Sys2Proof.Machine

/-- The energy class and weight of a class-010 instruction (R302). -/
def floatEnergy (wide : Bool) : Nat × Nat := if wide then (2, 16) else (1, 1)

/-- A floating instruction of format A on A and B: result and flags per lane (R102, R124). -/
def floatA (f : AForm) (s : State) (op : W64 → W64 → W64 × W32) : Result :=
  let c := floatEnergy (f.ty == .fp64)
  .next (laneOp s f.g c.1 c.2 (fun _ _ x => x.wt f.ty f.d (op (f.va x) (f.vb x)).1)
    (fun _ _ x => (op (f.va x) (f.vb x)).2))

/-- A floating instruction on A and an FP32 literal (R47, R126). -/
def floatL (f : LForm) (s : State) (op : W64 → W64 → W64 × W32) : Result :=
  .next (laneOp s f.g 1 1 (fun _ _ x => x.wt f.ty f.d (op (f.va x) (f.lit.setWidth 64)).1)
    (fun _ _ x => (op (f.va x) (f.lit.setWidth 64)).2))

/-- FCMP (R121). -/
def execFcmp (f : AForm) (s : State) : Result :=
  .next (laneOp s f.g 0 1 (fun _ _ x => x.wp f.d (fcmpT f.mod f.ty (f.va x) (f.vb x)).1)
    (fun _ _ x => (fcmpT f.mod f.ty (f.va x) (f.vb x)).2))

/-- FFMA (R127). -/
def execFfma (f : CForm) (s : State) : Result :=
  let c := floatEnergy (f.ty == .fp64)
  .next (laneOp s f.g c.1 c.2 (fun _ _ x => x.wt f.ty f.d (ffmaT f.ty f.mod (f.va x) (f.vb x) (f.vc x)).1)
    (fun _ _ x => (ffmaT f.ty f.mod (f.va x) (f.vb x) (f.vc x)).2))

/-- FCLASS (R133). -/
def execFclass (f : AForm) (s : State) : Result :=
  let c := floatEnergy (f.ty == .fp64)
  .next (laneOp s f.g c.1 c.2 fun _ _ x => x.wv f.d (fclassT f.ty (f.va x)))

/-- FSCALE (R129): the exponent is a `v` register read as S32. -/
def execFscale (f : AForm) (s : State) : Result :=
  let c := floatEnergy (f.ty == .fp64)
  .next (laneOp s f.g c.1 c.2 (fun _ _ x => x.wt f.ty f.d (fscaleT f.ty f.mod (f.va x) (x.rv f.b).toInt).1)
    (fun _ _ x => (fscaleT f.ty f.mod (f.va x) (x.rv f.b).toInt).2))

/-- CVT's source type, ext[67:64] (R134). -/
def cvtSource (f : CForm) : Ty := tyOf (bitsOf f.ext 0 4)

/-- CVT (R134). -/
def execCvt (f : CForm) (s : State) : Result :=
  let c := floatEnergy (f.ty == .fp64 || cvtSource f == .fp64)
  .next (laneOp s f.g c.1 c.2 (fun _ _ x => x.wt f.ty f.d (cvtT (cvtSource f) f.ty f.mod (x.rt (cvtSource f) f.a)).1)
    (fun _ _ x => (cvtT (cvtSource f) f.ty f.mod (x.rt (cvtSource f) f.a)).2))

/-- FADD (R127). -/
def execFadd (f : AForm) (s : State) : Result := floatA f s (faddT f.ty f.mod)

/-- FSUB (R127). -/
def execFsub (f : AForm) (s : State) : Result := floatA f s (fsubT f.ty f.mod)

/-- FMUL (R127). -/
def execFmul (f : AForm) (s : State) : Result := floatA f s (fmulT f.ty f.mod)

/-- FDIV (R127). -/
def execFdiv (f : AForm) (s : State) : Result := floatA f s (fdivT f.ty f.mod)

/-- FMIN (R128). -/
def execFmin (f : AForm) (s : State) : Result := floatA f s (fminmaxT false f.ty)

/-- FMAX (R128). -/
def execFmax (f : AForm) (s : State) : Result := floatA f s (fminmaxT true f.ty)

/-- FCOPYSIGN (R131). -/
def execFcopysign (f : AForm) (s : State) : Result := floatA f s (fcopysignT f.ty)

/-- FSQRT (R127). -/
def execFsqrt (f : AForm) (s : State) : Result := floatA f s fun a _ => fsqrtT f.ty f.mod a

/-- FRCP (R132). -/
def execFrcp (f : AForm) (s : State) : Result := floatA f s fun a _ => frcpT f.ty f.mod a

/-- FRSQ (R132). -/
def execFrsq (f : AForm) (s : State) : Result := floatA f s fun a _ => frsqT f.ty f.mod a

/-- FEXP2 (R132). -/
def execFexp2 (f : AForm) (s : State) : Result := floatA f s fun a _ => fexp2T f.ty f.mod a

/-- FLOG2 (R132). -/
def execFlog2 (f : AForm) (s : State) : Result := floatA f s fun a _ => flog2T f.ty f.mod a

/-- FSIN (R132). -/
def execFsin (f : AForm) (s : State) : Result := floatA f s fun a _ => fsinT f.ty f.mod a

/-- FCOS (R132). -/
def execFcos (f : AForm) (s : State) : Result := floatA f s fun a _ => fcosT f.ty f.mod a

/-- FTANH (R132). -/
def execFtanh (f : AForm) (s : State) : Result := floatA f s fun a _ => ftanhT f.ty f.mod a

/-- FRND (R130). -/
def execFrnd (f : AForm) (s : State) : Result := floatA f s fun a _ => frndT f.ty f.mod a

/-- FADD with an FP32 literal (R47, R126, R127). -/
def execFaddL (f : LForm) (s : State) : Result := floatL f s (faddT f.ty f.mod)

/-- FMUL with an FP32 literal (R47, R126, R127). -/
def execFmulL (f : LForm) (s : State) : Result := floatL f s (fmulT f.ty f.mod)

end Sys2Proof.Machine
end

