-- ==== Sys2Proof/Machine/Packed.lean ====
section
/-! DEFINITION. Class 011: packed dot products, packing, block scales, quantisation and the exponent histogram (R103,
R135 to R145). -/

namespace Sys2Proof.Machine

/-! ### Dot products (R136) -/

/-- The exact integer sum of a dot product (R136). -/
def dotInt (t : Ty) (flip : Bool) (a b : W64) (c : Int) : Int :=
  let w := elemWidth t
  (List.range (elemsOf t)).foldl (fun acc i =>
    acc + intOf (isSigned t) w (elemAt w a i) * intOf (isSigned t != flip) w (elemAt w b i)) c

/-- An integer dot product (R136): the accumulator's new bits and SAT. -/
def dotIntT (t : Ty) (flip sat : Bool) (a b : W64) (c : W32) : W32 × W32 :=
  let v := dotInt t flip a b c.toInt
  if sat then
    let k := intClamp true 32 v
    (BitVec.ofInt 32 k.1, flagIf k.2 flSAT)
  else (BitVec.ofInt 32 v, 0)

/-- A floating dot product of `n` elements (R136): exact products and sum, one rounding to FP32. Opposing infinities among the terms
set NV, beside a NaN too. -/
def dotFloatT (t : Ty) (n : Nat) (md : RMode) (a b : W64) (c : W32) : W32 × W32 :=
  let f := fmtOf t
  let da := (List.range n).map fun i => decodeFloat f (elemAt f.w a i)
  let db := (List.range n).map fun i => decodeFloat f (elemAt f.w b i)
  let ps := (da.zip db).map fun p => mulVals p.1.1 p.2.1
  let fz := flagIf ((da ++ db).any fun p => p.2) flFZ
  let vs := ps.map (fun p => p.1) ++ [floatOf .fp32 (c.setWidth 64)]
  let r := sumVals md vs
  let nv := flagIf (vs.contains (.inf false) && vs.contains (.inf true)) flNV
  let o := finish fp32 md (r.1, ps.foldl (fun acc p => acc ||| p.2) (r.2 ||| fz ||| nv))
  (BitVec.ofNat 32 o.1, o.2)

/-- DOT8 and DOT4 on one lane's values (R136). -/
def dotT (f : CForm) (a b c : W32) : W32 × W32 :=
  if isFloat f.ty then dotFloatT f.ty (elemsOf f.ty) .rne (a.setWidth 64) (b.setWidth 64) c
  else dotIntT f.ty (f.ext.getLsbD 0) (f.mod.getLsbD 0) (a.setWidth 64) (b.setWidth 64) c

/-- A packed instruction of format C on the `v` registers a, b and c. -/
def packedC (f : CForm) (s : State) (op : W32 → W32 → W32 → W32 × W32) : Result :=
  .next (laneOp s f.g 3 1 (fun _ _ x => x.wv f.d (op (x.rv f.a) (x.rv f.b) (x.rv f.c)).1)
    (fun _ _ x => (op (x.rv f.a) (x.rv f.b) (x.rv f.c)).2))

/-- DOT8 (R136). -/
def execDot8 (f : CForm) (s : State) : Result := packedC f s (dotT f)

/-- DOT4 (R136). -/
def execDot4 (f : CForm) (s : State) : Result := packedC f s (dotT f)

/-- DOT2 (R136): both elements of the 32-bit registers, whatever R39 says of single values. -/
def execDot2 (f : CForm) (s : State) : Result :=
  packedC f s fun a b c => dotFloatT f.ty 2 (rmodeOf f.mod) (a.setWidth 64) (b.setWidth 64) c

/-! ### Packing (R137, R138) -/

/-- One value converted to an element for PACK (R137): saturating, RNE. -/
def packElem (t : Ty) (v : W32) : Nat × W32 :=
  if isFloat t then convFloat (fmtOf t) .rne true (floatOf .fp32 (v.setWidth 64))
  else
    let c := intClamp (isSigned t) (elemWidth t) (intOf (isSigned t) 32 v.toNat)
    (intBits (elemWidth t) c.1, flagIf c.2 flSAT)

/-- Replace element `i` of a `v` register (R5). -/
def putElem (w : Nat) (v : W32) (i e : Nat) : W32 := (setElem w (v.setWidth 64) i e).setWidth 32

/-- PACK (R137). -/
def packT (t : Ty) (k : Nat) (d a b : W32) : W32 × W32 :=
  let x := packElem t a
  let y := packElem t b
  (putElem (elemWidth t) (putElem (elemWidth t) d (2 * k) x.1) (2 * k + 1) y.1, x.2 ||| y.2)

/-- PACK (R137). -/
def execPack (f : AForm) (s : State) : Result :=
  .next (laneOp s f.g 3 1
    (fun _ _ x => x.wv f.d (packT f.ty (bitsOf f.mod 0 2) (x.rv f.d) (x.rv f.a) (x.rv f.b)).1)
    (fun _ _ x => (packT f.ty (bitsOf f.mod 0 2) (x.rv f.d) (x.rv f.a) (x.rv f.b)).2))

/-- UNPACK (R138). -/
def unpackT (t : Ty) (i : Nat) (a : W32) : W32 × W32 :=
  let e := elemAt (elemWidth t) (a.setWidth 64) i
  if isFloat t then
    let d := decodeFloat (fmtOf t) e
    (BitVec.ofNat 32 (convFloat fp32 .rne false d.1).1, flagIf d.2 flFZ)
  else (BitVec.ofInt 32 (intOf (isSigned t) (elemWidth t) e), 0)

/-- UNPACK (R138). -/
def execUnpack (f : AForm) (s : State) : Result :=
  .next (laneOp s f.g 3 1 (fun _ _ x => x.wv f.d (unpackT f.ty (bitsOf f.mod 0 3) (x.rv f.a)).1)
    (fun _ _ x => (unpackT f.ty (bitsOf f.mod 0 3) (x.rv f.a)).2))

/-! ### Block scales (R103, R139) -/

/-- The index of element `i` of lane `l` in its row group, with `n` elements a lane (R103). -/
def groupIndex (n l i : Nat) : Nat := l * n + i

/-- The E8 scale of element `e` of a row group (R103): byte select `sel`, scale register `r`. A lane without a live fibre
gives 0xFF. -/
def blockScale (g : Gang) (r sel e : Nat) : Nat :=
  let k := e / 32
  let l := 8 * k % 32
  if (g.lane l).status == .absent then 0xFF else bitsOf ((g.lane l).rv r) (8 * ((sel + k / 4) % 4)) 8

/-- How many elements of a type lie in one `v` register for the scale map: one for FP32 (R139). -/
def scaleCount (t : Ty) : Nat := if t == .fp32 then 1 else elemsOf t

/-- Byte select and element index of SCL, QNT and QNTSR (R135). -/
def sclSel (f : CForm) : Nat := bitsOf f.ext 0 2
/-- See `sclSel`. -/
def sclElem (f : CForm) : Nat := bitsOf f.ext 2 3

/-- SCL (R139) for a lane. -/
def sclT (f : CForm) (scale : Nat) (a : W32) : W32 × W32 :=
  let d := decodeFloat (fmtOf f.ty) (elemAt (fmtOf f.ty).w (a.setWidth 64) (sclElem f))
  let fz := flagIf d.2 flFZ
  if scale = 0xFF then (BitVec.ofNat 32 fp32.nanBits, flNV ||| fz ||| d.1.sigFlag)
  else
    let p := mulVals d.1 (.fin false 1 ((scale : Int) - 127))
    let r := finish fp32 (rmodeOf f.mod) p
    (BitVec.ofNat 32 r.1, r.2 ||| fz)

/-- The scale of a lane's element in SCL, QNT and QNTSR. -/
def laneScale (f : CForm) (g : Gang) (l : Nat) : Nat :=
  blockScale g f.b (sclSel f) (groupIndex (scaleCount f.ty) l (sclElem f))

/-- SCL (R139). -/
def execScl (f : CForm) (s : State) : Result :=
  .next (laneOp s f.g 3 1 (fun g l x => x.wv f.d (sclT f (laneScale f g l) (x.rv f.a)).1)
    (fun g l x => (sclT f (laneScale f g l) (x.rv f.a)).2))

/-! ### Quantisation (R140, R141) -/

/-- Whether a finite magnitude n × 2^e is above l × 2^g. -/
def magAbove (n : Nat) (e : Int) (l : Nat) (g : Int) : Bool :=
  let q := min e g
  decide (l * 2 ^ (g - q).toNat < n * 2 ^ (e - q).toNat)

/-- The largest finite magnitude of a format as n × 2^e (R94). -/
def FFmt.maxMag (f : FFmt) : Nat × Int :=
  match (decodeFloat f f.maxCode).1 with
  | .fin _ n e => (n, e)
  | _ => (0, 0)

/-- The scaled value x = A × 2^(127 − s) of R140 for a finite A. -/
def scaledBy (v : FVal) (scale : Nat) : FVal :=
  match v with
  | .fin n k e => .fin n k (e + 127 - scale)
  | x => x

/-- A NaN operand of QNT (R140). -/
def qntNan (t : Ty) (sig scaleNan : Bool) : Nat × W32 :=
  if t == .e5m2x4 then (0x7E, flagIf (sig || scaleNan) flNV) else if t == .e4m3x4 then (0x7F, flNV) else (0, flNV)

/-- The integer bound for the sign of x (R140). -/
def intBound (t : Ty) (neg : Bool) : Nat :=
  intBits (elemWidth t) (if neg then intMin (isSigned t) (elemWidth t) else intMax (isSigned t) (elemWidth t))

/-- Quantisation of a value to an element (R140), where `pick` rounds a value in range: it gives bits and flags for a
sign, a nonzero magnitude and its exponent. -/
def qntVal (t : Ty) (scale : Nat) (v : FVal) (pick : Bool → Nat → Int → Nat × W32) : Nat × W32 :=
  let f := fmtOf t
  match v with
  | .nan sig => qntNan t sig (scale == 0xFF)
  | .inf neg =>
    if scale = 0xFF then qntNan t false true
    else (if isFloat t then f.signed neg f.maxCode else intBound t neg, flSAT)
  | .fin neg n e0 =>
    if scale = 0xFF then qntNan t false true
    else
      let e := e0 + 127 - (scale : Int)
      if isFloat t then
        if magAbove n e f.maxMag.1 f.maxMag.2 then (f.signed neg f.maxCode, flSAT ||| flNX)
        else if n = 0 then (f.signed neg 0, 0) else pick neg n e
      else
        let b : Int := if neg then -(intMin (isSigned t) (elemWidth t)) else intMax (isSigned t) (elemWidth t)
        if magAbove n e b.toNat 0 then (intBound t neg, flSAT ||| flNX)
        else if n = 0 then (0, 0) else pick neg n e

/-- Quantisation of an FP32 register value (R140). -/
def qntWith (t : Ty) (scale : Nat) (a : W32) (pick : Bool → Nat → Int → Nat × W32) : Nat × W32 :=
  qntVal t scale (floatOf .fp32 (a.setWidth 64)) pick

/-- QNT's rounding of a value in range (R140). -/
def qntRound (t : Ty) (md : RMode) (neg : Bool) (n : Nat) (e : Int) : Nat × W32 :=
  if isFloat t then roundTo (fmtOf t) md true neg { n := n, e := e, sticky := false }
  else
    let r := roundAt md neg { n := n, e := e, sticky := false } 0
    (intBits (elemWidth t) (if neg then -(r.1 : Int) else r.1), flagIf r.2 flNX)

/-- QNT on a lane's values: the new register (R140). -/
def qntT (f : CForm) (scale : Nat) (d a : W32) : W32 × W32 :=
  let r := qntWith f.ty scale a (qntRound f.ty (rmodeOf f.mod))
  (putElem (elemWidth f.ty) d (sclElem f) r.1, r.2)

/-- QNT (R140). -/
def execQnt (f : CForm) (s : State) : Result :=
  .next (laneOp s f.g 3 1 (fun g l x => x.wv f.d (qntT f (laneScale f g l) (x.rv f.d) (x.rv f.a)).1)
    (fun g l x => (qntT f (laneScale f g l) (x.rv f.d) (x.rv f.a)).2))

/-- The six words of R141 for a fibre; those of the firmware fibre, which R141 does not give, are the words of its cleared fields (log
entry 80). -/
def hashWords (x : Fibre) : List W32 :=
  let n (k : Nat) : W32 := BitVec.ofNat 32 k
  match x.name with
  | .launched bx byy bz fib => [n x.job, n x.launchNo, n bx, n byy, n bz, n fib]
  | .spawned k | .service k => [n x.job, 0xFFFFFFFF, n k, n (k / 2 ^ 32 % 2 ^ 16), 0, 0]

/-- The 24-bit value u of R141. -/
def hashU (x : Fibre) (seed : W32) (e : Nat) : Nat :=
  let h := (hashWords x ++ [seed, BitVec.ofNat 32 e]).foldl (fun (h w : W32) =>
    let k := (h ^^^ w) * 0x85EBCA6B
    k ^^^ (k >>> 13)) 0x9E3779B9
  let h2 := h * 0xC2B2AE35
  bitsOf (h2 ^^^ (h2 >>> 16)) 8 24

/-- The exponent of the spacing of a target's value set at a magnitude (R141). -/
def setQuantum (t : Ty) (n : Nat) (e : Int) : Int :=
  if isFloat t then
    let b := (log2 n : Int) + e
    (if (fmtOf t).flush then b else max b (fmtOf t).emin) - (fmtOf t).m
  else 0

/-- QNTSR's choice between the neighbours of a value in range (R141): t24 against u (log entry 31). -/
def srRound (t : Ty) (u : Nat) (neg : Bool) (n : Nat) (e : Int) : Nat × W32 :=
  let q := setQuantum t n e
  if q ≤ e then qntRound t .rne neg n e
  else
    let d := (q - e).toNat
    let lo := n / 2 ^ d
    let part := n % 2 ^ d
    if part = 0 then qntRound t .rne neg n e
    else
      -- (x - lo) / (hi - lo) of the signed neighbours
      let num := if neg then 2 ^ d - part else part
      let t24 := 2 ^ 24 * num / 2 ^ d
      let hiChosen := decide (u < t24)
      let mag := if neg == hiChosen then lo else lo + 1
      if isFloat t then
        let f := fmtOf t
        let r := roundTo f .rne true neg { n := mag, e := q, sticky := false }
        let low := mag = 0 ∨ (log2 mag : Int) + q < f.emin
        (r.1, flNX ||| flagIf (decide low) (flUF ||| flagIf f.flush flFZ))
      else (intBits (elemWidth t) (if neg then -(mag : Int) else mag), flNX)

/-- QNTSR on a lane's values (R141). -/
def qntsrT (f : CForm) (scale l : Nat) (x : Fibre) : W32 × W32 :=
  let u := hashU x (x.rv f.c) (groupIndex (scaleCount f.ty) l (sclElem f))
  let r := qntWith f.ty scale (x.rv f.a) (srRound f.ty u)
  (putElem (elemWidth f.ty) (x.rv f.d) (sclElem f) r.1, r.2)

/-- QNTSR (R141). -/
def execQntsr (f : CForm) (s : State) : Result :=
  .next (laneOp s f.g 3 1 (fun g l x => x.wv f.d (qntsrT f (laneScale f g l) l x).1)
    (fun g l x => (qntsrT f (laneScale f g l) l x).2))

/-! ### The exponent histogram (R142 to R145) -/

/-- The bin that HIST counts a value in, if any (R143). -/
def histBin (v : FVal) : Option Nat :=
  match v with
  | .nan _ => none
  | .inf _ => some 63
  | .fin _ n e => if n = 0 then none else some ((max 0 (min 63 ((log2 n : Int) + e + 32))).toNat)

/-- HIST (R142, R143): the counts belong to the commit region; the firmware context counts nothing. -/
def execHist (f : AForm) (s : State) : Result :=
  .next (match s.curGang? with
    | none => s
    | some g =>
      let e := execLanes s g f.g
      let bins := (lanesOf e).filterMap fun l => histBin (floatOf f.ty (f.va (g.lane l)))
      let g1 := g.advance (groupLanes s g) s.cur.next
      let g2 := { g1 with region := { g1.region with hist := if s.inFirmware then [] else g1.region.hist ++ bins } }
      s.putCur (g2.charge 3 (countLanes e)))

/-- Apply HIST's increments at a commit (R143): a counter stays at 2^32 − 1. -/
def addHist (h : TMap W32) (bins : List Nat) : TMap W32 :=
  bins.foldl (fun m b => let c := mget 0 m b; mset m b (if c = BitVec.allOnes 32 then c else c + 1)) h

/-- The result of HCLIP on a histogram (R145). -/
def hclipOf (h : TMap W32) (p : Nat) : W32 :=
  let n := (List.range 64).foldl (fun acc j => acc + (mget 0 h j).toNat) 0
  if n = 0 then 0x80000000
  else
    let t := (n * (9900 + p) + 9999) / 10000
    let j := ((List.range 64).foldl (fun (acc : Nat × Option Nat) j =>
      let c := acc.1 + (mget 0 h j).toNat
      (c, if acc.2.isSome then acc.2 else if t ≤ c then some j else none)) (0, none)).2
    BitVec.ofInt 32 ((j.getD 63 : Nat) - 32 : Int)

/-- HCLIP (R142, R144, R145). With an empty EXEC nothing is read, and `.clr` clears nothing (log entry 80). -/
def execHclip (f : IForm) (s : State) : Result :=
  .next (match s.curGang? with
    | none => s
    | some g =>
      let h := if s.inFirmware then [] else mget [] s.curCore.hist g.ctx
      let r := hclipOf h (bitsOf f.imm 0 7)
      let any := execLanes s g f.g != 0
      let s1 := laneOp s f.g 3 1 fun _ _ x => x.wv f.d r
      if f.imm.getLsbD 7 && any && !s.inFirmware then
        s1.modCore s.cur.core fun k => { k with hist := mset k.hist g.ctx [] }
      else s1)

end Sys2Proof.Machine
end

