-- ==== Sys2Proof/Machine/GangOps.lean ====
section
/-! DEFINITION. The gang instructions 0x158 to 0x15D (R146 to R149). -/

namespace Sys2Proof.Machine

/-! ### SHFL, VOTE, BALLOT, ELECT (R147, R148) -/

/-- SHFL's source lane and whether the mode's condition holds (R147), for segment size `sz`. -/
def shflSource (mode sz l b : Nat) : Nat × Bool :=
  let s0 := l - l % sz
  match mode with
  | 0 => (s0 + b % sz, true)
  | 1 => (l - b, b ≤ l - s0)
  | 2 => (l + b, b < s0 + sz - l)
  | _ => (l ^^^ (b % sz), true)

/-- SHFL (R147). -/
def execShfl (f : CForm) (s : State) : Result :=
  .next (laneOp s f.g 3 1 fun g l x =>
    let src := shflSource (bitsOf f.mod 0 2) (2 ^ bitsOf f.ext 0 3) l (x.rv f.b).toNat
    let ok := src.2 && (execLanes s g f.g).getLsbD src.1
    (x.wt f.ty f.d (f.va (if ok then g.lane src.1 else x))).wp f.c ok)

/-- The lanes of EXEC whose predicate a is 1. -/
def predLanes (f : AForm) (s : State) (g : Gang) : Mask :=
  maskOf fun l => (execLanes s g f.g).getLsbD l && (g.lane l).rp f.a

/-- VOTE's value (R148). -/
def voteOf (mode : Nat) (exec yes : Mask) : Bool :=
  match mode with
  | 0 => yes == exec
  | 1 => yes != 0
  | _ => yes == exec || yes == 0

/-- VOTE (R148). -/
def execVote (f : AForm) (s : State) : Result :=
  .next (laneOp s f.g 3 1 fun g _ x => x.wp f.d (voteOf (bitsOf f.mod 0 2) (execLanes s g f.g) (predLanes f s g)))

/-- BALLOT (R148). -/
def execBallot (f : AForm) (s : State) : Result :=
  .next (laneOp s f.g 3 1 fun g _ x => x.wv f.d (predLanes f s g))

/-- ELECT (R148). -/
def execElect (f : AForm) (s : State) : Result :=
  .next (laneOp s f.g 3 1 fun g l x => x.wp f.d (l == lowLane (execLanes s g f.g)))

/-! ### GREDUCE and GSCAN (R149) -/

/-- The combination of integer values (R149), wrapping; none for no value. -/
def foldInt (t : Ty) (op : Nat) (vs : List W64) : W64 :=
  let w := elemWidth t
  let comb (a b : W64) : W64 :=
    match op with
    | 0 => intOp t (· + ·) a b
    | 1 => intOp t (fun x y => if x < y then x else y) a b
    | 2 => intOp t (fun x y => if x > y then x else y) a b
    | 3 => a &&& b
    | 4 => a ||| b
    | _ => a ^^^ b
  match vs with
  | [] => BitVec.ofNat 64 (match op with
    | 1 => intBits w (intMax (isSigned t) w)
    | 2 => intBits w (intMin (isSigned t) w)
    | 3 => 2 ^ w - 1
    | _ => 0)
  | v :: r => r.foldl comb v

/-- The combination of floating values (R149): 0 is the exact sum, 1 FMIN, 2 FMAX. -/
def foldFloat (t : Ty) (m : BitVec 4) (op : Nat) (vs : List W64) : W64 × W32 :=
  let f := fmtOf t
  let sig := vs.foldl (fun acc v => acc ||| (floatOf t v).sigFlag) 0
  match op, vs with
  | 0, [] => (0, 0)
  | 0, vs => asReg (finish f (rmodeOf m) (sumVals (rmodeOf m) (vs.map (floatOf t))))
  | 1, [] => (BitVec.ofNat 64 (f.inf.getD 0), 0)
  | _, [] => (BitVec.ofNat 64 (f.signed true (f.inf.getD 0)), 0)
  | k, v :: r =>
    let o := r.foldl (fun a b => (fminmaxT (k == 2) t a b).1) v
    (if (floatOf t o).isNan then BitVec.ofNat 64 f.nanBits else o, sig)

/-- The floating operation that mod selects (R149). -/
def floatOpOf (scan : Bool) (m : BitVec 4) : Nat :=
  if !m.getLsbD 2 then 0 else if scan || m.getLsbD 3 then 2 else 1

/-- The combination of GREDUCE and GSCAN over a list of lanes. -/
def combine (f : AForm) (scan : Bool) (g : Gang) (ls : List Nat) : W64 × W32 :=
  let vs := ls.map fun l => f.va (g.lane l)
  if isFloat f.ty then foldFloat f.ty f.mod (floatOpOf scan f.mod) vs else (foldInt f.ty (bitsOf f.mod 0 3) vs, 0)

/-- GREDUCE (R149). -/
def execGreduce (f : AForm) (s : State) : Result :=
  .next (laneOp s f.g 3 1
    (fun g _ x => x.wt f.ty f.d (combine f false g (lanesOf (execLanes s g f.g))).1)
    (fun g _ _ => (combine f false g (lanesOf (execLanes s g f.g))).2))

/-- The lanes that GSCAN combines for lane `l`. -/
def scanLanes (f : AForm) (e : Mask) (l : Nat) : List Nat :=
  (lanesOf e).filter fun k => if f.mod.getLsbD 3 then k < l else k ≤ l

/-- GSCAN (R149). -/
def execGscan (f : AForm) (s : State) : Result :=
  .next (laneOp s f.g 3 1
    (fun g l x => x.wt f.ty f.d (combine f true g (scanLanes f (execLanes s g f.g) l)).1)
    (fun g l _ => (combine f true g (scanLanes f (execLanes s g f.g) l)).2))

end Sys2Proof.Machine
end

