-- ==== Sys2Proof/Machine/Perform.lean ====
section
/-! DEFINITION. Performing accesses: bytes at a place seen through a gang's gated stores, writes with their release
sequences and race records, and the requests that carry accesses to other packages (R185, R186, R235, R369 to R384, R477,
R478, R485). -/

namespace Sys2Proof.Machine

/-! ### Bytes at a place -/

/-- The place `i` bytes further. -/
def Loc.plus (l : Loc) (i : Nat) : Loc :=
  match l with
  | .phys pa => .phys (pa + i)
  | .stack x off => .stack x (off + i)
  | .scratch off => .scratch (off + i)

/-- The 64-byte sector of a place (R226, R234). -/
def Loc.sector (l : Loc) : Loc :=
  match l with
  | .phys pa => .phys (pa / 64)
  | .stack x off => .stack x (off / 64)
  | .scratch off => .scratch (off / 64)

/-- The byte that a gated store holds for a place, if it writes it. -/
def GStore.byteFor (st : GStore) (l : Loc) : Option Byte :=
  match st.loc, l with
  | .phys a, .phys b => if a ≤ b ∧ b < a + st.bytes.length then st.bytes[b - a]? else none
  | .scratch a, .scratch b => if a ≤ b ∧ b < a + st.bytes.length then st.bytes[b - a]? else none
  | .stack x a, .stack y b => if x = y ∧ a ≤ b ∧ b < a + st.bytes.length then st.bytes[b - a]? else none
  | _, _ => none

/-- The latest byte that a list of stores, oldest first, holds for a place. -/
def bufferedByte (sts : List GStore) (l : Loc) : Option Byte :=
  sts.foldl (fun acc st => match st.byteFor l with | some b => some b | none => acc) none

/-- The byte that memory holds at a place (R5, R87, R268, R347). -/
def heldByte (s : State) (c : Nat) (g : Gang) (l : Loc) : Byte :=
  match l with
  | .phys pa => if s.inMeta pa then s.metaByte pa else memByte s.mem pa
  | .stack x off => mget 0 (g.lane x).stack off
  | .scratch off => mget 0 (s.core c).scratch off

/-- The stores that a gang's own loads see before they commit (R185, R239). -/
def Gang.buffered (g : Gang) : List GStore :=
  g.region.stores ++ (match g.spec with | some p => if p.isOpen then p.held.stores else [] | none => [])

/-- `n` bytes at a place as the gang itself sees them (R185; log entry 49). -/
def readPlace (s : State) (c : Nat) (g : Gang) (l : Loc) (n : Nat) : List Byte :=
  (List.range n).map fun i =>
    match bufferedByte g.buffered (l.plus i) with
    | some b => b
    | none => heldByte s c g (l.plus i)

/-- Write bytes to a map of bytes. -/
def putBytes (m : TMap Byte) (off : Nat) (bs : List Byte) : TMap Byte :=
  match bs with
  | [] => m
  | b :: r => putBytes (mset m off b) (off + 1) r

/-- The lane of a gang that holds a fibre. -/
def Gang.laneOf (g : Gang) (uid : Nat) : Nat := ((List.range 32).find? fun l => (g.lane l).uid == uid).getD 0

/-! ### Requests to other packages (R477, R478) -/

/-- The packet types of R473, kept in `op` modulo 16. -/
def pkRead : Nat := 1
def pkReadData : Nat := 2
def pkWrite : Nat := 3
def pkWriteAck : Nat := 4
def pkAtomic : Nat := 5
def pkAtomicResult : Nat := 6
def pkBulkGet : Nat := 7
def pkBulkData : Nat := 8
def pkInterest : Nat := 9
def pkTile : Nat := 10
def pkAck : Nat := 11
def pkMgmt : Nat := 12

/-- Send a request on its tenant's request stream and keep it until its answer (R477). -/
def State.ask (s : State) (p : Packet) (r : Remote) : State :=
  let tag := s.nextTag + 1
  ({ s with nextTag := tag, remotes := s.remotes ++ [{ r with tag := tag }] } : State).send { p with tag := tag }

/-- A write to another package (R477): it awaits its write ack (R478). -/
def sendWrite (s : State) (c slot lane tenant pa : Nat) (bs : List Byte) (engine : Bool) : State :=
  s.ask { Packet.blank with dst := pkgOf pa, tenant := tenant, addr := pa, size := bs.length, op := pkWrite, data := bs }
    { tag := 0, core := c, gang := slot, lane := lane, pkg := pkgOf pa, isWrite := true, atomic := false, engine := engine, data := none, own := [] }

/-- A read of another package on behalf of a lane (R477), which sees the gang's own gated stores (R185). -/
def sendRead (s : State) (c slot lane tenant pa n : Nat) (order scope : BitVec 3) (own : List GStore) : State :=
  s.ask { Packet.blank with dst := pkgOf pa, tenant := tenant, addr := pa, size := n, op := pkRead, order := order,
                            scope := scope }
    { tag := 0, core := c, gang := slot, lane := lane, pkg := pkgOf pa, isWrite := false, atomic := false, engine := false, data := none, own := own }

/-- Whether a gang has writes to other packages without their ack (R478). -/
def State.awaitsAcks (s : State) (c slot : Nat) : Bool :=
  s.remotes.any fun r => r.core == c && r.gang == slot && r.isWrite

/-- The answer that has come back for a lane from a package. -/
def State.remoteAnswer (s : State) (c slot lane pkg : Nat) : Option Remote :=
  s.remotes.find? fun r => r.core == c && r.gang == slot && r.lane == lane && r.pkg == pkg && r.data.isSome

/-- The data that has come back for a lane from a package. -/
def State.remoteData (s : State) (c slot lane pkg : Nat) : Option (List Byte) :=
  (s.remoteAnswer c slot lane pkg).bind fun r => r.data

/-- Forget the answers of a lane once its access is performed. -/
def State.dropRemote (s : State) (c slot lane : Nat) : State :=
  { s with remotes := s.remotes.filter fun r => !(r.core == c && r.gang == slot && r.lane == lane && r.data.isSome) }

/-! ### Performing writes (R235, R370, R374) -/

/-- The access of a lane as race detection sees it (R369, R383). -/
def accessOf (s : State) (g : Gang) (l : Nat) (pa n : Nat) (kind : AccKind) (order scope : BitVec 3) (ea : W64) : Access :=
  { pa := pa, len := n, party := partyOf g s.cur.core s.cur.gang (g.lane l), path := .lane, kind := kind, order := order,
    scope := scope, ea := ea, pc := s.cur.pc, epoch := (g.lane l).epoch }

/-- Whether a store has a release role (R373). -/
def isRelease (order : BitVec 3) : Bool := order == 3 || order == 4 || order == 5
/-- Whether a read has an acquire role (R373). -/
def isAcquire (order : BitVec 3) : Bool := order == 2 || order == 4 || order == 5

/-- Put bytes at a place, wherever it lies: the one operation that changes memory for a lane's store (R343, R370, R477). The race metadata
is read-only (R384). -/
def putPlace (s : State) (c slot lane home : Nat) (l : Loc) (bs : List Byte) : State :=
  match l with
  | .phys pa =>
    if s.inMeta pa then s
    else if pkgOf pa = s.self then ({ s with mem := memWrite s.mem pa bs } : State).l2Fill pa home true
    else sendWrite s c slot lane (((s.gang? c slot).map fun g => g.tenant).getD 0) pa bs false
  | .stack x off => s.modGang c slot fun g => g.mapBoth (laneBit x) fun _ f => { f with stack := putBytes f.stack off bs }
  | .scratch off => s.modCore c fun k => { k with scratch := putBytes k.scratch off bs }

/-- Make one store visible (R235): its bytes, the end of the release sequences it overwrites unless it is an RMW, the
heads it adds (R374, R377), and its record on a tracked page (R384). -/
def performStore (s : State) (c slot : Nat) (st : GStore) : State :=
  match s.gang? c slot with
  | none => s
  | some g =>
    let l := g.laneOf st.acc.party.uid
    let f := g.lane l
    let key := locKey c f.uid st.loc
    let s1 := putPlace s c slot l st.home st.loc st.bytes
    let s2 := if st.acc.kind == .rmw then s1.endOthers key.1 st.bytes.length key.2 else s1.endSequences key.1 st.bytes.length key.2
    let heads := if st.acc.order = 0 then [] else headsOf f st.acc.party key.1 st.bytes.length (isRelease st.acc.order) st.acc.scope
    let s3 := heads.foldl (fun t h => t.addHead key.2 h) s2
    if st.tracked && st.acc.pa / 2 ^ 48 % 16 == s.self then s3.recordAccess f.clock st.acc else s3

/-- The stores of one lane's write: one per member of a multicast aperture (R485). -/
def storesOf (s : State) (g : Gang) (l : Nat) (ea : W64) (f : Found) (bs : List Byte) (kind : AccKind)
    (order scope : BitVec 3) : List GStore :=
  match f with
  | .here loc =>
    [{ loc := loc, home := 0, bytes := bs, tracked := false, acc := accessOf s g l 0 bs.length kind order scope ea }]
  | .mem pas tracked home _ =>
    pas.map fun pa =>
      { loc := .phys pa, home := home, bytes := bs, tracked := tracked, acc := accessOf s g l pa bs.length kind order scope ea }
  | _ => []

/-- The race that a store completes, if any (R382, R383). -/
def storeRace (s : State) (clk : TMap Nat) (st : GStore) : Option (Access × Access) :=
  if st.tracked then (s.findRace clk st.acc).map fun r => (st.acc, r) else none

/-! ### Performing reads -/

/-- The value of a multicast load (R485): the members' values in ascending package order. -/
def combineMembers (a : Aperture) (vs : List W64) : W64 :=
  if isFloat a.ty then (foldFloat a.ty 0 (bitsOf a.reduce 0 2) vs).1 else foldInt a.ty (bitsOf a.reduce 0 2) vs

/-- The bytes of one physical address for a lane, here or from the answer of its package, seen through the gang's own stores (R185). -/
def readPhys (s : State) (c : Nat) (g : Gang) (l pa n : Nat) : List Byte :=
  if pkgOf pa = s.self then readPlace s c g (.phys pa) n
  else
    let r := s.remoteAnswer c s.cur.gang l (pkgOf pa)
    let held := (r.bind fun r => r.data).getD []
    (List.range n).map fun i =>
      match bufferedByte ((r.map fun r => r.own).getD [] ++ g.buffered) (.phys (pa + i)) with
      | some b => b
      | none => held.getD i 0

/-- The bytes that a lane's checked read returns (R185, R485). -/
def readFound (s : State) (c : Nat) (g : Gang) (l n : Nat) (f : Found) : List Byte :=
  match f with
  | .here loc => readPlace s c g loc n
  | .mem pas _ _ ap =>
    match ap with
    | none => readPhys s c g l (pas.headD 0) n
    | some a => leBytes n (combineMembers a (pas.map fun pa => BitVec.ofNat 64 (ofLe (readPhys s c g l pa n)))).toNat
  | _ => []

/-- The tracked accesses that a read makes: one per member (R369). -/
def readsOf (s : State) (g : Gang) (l : Nat) (ea : W64) (n : Nat) (f : Found) (order scope : BitVec 3) : List Access :=
  match f with
  | .mem pas true _ _ => (pas.filter fun p => pkgOf p == s.self).map fun pa => accessOf s g l pa n .read order scope ea
  | _ => []

/-- The release heads that a read of a place meets (R374, R375). -/
def headsRead (s : State) (c : Nat) (g : Gang) (l n : Nat) (f : Found) : List Release :=
  let at_ (loc : Loc) : List Release :=
    let k := locKey c (g.lane l).uid loc
    (s.die k.2).releases.filter fun r => overlaps k.1 n r.pa r.len
  match f with
  | .here loc => at_ loc
  | .mem pas _ _ _ => pas.flatMap fun pa => at_ (.phys pa)
  | _ => []

/-- The caches after a read of global memory (R271, R344). -/
def cacheRead (s : State) (c : Nat) (g : Gang) (ea : W64) (f : Found) (policy : Nat) : State :=
  match f with
  | .mem pas _ home _ =>
    if home % 4 == 2 || home % 4 == 3 || s.inFirmware then s
    else
      let s1 := (pas.filter fun p => pkgOf p == s.self).foldl (fun t p => t.l2Fill p home false) s
      s1.modCore c fun k => k.lcFill g.tenant ea policy
  | _ => s

/-- The number of 64-byte sectors that a list of accesses touches after coalescing (R302). -/
def sectorCount (accs : List (Nat × W64 × Found)) : Nat :=
  (accs.flatMap fun a => match a.2.2 with
    | .here loc => [loc.sector]
    | .mem pas _ _ _ => pas.map fun p => Loc.phys (p / 64)
    | _ => []).eraseDups.length

end Sys2Proof.Machine
end

