-- ==== Sys2Proof/Machine/MemoryAccess.lean ====
section
/-! DEFINITION. Loads, stores, rows, ROTM, PRES and PREF (R181 to R191, R200). -/

namespace Sys2Proof.Machine

/-- Park all of EXEC at the issuing instruction; the rest of the group moves on. -/
def parkExec (s : State) (g : Gang) (i : Instr) (e : Mask) (c : Cause) : State :=
  s.putCur ((g.parkWith s.cur.charged s i e c 0).advance (groupLanes s g &&& ~~~e) s.cur.next)

/-- The checks of a lane access for every lane of EXEC (R179, R182, R187, R485). -/
def checkLanes (s : State) (g : Gang) (e : Mask) (eaOf : Fibre → W64) (n kind op : Nat) (fatom : Bool)
    (ap : W64 → Found → Found) : List (Nat × W64 × Found) :=
  (lanesOf e).map fun l =>
    let ea := eaOf (g.lane l)
    (l, if s.inFirmware then ea else BitVec.ofNat 64 (ea.toNat / n * n),
      namedFault s s.cur.core ea n (ap ea (checkAccess s s.cur.core g l ea n kind op fatom)))

/-- The aperture rules of R485 for a load of `n` bytes or a store (log entry 32). -/
def apertureRule (isLoad : Bool) (n kind : Nat) (order : BitVec 3) (ea : W64) (f : Found) : Found :=
  match f with
  | .mem _ _ _ (some a) =>
    if order.toNat > 1 then apertureFault ea kind 0xC0
    else if isLoad && n * 8 != elemWidth a.ty then apertureFault ea kind 0xC1
    else if isLoad && bitsOf a.reduce 0 2 == 3 then apertureFault ea kind 0xC2
    else f
  | _ => f

/-- Whether an SC operation must first take a ticket from the fabric sequencer (R380; log entry 65). -/
def needsTicket (s : State) (order scope : BitVec 3) : Bool := order == 5 && scope == 5 && !s.cur.granted && !s.inFirmware

/-- The mask of the lanes of a list of accesses. -/
def lanesMask (ls : List Nat) : Mask := maskOf fun l => ls.contains l

/-- Park lanes that must wait, each cause on its own (R187; log entry 16). -/
def parkWaiting (s : State) (g : Gang) (i : Instr) (ws : List (Nat × W64 × Found × Cause)) : Gang :=
  let causes := (ws.map fun w => w.2.2.2).eraseDups
  causes.foldl (fun x c =>
    let mine := ws.filter fun w => w.2.2.2 == c
    x.park s i (lanesMask (mine.map fun w => w.1)) c ((mine.map fun w => w.2.1).headD 0)) g

/-- The accesses that may be performed now, and those that wait with their causes (R187). -/
def splitWaits (s : State) (g : Gang) (n policy : Nat) (loads : Bool) (accs : List (Nat × W64 × Found)) :
    List (Nat × W64 × Found) × List (Nat × W64 × Found × Cause) :=
  (accs.filter fun a => (accessWait s s.cur.core g a.1 a.2.1 n policy loads a.2.2).isNone,
   accs.filterMap fun a => (accessWait s s.cur.core g a.1 a.2.1 n policy loads a.2.2).map fun c => (a.1, a.2.1, a.2.2, c))

/-- The physical addresses of other packages that a waiting read asks for. -/
def Found.remotePas (s : State) (f : Found) : List Nat :=
  match f with
  | .mem pas _ _ _ => pas.filter fun p => pkgOf p != s.self
  | _ => []

/-- Ask other packages for the data of waiting reads (R477). -/
def requestReads (s : State) (tenant n : Nat) (order scope : BitVec 3) (ws : List (Nat × W64 × Found × Cause)) : State :=
  ws.foldl (fun t w =>
    (w.2.2.1.remotePas t).foldl (fun u pa =>
      if u.remotes.any fun r => r.core == s.cur.core && r.gang == s.cur.gang && r.lane == w.1 && r.pkg == pkgOf pa then u
      else sendRead u s.cur.core s.cur.gang w.1 tenant pa n order scope
        (((s.gang? s.cur.core s.cur.gang).map fun g => g.buffered).getD [])) t) s

/-- What a load does: size, opcode, order and scope, policy, address and the register write of a lane. -/
structure LoadArgs where
  g : Guard
  n : Nat
  op : Nat
  order : BitVec 3
  scope : BitVec 3
  policy : Nat
  ea : Fibre → W64
  write : Fibre → List Byte → Fibre

/-- A fibre after an atomic read (R373 to R377): it remembers the releases it read, and an acquire learns from them. -/
def afterRead (x : Fibre) (p : Party) (heads : List Release) (order scope : BitVec 3) : Fibre :=
  if order = 0 then x
  else
    let y := { x with readHeads := x.readHeads ++ heads }
    (if isAcquire order then y.learn (acquireClock heads p scope) else y).tick

/-- The lane cache after an acquire at cluster scope or wider (R271). -/
def acquireDrop (s : State) (tenant : Nat) (order scope : BitVec 3) : State :=
  if isAcquire order && scope.toNat ≥ 2 && !s.inFirmware then s.modCore s.cur.core fun k => k.lcDrop tenant else s

/-- The race that one of the reads completes, with its lane (R383). -/
def readRaces (s : State) (g : Gang) (n : Nat) (order scope : BitVec 3) (now : List (Nat × W64 × Found)) :
    Option (Nat × Access × Access) :=
  now.findSome? fun a =>
    (readsOf s g a.1 a.2.1 n a.2.2 order scope).findSome? fun r =>
      (s.findRace (g.lane a.1).clock r).map fun o => (a.1, r, o)

/-- Record the reads on tracked pages (R384), and fill the caches (log entry 37). -/
def recordReads (s : State) (g : Gang) (n policy : Nat) (order scope : BitVec 3) (now : List (Nat × W64 × Found)) : State :=
  now.foldl (fun t a =>
    let t1 := (readsOf s g a.1 a.2.1 n a.2.2 order scope).foldl (fun u r => u.recordAccess (g.lane a.1).clock r) t
    cacheRead t1 s.cur.core g a.2.1 a.2.2 policy) s

/-- The firmware supervisor's emulation of a misaligned LD with byte accesses (R183; log entry 14). -/
def emulateLoad (a : LoadArgs) (s : State) (g : Gang) (infos : List W64) : State :=
  let ea := a.ea (g.lane 0)
  let t := fwEmulated s infos
  if bitsOf ea 52 12 ≠ 0 ∨ bitsOf ea 48 4 ≠ s.self ∨ bitsOf ea 40 8 ≠ 0 then fwTrap s tcPROT (protInfos ea 0 0x01)
  else t.modGang s.cur.core s.cur.gang fun x => x.mapLanes 1 fun _ f => a.write f (memRead s.mem ea.toNat a.n)

/-- A load (R185 to R188, R200). -/
def doLoad (a : LoadArgs) (i : Instr) (s : State) : State :=
  match s.curGang? with
  | none => s
  | some g =>
    let e := execLanes s g a.g
    if e = 0 then retire s
    else if needsTicket s a.order a.scope then parkExec s g i e .fence
    else
      match resolveAll (checkLanes s g e a.ea a.n 0 a.op false (apertureRule true a.n 0 a.order)) with
      | .park va => parkTlb s g i e va
      | .trap code l infos =>
        if code == tcALGN && a.n != 64 then emulateLoad a s g infos else takeTrap s code l infos
      | .go accs =>
        let sp := splitWaits s g a.n a.policy true accs
        match readRaces s g a.n a.order a.scope sp.1 with
        | some (l, x, r) => takeTrap s tcMMX l (mmxInfos x r 0)
        | none =>
          let s1 := recordReads s g a.n a.policy a.order a.scope sp.1
          let done := lanesMask (sp.1.map fun q => q.1)
          let g1 := g.mapLanes done fun l x =>
            match sp.1.find? fun q => q.1 == l with
            | some q =>
              afterRead (a.write { x with pc := s.cur.next } (readFound s s.cur.core g l a.n q.2.2))
                (partyOf g s.cur.core s.cur.gang x) (headsRead s s.cur.core g l a.n q.2.2) a.order a.scope
            | none => x
          let g2 := g1.advance (groupLanes s g &&& ~~~e) s.cur.next
          let g3 := parkWaiting s g2 i sp.2
          let g4 := { g3 with region := { g3.region with
            reads := g3.region.reads ++ sp.1.flatMap fun (q : Nat × W64 × Found) => readsOf s g q.1 q.2.1 a.n q.2.2 a.order a.scope } }
          let s2 := s1.putCur (g4.charge 5 (4 * sectorCount sp.1))
          let s3 := requestReads s2 g.tenant a.n a.order a.scope sp.2
          let s4 := sp.1.foldl (fun t q => t.dropRemote s.cur.core s.cur.gang q.1) s3
          acquireDrop s4 g.tenant a.order a.scope

/-- What a store does. -/
structure StoreArgs where
  g : Guard
  n : Nat
  op : Nat
  order : BitVec 3
  scope : BitVec 3
  ea : Fibre → W64
  data : Fibre → List Byte

/-- The firmware supervisor's emulation of a misaligned ST with byte accesses (R183; log entry 14). -/
def emulateStore (a : StoreArgs) (s : State) (g : Gang) (infos : List W64) : State :=
  let ea := a.ea (g.lane 0)
  if bitsOf ea 52 12 ≠ 0 ∨ bitsOf ea 48 4 ≠ s.self ∨ bitsOf ea 40 8 ≠ 0 then fwTrap s tcPROT (protInfos ea 1 0x01)
  else (fwEmulated s infos).wrBytes ea.toNat (a.data (g.lane 0))

/-- The sectors of a gang's gated stores (R234). -/
def gatedSectors (sts : List GStore) : List Loc := (sts.map fun st => st.loc.sector).eraseDups

/-- The sector that the alias-detection table knows a place by, for an access of a tenant at an address (R226). -/
def Loc.aliasSector (tenant : Nat) (ea : W64) (l : Loc) : Sector :=
  match l with
  | .phys _ => .global tenant (ea.toNat / 64)
  | .stack x off => .stack x (off / 64)
  | .scratch off => .scratch (off / 64)

/-- Whether a store writes the sector of an alias entry. -/
def GStore.hits (tenant : Nat) (st : GStore) (a : AliasEntry) : Bool := st.loc.aliasSector tenant st.acc.ea == a.sector

/-- Whether plain stores among a gang's hit a live alias entry of it under a tag of the main code (R226). -/
def aliasHit (k : Core) (slot tenant : Nat) (sts : List GStore) : Bool :=
  k.aliases.any fun a => a.gang == slot && a.tag != 15 && sts.any fun st => st.acc.order == 0 && st.hits tenant a

/-- A gang whose pending speculation fails when stores of it hit one of the speculation's entries (R239). -/
def Gang.meetSpec (k : Core) (slot : Nat) (sts : List GStore) (g : Gang) : Gang :=
  if k.aliases.any fun a => a.gang == slot && a.tag == 15 && sts.any fun st => st.hits g.tenant a then
    { g with spec := g.spec.map fun p => { p with failed := true } }
  else g

/-- Count a rollback by alias detection: stall cause ALIAS, to which its replay is charged too, and the alias-rollback sketch
(R226, R237, R314, R440). -/
def countAlias (s : State) (g : Gang) : State :=
  ((s.modCore s.cur.core fun k => k.addStall g.ctx 0 5 1).modGang s.cur.core s.cur.gang fun x =>
    { x with replayFor := some 5 }).modDie (s.cur.core / 256) fun d =>
    { d with aliasSk := sketchAdd d.aliasSk (gangKernel s g ^^^ (if g.region.instrs = 0 then s.cur.pc else g.region.start).toNat) }

/-- Gate stores in the gang's region (R20, R234), failing a speculation that they hit (R239). -/
def gateStores (s : State) (g : Gang) (sts : List GStore) : Gang :=
  let open_ := match g.spec with | some p => p.isOpen | none => false
  if open_ then { g with spec := g.spec.map fun p => { p with held := { p.held with stores := p.held.stores ++ sts } } }
  else ({ g with region := { g.region with stores := g.region.stores ++ sts } } : Gang).meetSpec s.curCore s.cur.gang sts

/-- The stores of a gang's speculation, which count towards the buffer (R239). -/
def Gang.specStores (g : Gang) : List GStore := match g.spec with | some p => if p.confirmed then [] else p.held.stores | none => []

/-- A store (R185 to R188, R200). -/
def doStore (a : StoreArgs) (i : Instr) (s : State) : State :=
  match s.curGang? with
  | none => s
  | some g =>
    let e := execLanes s g a.g
    if e = 0 then retire s
    else if needsTicket s a.order a.scope then parkExec s g i e .fence
    else if isRelease a.order && a.scope.toNat ≥ 4 && s.awaitsAcks s.cur.core s.cur.gang then parkExec s g i e .fence
    else
      match resolveAll (checkLanes s g e a.ea a.n 1 a.op false (apertureRule false a.n 1 a.order)) with
      | .park va => parkTlb s g i e va
      | .trap code l infos =>
        if code == tcALGN && a.n != 64 then emulateStore a s g infos else takeTrap s code l infos
      | .go accs =>
        let sp := splitWaits s g a.n 0 false accs
        let sts := sp.1.flatMap fun q =>
          storesOf s g q.1 q.2.1 q.2.2 (a.data (g.lane q.1)) .write a.order a.scope
        let done := lanesMask (sp.1.map fun q => q.1)
        let finish (x : Gang) : Gang :=
          (parkWaiting s ((x.advance done s.cur.next).advance (groupLanes s g &&& ~~~e) s.cur.next) i sp.2).charge 5
            (4 * sectorCount sp.1)
        if s.inFirmware then (sts.foldl (fun t st => performStore t s.cur.core s.cur.gang st) s).modGang s.cur.core
          s.cur.gang finish
        else if isRelease a.order then
          match sts.findSome? fun st => (storeRace s (g.lane (g.laneOf st.acc.party.uid)).clock st) with
          | some (x, r) => takeTrap s tcMMX (g.laneOf x.party.uid) (mmxInfos x r 0)
          | none =>
            let s1 := sts.foldl (fun t st => performStore t s.cur.core s.cur.gang st) s
            s1.modGang s.cur.core s.cur.gang fun x => finish ((x.mapLanes done fun _ f => f.tick).meetSpec s.curCore s.cur.gang sts)
        else if aliasHit s.curCore s.cur.gang g.tenant sts then rollback (countAlias s g) s.cur.core s.cur.gang
        else
          let g1 := gateStores s (if a.order = 0 then g else g.mapLanes done fun _ f => f.tick) sts
          if g.region.instrs ≠ 0 ∧ (gatedSectors (g1.region.stores ++ g1.specStores)).length > 64 then
            rollback ((s.modCore s.cur.core fun k => k.addStall g.ctx 0 6 1).modGang s.cur.core s.cur.gang fun x =>
              { x with replayFor := some 6 }) s.cur.core s.cur.gang
          else s.putCur (finish g1)

/-! ### The instructions -/

/-- The byte offset of format I and of format C (R46, R185). -/
def offC (f : CForm) : W64 := (extLow f.ext).signExtend 64

/-- LD with an imm14 offset (R181, R185, R186). -/
def execLdI (f : IForm) (s : State) : Result :=
  .next (doLoad { g := f.g, n := accessSize f.ty, op := 0x100, order := 0, scope := 0, policy := bitsOf f.mod 0 2,
                  ea := fun x => x.rx f.a + immS f.imm,
                  write := fun x bs => x.wt f.ty f.d (loadExtend f.ty (ofLe bs)) } (.ldI f) s)

/-- LD with order and scope (R45, R181, R185, R186). -/
def execLdC (f : CForm) (s : State) : Result :=
  .next (doLoad { g := f.g, n := accessSize f.ty, op := 0x101, order := extOrder f.ext, scope := extScope f.ext,
                  policy := bitsOf f.mod 0 2, ea := fun x => x.rx f.a + offC f,
                  write := fun x bs => x.wt f.ty f.d (loadExtend f.ty (ofLe bs)) } (.ldC f) s)

/-- ST with an imm14 offset (R181, R185, R186). -/
def execStI (f : IForm) (s : State) : Result :=
  .next (doStore { g := f.g, n := accessSize f.ty, op := 0x102, order := 0, scope := 0,
                   ea := fun x => x.rx f.a + immS f.imm, data := fun x => storeBytes f.ty (x.rt f.ty f.d) } (.stI f) s)

/-- ST with order and scope (R45, R181, R185, R186). -/
def execStC (f : CForm) (s : State) : Result :=
  .next (doStore { g := f.g, n := accessSize f.ty, op := 0x103, order := extOrder f.ext, scope := extScope f.ext,
                   ea := fun x => x.rx f.a + offC f, data := fun x => storeBytes f.ty (x.rt f.ty f.d) } (.stC f) s)

/-- The address of a row (R188): bits [5:0] are cleared before the checks, except in the firmware context, where a misaligned row
raises ALGN (R183; log entry 85). -/
def rowEa (s : State) (f : IForm) (x : Fibre) : W64 :=
  let ea := x.rx f.a + 64 * immS f.imm
  if s.inFirmware then ea else BitVec.ofNat 64 (ea.toNat / 64 * 64)

/-- LDROW (R188). -/
def execLdrow (f : IForm) (s : State) : Result :=
  .next (doLoad { g := f.g, n := 64, op := 0x104, order := 0, scope := 0, policy := bitsOf f.mod 0 2,
                  ea := rowEa s f, write := fun x bs => x.putRow f.d bs } (.ldrow f) s)

/-- STROW (R188). -/
def execStrow (f : IForm) (s : State) : Result :=
  .next (doStore { g := f.g, n := 64, op := 0x105, order := 0, scope := 0,
                   ea := rowEa s f, data := fun x => x.row f.d } (.strow f) s)

/-- ROTM on a fibre (R189): all sources are read before any destination is written. -/
def rotm (f : CForm) (x : Fibre) : Fibre :=
  x.putRow f.d (((x.row f.a ++ x.row f.b).drop ((x.rv f.c).toNat % 64)).take 64)

/-- ROTM (R189). -/
def execRotm (f : CForm) (s : State) : Result := .next (laneOp s f.g 3 1 fun _ _ x => rotm f x)

/-- PRES's checks (R190): checks 1 and 2 of R179 only. -/
def presCheck (s : State) (g : Gang) (l : Nat) (ea : W64) : Found :=
  if bitsOf ea 56 8 ≠ 0 ∨ bitsOf ea 49 15 = 0x7F then checkAccess s s.cur.core g l ea 1 0 0x107 false
  else .mem [] false 0 none

/-- PRES's predicate (R190). -/
def presBit (s : State) (f : Found) : Bool :=
  match f with
  | .here (.scratch off) => s.curCore.present (off / 64)
  | _ => true

/-- PRES (R190). -/
def execPres (f : AForm) (s : State) : Result :=
  .next (match s.curGang? with
    | none => s
    | some g =>
      let e := execLanes s g f.g
      match resolveAll ((lanesOf e).map fun l => (l, (g.lane l).rx f.a, presCheck s g l ((g.lane l).rx f.a))) with
      | .trap code l infos => takeTrap s code l infos
      | _ =>
        let g1 := (g.mapLanes e fun l x => x.wp f.d (presBit s (presCheck s g l (x.rx f.a)))).advance (groupLanes s g) s.cur.next
        s.putCur (g1.chargeOnce s))

/-- PREF (R191): the lanes whose address passes every check of R179 in the global aperture fill the caches. -/
def execPref (f : IForm) (s : State) : Result :=
  .next (match s.curGang? with
    | none => s
    | some g =>
      let e := execLanes s g f.g
      let ok := (checkLanes s g e (fun x => x.rx f.a + immS f.imm) 1 0 0x10E false fun _ x => x).filter fun q =>
        match q.2.2 with | .mem pas _ _ _ => pas.all fun p => pkgOf p == s.self | _ => false
      let s1 := ok.foldl (fun t q => cacheRead t s.cur.core g q.2.1 q.2.2 (bitsOf f.mod 0 2)) s
      s1.putCur ((g.advance (groupLanes s g) s.cur.next).charge 5 (4 * sectorCount ok)))

end Sys2Proof.Machine
end

