-- ==== Sys2Proof/Machine/Atomics.lean ====
section
/-! DEFINITION. Atomics, FATOM and the fences (R192 to R199, R377, R387). -/

namespace Sys2Proof.Machine

/-- The aperture rule of R485 for atomics. -/
def apertureAtomic (ea : W64) (f : Found) : Found :=
  match f with
  | .mem _ _ _ (some _) => apertureFault ea 2 0xC0
  | _ => f

/-- The new value of an ATOM (R192). -/
def atomNew (t : Ty) (code : Nat) (old b : W64) : W64 := if code = 6 then b else foldInt t code [old, b]

/-- What an atomic does: size, opcode, orders, the address, the new bytes (none when a comparison fails), the register
write of the old bytes, and the request that carries it to another package. -/
structure AtomicArgs where
  g : Guard
  n : Nat
  op : Nat
  order : BitVec 3
  failOrder : BitVec 3
  scope : BitVec 3
  ea : Fibre → W64
  next : Fibre → List Byte → Option (List Byte)
  write : Fibre → List Byte → Fibre
  sub : Nat
  ty : Ty
  send1 : Fibre → List Byte
  send2 : Fibre → List Byte

/-- One lane's atomic in order (R192 to R194): the state after it, or the race it completes. -/
def atomicLane (a : AtomicArgs) (s : State) (q : Nat × W64 × Found) : State × Option (Nat × Access × Access) :=
  match s.curGang? with
  | none => (s, none)
  | some g =>
    let x := g.lane q.1
    let remote := q.2.2.remotePas s ≠ []
    let old := readFound s s.cur.core g q.1 a.n q.2.2
    let new := if remote then none else a.next x old
    let order := if new.isSome || remote then a.order else a.failOrder
    let heads := headsRead s s.cur.core g q.1 a.n q.2.2
    let p := partyOf g s.cur.core s.cur.gang x
    let race := match new with
      | some bs => (storesOf s g q.1 q.2.1 q.2.2 bs .rmw order a.scope).findSome? fun st => storeRace s x.clock st
      | none => (readsOf s g q.1 q.2.1 a.n q.2.2 order a.scope).findSome? fun r =>
          (s.findRace x.clock r).map fun o => (r, o)
    match race with
    | some (y, r) => (s, some (q.1, y, r))
    | none =>
      let s1 := match new with
        | some bs => (storesOf s g q.1 q.2.1 q.2.2 bs .rmw order a.scope).foldl
            (fun t st => performStore t s.cur.core s.cur.gang st) s
        | none => (readsOf s g q.1 q.2.1 a.n q.2.2 order a.scope).foldl (fun t r => t.recordAccess x.clock r) s
      let s2 := cacheRead s1 s.cur.core g q.2.1 q.2.2 2
      let sts := match new with
        | some bs => storesOf s g q.1 q.2.1 q.2.2 bs .rmw order a.scope
        | none => []
      (s2.modGang s.cur.core s.cur.gang fun y => (y.mapLanes (laneBit q.1) fun _ f =>
        (afterRead (a.write { f with pc := s.cur.next } old) p heads order a.scope).tick).meetSpec s.curCore s.cur.gang sts, none)

/-- The atomics of several lanes one after another in ascending lane order (R192). -/
def atomicLanes (a : AtomicArgs) (s : State) (qs : List (Nat × W64 × Found)) :
    State × Option (Nat × Access × Access) :=
  match qs with
  | [] => (s, none)
  | q :: r =>
    match atomicLane a s q with
    | (t, none) => atomicLanes a t r
    | (t, some m) => (t, some m)

/-- Send the atomics of waiting lanes to the packages that home them (R477). -/
def requestAtomics (a : AtomicArgs) (s : State) (g : Gang) (ws : List (Nat × W64 × Found × Cause)) : State :=
  ws.foldl (fun t w =>
    (w.2.2.1.remotePas t).foldl (fun u pa =>
      u.ask { Packet.blank with dst := pkgOf pa, tenant := g.tenant, addr := pa, size := a.n, op := pkAtomic + 16 * a.sub,
                                ty := a.ty, order := a.order, scope := a.scope, data := a.send1 (g.lane w.1),
                                data2 := a.send2 (g.lane w.1) }
        { tag := 0, core := s.cur.core, gang := s.cur.gang, lane := w.1, pkg := pkgOf pa, isWrite := false, atomic := true,
          engine := false, data := none, own := [] }) t) s

/-- ATOM, CAS and CAS128 (R192 to R194, R200). -/
def doAtomic (a : AtomicArgs) (i : Instr) (s : State) : State :=
  match s.curGang? with
  | none => s
  | some g =>
    let e := execLanes s g a.g
    if e = 0 then retire s
    else if needsTicket s a.order a.scope then parkExec s g i e .fence
    else if isRelease a.order && a.scope.toNat ≥ 4 && s.awaitsAcks s.cur.core s.cur.gang then parkExec s g i e .fence
    else
      match resolveAll (checkLanes s g e a.ea a.n 2 a.op false apertureAtomic) with
      | .park va => parkTlb s g i e va
      | .trap code l infos => takeTrap s code l infos
      | .go accs =>
        let sp := splitWaits s g a.n 2 true accs
        match atomicLanes a s sp.1 with
        | (_, some (l, x, r)) => takeTrap s tcMMX l (mmxInfos x r 0)
        | (s1, none) =>
          let s2 := s1.modGang s.cur.core s.cur.gang fun y =>
            (parkWaiting s (y.advance (groupLanes s g &&& ~~~e) s.cur.next) i sp.2).charge 5 (4 * sectorCount sp.1)
          let s3 := requestAtomics a s2 g sp.2
          let s4 := sp.1.foldl (fun t q => t.dropRemote s.cur.core s.cur.gang q.1) s3
          acquireDrop s4 g.tenant a.order a.scope

/-- ATOM (R192). -/
def execAtom (f : CForm) (s : State) : Result :=
  let n := accessSize f.ty
  .next (doAtomic
    { g := f.g, n := n, op := 0x108, order := extOrder f.ext, failOrder := 1, scope := extScope f.ext, ea := fun x => x.rx f.a,
      next := fun x old => some (leBytes n (atomNew f.ty (bitsOf f.ext 0 4) (BitVec.ofNat 64 (ofLe old)) (x.rt f.ty f.b)).toNat),
      write := fun x old => x.wt f.ty f.d (BitVec.ofNat 64 (ofLe old)), sub := bitsOf f.ext 0 4, ty := f.ty,
      send1 := fun x => leBytes n (x.rt f.ty f.b).toNat, send2 := fun _ => [] } (.atom f) s)

/-- CAS (R193). -/
def execCas (f : CForm) (s : State) : Result :=
  let n := accessSize f.ty
  .next (doAtomic
    { g := f.g, n := n, op := 0x109, order := extOrder f.ext, failOrder := BitVec.ofNat 3 (bitsOf f.ext 0 3),
      scope := extScope f.ext, ea := fun x => x.rx f.a,
      next := fun x old => if old = leBytes n (x.rt f.ty f.b).toNat then some (leBytes n (x.rt f.ty f.c).toNat) else none,
      write := fun x old => x.wt f.ty f.d (BitVec.ofNat 64 (ofLe old)), sub := 7, ty := f.ty,
      send1 := fun x => leBytes n (x.rt f.ty f.b).toNat, send2 := fun x => leBytes n (x.rt f.ty f.c).toNat } (.cas f) s)

/-- The 16 bytes of a pair of x registers (R194). -/
def pairBytes (x : Fibre) (n : Nat) : List Byte := leBytes 8 (x.rx n).toNat ++ leBytes 8 (x.rx (n + 1)).toNat

/-- CAS128 (R194). -/
def execCas128 (f : CForm) (s : State) : Result :=
  .next (doAtomic
    { g := f.g, n := 16, op := 0x10A, order := extOrder f.ext, failOrder := BitVec.ofNat 3 (bitsOf f.ext 0 3),
      scope := extScope f.ext, ea := fun x => x.rx f.a,
      next := fun x old => if old = pairBytes x f.b then some (pairBytes x f.c) else none,
      write := fun x old => (x.wx f.d (BitVec.ofNat 64 (leAt old 0 8))).wx (f.d + 1) (BitVec.ofNat 64 (leAt old 8 8)),
      sub := 8, ty := f.ty, send1 := fun x => pairBytes x f.b, send2 := fun x => pairBytes x f.c } (.cas128 f) s)

/-! ### FATOM (R195 to R197) -/

/-- The keys K1 and K2 of a fibre's contributions (R195). -/
def fatomKey (s : State) (x : Fibre) : Nat × Nat :=
  match x.name with
  | .launched bx byy bz fib =>
    match s.launch? x.launch with
    | some l => (bx + l.gx * (byy + l.gy * bz), fib)
    | none => (bx, fib)
  | .spawned n | .service n => (2 ^ 32 + n, 0)

/-- The window of a window key (R196). -/
def isWindow (launch pa : Nat) (t : Ty) (w : Window) : Bool := w.launch == launch && w.pa == pa && w.ty == t

/-- Open a window if it is not open, and count the fibre's FATOM in it: K3 and the state (R195, R196). -/
def openWindow (s : State) (launch pa : Nat) (t : Ty) (uid : Nat) : Nat × State :=
  let d := s.die (dieOf pa)
  let ws := if d.windows.any (isWindow launch pa t) then d.windows
    else d.windows ++ [{ launch := launch, pa := pa, ty := t, folded := none, items := [], counts := [] }]
  let k3 := ((ws.find? (isWindow launch pa t)).map fun w => mget 0 w.counts uid).getD 0
  (k3, s.modDie (dieOf pa) fun d =>
    { d with windows := updFirst (isWindow launch pa t) (fun w => { w with counts := mset w.counts uid (k3 + 1) }) ws })

/-- The key under which another package keeps the windows of a launch of this one (R196; log entry 38). -/
def State.launchKey (s : State) (launch : Nat) : Nat := launch + 2 ^ 40 * (s.self + 1)

/-- One lane's contribution sent to its home (R195, R477). -/
def contribute (s : State) (g : Gang) (l pa : Nat) (t : Ty) (v : W64) : State :=
  let x := g.lane l
  let k := fatomKey s x
  let o := openWindow s x.launch pa t x.uid
  let m : Contribution := { launch := if pkgOf pa = s.self then x.launch else s.launchKey x.launch, pa := pa, ty := t, k1 := k.1, k2 := k.2, k3 := o.1, value := v }
  if pkgOf pa = s.self then o.2.push (.fatomContribution m)
  else o.2.send { Packet.blank with dst := pkgOf pa, tenant := g.tenant, addr := pa, size := elemWidth t / 8,
                                    op := pkAtomic + 16 * 9, ty := t, contribution := some m }

/-- The accesses of FATOM's lanes for race detection (log entry 40). -/
def fatomAccess (s : State) (g : Gang) (t : Ty) (q : Nat × W64 × Found) : List Access :=
  match q.2.2 with
  | .mem pas true _ _ => (pas.filter fun p => pkgOf p == s.self).map fun pa =>
      accessOf s g q.1 pa (elemWidth t / 8) .fatom 1 0 q.2.1
  | _ => []

/-- FATOM (R195 to R197): the firmware context does not have it (R492). -/
def execFatom (f : CForm) (s : State) : Result :=
  .next (match s.curGang? with
    | none => s
    | some g =>
      let e := execLanes s g f.g
      if s.inFirmware then takeTrap s tcPROT 0 [s.cur.bits, 0x8F]
      else if e = 0 then retire s
      else
        match resolveAll (checkLanes s g e (fun x => x.rx f.a) (elemWidth f.ty / 8) 2 0x10B true apertureAtomic) with
        | .park va => parkTlb s g (.fatom f) e va
        | .trap code l infos => takeTrap s code l infos
        | .go accs =>
          match accs.findSome? fun q => (fatomAccess s g f.ty q).findSome? fun a =>
              (s.findRace (g.lane q.1).clock a).map fun r => (q.1, a, r) with
          | some (l, a, r) => takeTrap s tcMMX l (mmxInfos a r 0)
          | none =>
            let s1 := accs.foldl (fun t q =>
              let u := (fatomAccess s g f.ty q).foldl (fun u a => u.recordAccess (g.lane q.1).clock a) t
              match q.2.2 with
              | .mem pas _ _ _ => pas.foldl (fun u pa => contribute u g q.1 pa f.ty (f.vb (g.lane q.1))) u
              | _ => u) s
            s1.modGang s.cur.core s.cur.gang fun x =>
              ((x.mapLanes e fun _ y => y.tick).advance (groupLanes s g) s.cur.next).charge 5 (4 * sectorCount accs))

/-! ### Fences (R198, R199, R377) -/

/-- A fibre after a fence of an order and scope (R377). -/
def fenceFibre (x : Fibre) (p : Party) (order scope : BitVec 3) : Fibre :=
  let y := if isAcquire order then x.learn (acquireClock x.readHeads p scope) else x
  (if isRelease order then { y with relFences := mmod [] y.relFences scope.toNat fun c => clockJoin c y.clock } else y).tick

/-- Whether a fence must still wait for writes to other packages (R198, R478; log entry 35). -/
def fenceWaits (s : State) (order scope : BitVec 3) : Bool :=
  isRelease order && scope.toNat ≥ 4 && s.awaitsAcks s.cur.core s.cur.gang

/-- FENCE (R198). -/
def execFence (f : CForm) (s : State) : Result :=
  .next (match s.curGang? with
    | none => s
    | some g =>
      let e := execLanes s g f.g
      let o := extOrder f.ext
      let sc := extScope f.ext
      if e = 0 then retireWith s id
      else if needsTicket s o sc || fenceWaits s o sc then parkExec s g (.fence f) e .fence
      else
        acquireDrop (retireWith s fun x => x.mapLanes e fun _ y =>
          fenceFibre y (partyOf g s.cur.core s.cur.gang y) o sc) g.tenant o sc)

/-- The path of a class bit (R199). -/
def classPath (k : Nat) : Path := match k with | 0 => .lane | 1 => .copy | 2 => .matrix | 3 => .named | _ => .fabric

/-- Whether commands of a class that the gang issued are still outstanding (R199). -/
def classBusy (s : State) (c slot : Nat) (g : Gang) (k : Nat) : Bool :=
  match k with
  | 0 => s.remotes.any fun r => r.core == c && r.gang == slot && r.isWrite && !r.engine
  | 1 => g.q2 != []
  | 2 => g.q0 != []
  | 3 => namedBusy s g.uid
  | _ => (s.core c).fabricQ.any (fun m => m.gang == slot) || (s.core c).units.any (fun u => u.gang == slot)
      || s.remotes.any fun r => r.core == c && r.gang == slot && r.engine

/-- What a FENCEX's before classes order (R199, R387): the clocks of the gang's fibres, and every earlier command of its
engines. -/
def beforeClock (s : State) (g : Gang) (before : Nat) : TMap Nat :=
  (List.range 5).foldl (fun c k =>
    if before.testBit k then
      if k = 0 then (lanesOf g.live).foldl (fun c l => clockJoin c (g.lane l).clock) c
      else mset c (engineUid g.uid (classPath k)) s.uids
    else c) []

/-- FENCEX's effect on a gang (R199). -/
def fencexGang (s : State) (g : Gang) (e : Mask) (before after : Nat) (order scope : BitVec 3) : Gang :=
  let c := beforeClock s g before
  let pc := (List.range 5).foldl (fun m k =>
    if k ≠ 0 ∧ after.testBit k then mmod [] m k fun d => clockJoin d c else m) g.pathClock
  let g1 := { g with pathClock := pc }
  g1.mapLanes e fun _ x =>
    let y := if after.testBit 0 then x.learn c else x
    if order = 0 then y.tick else fenceFibre y (partyOf g s.cur.core s.cur.gang y) order scope

/-- FENCEX (R199): the firmware fibre has no engines, and its lane accesses are performed as they issue. -/
def execFencex (f : CForm) (s : State) : Result :=
  .next (match s.curGang? with
    | none => s
    | some g =>
      let e := execLanes s g f.g
      let o := extOrder f.ext
      let sc := extScope f.ext
      let before := bitsOf f.ext 0 5
      if e = 0 then retireWith s id
      else if needsTicket s o sc || fenceWaits s o sc
          || (List.range 5).any (fun k => before.testBit k && classBusy s s.cur.core s.cur.gang g k) then
        parkExec s g (.fencex f) e .fence
      else
        acquireDrop (retireWith s fun x => fencexGang s x e before (bitsOf f.ext 5 5) o sc) g.tenant o sc)

end Sys2Proof.Machine
end

