-- ==== Sys2Proof/Machine/Rejoin.lean ====
section
/-! DEFINITION. Rejoin sets, block barriers and their examination (R162 to R172). -/

namespace Sys2Proof.Machine

/-! ### Rejoin sets (R162 to R166) -/

/-- Whether a set releases (R163). -/
def Gang.releases (g : Gang) (j : Nat) : Bool := g.arriveOf j != 0 && (g.memberOf j &&& ~~~(g.arriveOf j)) == 0

/-- The joined clocks of the fibres in a mask. -/
def Gang.clocks (g : Gang) (m : Mask) : TMap Nat := (lanesOf m).foldl (fun c l => clockJoin c (g.lane l).clock) []

/-- Release a set (R163): arrived fibres become Ready after their JWAIT, ordered after every arrival. -/
def Gang.releaseSet (g : Gang) (j : Nat) : Gang :=
  let m := g.arriveOf j
  let c := g.clocks m
  let g1 := (g.release m).mapBoth m fun _ f => (f.learn c).tick
  { g1 with arrive := mset g1.arrive j 0 }

/-- Evaluate R163 for every set. -/
def Gang.evalSets (g : Gang) : Gang :=
  (List.range 8).foldl (fun x j => if x.releases j then x.releaseSet j else x) g

/-! ### Records (R172) -/

/-- Whether a fibre is parked at a barrier (R170). -/
def Fibre.atBarrier (f : Fibre) : Bool :=
  match f.status with
  | .parked (.bar _) | .parked .cbar | .parked .yoke => true
  | _ => false

/-- The set in which a fibre waits, if it is parked in JWAIT. -/
def Fibre.jwaitSet (f : Fibre) : Option Nat := match f.status with | .parked (.jwait j) => some j | _ => none

/-- The nine info words of an ORPH or BARX record (R172). -/
def orphInfos (g : Gang) : List W64 :=
  let w (lo hi : Mask) : W64 := hi ++ lo
  w g.live (g.lanesWhere Fibre.atBarrier) :: (List.range 8).map fun j => w (g.memberOf j) (g.arriveOf j)

/-- Stop a gang by ORPH or BARX found by examination (R170, R171): every fibre stays in the state it was in. A gang that is already stopped
is examined again when it is resumed (R308). -/
def stopExamined (s : State) (c slot : Nat) (code : BitVec 8) (lane : Nat) : State :=
  match s.gang? c slot with
  | none => s
  | some g =>
    if g.stop.isSome then s
    else stopGang s c slot (trapRecord s g (g.lane lane) code false false (g.lane lane).pc (orphInfos g)) 0 (g.lane lane).pc

/-- Examine a gang (R170): when every live fibre is parked in JWAIT or at a barrier, with one in JWAIT. -/
def examine (s : State) (c slot : Nat) : State :=
  match mfind (s.core c).gangs slot with
  | none => s
  | some g =>
    let ls := (lanesOf g.live).map fun l => (l, g.lane l)
    if g.stop.isSome || !(ls.all fun p => p.2.atBarrier || p.2.jwaitSet.isSome) then s
    else
      match ls.find? fun p => p.2.jwaitSet.isSome with
      | none => s
      | some (l, _) =>
        let starved := ls.any fun p => match p.2.jwaitSet with
          | some j => ls.any fun q => q.2.atBarrier && (g.memberOf j).getLsbD q.1 && !(g.arriveOf j).getLsbD q.1
          | none => false
        stopExamined s c slot (if starved then tcBARX else tcORPH) l

/-! ### Block barriers (R167 to R169) -/

/-- The block whose barrier slots and queues a gang uses: its own, or in a free gang the one made for it. -/
def State.blockOf? (s : State) (c : Nat) (g : Gang) : Option Block := g.block.bind (s.core c).block?

/-- Apply `f` to a block. -/
def State.modBlock (s : State) (c u : Nat) (f : Block → Block) : State := s.modCore c fun k => k.modBlock u f

/-- The live fibres of a block. -/
def liveOf (s : State) (c : Nat) (b : Block) : Nat :=
  b.gangs.foldl (fun n i => n + (match mfind (s.core c).gangs i with | some g => countLanes g.live | none => 0)) 0

/-- The fibres parked in a phase. -/
def BarPhase.parkedCount (p : BarPhase) : Nat := p.parked.foldl (fun n q => n + countLanes q.2) 0
/-- The arrivals of a phase. -/
def BarPhase.arrivals (p : BarPhase) : Nat := p.total + p.parkedCount

/-- Release a phase (R167 to R169): its parked fibres become Ready, and every fibre of the block but those that arrived
without waiting is ordered after the arrivals. -/
def releasePhase (s : State) (c : Nat) (b : Block) (slot : Nat) (p : BarPhase) : State :=
  let s1 := b.gangs.foldl (fun t i =>
    t.modGang c i fun g =>
      let m := mget 0 p.parked i
      let only := mget 0 p.arrs i &&& ~~~m
      (g.release m).mapBoth (g.live &&& ~~~only) fun _ f => (f.learn p.clock).tick) s
  s1.modBlock c b.uid fun x => { x with bars := mdel x.bars slot }

/-- Whether a phase releases (R168, R169). -/
def phaseReleases (s : State) (c : Nat) (b : Block) (p : BarPhase) : Bool :=
  if p.barn then p.count ≤ p.arrivals else p.arrivals == liveOf s c b

/-- Stop every gang with a fibre parked at an orphaned phase (R169, R171). -/
def orphanPhase (s : State) (c : Nat) (p : BarPhase) : State :=
  p.parked.foldl (fun t q => if q.2 = 0 then t else stopExamined t c q.1 tcORPH (lowLane q.2)) s

/-- Whether a BARN phase can no longer reach its count (R169). -/
def phaseOrphaned (s : State) (c : Nat) (b : Block) (p : BarPhase) : Bool :=
  p.barn && p.parkedCount != 0 && liveOf s c b - p.parkedCount < p.count - p.arrivals

/-- Evaluate one phase of a block after a change (R158, R168, R169). -/
def evalPhase (s : State) (c u slot : Nat) : State :=
  match (s.core c).block? u with
  | none => s
  | some b =>
    match mfind b.bars slot with
    | none => s
    | some p =>
      if phaseReleases s c b p && p.arrivals != 0 then releasePhase s c b slot p
      else if phaseOrphaned s c b p then orphanPhase s c p
      else s

/-- Evaluate every phase of a block. -/
def evalPhases (s : State) (c u : Nat) : State := (List.range 16).foldl (fun t i => evalPhase t c u i) s

/-- The BARX record of an arrival of the other kind (R167). -/
def barxInfos (slot : Nat) (barn : Bool) : List W64 :=
  [BitVec.ofNat 64 (slot + 256), BitVec.ofNat 64 (if barn then 1 else 0)]

/-- A phase without arrivals. -/
def BarPhase.fresh (barn : Bool) (count : Nat) : BarPhase :=
  { barn := barn, count := count, total := 0, parked := [], arrs := [], clock := [] }

/-- Arrive at a barrier slot with lanes already parked (or not, for BARN.arr), in ascending lane order, opening further
phases as counts are reached (R168, R169). `fuel` bounds the phases by the lanes. -/
def arrive (fuel : Nat) (s : State) (c gs u slot : Nat) (barn arr : Bool) (n : Nat) (ls : List Nat) : State :=
  match fuel with
  | 0 => s
  | k + 1 =>
    match ls, (s.core c).block? u, s.gang? c gs with
    | [], _, _ => s
    | _, none, _ => s
    | _, _, none => s
    | _, some b, some g =>
      let p := (mfind b.bars slot).getD (BarPhase.fresh barn n)
      if barn && p.count == 0 then
        -- a count of zero opens no phase: the lanes continue at once
        s.modGang c gs fun x => x.release (maskOf fun l => ls.contains l)
      else
        let room := if barn then p.count - p.arrivals else ls.length
        let now := ls.take room
        let m := maskOf fun l => now.contains l
        let p1 : BarPhase :=
          if arr then { p with total := p.total + now.length, arrs := mmod 0 p.arrs gs fun q => q ||| m,
                               clock := clockJoin p.clock (g.clocks m) }
          else { p with parked := mmod 0 p.parked gs fun q => q ||| m, clock := clockJoin p.clock (g.clocks m) }
        let s1 := s.modBlock c u fun x => { x with bars := mset x.bars slot p1 }
        let s2 := s1.modGang c gs fun x => x.mapBoth m fun _ f => f.tick
        arrive k (evalPhase s2 c u slot) c gs u slot barn arr n (ls.drop room)

/-! ### Arrivals at cluster barriers (R330 to R332) -/

/-- The phases of a context in a cluster's barrier unit. -/
def Cluster.phases (k : Cluster) (ctx : Nat) : Option (TMap CPhase) := mfind k.entries ctx

/-- Write a context's phases; an entry without arrivals is freed (R330). -/
def Cluster.setPhases (k : Cluster) (ctx : Nat) (ps : TMap CPhase) : Cluster :=
  let live := ps.filter fun (p : Nat × CPhase) => p.2.gangs != []
  { k with entries := if live = [] then mdel k.entries ctx else mset k.entries ctx live }

/-- Whether a gang is counted as arrived at a slot of its context's entry. -/
def arrivedAt (k : Cluster) (ctx uid : Nat) : Bool :=
  match k.phases ctx with
  | some ps => ps.any fun (p : Nat × CPhase) => p.2.gangs.contains uid
  | none => false

/-- Whether a gang is counted at a slot of its context's entry in any cluster (R332). -/
def State.counted (s : State) (ctx uid : Nat) : Bool := s.clusters.any fun q => arrivedAt q.2 ctx uid

/-- The gangs of a cluster whose CBAR waits for an entry issue it again once one is free (R330); a gang that is counted, here or in the
cluster that it was saved from, waits for its phase (R332). -/
def retryCbars (s : State) (cl : Nat) : State :=
  if 32 ≤ (s.cluster cl).entries.length then s
  else (List.range 4).foldl (fun t i => t.modCore (4 * cl + i) fun k =>
    { k with gangs := k.gangs.map fun (g : Nat × Gang) =>
        (g.1, if s.counted g.2.ctx g.2.uid then g.2
              else g.2.unpark (g.2.lanesWhere fun f => f.status == .parked .cbar)) }) s

/-- Withdraw a gang's arrivals at cluster barriers, wherever they are counted: a phase without arrivals ends, and an entry that is left
empty is free (R330, R331). -/
def leaveCbars (s : State) (uid : Nat) : State :=
  let hit := (s.clusters.filter fun q => q.2.entries.any fun e => e.2.any fun p => p.2.gangs.contains uid).map fun q => q.1
  hit.foldl (fun t cl => retryCbars (t.modCluster cl fun k => k.entries.foldl (fun k e =>
    k.setPhases e.1 (e.2.map fun p => (p.1, { p.2 with gangs := p.2.gangs.filter fun u => u != uid }))) k) cl) s

end Sys2Proof.Machine
end

