-- ==== Sys2Proof/Machine/Finish.lean ====
section
/-! DEFINITION. The ends of work: exits, blocks, launches with their FATOM windows, phases, cancellation, deferred faults,
and the outcomes of commands (R91, R158, R160, R196, R247, R267, R268, R413 to R419). -/

namespace Sys2Proof.Machine

/-! ### Outcomes of commands (R413, R429, R431) -/

/-- The code of a status (R413). -/
def Status.code (t : Status) : Nat :=
  match t with | .ok => 0 | .failed => 1 | .cancelled => 2 | .depfail => 3 | .lost => 4 | .noeffect => 5

/-- A journal entry by its uid. -/
def State.entry? (s : State) (u : Nat) : Option JEntry := s.journal.find? fun e => e.uid == u
/-- Apply `f` to a journal entry. -/
def State.modEntry (s : State) (u : Nat) (f : JEntry → JEntry) : State :=
  { s with journal := updFirst (fun e => e.uid == u) f s.journal }
/-- The `i`-th command of an entry, counting from 1. -/
def JEntry.cmd? (e : JEntry) (i : Nat) : Option JCmd := if i = 0 then none else e.cmds[i - 1]?
/-- Apply `f` to the `i`-th command of an entry. -/
def JEntry.modCmd (e : JEntry) (i : Nat) (f : JCmd → JCmd) : JEntry := { e with cmds := e.cmds.modify (i - 1) f }

/-- Whether a command's outcome is decided. -/
def JCmd.isDecided (m : JCmd) : Bool := m.state == .decided || m.state == .recorded

/-- Apply `f` to a queue of a function. -/
def State.modQueue (s : State) (fn q : Nat) (f : Queue → Queue) : State :=
  s.modFn fn fun x => { x with queues := mset x.queues q (f (mget Queue.reset x.queues q)) }
/-- A queue of a function. -/
def State.queue (s : State) (fn q : Nat) : Queue := mget Queue.reset (s.fn fn).queues q

/-- The witness of this package (R434): the next-higher live package, wrapping to the lowest; none when it stands alone. -/
def State.witnessPkg (s : State) : Option Nat :=
  ((List.range (s.npkg - 1)).map fun i => (s.self + 1 + i) % s.npkg).find? fun j => s.live.getLsbD j

/-- The address of the next entry of the host witness ring (R434; log entry 7). -/
def State.ringSlot (s : State) : Option Nat := s.witnessRing.map fun r => r.1.toNat + 32 * (s.witnessNext % r.2)

/-- Whether a witness entry can be written now: to a live witness, or into a bound ring that is not full (R434). -/
def State.witnessRoom (s : State) : Bool :=
  s.witnessPkg.isSome || match s.ringSlot with
    | some a => (memRead s.hostMem (hostAt 0 a) 32).all fun b => b == 0
    | none => false

/-- Write an entry of a queue, seq and command index, 0 for an acceptance, to the witness (R434); the acceptance of a batch tells a
witness package how many commands it has. -/
def State.tellWitness (s : State) (fn queue seq index count : Nat) : State :=
  match s.witnessPkg with
  | some j => s.sendMgmt j (if index = 0 then .witnessAccept fn queue seq count else .witnessDone fn queue seq index)
  | none =>
    match s.ringSlot with
    | some a =>
      let bs := leBytes 2 fn ++ leBytes 2 queue ++ leBytes 4 0 ++ leBytes 8 seq ++ leBytes 2 index ++ leBytes 14 0
      { s with hostMem := memWrite s.hostMem (hostAt 0 a) bs, witnessNext := s.witnessNext + 1 }
    | none => s

/-- Whether an outcome counts as a failure for NEEDOK (R411). -/
def Status.isBad (t : Status) : Bool := t == .failed || t == .cancelled || t == .depfail || t == .lost

/-- Decide a command's outcome (R413, R418): its record waits for a buffer of its completion queue, or goes onto the PF's
management queue when its function is being reset (R431). The first decision stands. -/
def State.decide (s : State) (entry index : Nat) (st : Status) (value : W64) : State :=
  match s.entry? entry with
  | none => s
  | some e =>
    match e.cmd? index with
    | none => s
    | some m =>
      if m.isDecided then s
      else
        let resetting := (s.fn e.fn).resetting
        let r : CRec := { kind := if resetting then 3 else 1, status := st.code, flags := if m.restarted then 1 else 0,
                          seq := e.seq, index := index, value := value, time := BitVec.ofNat 64 s.ticks }
        let s1 := s.modEntry entry fun x => x.modCmd index fun y =>
          { y with state := if resetting then .recorded else .decided, status := st, value := value }
        let s2 := if st.isBad && m.job != 0 then
            s1.modJob (s.fn e.fn).tenant m.job fun j => { j with bad := (entry, index) :: j.bad }
          else s1
        if resetting then ({ s2 with pfRecs := s2.pfRecs ++ [r] } : State).tellWitness e.fn e.queue e.seq index 0
        else s2.modQueue e.fn (e.queue + 1) fun q => { q with recs := q.recs ++ [r] }

/-! ### Engine commands that end without running (R247, R269) -/

/-- End every fill that an owner still owes, with bytes unchanged (R247, R284). -/
def Core.endFills (k : Core) (owner : Nat) : Core := { k with fills := k.fills.filter fun f => f.owner != owner }

/-- The rows of an owner's fills become due to end: the engine has written them (R269). -/
def Core.doneFills (k : Core) (owner : Nat) : Core :=
  { k with fills := updAll (fun f => f.owner == owner) (fun f => { f with done := true }) k.fills }

/-- Discard commands: their fills end (R247). -/
def discardCmds (s : State) (c : Nat) (ms : List EngCmd) : State :=
  s.modCore c fun k => ms.foldl (fun k m => k.endFills m.stamp) k

/-- Discard the named commands of a gang: their fills end, and an interest not yet sent returns to Free (R247, R277). -/
def discardNamed (s : State) (uid : Nat) : State :=
  let ms := namedOf s uid
  let owners := ms.flatMap fun m => if m.kind == .nwant then [m.stamp, interestOwner uid m.d] else [m.stamp]
  (s.mapCores fun k => { k with namedQ := k.namedQ.filter fun m => m.party.gangUid != uid
                                fills := k.fills.filter fun f => !owners.contains f.owner }).modGangByUid uid fun g =>
    { g with interests := ms.foldl (fun i m => if m.kind == .nwant then mset i m.d Interest.none else i) g.interests }

/-- Discard the commands of a gang in one engine: 1 matrix, 2 copy, 3 named, 4 fabric (R247, R277, R481). -/
def discardEngine (s : State) (c slot eng : Nat) : State :=
  match s.gang? c slot with
  | none => s
  | some g =>
    match eng with
    | 1 => (discardCmds s c g.q0).modGang c slot fun x => { x with q0 := [] }
    | 2 => (discardCmds s c g.q2).modGang c slot fun x => { x with q2 := [] }
    | 3 => discardNamed s g.uid
    | _ => (discardCmds s c ((s.core c).fabricQ.filter fun m => m.gang == slot)).modCore c fun k =>
        { k with fabricQ := k.fabricQ.filter fun m => m.gang != slot }

/-- A fault that an engine finds while it runs a gang's command (R247): the gang is marked, and the later commands of the
gang in that engine are discarded. The fourth word of an ECC is where in memory the error was found (R454). -/
def deferFault (s : State) (c slot eng : Nat) (code : BitVec 8) (infos : List W64) : State :=
  let s1 := if code = tcECC then eccFound s (infos.drop 3) else s
  (discardEngine s1 c slot eng).modGang c slot fun g =>
    { g with deferred := g.deferred ++ [{ code := code, infos := if code = tcECC then infos.take 3 else infos }] }

/-- Withdraw every Pending interest of a gang as NDROP does (R284, R417; log entry 44). -/
def withdrawInterests (s : State) (c slot : Nat) : State :=
  match s.gang? c slot with
  | none => s
  | some g =>
    g.interests.foldl (fun t q =>
      if q.2.state == .pending then
        (t.modCore c fun k => k.endFills (interestOwner g.uid q.1)).modGang c slot fun x =>
          { x with interests := mset x.interests q.1 Interest.none }
      else t) s

/-! ### Launch pages (R490) -/

/-- The address of the leaf PTE of a virtual address, if the walk finds one. -/
def leafAddr (s : State) (fuel lvl tbl va : Nat) : Option Nat :=
  match fuel with
  | 0 => none
  | k + 1 =>
    let at_ := tbl + 8 * levelIndex va lvl
    let e : W64 := s.pteAt at_
    if !e.getLsbD 0 then none
    else if !e.getLsbD 1 then leafAddr s k (lvl + 1) (2 ^ 8 * bitsOf e 8 44) va
    else some at_

/-- Drop the TLB entries and lane-cache sectors of a tenant's range on every core (R356). -/
def dropTlbs (s : State) (tenant base len : Nat) (all : Bool) : State :=
  s.mapCores fun k => { (k.lcDrop tenant) with tlb := k.tlb.filter fun e =>
    !(e.tenant == tenant && (all || overlaps e.va e.size base len)) }

/-- Remove one mapping of a tenant, with its TLB entries (R490). -/
def unmapPage (s : State) (tenant : Nat) (va : W64) : State :=
  match leafAddr s 4 0 (s.root tenant) va.toNat with
  | some at_ => dropTlbs (s.wr at_ 8 0) tenant (2 ^ 16 * (va.toNat / 2 ^ 16)) (2 ^ 16) false
  | none => s

/-! ### FATOM windows (R196, R197) -/

/-- Insert into a list kept in an order. -/
def insertBy {α : Type} (le : α → α → Bool) (a : α) (l : List α) : List α :=
  match l with
  | [] => [a]
  | b :: r => if le a b then a :: b :: r else b :: insertBy le a r
/-- Sort by insertion. -/
def sortBy {α : Type} (le : α → α → Bool) (l : List α) : List α := l.foldr (insertBy le) []

/-- The order of windows at close: ascending type code, then start address (R196). -/
def windowLe (a b : Window) : Bool :=
  (tyCode a.ty < tyCode b.ty) || (tyCode a.ty == tyCode b.ty && a.pa ≤ b.pa)
/-- The order of contributions: ascending keys (R195). -/
def itemLe (a b : Nat × Nat × Nat × W64) : Bool :=
  a.1 < b.1 || (a.1 == b.1 && (a.2.1 < b.2.1 || (a.2.1 == b.2.1 && a.2.2.1 ≤ b.2.2.1)))

/-- Contributions added in key order to what a window's sum holds, each addition rounded once with RNE (R196). -/
def foldItems (t : Ty) (sum : Option W64) (items : List (Nat × Nat × Nat × W64)) : Option W64 :=
  (sortBy itemLe items).foldl (fun acc i => some (match acc with
    | some v => (faddT t 0 v i.2.2.2).1
    | none => i.2.2.2)) sum

/-- The sum s of a window's contributions: those folded already, then the rest (R196, R348). -/
def windowSum (w : Window) : Option W64 := foldItems w.ty w.folded w.items

/-- The lowest linear index of a block of a launch that has not exited (R348). -/
def lowestBlock (s : State) (l : Launch) : Nat :=
  let live (bs : List Block) : List Nat := (bs.filter fun b => b.launch == l.uid && !b.exited).map fun b => b.linear
  ((s.cores.flatMap fun (k : Nat × Core) => live k.2.blocks) ++ s.saved.flatMap fun v => if v.current then live v.blocks else []).foldl
    min l.nextBlock

/-- The lowest first key of a launch's contributions that have not reached their slice. -/
def lowestPending (s : State) (uid : Nat) : Nat :=
  s.agenda.foldl (fun n e => match e with | .fatomContribution m => if m.launch = uid then min n m.k1 else n | _ => n) (2 ^ 64)

/-- Early combining (R348): the contributions of blocks that have exited, with every block of lower index, are folded into the sums, in
key order; a contribution still on its way holds back those above it (R196). -/
def foldEarly (s : State) (uid : Nat) : State :=
  match s.launch? uid with
  | none => s
  | some l =>
    let n := min (lowestBlock s l) (lowestPending s uid)
    s.mapDies fun d => { d with windows := d.windows.map fun w =>
      if w.launch == uid then
        { w with folded := foldItems w.ty w.folded (w.items.filter fun i => decide (i.1 < n))
                 items := w.items.filter fun i => !decide (i.1 < n) }
      else w }

/-- Close one window: MEM := MEM + s (R196). -/
def closeWindow (s : State) (w : Window) : State :=
  match windowSum w with
  | none => s
  | some v =>
    let n := elemWidth w.ty / 8
    let s1 := s.wr w.pa n (faddT w.ty 0 (BitVec.ofNat 64 (memNat s.mem w.pa n)) v).1.toNat
    s1.endSequences w.pa n (dieOf w.pa)

/-- Close the windows of a launch key on this package's dies, or discard them (R196, R197). -/
def closeKey (s : State) (key : Nat) (keep : Bool) : State :=
  let mine := s.dies.flatMap fun d => d.2.windows.filter fun w => w.launch == key
  let here := sortBy windowLe (mine.filter fun w => pkgOf w.pa == s.self)
  let s1 := if keep then here.foldl closeWindow s else s
  s1.mapDies fun d => { d with windows := d.windows.filter fun w => w.launch != key }

/-- Discard the contributions with given first keys in a launch's windows on this package's dies (R197, R417). -/
def dropKeys (s : State) (key : Nat) (keys : List Nat) : State :=
  s.mapDies fun d => { d with windows := d.windows.map fun w =>
    if w.launch == key then { w with items := w.items.filter fun t => !keys.contains t.1 } else w }

/-- The packages, other than this one, that home contributions of a launch. -/
def windowHomes (s : State) (launch : Nat) : List Nat :=
  ((s.dies.flatMap fun d => d.2.windows.filter fun w => w.launch == launch && pkgOf w.pa != s.self).map
    fun w => pkgOf w.pa).eraseDups

/-- Tell a package that homes a launch's contributions something about them, on the stream that carries these, so that it is done after
them (R196, R475). -/
def tellHome (s : State) (launch : Nat) (b : Mgmt) (t : State) (p : Nat) : State :=
  t.send { Packet.blank with dst := p, tenant := ((s.launch? launch).map fun l => l.tenant).getD 0, op := pkMgmt, body := b }

/-- Discard the contributions with given first keys, wherever they are homed (R197, R417). -/
def dropContributions (s : State) (launch : Nat) (keys : List Nat) : State :=
  dropKeys ((windowHomes s launch).foldl (tellHome s launch (.windowsDrop (s.launchKey launch) keys)) s) launch keys

/-- Close, or discard, every window of a launch, here and on the packages that home its contributions, which then owe an answer. -/
def closeWindows (s : State) (launch : Nat) (keep : Bool) : State :=
  let homes := windowHomes s launch
  let s1 := homes.foldl (tellHome s launch (.windowsClose (s.launchKey launch) keep)) s
  closeKey (s1.modLaunch launch fun l =>
    { l with closing := homes.foldl (fun m p => m ||| BitVec.ofNat 16 (2 ^ p)) l.closing }) launch keep

/-! ### Launches and jobs (R414 to R419) -/

/-- The blocks of a launch's grid. -/
def Launch.blocks (l : Launch) : Nat := l.gx * l.gy * l.gz

/-- Whether a launch has ended its work (R415): every block placed and complete, or no more to place, and nothing left of
its spawn chain. -/
def Launch.ended (l : Launch) : Bool :=
  l.state != .done && (l.outcome.isSome || (l.state != .waiting && l.state != .kilnWait && l.nextBlock == l.blocks))
    && l.blocksDone == l.nextBlock && l.spawned == 0

/-- The status of a command from its launches, once all are done: the first of FAILED, LOST, CANCELLED and DEPFAIL that
occurs, else OK (log entry 26). -/
def combinedStatus (ls : List Launch) : Status × Option Launch :=
  let first (t : Status) : Option Launch := ls.find? fun l => l.outcome == some t
  match first .failed with
  | some l => (.failed, some l)
  | none =>
    if (first .lost).isSome then (.lost, none)
    else if (first .cancelled).isSome then (.cancelled, none)
    else if (first .depfail).isSome then (.depfail, none)
    else (.ok, none)

/-- Decide the command that made a launch, when all the launches it made are done (R413, R415): the value is the first launch
number, or for FAILED the trap code (log entry 26). -/
def reportLaunch (s : State) (l : Launch) : State :=
  match (s.entry? l.entry).bind fun e => e.cmd? l.index with
  | none => s
  | some m =>
    let ls := m.launches.filterMap s.launch?
    if ls.all fun x => x.state == .done then
      let r := combinedStatus ls
      let v : W64 := match r.2 with
        | some x => BitVec.ofNat 64 (x.code + 2 ^ 8 * x.cause)
        | none => BitVec.ofNat 64 ((ls.head?.map fun x => x.number).getD 0)
      let s1 := s.modEntry l.entry fun e => e.modCmd l.index fun y => { y with restarted := ls.any fun x => x.restarted }
      s1.decide l.entry l.index r.1 v
    else s

/-- The prefetch holds of a launch, by its key in the fabric, end: no tile is held for it any more, and no face awaits one (R428). -/
def endHolds (s : State) (key : Nat) : State :=
  { s.mapDies (fun d => { d with tarns := d.tarns.map fun t => { t with holds := t.holds.filter fun h => h != key } }) with
    fen := s.fen.map fun e => { e with faces := e.faces.filter fun f => f.1 != .prefetch key } }

/-- The prefetch interests of a launch end, in every package (R428). -/
def endPrefetch (s : State) (l : Launch) : State :=
  if l.adapterTiles = 0 then s
  else s.peers.foldl (tellHome s l.uid (.holdsEnd (s.launchKey l.uid))) (endHolds s (s.launchKey l.uid))

/-- Complete a launch (R196, R415, R428, R490): windows close, unless it is failed or cancelled, its pages and holds go,
and its command's outcome is decided. -/
def completeLaunch (s : State) (l : Launch) : State :=
  let s1 := closeWindows s l.uid l.outcome.isNone
  let s2 := if l.paramPage = 0 then s1 else unmapPage s1 l.tenant l.paramVa
  let s3 := if l.constPage = 0 then s2 else unmapPage s2 l.tenant l.constVa
  let s5 := (endPrefetch s3 l).modLaunch l.uid fun x =>
    { x with state := .done, outcome := some (x.outcome.getD (if x.blockCancel = [] then .ok else .cancelled)) }
  reportLaunch s5 l

/-- Complete a launch when its work has ended: its windows close on every package first (R196). -/
def tryComplete (s : State) (uid : Nat) : State :=
  match s.launch? uid with
  | some l =>
    if !l.ended || l.closing != 0 then s
    else if windowHomes s uid = [] then completeLaunch s l
    else closeWindows s uid l.outcome.isNone
  | none => s

/-- A package has closed its windows of a launch, or is lost (R196, R488). -/
def windowsClosed (s : State) (uid pkg : Nat) : State :=
  tryComplete (s.modLaunch uid fun l => { l with closing := l.closing &&& ~~~(BitVec.ofNat 16 (2 ^ pkg)) }) uid

/-- Cancel a gang (R417): a deferred CANC, its queued commands discarded and its Pending interests withdrawn. -/
def cancelGang (s : State) (c slot : Nat) : State :=
  match s.gang? c slot with
  | none => s
  | some g =>
    if g.cancel then s
    else
      let s1 := [1, 2, 3, 4].foldl (fun t e => discardEngine t c slot e) s
      (withdrawInterests s1 c slot).modGang c slot fun x =>
        { x with cancel := true, deferred := x.deferred ++ [{ code := tcCANC, infos := [] }] }

/-- Cancel a gang that stands on no core (R417): the same, on the gang alone. -/
def Gang.cancelled (g : Gang) : Gang :=
  if g.cancel then g
  else { g with cancel := true, deferred := g.deferred ++ [{ code := tcCANC, infos := [] }], q0 := [], q2 := []
                interests := g.interests.map fun (q : Nat × Interest) => (q.1, if q.2.state == .pending then Interest.none else q.2) }

/-- Whether a gang belongs to a launch. -/
def Gang.ofLaunch (g : Gang) (uid : Nat) : Bool := g.arch.fibres.any fun p => p.2.launch == uid

/-- What a saved context keeps when some gangs are cancelled (R417): these marked, their unstarted commands, and what these owed to
rows, gone. -/
def Saved.cancelled (v : Saved) (p : Gang → Bool) : Saved :=
  let hit := v.gangs.filter fun (g : Nat × Gang) => p g.2 && !g.2.cancel
  let uids := hit.map fun (g : Nat × Gang) => g.2.uid
  let cmds := hit.flatMap (fun (g : Nat × Gang) => g.2.q0 ++ g.2.q2) ++ (v.namedQ ++ v.fabricQ).filter fun m => uids.contains m.party.gangUid
  let owners := cmds.map (fun m => m.stamp) ++ hit.flatMap fun (g : Nat × Gang) => (g.2.interests.filter fun (q : Nat × Interest) =>
    q.2.state == .pending).map fun (q : Nat × Interest) => interestOwner g.2.uid q.1
  { v with gangs := v.gangs.map (fun (g : Nat × Gang) => (g.1, if p g.2 then g.2.cancelled else g.2))
           namedQ := v.namedQ.filter fun m => !uids.contains m.party.gangUid
           fabricQ := v.fabricQ.filter fun m => !uids.contains m.party.gangUid
           fills := v.fills.filter fun f => !owners.contains f.owner }

/-- Cancel the gangs that `p` picks, wherever they are (R417). -/
def cancelGangs (s : State) (p : Gang → Bool) : State :=
  let targets := s.cores.flatMap fun (q : Nat × Core) => (q.2.gangs.filter fun (g : Nat × Gang) => p g.2).map fun (g : Nat × Gang) => (q.1, g.1)
  let s1 := targets.foldl (fun t q => cancelGang t q.1 q.2) s
  { s1 with migrations := s1.migrations.map fun m => if p m.gang then { m with gang := m.gang.cancelled } else m
            saved := s1.saved.map fun v => if v.current then v.cancelled p else v }

/-- Remove Binned fibres and tasks of a launch that have not started, wherever they are (R417, R419): those that `pf` and `pt` pick. -/
def dropQueuedBy (s : State) (uid : Nat) (pf : Fibre → Bool) (pt : Task → Bool) : State :=
  let ofItem (p : PoolItem) : Bool :=
    (match p.fibre with | some f => pf f | none => false) || (match p.task with | some t => pt t | none => false)
  let count (bs : List Bin) : Nat := bs.foldl (fun m b => m + (b.fibres.filter pf).length) 0
  let kept (bs : List Bin) : List Bin := (bs.map fun b => { b with fibres := b.fibres.filter fun f => !pf f }).filter fun b => b.fibres != []
  let onCores := s.cores.foldl (fun n (q : Nat × Core) => n + count q.2.bins + (q.2.deque.filter pt).length) 0
  let inPools := s.dies.foldl (fun n (d : Nat × Die) => n + (d.2.pool.filter ofItem).length) 0
  let inSaved := s.saved.foldl (fun n v => if v.current then n + count v.bins else n) 0
  let s0 := s.mapCores fun k => { k with bins := kept k.bins, deque := k.deque.filter fun t => !pt t }
  let s1 := ({ s0 with saved := s0.saved.map fun v => if v.current then { v with bins := kept v.bins } else v } : State).mapDies
    fun d => { d with pool := d.pool.filter fun p => !ofItem p }
  s1.modLaunch uid fun l => { l with spawned := l.spawned - (onCores + inPools + inSaved) }

/-- Remove every Binned fibre and task of a launch that has not started (R417, R419). -/
def dropQueued (s : State) (uid : Nat) : State := dropQueuedBy s uid (fun f => f.launch == uid) fun t => t.launch == uid

/-- Stop all work of a launch (R417, R419): no further block, bin or task starts, every gang is cancelled, wherever it is, and the
windows' contributions are discarded. -/
def cancelWork (s : State) (uid : Nat) : State :=
  let s1 := cancelGangs (dropQueued (closeWindows s uid false) uid) fun g => g.ofLaunch uid
  tryComplete (s1.modLaunch uid fun l => { l with state := if l.state == .done then .done else .cancelling }) uid

/-- Record a launch's outcome before its end (R418, R419): the first recorded stands; then its work is stopped, and a cancelled launch
holds no tile any more (R428). -/
def endLaunch (s : State) (uid : Nat) (st : Status) (code cause : Nat) : State :=
  match s.launch? uid with
  | none => s
  | some l =>
    if l.outcome.isSome then s
    else
      let s1 := if st = .cancelled then endPrefetch s l else s
      cancelWork (s1.modLaunch uid fun x => { x with outcome := some st, code := code, cause := cause }) uid

/-- A report to the operator on the PF's management queue (R442). -/
def State.report (s : State) (kind tenant : Nat) (words : List Nat) : State :=
  { s with pfReports := s.pfReports ++ [{ kind := kind, tenant := tenant, time := s.ticks, words := words }] }

/-- The numbers by which a report names a fibre (R12, R442): whether it is a spawned one, then its serial or its place. -/
def LName.words (n : LName) : List Nat :=
  match n with
  | .launched x y z f => [0, x, y, z, f]
  | .spawned k | .service k => [1, k]

/-- Fail a launch by a trap (R419, R438), with the operator's launch-failed report (R442): the job, the launch, the trap code, and the
name of the trapping fibre when there is one. -/
def failLaunch (s : State) (uid code cause : Nat) (who : Option LName) : State :=
  match s.launch? uid with
  | none => s
  | some l =>
    if l.outcome.isSome then s
    else endLaunch (s.report 2 l.tenant ([l.job, l.number, code] ++ (who.map LName.words).getD [])) uid .failed code cause

/-! ### Join counters (R160) -/

/-- The fault of a decrement, or the address it waits for. -/
inductive JoinStep where
  | done (s : State)
  | fault (code : BitVec 8)
  | wait
deriving DecidableEq, Repr

/-- Add −1 to a word of physical memory as a die-scope REL atomic (R160, R192). -/
def decrementPhys (s : State) (r : JoinRef) (pa : Nat) (tracked : Bool) : State :=
  if pkgOf pa ≠ s.self then
    s.send { Packet.blank with dst := pkgOf pa, tenant := r.tenant, addr := pa, size := 8, op := pkAtomic, ty := .n64,
                               order := 3, scope := 3, data := leBytes 8 (2 ^ 64 - 1) }
  else
    let s1 := s.wr pa 8 ((memNat s.mem pa 8 + (2 ^ 64 - 1)) % 2 ^ 64)
    let s2 := (s1.endOthers pa 8 (dieOf pa)).addHead (dieOf pa) { pa := pa, len := 8, clock := r.clock, scope := 3, party := r.party }
    if tracked then
      s2.recordAccess r.clock { pa := pa, len := 8, party := r.party, path := .lane, kind := .rmw, order := 3, scope := 3,
                                ea := r.addr, pc := 0, epoch := mget 0 r.clock r.party.uid }
    else s2

/-- The release that a decrement makes at a word that is not in global memory (R160, R374). -/
def decrementHead (s : State) (r : JoinRef) (at_ : Nat × Nat) : State :=
  (s.endOthers at_.1 8 at_.2).addHead at_.2 { pa := at_.1, len := 8, clock := r.clock, scope := 3, party := r.party }

/-- Add −1 to a word of the forking fibre's stack slice, wherever that fibre is. -/
def decrementStack (s : State) (r : JoinRef) : State :=
  let off := r.addr.toNat % 2 ^ 48 / 8 * 8
  let upd (f : Fibre) : Fibre :=
    if f.uid == r.forker then
      let old := ofLe ((List.range 8).map fun i => mget 0 f.stack (off + i))
      { f with stack := putBytes f.stack off (leBytes 8 ((old + (2 ^ 64 - 1)) % 2 ^ 64)) }
    else f
  decrementHead (s.mapGangs fun g => g.mapBoth (g.lanesWhere fun f => f.uid == r.forker) fun _ f => upd f) r
    (locKey 0 r.forker (.stack 0 off))

/-- Add −1 to a word of the home block's window, on core `c`. -/
def decrementScratch (s : State) (c : Nat) (r : JoinRef) : JoinStep :=
  match (s.core c).block? r.home with
  | none => .fault tcPROT
  | some b =>
    let off := r.addr.toNat % 2 ^ 48 / 8 * 8
    if 64 * b.rows < off + 8 then .fault tcPROT
    else
      let at_ := 64 * b.rowBase + off
      let old := ofLe ((List.range 8).map fun i => mget 0 (s.core c).scratch (at_ + i))
      .done (decrementHead (s.modCore c fun k => { k with scratch := putBytes k.scratch at_ (leBytes 8 ((old + (2 ^ 64 - 1)) % 2 ^ 64)) }) r
        (locKey c 0 (.scratch at_)))

/-- The decrement of a task's join counter after its last exit on core `c` (R160; log entry 45). -/
def joinDecrement (s : State) (c : Nat) (r : JoinRef) : JoinStep :=
  if bitsOf r.addr 49 15 = 0x7F then
    if r.addr.getLsbD 48 then decrementScratch s c r else .done (decrementStack s r)
  else
    let va : W64 := BitVec.ofNat 64 (r.addr.toNat / 8 * 8)
    match walk s r.tenant va with
    | .malformed => .fault tcPF
    | .notPresent => .wait
    | .leaf e n =>
      let pa := ptePa e + va.toNat % n
      if !pteR e || !pteW e then .fault tcPROT
      else if !s.live.getLsbD (pkgOf pa) then .fault tcPF
      else if !windowPass s r.tenant r.launch pa then .fault tcWIN
      else if s.uncorrectable (pteT e) pa 8 then .fault tcECC
      else .done (decrementPhys s r pa (pteT e))

/-- Make a decrement that is owed, or keep it until its page is resident; a fault fails the launch (R160). -/
def payJoin (s : State) (c task : Nat) (r : JoinRef) : State :=
  match joinDecrement s c r with
  | .done t => { t with tasks := mdel t.tasks task }
  | .wait => ({ s with tasks := mset s.tasks task { r with owed := true } } : State).push
      (.pageWalk { core := c, tenant := r.tenant, va := r.addr })
  | .fault code =>
    failLaunch { s with tasks := mdel s.tasks task } r.launch code.toNat 0 (some r.party.name)

/-- Retry the decrements that wait for a page of a tenant (R160); `unresolvable` when it cannot be made resident. -/
def retryJoins (s : State) (tenant page : Nat) (unresolvable : Bool) : State :=
  s.tasks.foldl (fun t q =>
    if q.2.owed && q.2.tenant == tenant && q.2.addr.toNat / 2 ^ 16 == page then
      if unresolvable then
        failLaunch { t with tasks := mdel t.tasks q.1 } q.2.launch tcPF.toNat 0 (some q.2.party.name)
      else payJoin t q.2.party.core q.1 q.2
    else t) s

/-! ### Gangs and blocks (R158, R267, R268, R415) -/

/-- Whether something of a gang is still to come: an engine's command, unit or request, an interlocked result, or the answer of another
package (R91, R267, R415). -/
def gangBusy (s : State) (c slot : Nat) (g : Gang) : Bool :=
  g.q0 != [] || g.q2 != [] || namedBusy s g.uid
    || (s.core c).fabricQ.any (fun m => m.gang == slot) || (s.core c).units.any (fun u => u.gang == slot)
    || g.pend.any (fun p => p.interlocked)
    || s.remotes.any fun r => r.core == c && r.gang == slot && (r.engine || r.data.isNone)

/-- Whether anything still has a block as its home: a gang anywhere, a Binned fibre or a task (R89, R268). -/
def homeInUse (s : State) (u : Nat) : Bool :=
  s.cores.any (fun q => q.2.gangs.any (fun g => g.2.home == u) || q.2.bins.any (fun b => b.home == u)
    || q.2.deque.any (fun t => t.home == u))
  || s.awayGangs.any (fun g => g.home == u)
  || s.saved.any (fun v => v.current && v.bins.any fun b => b.home == u)
  || s.dies.any (fun d => d.2.pool.any fun p =>
      (match p.fibre with | some f => f.home == u | none => false)
        || (match p.task with | some t => t.home == u | none => false))

/-- Give a block's rows and counters back once the block and every free gang at home in it have exited (R89, R268). -/
def reclaimBlock (s : State) (u : Nat) : State :=
  if homeInUse s u then s
  else
    let gone (b : Block) : Bool := b.uid == u && b.exited
    let s1 := s.mapCores fun k => { k with blocks := k.blocks.filter fun b => !gone b }
    { s1 with saved := s1.saved.map fun v => if v.current then { v with blocks := v.blocks.filter fun b => !gone b } else v }

/-- A block without gangs left completes: it returns its operand slots and accumulators (R267), and its launch counts it (R415); a free
gang's own slots and queues just go. -/
def blockDone (s : State) (c u : Nat) : State :=
  match (s.core c).block? u with
  | none => s
  | some b =>
    if b.gangs ≠ [] ∨ b.exited then s
    else
      let s1 := s.modBlock c u fun x => { x with exited := true, oCount := 0, accCount := 0 }
      if b.linear = 2 ^ 32 then reclaimBlock s1 u
      else tryComplete (reclaimBlock (foldEarly (s1.modLaunch b.launch fun l => { l with blocksDone := l.blocksDone + 1 }) b.launch) u) b.launch

/-- Free a gang slot once no fibre of the gang lives and its last command has completed (R158, R267): what it still
claimed is free, and its block may be complete. -/
def reapGang (s : State) (c slot : Nat) : State :=
  match mfind (s.core c).gangs slot with
  | none => s
  | some g =>
    if g.live ≠ 0 ∨ gangBusy s c slot g then s
    else
      let s1 := withdrawInterests s c slot
      let s2 := (s1.modCore c fun k =>
        { k with gangs := mdel k.gangs slot, aliases := k.aliases.filter fun a => a.gang != slot }).mapCores fun k =>
        { k with fills := k.fills.filter fun f => !(2 ^ 60 + g.uid * 32 ≤ f.owner && f.owner < 2 ^ 60 + g.uid * 32 + 32) }
      let s3 := match g.block with
        | some u => blockDone (s2.modBlock c u fun b => { b with gangs := b.gangs.filter fun i => i != slot
                                                                 claims := b.claims.filter fun q => q.gang != slot }) c u
        | none => s2
      reclaimBlock s3 g.home

/-- The counts that one exiting fibre changes (R158, R376, R415): its launch's place in hb and spawn chain. -/
def countExit (s : State) (f : Fibre) : State :=
  let s1 := s.modLaunch f.launch fun l => { l with clock := clockJoin l.clock f.clock }
  match f.name with
  | .spawned _ => s1.modLaunch f.launch fun l => { l with spawned := l.spawned - 1 }
  | .launched _ _ _ _ | .service _ => s1

/-- A gang without the fibres of some lanes (R158): out of j0, of every set and of every wait. -/
def Gang.without (g : Gang) (m : Mask) : Gang :=
  let keep (fs : TMap Fibre) : TMap Fibre := fs.filter fun p => !m.getLsbD p.1
  { g with arch := { g.arch with fibres := keep g.arch.fibres }, base := { g.base with fibres := keep g.base.fibres }
           member := g.member.map fun p => (p.1, p.2 &&& ~~~m), arrive := g.arrive.map fun p => (p.1, p.2 &&& ~~~m)
           waits := dropWaits m g.waits }

/-- Take lanes of a gang out of the phases of its block, and out of its claim queue, in which a gang waits as a whole (R249). -/
def leavePhases (s : State) (c slot : Nat) (g : Gang) (m : Mask) : State :=
  match g.block with
  | none => s
  | some u => s.modBlock c u fun b => { b with
      bars := b.bars.map (fun p => (p.1, { p.2 with parked := p.2.parked.map fun q => if q.1 = slot then (q.1, q.2 &&& ~~~m) else q }))
      claims := b.claims.filter fun q => !(q.gang == slot && (g.lanesWhere fun f => f.status == .parked .oslot) &&& m != 0) }

/-- The clock of a task learns what an exiting fibre of it did (R161). -/
def taskExit (s : State) (f : Fibre) : State :=
  match mfind s.tasks f.task with
  | some r => { s with tasks := mset s.tasks f.task { r with clock := clockJoin r.clock f.clock } }
  | none => s

/-- End the fibres of some lanes of a gang (R91, R158, R160): the one operation of EXIT, of a kill and of a cancel. -/
def exitLanes (s : State) (c slot : Nat) (mask : Mask) : State :=
  match s.gang? c slot with
  | none => s
  | some g =>
    let m := mask &&& g.live
    if m = 0 then s else
    let fs := (lanesOf m).map g.lane
    let s1 := leavePhases s c slot g m
    let g1 := g.without m
    let s2 := s1.setGang c slot g1.evalSets
    let s3 := fs.foldl (fun t f => taskExit (countExit t f) f) s2
    let ended := (fs.filter fun f => f.task != 0 && !(g1.arch.fibres.any fun p => p.2.task == f.task)).foldl
      (fun (acc : TMap Fibre) f => mset acc f.task f) []
    let s4 := ended.foldl (fun t q => match mfind t.tasks q.1 with
      | some r => payJoin t c q.1 { r with party := partyOf g c slot q.2 }
      | none => t) s3
    let s5 := match g.block with | some u => evalPhases s4 c u | none => s4
    let s6 := if g1.live = 0 then
        (if g.member4.isSome then dissolveYoke s5 c else s5).modGang c slot fun x =>
          { x with deferred := [], stop := none, region := Region.empty, pend := x.pend.filter fun p => p.interlocked }
      else examine s5 c slot
    let s7 := reapGang { s6 with remotes := s6.remotes.filter fun r =>
      !(r.core == c && r.gang == slot && !r.engine && m.getLsbD r.lane && r.data.isSome) } c slot
    (fs.map fun f => f.launch).eraseDups.foldl tryComplete s7

/-- A gang's parked fibres made Ready to take a trap (R247): they leave what they waited in (log entry 43). -/
def readyAll (s : State) (c slot : Nat) : State :=
  match s.gang? c slot with
  | none => s
  | some g =>
    let m := g.lanesWhere fun f => f.status != .ready && f.status != .absent
    let s1 := leavePhases s c slot g m
    let s2 := (leaveCbars s1 g.uid).modCluster (c / 4) fun k =>
      { k with waiting := k.waiting.filter fun w => !(w.1 == c && w.2.1 == slot) }
    s2.modGang c slot fun x => { (x.unpark m) with arrive := x.arrive.map fun p => (p.1, p.2 &&& ~~~m) }

/-- Take the first deferred fault of a gang (R247): it stops at the PC it would next execute, named by the lowest lane of
j0. -/
def takeDeferred (s : State) (c slot : Nat) : State :=
  let s1 := readyAll s c slot
  match s1.gang? c slot with
  | none => s
  | some g =>
    match g.deferred with
    | [] => s
    | d :: r =>
      let f := g.lane (lowLane g.live)
      (stopGang s1 c slot (trapRecord s1 g f d.code false true f.pc d.infos) 0 f.pc).modGang c slot fun x =>
        { x with deferred := r }

end Sys2Proof.Machine
end

