-- ==== Sys2Proof/Machine/Commit.lean ====
section
/-! DEFINITION. The commit of a region: its race check, the waits for room and for an NPUB's order, its stores, commands,
pops, counts and exits, and the samples of committed memory instructions (R20, R158, R234 to R237, R245, R269, R277,
R287, R302, R383, R441). -/

namespace Sys2Proof.Machine

/-! ### Samples (R441) -/

/-- Put bytes at a physical address for a unit of the package itself: in this package's memory, or by a write that the
address's home package performs (R477; log entry 72). -/
def putUnit (s : State) (tenant pa : Nat) (bs : List Byte) : State :=
  if pkgOf pa = s.self then s.wrBytes pa bs
  else ({ s with free := s.free + 1 } : State).send
    { Packet.blank with dst := pkgOf pa, tenant := tenant, addr := pa, size := bs.length, op := pkWrite, data := bs }

/-- Read a number at a physical address for a unit of the package itself; what another package holds is a free value
(R477; log entry 72). -/
def getUnit (s : State) (pa n : Nat) : Nat :=
  if pkgOf pa = s.self then s.rd pa n
  else ofLe ((List.range n).map fun i => Config.farByte (pa + i) s.free s.ck)

/-- Write bytes at a virtual address of a tenant's own memory, when the page is present. -/
def writeVirt (s : State) (tenant : Nat) (va : W64) (bs : List Byte) : State :=
  match walk s tenant va with
  | .leaf e n => putUnit s tenant (ptePa e + va.toNat % n) bs
  | _ => s

/-- Read a number at a virtual address of a tenant's own memory, 0 when the page is not present. -/
def readVirt (s : State) (tenant : Nat) (va : W64) (n : Nat) : Nat :=
  match walk s tenant va with
  | .leaf e k => getUnit s (ptePa e + va.toNat % k) n
  | _ => 0

/-- A 64-byte sample (R441); its timing fields are free values (log entry 10). -/
def sampleBytes (s : State) (g : Gang) (exec : Mask) (pc : W64) (sectors : Nat) : List Byte :=
  let f := g.lane (lowLane exec)
  let nm : Nat × List Byte × Nat := match f.name with
    | .launched x y z i => (f.launchNo, leBytes 4 x ++ leBytes 4 y ++ leBytes 4 z, i)
    | .spawned n | .service n => (0xFFFFFFFF, leBytes 8 (n % 2 ^ 48) ++ leBytes 4 0, 0)
  leBytes 8 pc.toNat ++ leBytes 4 f.job ++ leBytes 4 nm.1 ++ nm.2.1 ++ leBytes 4 nm.2.2 ++ leBytes 4 exec.toNat
    ++ leBytes 2 (min sectors 65535) ++ leBytes 1 (if g.replay || g.inOrder then 1 else 0)
    ++ leBytes 1 (Config.freeBits 5 s.free).toNat
    ++ (List.range 5).flatMap (fun i => leBytes 2 (Config.freeBits 16 (s.free + 1 + i)).toNat)
    ++ leBytes 6 0 ++ leBytes 8 (s.timeOf g.tenant f.job).toNat

/-- Write one sample into the context's ring, or drop it when the ring is full (R441). -/
def writeSample (s : State) (g : Gang) (exec : Mask) (pc : W64) (sectors : Nat) : State :=
  let cfg := (s.ctx g.ctx).sample
  let wr := readVirt s g.tenant cfg.ring 8
  let rdx := readVirt s g.tenant (cfg.ring + 8) 8
  if (wr + 2 ^ 64 - rdx) % 2 ^ 64 ≥ cfg.entries then
    s.modCtx g.ctx fun x => { x with sample := { x.sample with dropped := x.sample.dropped + 1 } }
  else
    let s1 := writeVirt s g.tenant (cfg.ring + BitVec.ofNat 64 (64 * (1 + wr % cfg.entries))) (sampleBytes s g exec pc sectors)
    let s2 := writeVirt s1 g.tenant cfg.ring (leBytes 8 ((wr + 1) % 2 ^ 64))
    { s2 with free := s2.free + 6 }

/-- Count a committed memory instruction, sampling the one that wraps the counter (R441). -/
def countSample (c : Nat) (g : Gang) (s : State) (m : Mask × W64 × Nat) : State :=
  let cfg := (s.ctx g.ctx).sample
  if !cfg.on then s
  else
    let n := (mget 0 (s.core c).sampleCtr g.ctx + 1) % 2 ^ cfg.k
    let s1 := s.modCore c fun k => { k with sampleCtr := mset k.sampleCtr g.ctx n }
    if n = 0 then writeSample s1 g m.1 m.2.1 m.2.2 else s1

/-! ### Commands (R235, R245, R269, R277, R387) -/

/-- The class of a command in R199: 1 copy, 2 matrix, 3 named, 4 fabric. -/
def CmdKind.cls (k : CmdKind) : Nat :=
  match k with
  | .copy | .copyg => 1
  | .nreg | .nwant | .npub | .ndrop => 3
  | .bulk => 4
  | _ => 2

/-- The clock of a command: what its fibre follows, and what FENCEX ordered before its class (R387). -/
def cmdClock (g : Gang) (m : EngCmd) : TMap Nat :=
  let f := g.lane (g.laneOf m.party.uid)
  let own := mset f.clock f.uid (f.epoch - 1)
  if m.kind == .npub then g.clocks g.live else clockJoin own (mget [] g.pathClock m.kind.cls)

/-- What an NWANT's commit does to its slot (R284): Pending, with its rows, its serial and its lifetime running. -/
def wantSlot (s : State) (c slot : Nat) (m : EngCmd) : State :=
  let serial := (s.core c).serial + 1
  let i : Interest := { state := .pending, name := m.addr, serial := serial, rows := m.rows, tok := m.ext.getLsbD 5,
                        until_ := s.ticks + m.imm, shape := m.shape, clock := [], refused := none }
  (s.modCore c fun k => { k with serial := serial }).modGang c slot fun g => { g with interests := mset g.interests m.d i }

/-- The slots of a mask that an NDROP finds held at its commit, with their serials: it acts on these interests, not on later ones of
the same slots (R277, R288). -/
def heldSerials (g : Gang) (m : Mask) : TMap W32 :=
  (g.interests.filter fun (q : Nat × Interest) => q.2.state != .free && m.getLsbD q.1).map fun (q : Nat × Interest) => (q.1, q.2.serial)

/-- The words that an ACCWR of virtual code writes: its registers' values at its commit (R260). -/
def EngCmd.atCommit (m : EngCmd) (g : Gang) : EngCmd :=
  if m.kind == .accwr && (!g.inNative || g.replay) then
    { m with vals := m.vals.map fun (q : Nat × List W32) => (q.1, (List.range 16).map fun t => (g.lane q.1).rv (m.a + t)) }
  else m

/-- Send one command of a committing region to its queue (R235): its fills begin. -/
def pushCmd (c slot : Nat) (s : State) (m0 : EngCmd) : State :=
  match s.gang? c slot with
  | none => s
  | some g =>
    let (stamp, s1) := s.fresh
    let m := { m0.atCommit g with stamp := stamp, clock := cmdClock g m0, words := if m0.kind == .ndrop then heldSerials g m0.mask else m0.words }
    let owner := if m.kind == .nwant then interestOwner g.uid m.d else stamp
    let s2 := s1.modCore c fun k =>
      { k with fills := k.fills ++ m.rows.map fun r => { row := r, owner := owner, done := false } }
    let s3 := if m.kind == .nwant then wantSlot s2 c slot m else s2
    match m.kind.cls with
    | 1 => s3.modGang c slot fun x => { x with q2 := x.q2 ++ [m] }
    | 2 => s3.modGang c slot fun x => { x with q0 := x.q0 ++ [m] }
    | 3 => s3.modCore c fun k => { k with namedQ := k.namedQ ++ [m] }
    | _ => s3.modCore c fun k => { k with fabricQ := k.fabricQ ++ [m] }

/-! ### The commit -/

/-- Why a region's commit must wait (R245, R277, R287, R481): no room for its commands, or an NPUB's earlier accesses. -/
def commitStall (s : State) (c slot : Nat) (g : Gang) : Option Cause :=
  let n (k : Nat) : Nat := (g.region.cmds.filter fun m => m.kind.cls == k).length
  if (n 2 ≠ 0 ∧ 16 < g.q0.length + n 2) ∨ (n 1 ≠ 0 ∧ 16 < g.q2.length + n 1)
      ∨ (n 4 ≠ 0 ∧ 16 < (s.core c).fabricQ.length + n 4) then some .qfull
  else if g.region.cmds.any (fun m => m.kind == .npub) && (List.range 5).any (classBusy s c slot g) then some .fence
  else none

/-- The race that one of a region's stores completes (R383). -/
def regionRace (s : State) (g : Gang) : Option (Access × Access) :=
  g.region.stores.findSome? fun st => storeRace s (g.lane (g.laneOf st.acc.party.uid)).clock st

/-- Raise MMX at the only instruction of a region (R383): nothing of it is published. -/
def raceTrap (s : State) (c slot : Nat) (g : Gang) (a r : Access) : State :=
  let l := g.laneOf a.party.uid
  let resume := (g.lane l).pc
  let back := g.rolledBack
  let lanes := maskOf fun q => (back.lane q).status == .ready && (back.lane q).pc == a.pc && (g.lane q).pc == resume
  let s1 := (s.unrecord g.region.reads).setGang c slot back
  stopGang s1 c slot (trapRecord s1 back (back.lane l) tcMMX false false a.pc (mmxInfos a r 0)) lanes resume

/-- Whether a region has nothing to commit. -/
def Region.isEmpty (r : Region) : Bool := r == Region.empty

/-- Make a region's effects visible (R235): stores in order, commands in push order, pops discarded, then counts and
exits. -/
def commitEffects (s : State) (c slot : Nat) (g : Gang) : State :=
  let r := g.region
  let s1 := r.stores.foldl (fun t st => performStore t c slot st) s
  let s2 := r.cmds.foldl (pushCmd c slot) s1
  let s3 := s2.modCore c fun k =>
    { (r.energy.foldl (fun k e => k.addEnergy g.ctx e.1 e.2) k) with hist := mset k.hist g.ctx (addHist (mget [] k.hist g.ctx) r.hist) }
  let s3 := s3.modDie (c / 256) fun d => { d with pcSk := sketchAdd d.pcSk (gangKernel s g ^^^ r.start.toNat) }
  let s4 := r.samples.reverse.foldl (countSample c g) s3
  let s5 := s4.modGang c slot fun x =>
    let y := if r.cmds.any fun m => m.kind == .npub then x.mapLanes x.live fun _ f => f.tick else x
    { y with base := y.arch, region := Region.empty, spec := if y.spec.any fun p => p.confirmed then none else y.spec }
  exitLanes s5 c slot r.exits

/-- Commit a gang's region (R20, R235), or let it wait, or let its race be reported. -/
def commitRegion (s : State) (c slot : Nat) : State :=
  if slot = fwSlot then s
  else
    match s.gang? c slot with
    | none => s
    | some g =>
      if g.region.isEmpty then s.setGang c slot { g with base := g.arch }
      else
        match regionRace s g with
        | some (a, r) => if 1 < g.region.instrs ∨ (g.inNative ∧ ¬ g.replay) then rollback s c slot else raceTrap s c slot g a r
        | none =>
          match commitStall s c slot g with
          | some cause => s.setGang c slot (g.mapLanes g.ready fun _ f => { f with status := .parked cause })
          | none => commitEffects s c slot g

/-- The lanes that a waiting commit holds: parked without an instruction to issue again. -/
def Gang.stalled (g : Gang) : Mask :=
  maskOf fun l => ((g.lane l).status == .parked .qfull || (g.lane l).status == .parked .fence)
    && !(g.waits.any fun w => w.mask.getLsbD l)

/-- Whether a gang's commit waits and may now go on; native code commits at its commit words alone (R235). -/
def commitReady (s : State) (c slot : Nat) (g : Gang) : Bool :=
  !g.region.isEmpty && g.ready == 0 && (commitStall s c slot g).isNone && g.stop.isNone
    && (g.stalled != 0 || !g.inNative || g.replay || (g.waits.any (fun w => w.cause == .result) && !g.waits.any Wait.isNative))

/-- REGION_COMMIT (R235): a commit that waited goes on. -/
def execRegionCommit (at_ : AtGang) (s : State) : Result :=
  .next (match s.gang? at_.core at_.gang with
    | none => s
    | some g => commitRegion (s.setGang at_.core at_.gang (g.mapLanes g.stalled fun _ f => { f with status := .ready }))
        at_.core at_.gang)

end Sys2Proof.Machine
end

