-- ==== Sys2Proof/Machine/Arbiter.lean ====
section
/-! DEFINITION. The context arbiter and the choice of the gang and PC group that issue (R151, R293, R295 to R299, R313,
R314). -/

namespace Sys2Proof.Machine

/-! ### Runnable slots and charges (R296, R297) -/

/-- Whether a gang has a fibre that may issue (R295, R305). -/
def Gang.eligible (g : Gang) : Bool := g.ready != 0 && g.stop.isNone

/-- Whether a gang has a fibre parked with cause YIELD (R298). -/
def Gang.hasYield (g : Gang) : Bool := (g.lanesWhere fun f => f.status == .parked .yield) != 0

/-- Whether a gang is runnable for the arbiter (R297). -/
def Gang.runnable (g : Gang) : Bool := g.stop.isNone && (g.ready != 0 || g.hasYield)

/-- The gangs of a slot's context. -/
def Core.gangsOf (k : Core) (n : Nat) : List (Nat × Gang) := k.gangs.filter fun q => q.2.ctx == (k.slotOf n).ctx.toNat

/-- Whether a slot may run its context (R294, R310). -/
def UserSlot.live (u : UserSlot) : Bool := u.state == .running || u.state == .resident

/-- Whether a slot is runnable (R297). -/
def Core.slotRunnable (k : Core) (n : Nat) : Bool := (k.slotOf n).live && (k.gangsOf n).any fun q => q.2.runnable

/-- A context's declared run (R296): the smallest remaining yield counter among its runnable gangs. -/
def Core.declaredRun (k : Core) (n : Nat) : Nat :=
  (((k.gangsOf n).filter fun q => q.2.runnable).map fun q =>
    if q.2.ready == 0 then q.2.declared else q.2.yieldCtr).foldl min (2 ^ 64)

/-- The stride of a slot (R297). -/
def UserSlot.stride (u : UserSlot) : Nat := 65536 / max 1 u.tickets.toNat

/-- SLICE as it acts: 0 counts as 1 (R294). -/
def Core.sliceOf (k : Core) : Nat := max 1 k.slice.toNat
/-- FWSHARE as it acts (R294). -/
def Core.shareOf (k : Core) : Nat := min 16 (max 1 k.fwshare.toNat)

/-- Charge the running context for the ck it has run (R297); when a PASS would pass 2^31, the smaller PASS is subtracted
from both. -/
def Core.chargeRun (k : Core) : Core :=
  match k.running with
  | none => { k with ckRun := 0 }
  | some n =>
    let add := (k.slotOf n).stride * ((k.ckRun + 63) / 64)
    let p (i : Nat) : Nat := (k.slotOf i).pass.toNat + (if i = n then add else 0)
    let m := if p 0 > 2 ^ 31 ∨ p 1 > 2 ^ 31 then min (p 0) (p 1) else 0
    let upd (i : Nat) (k : Core) : Core := k.modSlot i fun u => { u with pass := BitVec.ofNat 32 (min (p i - m) (2 ^ 32 - 1)) }
    { upd 1 (upd 0 k) with ckRun := 0 }

/-- A gang that stops being issued at a yield word, or at a commit point after an overrun: its Ready fibres park with cause
YIELD (R298, R299). -/
def Gang.parkYield (g : Gang) : Gang :=
  { g.mapBoth g.ready fun _ f => { f with status := .parked .yield } with yielded := true, yieldDue := false }

/-- A gang whose context runs again (R298, R299): its YIELD-parked fibres are Ready, with the declaration held. -/
def Gang.resumeYield (g : Gang) : Gang :=
  if g.hasYield || g.yielded || g.yieldDue then
    { g.unpark (g.lanesWhere fun f => f.status == .parked .yield) with
      yieldCtr := g.declared, yielded := false, yieldDue := false, overran := false }
  else g

/-- Make a slot the running context (R297, R298). -/
def Core.switchTo (k : Core) (n : Option Nat) : Core :=
  if k.running = n then k
  else
    let k1 := match k.running with
      | some m => (k.chargeRun).modSlot m fun (u : UserSlot) => if u.state = SlotState.running then { u with state := SlotState.resident } else u
      | none => { k with ckRun := 0 }
    match n with
    | none => { k1 with running := none }
    | some m =>
      let k2 := k1.modSlot m fun (u : UserSlot) => { u with state := SlotState.running }
      let ctx := (k2.slotOf m).ctx.toNat
      { k2 with running := some m
                gangs := k2.gangs.map fun (q : Nat × Gang) => (q.1, if q.2.ctx == ctx then q.2.resumeYield else q.2) }

/-- A slot is a candidate at a decision point (R297). `decl` replaces the declared run of the running context at a yield
word (R296). -/
def Core.candidate (k : Core) (decl : Option Nat) (n : Nat) : Bool :=
  let u := k.slotOf n
  let o := k.slotOf (1 - n)
  let run := if k.running == some n then decl.getD (k.declaredRun n) else k.declaredRun n
  k.slotRunnable n && u.penalty == 0 && run ≤ k.rem
    && (!o.occupied || u.pass.toNat ≤ o.pass.toNat + u.stride * k.sliceOf)

/-- The preferred of two slots by rank, then lower PASS, then slot 0 (R297). -/
def Core.ranked (k : Core) (ns : List Nat) : Option Nat :=
  match ns with
  | [] => none
  | [n] => some n
  | _ =>
    if k.slot0.rank ≠ k.slot1.rank then some (if k.slot1.rank < k.slot0.rank then 0 else 1)
    else some (if k.slot1.pass < k.slot0.pass then 1 else 0)

/-- A core after a slice ended (R297, R299): the charge, the penalties, a new slice, and the runnable slot of lowest PASS. -/
def Core.newSlice (k : Core) : Core :=
  let k1 := k.chargeRun
  let dec (u : UserSlot) : UserSlot := { u with penalty := if u.penalty = 0 then 0 else u.penalty - 1 }
  let k2 := { (k1.modSlot 0 dec).modSlot 1 dec with rem := k.sliceOf * 64 }
  let ns := [0, 1].filter k2.slotRunnable
  k2.switchTo (match ns with
    | [] => none
    | [n] => some n
    | _ => some (if k2.slot1.pass < k2.slot0.pass then 1 else 0))

/-- A decision point (R297). -/
def Core.decide (k : Core) (decl : Option Nat) : Core :=
  match k.ranked ([0, 1].filter (k.candidate decl)) with
  | some n => k.switchTo (some n)
  | none => k.newSlice

/-- The context that runs on a core. -/
def Core.runningCtx (k : Core) : Option Nat := k.running.map fun n => (k.slotOf n).ctx.toNat

/-- The context of a core's member of its cluster's yoke. -/
def yokedCtx (s : State) (c : Nat) : Option Nat :=
  (mfind (s.cluster (c / 4)).members (c % 4)).bind fun slot => (s.gang? c slot).map fun g => g.ctx

/-- A decision point on a core; its yoke dissolves when it makes another context than the yoke's the running one (R336). -/
def arbitrate (s : State) (c : Nat) (f : Core → Core) : State :=
  let s1 := s.modCore c f
  match (s1.core c).runningCtx, yokedCtx s c with
  | some n, some y => if (s.core c).running != (s1.core c).running && n != y then dissolveYoke s1 c else s1
  | _, _ => s1

/-! ### The choice of a gang and PC group (R151, R295) -/

/-- The gangs that may take the user's issue: those of the running context, else those of another resident context that
have not met a yield word since it stopped running (R295, R298); none that a busy unit holds (R219). -/
def Core.issuers (k : Core) (held : Gang → Bool) : List (Nat × Gang) :=
  let run := match k.running with
    | some n => (k.gangsOf n).filter fun q => q.2.eligible && !held q.2
    | none => []
  if run != [] then run
  else k.gangs.filter fun q => q.2.eligible && !held q.2 && !q.2.yielded
    && (match k.slotFor q.2.ctx with | some n => (k.slotOf n).live && k.running != some n | none => false)

/-- The oldest of a list of gangs. -/
def oldest (gs : List (Nat × Gang)) : Option (Nat × Gang) :=
  gs.foldl (fun (o : Option (Nat × Gang)) q => match o with
    | some p => if q.2.age < p.2.age then some q else some p
    | none => some q) none

/-- A gang that has been eligible for 256 ck without issuing (R295). -/
def Gang.starving (g : Gang) : Bool := decide (256 ≤ g.starve)

/-- The gang that issues (R295, R334): the oldest starving one, else a member of a yoke that fetches together, else the oldest.
`held` are the gangs that a busy unit holds. -/
def Core.pick (k : Core) (held : Gang → Bool) (shared : Bool) : Option (Nat × Gang) :=
  let gs := k.issuers held
  let st := gs.filter fun q => q.2.starving
  let yk := gs.filter fun q => shared && q.2.member4.isSome
  if st != [] then oldest st else if yk != [] then oldest yk else oldest gs

/-- The PC group of a lane (R150, R208): the Ready fibres at its PC, in native code at its native PC. -/
def Gang.groupOf (g : Gang) (l : Nat) : Mask :=
  g.lanesWhere fun f => f.status == .ready
    && (if g.inNative && !g.replay then f.npc == (g.lane l).npc else f.pc == (g.lane l).pc)

/-- A gang after `n` ck without an issue of its own: an eligible gang of the running context grows hungrier (R295), and one that a
busy unit holds for `busy` of them counts them against its yield counter (R296). -/
def Gang.await (g : Gang) (runs : Bool) (n busy : Nat) : Gang :=
  { g with starve := if g.eligible && runs then g.starve + (n - busy) else g.starve
           yieldCtr := if g.eligible then g.yieldCtr - busy else g.yieldCtr }

/-! ### Time and stall (R293, R297, R303, R313, R314) -/

/-- The end of a 64-ck interval (R303, R319): the static energy goes to the contexts resident in every ck of it, and the next
interval begins. -/
def Core.interval (k : Core) : Core :=
  let ok (n : Nat) : Bool := (k.slotOf n).live && (k.slotOf n).wholeInterval
  let r := ([0, 1].filter ok).length
  let add (n : Nat) (u : UserSlot) : UserSlot :=
    { u with energy := if ok n then sat48 u.energy (k.static.toNat / r) else u.energy, wholeInterval := u.live }
  (k.modSlot 0 (add 0)).modSlot 1 (add 1)

/-- A core after the ends of `n` intervals. -/
def Core.intervals (k : Core) (n : Nat) : Core :=
  match n with
  | 0 => k
  | n + 1 => k.interval.intervals n

/-- A core after `n` ck (R293, R294, R296, R297): the intervals that end in them end at the ck whose CKCOUNT is a multiple of 64
(R319), before anything that issues there. `busy` gives how many of the ck a unit holds a gang (R219). -/
def Core.pass (k : Core) (n : Nat) (busy : Gang → Nat) : Core :=
  if k.failed then k
  else
    let k1 := k.intervals ((k.ckcount.toNat % 64 + n) / 64)
    { k1 with ckcount := k.ckcount + BitVec.ofNat 64 n, credit := min 64 (k.credit + n * k.shareOf)
              rem := k.rem - n, ckRun := if k.running.isSome then k.ckRun + n else k.ckRun
              userCk := k.userCk + n
              gangs := k.gangs.map fun (q : Nat × Gang) =>
                (q.1, q.2.await (k.running.isSome && k.slotFor q.2.ctx == k.running) n (busy q.2)) }

/-- The cause that lane issue is charged for when the running context issues nothing (R314): UNIT when a busy unit holds one of its
gangs, REFRESH for a lane whose access waits for one (R349). -/
def Core.idleCause (k : Core) (held : Gang → Bool) (late : Gang → Nat → Bool) (n : Nat) : Nat :=
  if (k.gangsOf n).any fun q => q.2.eligible && held q.2 then 15
  else
  match oldest (k.gangsOf n) with
  | none => 19
  | some q =>
    match (List.range 32).findSome? fun l => match (q.2.lane l).status with | .parked c => some (l, c) | _ => none with
    | some (l, c) => if late q.2 l then 9 else c.code
    | none => 19

/-- Charge the ck of a replay to the cause that began it (R237, R314). -/
def Core.chargeReplay (k : Core) (g : Gang) (ck : Nat) : Core :=
  match g.replay || g.inOrder, g.replayFor with
  | true, some c => k.addStall g.ctx 0 c ck
  | _, _ => k

/-- Charge `ck` without an issue to the running context (R314). -/
def Core.chargeIdle (k : Core) (held : Gang → Bool) (late : Gang → Nat → Bool) (ck : Nat) : Core :=
  match k.running with
  | some n => k.addStall (k.slotOf n).ctx.toNat 0 (k.idleCause held late n) ck
  | none => k

end Sys2Proof.Machine
end

