-- ==== Sys2Proof/Machine/Control.lean ====
section
/-! DEFINITION. Class 101: branches, calls, exit, new work, rejoin sets, barriers and the small control instructions (R150
to R177). SYSCALL stands with the services. -/

namespace Sys2Proof.Machine

/-! ### Targets (R153, R154) -/

/-- The image that a fibre runs. -/
def imageOf (s : State) (f : Fibre) : Option Image := (s.launch? f.launch).map fun l => l.image

/-- Whether an address passes the checks of R153: legal bits, inside the code section. The firmware context has no image, and every
address with legal bits passes in it (log entry 80). -/
def targetOk (s : State) (f : Fibre) (t : W64) : Bool :=
  bitsOf t 56 8 == 0 && bitsOf t 0 2 == 0 &&
    (s.inFirmware || match imageOf s f with
      | some m => m.base.toNat ≤ t.toNat && t.toNat < m.base.toNat + m.code.length
      | none => false)

/-- Whether an address is the entry of a `.func`, or with `kernels` of a `.kernel` (R154). -/
def entryOk (s : State) (f : Fibre) (t : W64) (kernels : Bool) : Bool :=
  match imageOf s f with
  | some m => m.funcs.any fun q => q.entry == t && (kernels || !q.isKernel)
  | none => s.inFirmware

/-- The first PROT of R154 among lanes: each lane gives its offending value and subcode. -/
def firstProt (ls : List Nat) (chk : Nat → Option (W64 × Nat)) : Option (Nat × List W64) :=
  ls.findSome? fun l => (chk l).map fun q => (l, [q.1, BitVec.ofNat 64 q.2])

/-- The shape of the branches, calls and returns: every executing lane is checked before any changes, then each executing
lane goes where `go` says, and the others on (R153, R155, R156). -/
def transfer (s : State) (gd : Guard) (chk : Gang → Fibre → Option (W64 × Nat)) (go : Fibre → Fibre) : State :=
  match s.curGang? with
  | none => s
  | some g =>
    let e := execLanes s g gd
    match firstProt (lanesOf e) fun l => chk g (g.lane l) with
    | some (l, infos) => takeTrap s tcPROT l infos
    | none => s.putCur (((g.advance (groupLanes s g &&& ~~~e) s.cur.next).mapLanes e fun _ f => go f).chargeOnce s)

/-- The target of BRA and CALL (R47, R153). -/
def literalTarget (s : State) (lit : BitVec 32) : W64 := s.cur.head + 4 * lit.signExtend 64

/-- R153's check of a branch target. -/
def branchCheck (s : State) (t : Fibre → W64) (f : Fibre) : Option (W64 × Nat) :=
  if targetOk s f (t f) then none else some (t f, 0x83)

/-- BRA (R153). -/
def execBra (f : LForm) (s : State) : Result :=
  .next (transfer s f.g (fun _ => branchCheck s fun _ => literalTarget s f.lit)
    fun x => { x with pc := literalTarget s f.lit })

/-- BRX (R153). -/
def execBrx (f : AForm) (s : State) : Result :=
  .next (transfer s f.g (fun _ => branchCheck s fun x => x.rx f.a) fun x => { x with pc := x.rx f.a })

/-- R155's checks of a call, in its order. -/
def callCheck (s : State) (t : Fibre → W64) (f : Fibre) : Option (W64 × Nat) :=
  if !targetOk s f (t f) then some (t f, 0x83)
  else if !entryOk s f (t f) false then some (t f, 0x84)
  else if f.callers.length ≥ 255 then some (t f, 0x81)
  else none

/-- The registers of the linkage set: v0 to v15 and x0 to x8 (R155). -/
def linkage {β : Type} (n : Nat) (m : TMap β) : TMap β := m.filter fun p => decide (p.1 < n)

/-- A fibre in a new activation at `t` (R155). -/
def Fibre.call (f : Fibre) (ret t : W64) : Fibre :=
  { f with callers := { ret := ret, v := f.v, x := f.x, nret := f.npc, nbase := f.nbase, fn := f.fn } :: f.callers
           v := linkage 16 f.v, x := linkage 9 f.x, pc := t, fn := t }

/-- A fibre in a new activation at `t`, in its own native window where its gang's translation has native code (R155, R209). -/
def callWithin (s : State) (f : Fibre) (t : W64) : Fibre :=
  (f.call s.cur.next t).slide (s.curGang?.bind (translOf s)) f.fn

/-- CALL (R155). -/
def execCall (f : LForm) (s : State) : Result :=
  .next (transfer s f.g (fun _ => callCheck s fun _ => literalTarget s f.lit) fun x => callWithin s x (literalTarget s f.lit))

/-- CALLX (R155). -/
def execCallx (f : AForm) (s : State) : Result :=
  .next (transfer s f.g (fun _ => callCheck s fun x => x.rx f.a) fun x => callWithin s x (x.rx f.a))

/-- R156's checks: the outermost activation of any lane comes before a bad return PC of any. -/
def retCheck (s : State) (outer : Bool) (f : Fibre) : Option (W64 × Nat) :=
  match f.callers with
  | [] => some (0, 0x82)
  | a :: _ => if !outer && !targetOk s f a.ret then some (a.ret, 0x83) else none

/-- A fibre back in its caller (R156). -/
def Fibre.return (f : Fibre) : Fibre :=
  match f.callers with
  | [] => f
  | a :: r =>
    { f with callers := r, pc := a.ret, npc := a.nret, nbase := a.nbase, fn := a.fn
             v := (List.range 16).foldl (fun m i => mset m i (f.rv i)) a.v
             x := (List.range 9).foldl (fun m i => mset m i (f.rx i)) a.x }

/-- RET (R156). -/
def execRet (f : AForm) (s : State) : Result :=
  .next (transfer s f.g
    (fun g => retCheck s ((lanesOf (execLanes s g f.g)).any fun l => (g.lane l).callers == []))
    fun x => x.return)

/-! ### Exit (R158) -/

/-- EXIT (R158): the fibres end when the region commits. -/
def execExit (f : AForm) (s : State) : Result :=
  .next (userOp s fun _ =>
    retireWith s fun g =>
      let e := execLanes s g f.g
      { (g.mapLanes e fun _ x => { x with status := .parked .exiting }) with
        region := { g.region with exits := g.region.exits ||| e } })

/-! ### New work (R159 to R161) -/

/-- A run of `v` registers as the first registers of a new fibre. -/
def argRun (f : Fibre) (b n : Nat) : TMap W32 := (List.range n).map fun i => (i, f.rv (b + i))
/-- A run of `x` registers as the first registers of a new fibre. -/
def argRunX (f : Fibre) (c n : Nat) : TMap W64 := (List.range n).map fun i => (i, f.rx (c + i))

/-- The base of the stack aperture (R178). -/
def stackBase : W64 := 0x00FE000000000000
/-- The base of the scratchpad aperture (R178). -/
def scratchBase : W64 := 0x00FF000000000000
/-- The stack top of a fibre (R87). -/
def stackTop (size : Nat) : W64 := stackBase + BitVec.ofNat 64 size

/-- A new fibre of a spawn chain (R159, R160): Ready at its entry when it gets a lane, ordered after its creator. -/
def newFibre (parent : Fibre) (uid serial : Nat) (entry : W64) (v : TMap W32) (x : TMap W64) (home task : Nat)
    (clock : TMap Nat) : Fibre :=
  { Fibre.absent with
    uid := uid, status := .ready, pc := entry, v := v, x := mset x 8 (stackTop parent.stackSize), fn := entry
    stackSize := parent.stackSize, job := parent.job, launchNo := parent.launchNo, name := .spawned serial, entry := entry
    home := home, launch := parent.launch, task := task, clock := mset clock uid 1 }

/-- The next spawn serial of a job, and the state that has given it out (R12). -/
def takeSerial (s : State) (tenant job : Nat) : Nat × State :=
  (((s.job? tenant job).map fun j => j.nextSerial).getD 1,
   s.modJob tenant job fun j => { j with nextSerial := j.nextSerial + 1 })

/-- Place a Binned fibre (R423): the open bin of its key, an empty bin, or the die pool. -/
def binFibre (s : State) (c ctx : Nat) (f : Fibre) : State :=
  let isOpen (b : Bin) : Bool := b.ctx == ctx && b.entry == f.entry && b.home == f.home && !b.closed
  let k := s.core c
  if k.bins.any isOpen then
    s.modCore c fun k => { k with bins := updFirst isOpen (fun b =>
      { b with fibres := b.fibres ++ [f], closed := decide (32 ≤ b.fibres.length + 1) }) k.bins }
  else if (k.bins.filter fun b => b.ctx == ctx).length < 64 then
    s.modCore c fun k => { k with bins := k.bins ++
      [{ ctx := ctx, entry := f.entry, home := f.home, fibres := [f], opened := s.ck, closed := false }] }
  else
    s.modDie (c / 256) fun d => { d with pool := d.pool ++
      [{ ctx := ctx, core := c, fibre := some f, task := none, opened := s.ck }] }

/-- R159's checks of an entry. -/
def spawnCheck (s : State) (f : Fibre) (t : W64) : Option (W64 × Nat) :=
  if !targetOk s f t then some (t, 0x83) else if !entryOk s f t true then some (t, 0x84) else none

/-- One lane's SPAWN (R159). -/
def spawnLane (f : CForm) (g : Gang) (s : State) (l : Nat) : State :=
  let x := g.lane l
  let n := takeSerial s g.tenant x.job
  let u := n.2.fresh
  let child := newFibre x u.1 n.1 (x.rx f.a) (argRun x f.b (bitsOf f.ext 0 5)) (argRunX x f.c (bitsOf f.ext 5 4)) g.home 0
    x.clock
  let s1 := binFibre u.2 s.cur.core g.ctx child
  let s2 := s1.modLaunch x.launch fun k => { k with spawned := k.spawned + 1 }
  s2.modGang s.cur.core s.cur.gang fun y => y.mapLanes (laneBit l) fun _ z => (z.wx f.d (BitVec.ofNat 64 n.1)).tick

/-- SPAWN (R159). -/
def execSpawn (f : CForm) (s : State) : Result :=
  .next (userOp s fun g =>
    let ls := lanesOf (execLanes s g f.g)
    match firstProt ls fun l => spawnCheck s (g.lane l) ((g.lane l).rx f.a) with
    | some (l, infos) => takeTrap s tcPROT l infos
    | none => retireWith (ls.foldl (spawnLane f g) s) id)

/-- R154's check of a FORK's entry: it is the entry of a `.func` or `.kernel`. -/
def forkEntry (s : State) (f : Fibre) (t : W64) : Option (W64 × Nat) :=
  if targetOk s f t && entryOk s f t true then none else some (t, 0x84)

/-- R160's check that every lane names one entry. -/
def forkCheck (s : State) (g : Gang) (a : Nat) (ls : List Nat) : Option (Nat × List W64) :=
  let t := (g.lane (ls.headD 0)).rx a
  match firstProt ls fun l => forkEntry s (g.lane l) ((g.lane l).rx a) with
  | some r => some r
  | none => firstProt ls fun l => if (g.lane l).rx a = t then none else some ((g.lane l).rx a, 0x84)

/-- The increment of a join counter (R160): a die-scope AR atomic add of 1. -/
def forkAtomic (f : CForm) : AtomicArgs :=
  { g := f.g, n := 8, op := 0x147, order := 4, failOrder := 1, scope := 3, ea := fun x => x.rx f.c
    next := fun _ old => some (leBytes 8 ((ofLe old + 1) % 2 ^ 64)), write := fun x _ => x, sub := 0, ty := .n64
    send1 := fun _ => leBytes 8 1, send2 := fun _ => [] }

/-- Push a task on the head of the core's deque, or into the die pool when it is full (R160). -/
def pushTask (s : State) (c : Nat) (t : Task) : State :=
  if (s.core c).deque.length < 256 then s.modCore c fun k => { k with deque := t :: k.deque }
  else s.modDie (c / 256) fun d => { d with pool := d.pool ++
    [{ ctx := t.ctx, core := c, fibre := none, task := some t, opened := s.ck }] }

/-- FORK's push once its counter is incremented (R160). -/
def forkPush (f : CForm) (g : Gang) (e : Mask) (s : State) : State :=
  let ls := lanesOf e
  let l := lowLane e
  let x := g.lane l
  let u := s.fresh
  let c := ls.foldl (fun c l => clockJoin c (g.lane l).clock) []
  let t : Task := { uid := u.1, ctx := g.ctx, launch := x.launch, home := g.home, entry := x.rx f.a
                    args := ls.map fun l => argRun (g.lane l) f.b (bitsOf f.ext 0 5), join := x.rx f.c
                    party := partyOf g s.cur.core s.cur.gang x, clock := c }
  let s1 := pushTask u.2 s.cur.core t
  let s2 := s1.modLaunch x.launch fun k => { k with spawned := k.spawned + 1 }
  retireWith s2 fun y => y.mapLanes e fun _ z => { z.tick with pc := s.cur.next }

/-- FORK (R160). -/
def execFork (f : CForm) (s : State) : Result :=
  .next (userOp s fun g =>
    let e := execLanes s g f.g
    let a := forkAtomic f
    if e = 0 then retireWith s id
    else match forkCheck s g f.a (lanesOf e) with
    | some (l, infos) => takeTrap s tcPROT l infos
    | none =>
      match resolveAll (checkLanes s g (laneBit (lowLane e)) a.ea 8 2 a.op false apertureAtomic) with
      | .park va => parkTlb s g (.fork f) e va
      | .trap code l infos => takeTrap s code l infos
      | .go accs =>
        let sp := splitWaits s g 8 2 true accs
        match sp.2 with
        | w :: _ => requestAtomics a (parkExec s g (.fork f) e w.2.2.2) g sp.2
        | [] =>
          match atomicLanes a s sp.1 with
          | (_, some (l, x, r)) => takeTrap s tcMMX l (mmxInfos x r 0)
          | (s1, none) =>
            let s2 := forkPush f g e s1
            sp.1.foldl (fun t q => t.dropRemote s.cur.core s.cur.gang q.1) s2)

/-- JOIN (R161): a die-scope ACQ load of each lane's counter; lanes whose word is zero go on, the others park. -/
def execJoin (f : AForm) (s : State) : Result :=
  .next (match s.curGang? with
    | none => s
    | some g =>
      let e := execLanes s g f.g
      if e = 0 then retireWith s id
      else
        match resolveAll (checkLanes s g e (fun x => x.rx f.a) 8 0 0x148 false (apertureRule true 8 0 2)) with
        | .park va => parkTlb s g (.join f) e va
        | .trap code l infos => takeTrap s code l infos
        | .go accs =>
          let sp := splitWaits s g 8 2 true accs
          match readRaces s g 8 2 3 sp.1 with
          | some (l, x, r) => takeTrap s tcMMX l (mmxInfos x r 0)
          | none =>
            let zero (q : Nat × W64 × Found) : Bool := ofLe (readFound s s.cur.core g q.1 8 q.2.2) == 0
            let done := sp.1.filter zero
            let s1 := recordReads s g 8 2 2 3 sp.1
            let g1 := g.mapLanes (lanesMask (done.map fun q => q.1)) fun l x =>
              match done.find? fun q => q.1 == l with
              | some q => afterRead { x with pc := s.cur.next } (partyOf g s.cur.core s.cur.gang x)
                  (headsRead s s.cur.core g l 8 q.2.2) 2 3
              | none => x
            let g2 := g1.advance (groupLanes s g &&& ~~~e) s.cur.next
            let g3 := (parkWaiting s g2 (.join f) sp.2).park s (.join f)
              (lanesMask ((sp.1.filter fun q => !zero q).map fun q => q.1)) .join 0
            let s2 := requestReads (s1.putCur (g3.chargeOnce s)) g.tenant 8 2 3 sp.2
            let s3 := sp.1.foldl (fun t q => t.dropRemote s.cur.core s.cur.gang q.1) s2
            acquireDrop s3 g.tenant 2 3)

/-! ### Rejoin sets (R164 to R166) -/

/-- A set instruction whose EXEC is not empty: it changes the gang's masks, and the sets it may release are evaluated. -/
def setOp (s : State) (gd : Guard) (k : Gang → Mask → Gang) : State :=
  userOp s fun g =>
    let e := execLanes s g gd
    if e = 0 then retireWith s id else retireWith s fun x => k x e

/-- Evaluate R163 for one set. -/
def Gang.evalSet (g : Gang) (j : Nat) : Gang := if g.releases j then g.releaseSet j else g

/-- JENTER (R164). -/
def execJenter (f : AForm) (s : State) : Result :=
  .next (setOp s f.g fun g e => { g with member := mset g.member f.d (g.memberOf f.d ||| e) })

/-- JQUIT (R164). -/
def execJquit (f : AForm) (s : State) : Result :=
  .next (setOp s f.g fun g e =>
    let g1 := { g with member := mset g.member f.d (g.memberOf f.d &&& ~~~e)
                       arrive := mset g.arrive f.d (g.arriveOf f.d &&& ~~~e) }
    g1.evalSet f.d)

/-- JWAIT (R165), then the examination of R170. -/
def execJwait (f : AForm) (s : State) : Result :=
  .next (userOp s fun g =>
    let e := execLanes s g f.g
    let m := e &&& g.memberOf f.a
    let g1 := (g.advance (groupLanes s g &&& ~~~m) s.cur.next).park s (.jwait f) m (.jwait f.a) 0
    let g2 := { g1 with arrive := mset g1.arrive f.a (g1.arriveOf f.a ||| m) }
    let s1 := s.putCur ((if e = 0 then g2 else g2.evalSet f.a).chargeOnce s)
    if m = 0 then s1 else examine s1 s.cur.core s.cur.gang)

/-- JREAD (R166). -/
def execJread (f : AForm) (s : State) : Result :=
  .next (userOp s fun _ => retireWith s fun g =>
    g.mapLanes (execLanes s g f.g) fun _ x => x.wv f.d (g.memberOf f.a))

/-- JINIT (R166): waiting fibres that leave the set go on after their JWAIT. -/
def execJinit (f : AForm) (s : State) : Result :=
  .next (setOp s f.g fun g e =>
    let m := (g.lane (lowLane e)).rv f.a
    let out := g.arriveOf f.d &&& ~~~m
    let g1 := { g.release out with member := mset g.member f.d (m &&& g.live), arrive := mset g.arrive f.d (g.arriveOf f.d &&& m) }
    g1.evalSet f.d)

/-- JCLR (R166). -/
def execJclr (f : AForm) (s : State) : Result :=
  .next (userOp s fun g =>
    let e := execLanes s g f.g
    if e = 0 then retireWith s id
    else if g.arriveOf f.d = 0 then retireWith s fun x => { x with member := mset x.member f.d 0 }
    else takeTrap s tcORPH (lowLane e) (orphInfos g))

/-! ### Barriers (R168, R169) -/

/-- An arrival at a block barrier slot: its kind must be that of the phase (R167). `arr` is BARN.arr. -/
def barrier (s : State) (gd : Guard) (i : Instr) (slot : Nat) (barn arr : Bool) (count : Fibre → Nat) : State :=
  userOp s fun g =>
    let e := execLanes s g gd
    if e = 0 then retireWith s id
    else
      match s.blockOf? s.cur.core g with
      | none => retireWith s id
      | some b =>
        match mfind b.bars slot with
        | some p =>
          if p.barn ≠ barn then takeTrap s tcBARX (lowLane e) (barxInfos slot p.barn)
          else go g e b.uid
        | none => go g e b.uid
where
  /-- The arrival itself. -/
  go (g : Gang) (e : Mask) (u : Nat) : State :=
    let g1 := if arr then g.advance (groupLanes s g) s.cur.next
      else (g.advance (groupLanes s g &&& ~~~e) s.cur.next).park s i e (.bar slot) 0
    let s1 := s.putCur (g1.chargeOnce s)
    examine (arrive 33 s1 s.cur.core s.cur.gang u slot barn arr (count (g.lane (lowLane e))) (lanesOf e)) s.cur.core s.cur.gang

/-- BAR (R168). -/
def execBar (f : IForm) (s : State) : Result :=
  .next (barrier s f.g (.bar f) (bitsOf f.imm 0 4) false false fun _ => 0)

/-- BARN (R169; log entry 41). -/
def execBarn (f : CForm) (s : State) : Result :=
  .next (barrier s f.g (.barn f) (bitsOf f.ext 0 4) true (f.mod.getLsbD 0) fun x => (x.rv f.a).toNat)

/-! ### GETID, NOP, TRAP, BKPT (R88, R174, R175) -/

/-- Whether a fibre runs in a free gang (R88): it was created by SPAWN or FORK. -/
def Fibre.isFree (f : Fibre) : Bool := match f.name with | .launched _ _ _ _ => false | .spawned _ | .service _ => true

/-- Whether a special register is 64 bits wide (R88). -/
def specialWide (code : Nat) : Bool := [12, 13, 14, 16, 22, 23, 24].contains code

/-- The value of a special register in a lane (R88; log entry 48). -/
def special (s : State) (g : Gang) (e : Mask) (l code : Nat) : W64 :=
  let f := g.lane l
  let n (k : Nat) : W64 := BitVec.ofNat 64 k
  let lc (d : Nat) (q : Launch → Nat) : Nat := ((s.launch? f.launch).map q).getD d
  let kern (q : Kernel → Nat) (d : Nat) : Nat :=
    (((s.launch? f.launch).bind fun k => k.image.kernels[k.kernel]?).map q).getD d
  let where_ (k : Nat) : Nat := match f.name with
    | .launched x y z i => [x, y, z, i].getD k 0
    | .spawned _ | .service _ => 0xFFFFFFFF
  match code with
  | 0 => n l
  | 1 => n (if f.isFree then 0 else g.index)
  | 2 => n (if f.isFree then l else where_ 3)
  | 3 => n (where_ 0)
  | 4 => n (where_ 1)
  | 5 => n (where_ 2)
  | 6 => n (if f.isFree then 0 else lc 0 fun k => k.gx)
  | 7 => n (if f.isFree then 0 else lc 0 fun k => k.gy)
  | 8 => n (if f.isFree then 0 else lc 0 fun k => k.gz)
  | 9 => n (if f.isFree then 32 else kern (fun k => k.fibres) 32)
  | 10 => n f.job
  | 11 => n f.launchNo
  | 12 => match f.name with | .spawned k | .service k => n (k % 2 ^ 48) | .launched _ _ _ _ => BitVec.allOnes 64
  | 13 => n (lc 0 fun k => k.paramVa.toNat)
  | 14 => stackBase
  | 15 => n (stackSizeOf s f)
  | 16 => scratchBase
  | 17 => n (if s.inFirmware then 0 else (windowOf s s.cur.core g).2)
  | 18 => e.setWidth 64
  | 19 => n (2 ^ l - 1)
  | 20 | 21 => g.arch.fflags.setWidth 64
  | 22 => s.timeOf g.tenant f.job
  | 23 => f.entry
  | _ => if kern (fun k => k.consts) 0 = 0 then 0 else n (lc 0 fun k => k.constVa.toNat)

/-- GETID (R88, R102, R174). -/
def execGetid (f : IForm) (s : State) : Result :=
  .next (retireWith s fun g =>
    let e := execLanes s g f.g
    let code := f.imm.toNat
    let g1 := g.mapLanes e fun l x =>
      if specialWide code then x.wx f.d (special s g e l code) else x.wv f.d ((special s g e l code).setWidth 32)
    if code = 21 ∧ e ≠ 0 then { g1 with arch := { g1.arch with fflags := 0 } } else g1)

/-- NOP (R174). -/
def execNop (_f : AForm) (s : State) : Result := .next (retireWith s id)

/-- TRAP and BKPT (R175). -/
def raiseBy (s : State) (gd : Guard) (code : BitVec 8) (imm : BitVec 14) : State :=
  match s.curGang? with
  | none => s
  | some g =>
    let e := execLanes s g gd
    if e = 0 then retireWith s id else takeTrap s code (lowLane e) [immZ imm, e.setWidth 64]

/-- TRAP (R175). -/
def execTrap (f : IForm) (s : State) : Result := .next (raiseBy s f.g tcTRAP f.imm)
/-- BKPT (R175). -/
def execBkpt (f : IForm) (s : State) : Result := .next (raiseBy s f.g tcBKPT f.imm)

end Sys2Proof.Machine
end

