-- ==== Sys2Proof/Machine/Matrix.lean ====
section
/-! DEFINITION. The matrix instructions as issued: tiles, shape registers, checks and the commands they form (R241 to R265).
-/

namespace Sys2Proof.Machine

/-! ### Shape registers (R44, R251, R252, R276, R278) -/

/-- The active half of a shape register. -/
def Gang.hActive (g : Gang) (n : Nat) : Shape := mget Shape.zero g.arch.hAct n
/-- The shadow half of a shape register. -/
def Gang.hShadow (g : Gang) (n : Nat) : Shape := mget Shape.zero g.arch.hSh n

/-- Swap the halves of a shape register (R44). -/
def Gang.swapShape (g : Gang) (n : Nat) : Gang :=
  { g with arch := { g.arch with hAct := mset g.arch.hAct n (g.hShadow n), hSh := mset g.arch.hSh n (g.hActive n) } }

/-- The gang after an instruction's .sw (R44). -/
def Gang.sw (g : Gang) (mod : BitVec 4) (n : Nat) : Gang := if mod.getLsbD 3 then g.swapShape n else g

/-- RANK as it acts: 7 is treated as 6 (R251). -/
def Shape.rankOf (h : Shape) : Nat := min 6 h.rank.toNat
/-- An extent. -/
def Shape.extOf (h : Shape) (k : Nat) : Nat := (mget 0 h.ext k).toNat
/-- A stride. -/
def Shape.strideOf (h : Shape) (k : Nat) : Int := (mget 0 h.stride k).toInt
/-- An origin. -/
def Shape.originOf (h : Shape) (k : Nat) : Int := (mget 0 h.origin k).toInt

/-- The element offset of an index vector (R252, R278). -/
def Shape.offsetOf (h : Shape) (idx : List Int) : Int :=
  (List.range h.rankOf).foldl (fun (e : Int) (k : Nat) => e + h.strideOf k * idx.getD k 0) 0

/-- The byte address of element offset `e` of width `w`, and whether it lies in the high nibble (R252, R278). -/
def Shape.addrOf (h : Shape) (w : Nat) (e : Int) : W64 × Bool :=
  if w = 4 then (h.base + BitVec.ofInt 64 (e / 2), decide (e % 2 = 1))
  else (h.base + BitVec.ofInt 64 (e * (w / 8 : Nat)), false)

/-- The index vector of a tile position (R252). -/
def Shape.tileIdx (h : Shape) (i j : Nat) : List Int :=
  (List.range h.rankOf).map fun k =>
    h.originOf k + (if k = 0 then (j : Int) else if k = 1 then (i : Int) else 0)

/-- Whether an index vector is in extent (R252). -/
def Shape.inExtent (h : Shape) (idx : List Int) : Bool :=
  (List.range h.rankOf).all fun k => decide (0 ≤ idx.getD k 0) && decide (idx.getD k 0 < (h.extOf k : Int))

/-- The address of a tile position, when it is in extent (R252). -/
def Shape.tileAddr (h : Shape) (w i j : Nat) : Option (W64 × Bool) :=
  let idx := h.tileIdx i j
  if h.inExtent idx then some (h.addrOf w (h.offsetOf idx)) else none

/-- The PROT subcode of an engine's scratchpad side of `n` bytes, if it faults (R180, R252). -/
def windowFault (size : Nat) (ea : W64) (n : Nat) : Option Nat :=
  if bitsOf ea 48 16 ≠ 0xFF then some 0x02
  else if size < ea.toNat % 2 ^ 48 + n then some 0x03 else none

/-! ### Tiles (R242, R249) -/

/-- The quarters that a tile of a type covers, `cmp` for a compressed one (R242). -/
def tileQuarters (t : Ty) (cmp : Bool) : Nat := (elemWidth t / 2) / (if cmp then 2 else 1)

/-- Whether the gang has claimed a quarter (R242). -/
def Gang.claims (g : Gang) (q : Nat) : Bool := g.claimed.getLsbD (q / 4)

/-- A failing check: the trap, its words, and the subcode that SEQE would give (R246, R264). -/
structure Failing where
  code : BitVec 8
  infos : List W64
  sub : Nat
deriving DecidableEq, Repr

/-- An OSLOT of R246. -/
def oslotFail (sub info : Nat) : Failing := { code := tcOSLOT, infos := [BitVec.ofNat 64 sub, BitVec.ofNat 64 info, 0], sub := sub }
/-- A PROT whose info0 is a word of the instruction (R283, R483). -/
def protFail (ea : W64) (sub : Nat) : Failing := { code := tcPROT, infos := [ea, BitVec.ofNat 64 sub], sub := sub }
/-- A PROT of R180 for an engine's scratchpad side; `kind` is 0 read, 1 write. -/
def sideFail (ea : W64) (kind sub : Nat) : Failing :=
  { code := tcPROT, infos := [ea, BitVec.ofNat 64 (2 ^ 8 * kind + sub)], sub := sub }

/-- The checks of a tile that starts at a quarter (R242, R246). -/
def tileCheck (g : Gang) (q f : Nat) : Option Failing :=
  if q % f ≠ 0 ∨ 128 < q + f then some (oslotFail 0x05 q)
  else ((List.range f).find? fun i => !g.claims (q + i)).map fun i => oslotFail 0x04 (q + i)

/-- The first position, in row-major order, whose address leaves the window (R252). -/
def tileAddrCheck (h : Shape) (w size kind rows cols : Nat) : Option Failing :=
  if h.rankOf < 2 then some (oslotFail 0x07 h.rankOf)
  else (List.range rows).findSome? fun i => (List.range cols).findSome? fun j =>
    match h.tileAddr w i j with
    | some (ea, _) => (windowFault size ea (max 1 (w / 8))).map fun sub => sideFail ea kind sub
    | none => none

/-! ### Command words (R254, R256, R257) -/

/-- The fields of a command word (R254). -/
def cwQa (w : W32) : Nat := bitsOf w 0 2
/-- See `cwQa`. -/
def cwQb (w : W32) : Nat := bitsOf w 2 2
/-- See `cwQa`. -/
def cwDone (w : W32) : Bool := w.getLsbD 4
/-- See `cwQa`. -/
def cwOut (w : W32) : Bool := w.getLsbD 5
/-- See `cwQa`. -/
def cwBias (w : W32) : Bool := w.getLsbD 6
/-- See `cwQa`. -/
def cwAct (w : W32) : Bool := w.getLsbD 7
/-- See `cwQa`. -/
def cwOfmt (w : W32) : Nat := bitsOf w 8 3
/-- See `cwQa`. -/
def cwBslot (w : W32) : Nat := bitsOf w 11 5
/-- See `cwQa`. -/
def cwScale (w : W32) : Nat := bitsOf w 16 8

/-- The type of an output format (R254). -/
def ofmtTy (n : Nat) : Ty :=
  match n with
  | 0 => .e4m3x4 | 1 => .e5m2x4 | 2 => .s8x4 | 3 => .n8x4 | 4 => .e2m1x8 | 5 => .s4x8 | _ => .bf16

/-- The type of B under the B format field (R248). -/
def bTy (t : Ty) (mod : BitVec 4) : Ty :=
  if mod.extractLsb' 0 2 == 0 then t
  else match t with
    | .s8x4 => .n8x4 | .n8x4 => .s8x4 | .s4x8 => .n4x8 | .n4x8 => .s4x8 | .e4m3x4 => .e5m2x4 | .e5m2x4 => .e4m3x4
    | x => x

/-- The start quarter of A. -/
def EngCmd.qA (m : EngCmd) : Nat := 4 * m.a + cwQa m.word
/-- The start quarter of B for rows of group `grp` (R254, R257). -/
def EngCmd.qB (m : EngCmd) (grp : Nat) : Nat :=
  if m.kind == .mmag then (mget 0 m.words grp).toNat / 2 ^ 24 else 4 * m.b + cwQb m.word

/-- The metadata section of a gang's image. -/
def metadataOf (s : State) (g : Gang) : List Byte := ((s.launch? g.launch).map fun l => l.image.metadata).getD []

/-- The stream word at a byte offset of the metadata section (R256). -/
def streamWord (s : State) (g : Gang) (off : Nat) : Nat := leAt (metadataOf s g) off 4

/-- R256's check of a stream word, kept at byte offset `m.imm`: it lies in the section, and so does its pattern block. -/
def patternCheck (s : State) (g : Gang) (m : EngCmd) : Option Failing :=
  let w := streamWord s g m.imm
  if (metadataOf s g).length < m.imm + 4 ∨ w / 2 ^ 26 ≠ 0 ∨ (metadataOf s g).length < w % 2 ^ 26 * 64 + 2048 then some (oslotFail 0x08 w) else none

/-- The first failing check of a list. -/
def firstFail (l : List (Option Failing)) : Option Failing := l.findSome? id

/-- The window of a gang's block in bytes. -/
def gangWindow (s : State) (c : Nat) (g : Gang) : Nat := (windowOf s c g).2

/-- R254's and R258's checks of a product. -/
def productCheck (s : State) (c : Nat) (g : Gang) (m : EngCmd) : Option Failing :=
  let out := cwOut m.word
  let fB := tileQuarters m.ty false
  firstFail
    [if (m.kind == .mmag && cwQb m.word != 0) || (out && cwOfmt m.word == 7) then some (oslotFail 0x06 m.word.toNat) else none,
     tileCheck g m.qA (tileQuarters m.ty (m.kind == .mmas)),
     if m.kind == .mmag then (List.range 8).findSome? fun i => tileCheck g (m.qB i) fB else tileCheck g (m.qB 0) fB,
     if m.kind == .mmas then patternCheck s g m else none,
     if out && cwBias m.word && !g.claims (4 * cwBslot m.word) then some (oslotFail 0x04 (4 * cwBslot m.word)) else none,
     if out then tileAddrCheck m.shape (elemWidth (ofmtTy (cwOfmt m.word))) (gangWindow s c g) 1 128 128 else none]

/-- R253's checks of an OLOAD. -/
def oloadCheck (s : State) (c : Nat) (g : Gang) (m : EngCmd) : Option Failing :=
  let cmp := m.ext.getLsbD 4
  let t := m.ext.getLsbD 2
  let cols := if cmp then 64 else 128
  firstFail
    [tileCheck g (4 * m.d + bitsOf m.ext 0 2) (tileQuarters m.ty cmp),
     tileAddrCheck m.shape (elemWidth m.ty) (gangWindow s c g) 0 (if t then cols else 128) (if t then 128 else cols)]

/-- The checks of a matrix command at its instruction (R246). -/
def matrixCheck (s : State) (c : Nat) (g : Gang) (m : EngCmd) : Option Failing :=
  match m.kind with
  | .oload => oloadCheck s c g m
  | .mma | .mmas | .mmag => productCheck s c g m
  | .actlut => if g.claims (4 * m.a) then none else some (oslotFail 0x04 (4 * m.a))
  | _ => none

/-- The rows of the core that an address of `n` bytes of the gang's window touches. -/
def windowRows (s : State) (c : Nat) (g : Gang) (ea : W64) (n : Nat) : List Nat :=
  rowsAt ((windowOf s c g).1 + ea.toNat % 2 ^ 48) n

/-- The rows that a tile's in-extent positions touch. -/
def tileRows (s : State) (c : Nat) (g : Gang) (h : Shape) (w rows cols : Nat) : List Nat :=
  ((List.range rows).flatMap fun i => (List.range cols).flatMap fun j =>
    match h.tileAddr w i j with
    | some (ea, _) => windowRows s c g ea (max 1 (w / 8))
    | none => []).eraseDups

/-- The rows whose presence a command's commit clears (R258). -/
def matrixRows (s : State) (c : Nat) (g : Gang) (m : EngCmd) : List Nat :=
  match m.kind with
  | .mma | .mmas | .mmag =>
    if cwOut m.word then tileRows s c g m.shape (elemWidth (ofmtTy (cwOfmt m.word))) 128 128 else []
  | _ => []

/-! ### Forming commands (R245, R246) -/

/-- A command with every operand empty, for a gang and its lowest lane. -/
def EngCmd.blank (s : State) (g : Gang) (e : Mask) (kind : CmdKind) : EngCmd :=
  { kind := kind, gang := s.cur.gang, ctx := g.ctx, pc := s.cur.pc, stamp := 0,
    party := partyOf g s.cur.core s.cur.gang (g.lane (lowLane e)), clock := [], ty := .s32, mod := 0, d := 0, a := 0, b := 0,
    ext := 0, word := 0, words := [], vals := [], mask := e, shape := Shape.zero, addr := 0, addr2 := 0, imm := 0, rows := [],
    seq := none }

/-- Whether a gang is free (R13, R241): its fibres were created by SPAWN or FORK. -/
def Gang.isFree (g : Gang) : Bool := (g.lane (lowLane g.live)).isFree

/-- Add a command to the gang's region. -/
def Gang.addCmd (g : Gang) (m : EngCmd) : Gang := { g with region := { g.region with cmds := g.region.cmds ++ [m] } }

/-- The shape of every matrix instruction that becomes a command: collective, not in a free gang, checked before any
effect, pushed at the commit (R244 to R246). `sw` is the gang after its .sw; `cmd` forms the command from it. -/
def matrixOp (s : State) (gd : Guard) (sw : Gang → Gang) (cmd : Gang → Mask → EngCmd) : State :=
  collectiveOp s gd fun g e =>
    if g.isFree then takeTrap s tcOSLOT (lowLane e) [0x01, 0, 0]
    else
      let g1 := sw g
      let m := cmd g1 e
      match matrixCheck s s.cur.core g1 m with
      | some f => takeTrap s f.code (lowLane e) f.infos
      | none => retireWith s fun x => (sw x).addCmd { m with rows := matrixRows s s.cur.core g1 m }

/-- OLOAD (R253). -/
def execOload (f : CForm) (s : State) : Result :=
  .next (matrixOp s f.g (fun g => g.sw f.mod 1) fun g e =>
    { EngCmd.blank s g e .oload with ty := f.ty, mod := f.mod, d := f.d, ext := f.ext, shape := g.hActive 1 })

/-- A product's command (R254, R256, R257). At native level MMAS reads its literal at the metadata PC (R232). -/
def productCmd (s : State) (f : CForm) (kind : CmdKind) (g : Gang) (e : Mask) : EngCmd :=
  { EngCmd.blank s g e kind with
    ty := f.ty, mod := f.mod, d := f.d, a := f.a, b := f.b, ext := f.ext, word := (g.lane (lowLane e)).rv f.c
    words := (List.range 8).map fun l => (l, (g.lane l).rv f.c)
    imm := if s.cur.inNative then g.arch.mdpc.toNat else 4 * f.ext.toNat
    shape := g.hActive 1 }

/-- MMA (R254). -/
def execMma (f : CForm) (s : State) : Result := .next (matrixOp s f.g (fun g => g.sw f.mod 1) (productCmd s f .mma))
/-- MMAS (R256). -/
def execMmas (f : CForm) (s : State) : Result := .next (matrixOp s f.g (fun g => g.sw f.mod 1) (productCmd s f .mmas))
/-- MMAG (R257). -/
def execMmag (f : CForm) (s : State) : Result := .next (matrixOp s f.g (fun g => g.sw f.mod 1) (productCmd s f .mmag))

/-- ACCRD (R260): the group waits for its words with cause RESULT. -/
def execAccrd (f : CForm) (s : State) : Result :=
  .next (collectiveOp s f.g fun g e =>
    if g.isFree then takeTrap s tcOSLOT (lowLane e) [0x01, 0, 0]
    else
      let m := { EngCmd.blank s g e .accrd with d := f.d, a := f.a, words := (lanesOf e).map fun l => (l, (g.lane l).rv f.b) }
      s.putCur (((g.addCmd m).park s (.accrd f) e .result 0).chargeOnce s))

/-- ACCWR (R260). -/
def execAccwr (f : CForm) (s : State) : Result :=
  .next (matrixOp s f.g id fun g e =>
    { EngCmd.blank s g e .accwr with
      d := f.d, a := f.a, words := (lanesOf e).map fun l => (l, (g.lane l).rv f.b)
      vals := (lanesOf e).map fun l => (l, (List.range 16).map fun t => (g.lane l).rv (f.a + t)) })

/-- ACCZ (R260). -/
def execAccz (f : IForm) (s : State) : Result :=
  .next (matrixOp s f.g id fun g e => { EngCmd.blank s g e .accz with imm := bitsOf f.imm 0 4 })

/-- ACTLUT (R259). -/
def execActlut (f : AForm) (s : State) : Result :=
  .next (matrixOp s f.g id fun g e => { EngCmd.blank s g e .actlut with a := f.a })

/-- ORELEASE (R250): the gang must hold every slot named. -/
def execOrelease (f : LForm) (s : State) : Result :=
  .next (collectiveOp s f.g fun g e =>
    if g.isFree then takeTrap s tcOSLOT (lowLane e) [0x01, 0, 0]
    else
      let bad := f.lit &&& ~~~g.claimed
      if bad ≠ 0 then takeTrap s tcOSLOT (lowLane e) [0x03, bad.setWidth 64, 0]
      else retireWith s fun x => x.addCmd { EngCmd.blank s g e .orelease with mask := f.lit })

/-! ### OCLAIM (R249) -/

/-- The slots of an OCLAIM's range. -/
def claimMask (imm : BitVec 14) : Mask :=
  maskOf fun i => bitsOf imm 0 5 ≤ i && decide (i < bitsOf imm 0 5 + bitsOf imm 5 6)

/-- The slots that the gangs of a block hold. -/
def heldSlots (s : State) (c : Nat) (b : Block) : Mask :=
  b.gangs.foldl (fun m i => m ||| (match mfind (s.core c).gangs i with | some g => g.claimed | none => 0)) 0

/-- OCLAIM (R249): take the range at once, or park in the block's claim queue. -/
def execOclaim (f : IForm) (s : State) : Result :=
  .next (collectiveOp s f.g fun g e =>
    if g.isFree then takeTrap s tcOSLOT (lowLane e) [0x01, 0, 0]
    else if g.claimed ≠ 0 then takeTrap s tcOSLOT (lowLane e) [0x02, g.claimed.setWidth 64, 0]
    else match s.blockOf? s.cur.core g with
    | none => retireWith s id
    | some b =>
      let m := claimMask f.imm
      if b.claims = [] ∧ heldSlots s s.cur.core b &&& m = 0 then retireWith s fun x => { x with claimed := m }
      else
        let s1 := s.putCur ((g.park s (.oclaim f) e .oslot 0).chargeOnce s)
        s1.modBlock s.cur.core b.uid fun x => { x with claims := x.claims ++ [{ gang := s.cur.gang, mask := m }] })

/-- Whether the head of a block's claim queue may be granted (R249). -/
def claimReady (s : State) (c : Nat) (b : Block) : Bool :=
  match b.claims with
  | [] => false
  | q :: _ => heldSlots s c b &&& q.mask == 0

/-- OCLAIM_GRANT (R249): the head request of a block's claim queue takes its whole range. -/
def execOclaimGrant (it : AtCore) (s : State) : Result :=
  .next (match (s.core it.core).blocks[it.item]? with
    | none => s
    | some b =>
      if claimReady s it.core b then
        match b.claims with
        | [] => s
        | q :: r =>
          (s.modBlock it.core b.uid fun x => { x with claims := r }).modGang it.core q.gang fun g =>
            { (g.release (g.lanesWhere fun f => f.status == .parked .oslot)) with claimed := q.mask }
      else s)

/-! ### SEQRUN (R262, R263) -/

/-- An entry of a sequencer body (R262). -/
structure SeqEntry where
  instr : Option Instr
  firstMask : Nat
  lastMask : Nat
  fieldStride : Nat → Nat → Int
  addrStride : Nat → Int
  originStride : Nat → Nat → Int

/-- A signed little-endian field of a byte list. -/
def signedAt (bs : List Byte) (off n : Nat) : Int := intOf true (8 * n) (leAt bs off n)

/-- Entry `j` of a body (R262). -/
def seqEntry (body : List Byte) (j : Nat) : SeqEntry :=
  let e := (body.drop (32 + 128 * j)).take 128
  { instr := match decodeBytes (e.take 12) with | .ok i _ _ _ => some i | .bad _ _ _ _ => none
    firstMask := leAt e 12 2 % 64, lastMask := leAt e 12 2 / 64 % 64
    fieldStride := fun k fld => signedAt e (32 + 16 * k + fld) 1
    addrStride := fun k => signedAt e (32 + 16 * k + 4) 4
    originStride := fun k o => signedAt e (32 + 16 * k + 8 + 4 * o) 4 }

/-- The number of instructions of a body (R262). -/
def seqCount (body : List Byte) : Nat := leAt body 0 1
/-- Count k of a body (R262). -/
def seqExtent (body : List Byte) (k : Nat) : Nat := leAt body (4 + 2 * k) 2

/-- The body that index `n` names in a gang's image. -/
def bodyOf (s : State) (g : Gang) (n : Nat) : Option (List Byte) := (s.launch? g.launch).bind fun l => l.image.bodies[n]?

/-- The register values that one body instruction takes in a snapshot (R263): each from the lowest lane, MMAG's also from lanes 0 to 7. Key
32 holds the address register of COPY and COPYG; every lane of a COPYG has the index that the snapshot took (log entry 27). -/
def seqValues (g : Gang) (e : Mask) (i : Instr) : TMap W64 :=
  let low := g.lane (lowLane e)
  match i with
  | .mma f | .mmas f => [(0, (low.rv f.c).setWidth 64)]
  | .mmag f => (List.range 8).map (fun l => (l, ((g.lane l).rv f.c).setWidth 64)) ++ [(8, (low.rv f.c).setWidth 64)]
  | .copy f => [(32, low.rx f.a)]
  | .copyg f => (lanesOf e).map (fun l => (l, (low.rv f.b).setWidth 64)) ++ [(32, low.rx f.a)]
  | _ => []

/-- SEQRUN's snapshot (R263). -/
def seqSnapshot (s : State) (g : Gang) (e : Mask) (n : Nat) : SeqPos :=
  let body := (bodyOf s g n).getD []
  { body := n, h0 := g.hActive 0, h1 := g.hActive 1
    vals := (List.range (seqCount body)).map fun j =>
      (j, match (seqEntry body j).instr with | some i => seqValues g e i | none => [])
    iter := [0, 0, 0, 0, 0, 0], entry := 0, mmas := [] }

end Sys2Proof.Machine
end

