-- ==== Sys2Proof/Machine/MatrixEngine.lean ====
section
/-! DEFINITION. The matrix engine: engine order, tiles in operand memory, product steps, the write-out chain and the
accumulator commands (R241 to R261, R267). -/

namespace Sys2Proof.Machine

/-! ### Storage (R241 to R243) -/

/-- The key of an accumulator word of a block (R243). -/
def accKey (b : Block) (d m n : Nat) : Nat := 16384 * (b.accBase + d) + 128 * m + n
/-- The byte of operand memory at a byte offset of a tile that starts at a quarter (R241). -/
def opKey (b : Block) (q off : Nat) : Nat := 16384 * b.oBase + 4096 * q + off

/-- The bytes of a tile in operand memory, at most 32 KiB of them (R241, R242). -/
def opTile (k : Core) (b : Block) (q : Nat) : Array Byte := mslice 0 k.opmem (opKey b q 0) 32768

/-- Element `i` of a tile of elements of `w` bits, in row-major order (R242). -/
def tileElem (bs : Array Byte) (w i : Nat) : Nat :=
  if w = 4 then (bs.getD (i / 2) 0).toNat / 16 ^ (i % 2) % 16
  else ofLe ((List.range (w / 8)).map fun j => bs.getD (i * (w / 8) + j) 0)

/-- A byte of the core's scratchpad. -/
def Core.pad (k : Core) (off : Nat) : Byte := mget 0 k.scratch off

/-- An element of `w` bits of the scratchpad at a byte offset (R252). -/
def Core.padElem (k : Core) (w off : Nat) (high : Bool) : Nat :=
  if w = 4 then (k.pad off).toNat / (if high then 16 else 1) % 16
  else ofLe ((List.range (w / 8)).map fun j => k.pad (off + j))

/-- Write an element of `w` bits into the scratchpad (R258, R278). -/
def Core.putElem (k : Core) (w off : Nat) (high : Bool) (v : Nat) : Core :=
  if w = 4 then
    let old := (k.pad off).toNat
    { k with scratch := mset k.scratch off (BitVec.ofNat 8 (if high then old % 16 + 16 * (v % 16) else old / 16 * 16 + v % 16)) }
  else { k with scratch := putBytes k.scratch off (leBytes (w / 8) v) }

/-- Byte `i` of a tile whose element `k` has the bits `el k` (R5, R242). -/
def tileByte (w : Nat) (el : Nat → Nat) (i : Nat) : Byte :=
  BitVec.ofNat 8 (if w = 4 then el (2 * i) % 16 + 16 * (el (2 * i + 1) % 16)
    else if w = 8 then el i else el (i / 2) / 256 ^ (i % 2))

/-! ### OLOAD (R253) -/

/-- The bits of element (r, c) of the tile that an OLOAD loads (R253). -/
def oloadElem (k : Core) (base : Nat) (m : EngCmd) (r c : Nat) : Nat :=
  let p := if m.ext.getLsbD 2 then (c, r) else (r, c)
  match m.shape.tileAddr (elemWidth m.ty) p.1 p.2 with
  | some (ea, hi) => k.padElem (elemWidth m.ty) (base + ea.toNat % 2 ^ 48) hi
  | none => 0

/-- OLOAD's effect on operand memory (R253). -/
def runOload (k : Core) (base : Nat) (b : Block) (m : EngCmd) : Core :=
  let cols := if m.ext.getLsbD 4 then 64 else 128
  let q := 4 * m.d + bitsOf m.ext 0 2
  let w := elemWidth m.ty
  let el (i : Nat) : Nat := oloadElem k base m (i / cols) (i % cols)
  { k with opmem := mputs k.opmem (opKey b q 0) ((List.range (128 * cols * w / 8)).map (tileByte w el)) }

/-! ### Products (R255 to R257) -/

/-- The integer value of an element of an integer type. -/
def elemInt (t : Ty) (v : Nat) : Int := intOf (isSigned t) (elemWidth t) v

/-- The value of an element of a floating type (R93 to R96). -/
def elemFloat (t : Ty) (v : Nat) : FVal := floatOf t (BitVec.ofNat 64 v)

/-- The stored elements of compressed row `m` that stand at logical position `k` (R256). -/
def sparseTerms (pat : Nat) (k : Nat) : List Nat :=
  let j := k / 4
  let nib := pat / 2 ^ (4 * j) % 16
  (if nib % 4 = k % 4 then [2 * j] else []) ++ (if nib / 4 = k % 4 then [2 * j + 1] else [])

/-- What a step reads: the element indexes of A for (m, k), with the patterns of MMAS (R254, R256). -/
def aTerms (m : EngCmd) (pat : Nat → Nat) (row k : Nat) : List Nat :=
  if m.kind == .mmas then (sparseTerms (pat row) k).map fun t => row * 64 + t else [row * 128 + k]

/-- The logical A elements of an integer step, row by row: each the sum of what is stored for it (R256). -/
def aInts (k : Core) (b : Block) (m : EngCmd) (pat : Nat → Nat) : Array Int :=
  let bs := opTile k b m.qA
  ((List.range 16384).map fun i => (aTerms m pat (i / 128) (i % 128)).foldl
    (fun (x : Int) (e : Nat) => x + elemInt m.ty (tileElem bs (elemWidth m.ty) e)) 0).toArray

/-- The B elements that a row group of an integer step reads (R254, R257). -/
def bInts (k : Core) (b : Block) (m : EngCmd) (grp : Nat) : Array Int :=
  let bs := opTile k b (m.qB grp)
  ((List.range 16384).map fun i => elemInt (bTy m.ty m.mod) (tileElem bs (elemWidth m.ty) i)).toArray

/-- One element of an integer step (R255). -/
def stepInt (as bs : Array Int) (row col : Nat) (acc : W32) : W32 :=
  BitVec.ofInt 32 ((List.range 128).foldl (fun (t : Int) (i : Nat) => t + as.getD (row * 128 + i) 0 * bs.getD (i * 128 + col) 0) acc.toInt)

/-- The exact sum of the stored values of a logical A element (R256). -/
def sumStored (vs : List FVal) : FVal :=
  match vs with
  | [] => .fin false 0 0
  | [v] => v
  | _ => (sumVals .rne vs).1

/-- The logical A elements of a floating step, row by row (R256). -/
def aFloats (k : Core) (b : Block) (m : EngCmd) (pat : Nat → Nat) : Array FVal :=
  let bs := opTile k b m.qA
  ((List.range 16384).map fun i =>
    sumStored ((aTerms m pat (i / 128) (i % 128)).map fun e => elemFloat m.ty (tileElem bs (elemWidth m.ty) e))).toArray

/-- The B elements that a row group of a floating step reads (R254, R257). -/
def bFloats (k : Core) (b : Block) (m : EngCmd) (grp : Nat) : Array FVal :=
  let bs := opTile k b (m.qB grp)
  ((List.range 16384).map fun i => elemFloat (bTy m.ty m.mod) (tileElem bs (elemWidth m.ty) i)).toArray

/-- One element of a floating step (R255): four groups of 32, two roundings each. -/
def stepFloat (as bs : Array FVal) (row col : Nat) (acc : W32) : W32 :=
  (List.range 4).foldl (fun (a : W32) (grp : Nat) =>
    let terms := (List.range 32).map fun j =>
      let i := 32 * grp + j
      (mulVals (as.getD (row * 128 + i) (.fin false 0 0)) (bs.getD (i * 128 + col) (.fin false 0 0))).1
    let g := (finish fp32 .rne (sumVals .rne terms)).1
    ((faddT .fp32 0 (a.setWidth 64) (BitVec.ofNat 64 g)).1).setWidth 32) acc

/-- A product step into an accumulator (R254, R255). -/
def runStep (k : Core) (b : Block) (m : EngCmd) (pat : Nat → Nat) : Core :=
  let key := accKey b m.d 0 0
  let old : Array W32 := if m.mod.getLsbD 2 then Array.replicate 16384 0 else mslice 0 k.acc key 16384
  let out (el : Nat → Nat → W32 → W32) : List W32 := (List.range 16384).map fun i => el (i / 128) (i % 128) (old.getD i 0)
  { k with acc := mputs k.acc key (
      if isFloat m.ty then
        let as := aFloats k b m pat
        let bs := ((List.range 8).map (bFloats k b m)).toArray
        out fun row col acc => stepFloat as (bs.getD (row / 16) #[]) row col acc
      else
        let as := aInts k b m pat
        let bs := ((List.range 8).map (bInts k b m)).toArray
        out fun row col acc => stepInt as (bs.getD (row / 16) #[]) row col acc) }

/-- The pattern of row `row` of the block that an MMAS names (R256). -/
def patternRow (s : State) (g : Gang) (m : EngCmd) (row : Nat) : Nat :=
  leAt (metadataOf s g) (streamWord s g m.imm % 2 ^ 26 * 64 + 16 * row) 16

/-! ### Write-out (R258, R259) -/

/-- FP32 word `i` of a slot of operand memory. -/
def opWord (bs : Array Byte) (i : Nat) : W32 := BitVec.ofNat 32 (tileElem bs 32 i)

/-- The FP32 value of a word. -/
def f32 (w : W32) : FVal := floatOf .fp32 (w.setWidth 64)

/-- The FP32 rounding of an exact value (R258). -/
def toF32 (r : FVal × W32) : FVal := f32 (BitVec.ofNat 32 (finish fp32 .rne r).1)

/-- The segment of y: the largest i with i = 0 or bp[i] ≤ y (R259). -/
def segmentOf (lut : TMap W32) (y : FVal) : Nat :=
  (List.range 64).foldl (fun s i => if i ≠ 0 ∧ !y.isNan ∧ !(f32 (mget 0 lut i)).isNan ∧ !ltVals y (f32 (mget 0 lut i)) then i else s) 0

/-- The value y of one accumulator word after bias and activation (R258). -/
def outValue (bias : Array Byte) (lut : TMap W32) (m : EngCmd) (n : Nat) (w : W32) : FVal :=
  let y0 := if isFloat m.ty then f32 w else intVal w.toInt
  let y1 := if cwBias m.word then toF32 (sumVals .rne [y0, f32 (opWord bias n)]) else y0
  if cwAct m.word then
    let sg := segmentOf lut y1
    toF32 (sumVals .rne [(mulVals (f32 (mget 0 lut (64 + sg))) y1).1, f32 (mget 0 lut (128 + sg))])
  else y1

/-- The bits of a written element (R140, R258): BF16 saturates (R100). -/
def outBits (m : EngCmd) (y : FVal) : Nat :=
  let t := ofmtTy (cwOfmt m.word)
  if t == .bf16 then
    if cwScale m.word = 0xFF then bf16.nanBits else (convFloat bf16 .rne true (scaledBy y (cwScale m.word))).1
  else (qntVal t (cwScale m.word) y (qntRound t .rne)).1

/-- The write-out of an accumulator to scratchpad (R258). -/
def runOut (k : Core) (base : Nat) (b : Block) (lut : TMap W32) (m : EngCmd) : Core :=
  let w := elemWidth (ofmtTy (cwOfmt m.word))
  let bias := opTile k b (4 * cwBslot m.word)
  let words := mslice 0 k.acc (accKey b m.d 0 0) 16384
  (List.range 16384).foldl (fun x i =>
    match m.shape.tileAddr w (i / 128) (i % 128) with
    | some (ea, hi) => x.putElem w (base + ea.toNat % 2 ^ 48) hi (outBits m (outValue bias lut m (i % 128) (words.getD i 0)))
    | none => x) k

/-! ### Running a command (R245, R247, R261) -/

/-- Push a token onto a queue of a gang. -/
def pushToken (s : State) (c slot q tok : Nat) : State :=
  s.modGang c slot fun g => { g with queues := mmod [] g.queues q fun l => l ++ [BitVec.ofNat 32 tok] }

/-- Whether an engine holds a token that a gang's queue has no room for (R245, R272): the entries beyond the sixteenth
(log entry 52). -/
def tokenHeld (g : Gang) (q : Nat) : Bool := 16 < (mget [] g.queues q).length

/-- Whether a command asks for a token. -/
def wantsToken (m : EngCmd) : Bool :=
  match m.kind with
  | .oload => m.ext.getLsbD 3
  | .mma | .mmas | .mmag => cwDone m.word
  | _ => false

/-- The token of a matrix command (R245). -/
def matrixToken (m : EngCmd) : Nat :=
  if m.kind == .oload then 1 + (4 * m.d + bitsOf m.ext 0 2) * 64
  else (if cwOut m.word then 3 else 2) + m.d * 16

/-- The rows that an OLOAD reads (R253). -/
def oloadRows (s : State) (c : Nat) (g : Gang) (m : EngCmd) : List Nat :=
  let cols := if m.ext.getLsbD 4 then 64 else 128
  if m.ext.getLsbD 2 then tileRows s c g m.shape (elemWidth m.ty) cols 128 else tileRows s c g m.shape (elemWidth m.ty) 128 cols

/-- Why a matrix command must wait, if it must (R245, R253). -/
def matrixWait (s : State) (c : Nat) (g : Gang) (m : EngCmd) : Option Cause :=
  let k := s.core c
  let rows := if m.kind == .oload then oloadRows s c g m else []
  let away (r : Nat) : Bool := k.fills.any fun (f : Fill) => f.row == r && f.owner != m.stamp
  if rows.any away && (s.expiredAt c rows).isNone then some .presence
  else if k.gangs.any fun (p : Nat × Gang) => tokenHeld p.2 1 then some .qfull
  else none

/-- The array occupancy of a command in ck (R261). -/
def arrayCk (m : EngCmd) : Nat :=
  match m.kind with
  | .mma | .mmag => 16 * elemWidth m.ty
  | .mmas => 8 * elemWidth m.ty
  | .accz => 16 * ((List.range 4).filter fun i => m.imm.testBit i).length
  | _ => 0

/-- A fibre whose native registers from `d` on take the words that an engine returned, with the virtual registers that they hold at its
commit point (R210, R219, R236). -/
def Fibre.putNative (t : Option Transl) (d : Nat) (ws : List W32) (f : Fibre) : Fibre :=
  let f1 := ((List.range ws.length).zip ws).foldl (fun (x : Fibre) (q : Nat × W32) => x.wn (d + q.1) q.2) f
  match t.bind fun q => (sideAt q f.npc).map fun r => (q, r) with
  | some (q, r) => syncVirtual q r f1
  | none => f1

/-- Write a lane's ACCRD words into its registers, at the commit point too (R260). `t` is the translation when the gang runs native
code. -/
def putAccrd (t : Option Transl) (native : Bool) (g : Gang) (k : Core) (b : Block) (m : EngCmd) : Gang :=
  m.words.foldl (fun x (q : Nat × W32) =>
    let ws := (List.range 16).map fun t => mget 0 k.acc (accKey b m.a (bitsOf q.2 0 7) (16 * bitsOf q.2 7 3 + t))
    x.mapBoth (laneBit q.1) fun _ f => if native then f.putNative t m.d ws else f.putV m.d ws) g

/-- The fibres that wait for an ACCRD's words go on: past it in virtual code, at their next native word otherwise (R219, R260). -/
def Gang.leaveAccrd (native : Bool) (g : Gang) : Gang :=
  let m := g.lanesWhere fun f => f.status == .parked .result
  if native then g.unpark m else g.release m

/-- The effect of a matrix command that need not wait (R250, R253 to R260). -/
def matrixEffect (s : State) (c slot : Nat) (g : Gang) (b : Block) (m : EngCmd) : State :=
  let base := (windowOf s c g).1
  match m.kind with
  | .oload => s.modCore c fun k => runOload k base b m
  | .mma | .mmas | .mmag =>
    s.modCore c fun k =>
      let k1 := runStep k b m (patternRow s g m)
      if cwOut m.word then runOut k1 base b g.actLut m else k1
  | .accrd =>
    let native := g.inNative && !g.replay
    s.modGang c slot fun x => (putAccrd (translOf s g) native x (s.core c) b m).leaveAccrd native
  | .accwr =>
    s.modCore c fun k => { k with acc := m.words.foldl (fun a (q : Nat × W32) =>
      (List.range 16).foldl (fun a t =>
        mset a (accKey b m.d (bitsOf q.2 0 7) (16 * bitsOf q.2 7 3 + t)) ((mget [] m.vals q.1).getD t 0)) a) k.acc }
  | .accz =>
    s.modCore c fun k => { k with acc := k.acc.filter fun (p : Nat × W32) =>
      !(b.accBase ≤ p.1 / 16384 && m.imm.testBit (p.1 / 16384 - b.accBase) && p.1 / 16384 < b.accBase + min 4 b.accCount) }
  | .actlut =>
    let bs := opTile (s.core c) b (4 * m.a)
    s.modGang c slot fun x => { x with actLut := (List.range 192).map fun i => (i, opWord bs i) }
  | .orelease => s.modGang c slot fun x => { x with claimed := x.claimed &&& ~~~m.mask }
  | _ => s

/-- The operand slots of the core that `f` quarters of a block's operand memory cover from a quarter on. -/
def slotsAt (b : Block) (q f : Nat) : List Nat := (List.range f).map fun i => b.oBase + (q + i) / 4

/-- Whether a matrix command reads a scratchpad row, an operand slot or an accumulator with an uncorrectable error (R247, R454). -/
def matrixFlawed (s : State) (c : Nat) (g : Gang) (b : Block) (m : EngCmd) : Bool :=
  let oslot (ns : List Nat) : Bool := ns.any fun n => s.flaws.contains (.oslot c n)
  let acc : Bool := s.flaws.contains (.acc c (b.accBase + (if m.kind == .accrd then m.a else m.d)))
  let fB := tileQuarters m.ty false
  match m.kind with
  | .oload => s.rowFlawed c (oloadRows s c g m)
  | .mma | .mmas | .mmag =>
    (acc && !m.mod.getLsbD 2) || oslot (slotsAt b m.qA (tileQuarters m.ty (m.kind == .mmas)))
      || ((if m.kind == .mmag then List.range 8 else [0]).any fun i => oslot (slotsAt b (m.qB i) fB))
      || (cwOut m.word && cwBias m.word && oslot [b.oBase + cwBslot m.word])
  | .accrd => acc
  | .actlut => oslot [b.oBase + m.a]
  | _ => false

/-- Run a matrix command (R245, R247): a row of an Expired interest defers NEXP, an uncorrectable error in what it reads ECC; else its
effect, its fills, its energy and its token. -/
def runMatrix (s : State) (c slot : Nat) (m : EngCmd) : State :=
  match s.gang? c slot with
  | none => s
  | some g =>
    let rows := if m.kind == .oload then oloadRows s c g m else []
    if (s.expiredAt c rows).isSome then
      deferFault (s.modCore c fun k => k.endFills m.stamp) c slot 1 tcNEXP [m.pc, 0, 0]
    else
      match s.blockOf? c g with
      | none => s
      | some b =>
        if matrixFlawed s c g b m then
          let s1 := if m.kind == .accrd then s.modGang c slot fun x => x.unpark (x.lanesWhere fun f => f.status == .parked .result) else s
          deferFault (s1.modCore c fun k => k.endFills m.stamp) c slot 1 tcECC [m.pc, 0, 0]
        else
        let s1 := matrixEffect s c slot g b m
        let s2 := s1.modCore c fun k => (k.doneFills m.stamp).addEnergy g.ctx 6 (4096 * ((arrayCk m + 63) / 64))
        if wantsToken m then pushToken s2 c slot 1 (matrixToken m) else s2

/-! ### Engine order (R245) -/

/-- Whether a save of a gang's context has begun, so that no engine starts a command of it (R310). -/
def Core.saving (k : Core) (ctx : Nat) : Bool :=
  match k.slotFor ctx with
  | some n => !(k.slotOf n).live
  | none => true

/-- Whether an engine may go on with a gang's command: its context is not being saved, or the command has started (R310), or an ACCRD
that a save awaits stands behind it in engine order (R245, R265). -/
def Core.mayStart (k : Core) (g : Gang) (m : EngCmd) : Bool :=
  !k.saving g.ctx || (match m.kind with | .copy | .copyg | .bulk => m.imm != 0 | _ => false)
    || (m.kind.cls == 2 && k.gangs.any fun (p : Nat × Gang) => p.2.ctx == g.ctx && p.2.q0.any fun x => x.kind == .accrd && Nat.ble m.stamp x.stamp)

/-- The least stamp among the heads of the q0 (or q2) of a core's gangs that may go on. -/
def headStamp (k : Core) (q : Gang → List EngCmd) : Option Nat :=
  k.gangs.foldl (fun (o : Option Nat) (p : Nat × Gang) => match q p.2 with
    | m :: _ =>
      if k.mayStart p.2 m then
        match o with
        | some n => some (min n m.stamp)
        | none => some m.stamp
      else o
    | [] => o) none

/-- The command at the head of the engine order, if it is the head of this gang's q0. -/
def matrixHead (s : State) (c slot : Nat) : Option EngCmd :=
  match s.gang? c slot with
  | none => none
  | some g =>
    match g.q0 with
    | m :: _ => if headStamp (s.core c) (fun x => x.q0) = some m.stamp ∧ (s.core c).mayStart g m then some m else none
    | [] => none

/-- The matrix command that may run now at the head of a gang's q0 (R245); a save that awaits an ACCRD does not wait for room in q1, which
nothing could make (R265; log entry 52). -/
def matrixReady (s : State) (c slot : Nat) : Option EngCmd :=
  match matrixHead s c slot, s.gang? c slot with
  | some m, some g => if m.kind != .seqrun && ((matrixWait s c g m).isNone || (matrixWait s c g m == some .qfull && (s.core c).saving g.ctx)) then some m else none
  | _, _ => none

/-- Run the head of a gang's q0 when it is a command of the right kind that need not wait. -/
def runMatrixHead (at_ : AtGang) (kind : CmdKind → Bool) (s : State) : State :=
  match matrixReady s at_.core at_.gang with
  | some m =>
    if kind m.kind then
      let s1 := s.modGang at_.core at_.gang fun g => { g with q0 := g.q0.drop 1 }
      reapGang (runMatrix s1 at_.core at_.gang m) at_.core at_.gang
    else s
  | none => s

/-- OLOAD_CMD (R253). -/
def execOloadCmd (at_ : AtGang) (s : State) : Result := .next (runMatrixHead at_ (fun k => k == .oload) s)
/-- PRODUCT_STEP (R255). -/
def execProductStep (at_ : AtGang) (s : State) : Result :=
  .next (runMatrixHead at_ (fun k => k == .mma || k == .mmas || k == .mmag) s)
/-- ACCRD_CMD (R260). -/
def execAccrdCmd (at_ : AtGang) (s : State) : Result := .next (runMatrixHead at_ (fun k => k == .accrd) s)
/-- ACCWR_CMD (R260). -/
def execAccwrCmd (at_ : AtGang) (s : State) : Result := .next (runMatrixHead at_ (fun k => k == .accwr) s)
/-- ACCZ_CMD (R260). -/
def execAcczCmd (at_ : AtGang) (s : State) : Result := .next (runMatrixHead at_ (fun k => k == .accz) s)
/-- ACTLUT_CMD (R259). -/
def execActlutCmd (at_ : AtGang) (s : State) : Result := .next (runMatrixHead at_ (fun k => k == .actlut) s)
/-- ORELEASE_CMD (R250). -/
def execOreleaseCmd (at_ : AtGang) (s : State) : Result := .next (runMatrixHead at_ (fun k => k == .orelease) s)

/-! ### Fills that complete (R269) -/

end Sys2Proof.Machine
end

