-- ==== Sys2Proof/Machine/EngineStep.lean ====
section
/-! DEFINITION. How an engine moves one element: its checks, its waits, its requests to other packages, its race check and
the move (R247, R269, R270, R278 to R281, R383, R387). -/

namespace Sys2Proof.Machine

/-! ### Positions of a shape (R278) -/

/-- The number of positions of the first `r` dimensions. -/
def Shape.count (h : Shape) (r : Nat) : Nat := (List.range r).foldl (fun n k => n * h.extOf k) 1

/-- The index vector of position `p`, with i0 varying fastest. -/
def Shape.posIdx (h : Shape) (r p : Nat) : List Nat :=
  (List.range r).map fun k => p / h.count k % h.extOf k

/-- The element that an index vector names on the strided side (R278). -/
def Shape.strided (h : Shape) (w : Nat) (idx : List Nat) : W64 × Bool :=
  h.addrOf w (h.offsetOf ((List.range h.rankOf).map fun k => h.originOf k + (idx.getD k 0 : Nat)))

/-- Element `p` of a dense side that starts at an address (R278). -/
def denseAt (addr : W64) (w p : Nat) : W64 × Bool :=
  if w = 4 then (addr + BitVec.ofNat 64 (p / 2), p % 2 == 1) else (addr + BitVec.ofNat 64 (p * (w / 8)), false)

/-- The type that FMT names (R39, R251). -/
def Shape.ty (h : Shape) : Ty := tyOf h.fmt.toNat

/-- One element to move: its source, or zeros, and its destination, or nowhere. -/
structure Elem where
  src : Option (W64 × Bool)
  dst : Option (W64 × Bool)
deriving DecidableEq, Repr

/-! ### An engine's view of an address -/

/-- The tags under which an engine's answers from other packages are kept: its reads, and its destination's old bytes. -/
def engineLane (p : Path) : Nat := match p with | .copy => 64 | .matrix => 68 | _ => 72

/-- The state in which an engine checks addresses for a gang's command (R179); `addr2` names a page that the service core
could not make resident (R355). -/
def engView (s : State) (c slot : Nat) (m : EngCmd) : State :=
  { s with cur := { Issue.none with core := c, gang := slot, pc := m.pc, pf := if m.addr2 = 0 then [] else [m.addr2.toNat / 2 ^ 16] } }

/-- A multicast aperture has no engine accesses (R485). -/
def engineRule (kind : Nat) (ea : W64) (f : Found) : Found :=
  match f with
  | .mem _ _ _ (some _) => apertureFault ea kind (if kind = 0 then 0xC1 else 0xC0)
  | _ => f

/-- What R179 makes of each byte of an element: its bytes need not be aligned (log entry 51). -/
def engFound (v : State) (c : Nat) (g : Gang) (l : Nat) (ea : W64) (n kind : Nat) : List Found :=
  (List.range n).map fun i => engineRule kind ea (checkAccess v c g l (ea + BitVec.ofNat 64 i) 1 kind 0 false)

/-- The place of a checked byte. -/
def Found.place (f : Found) : Option Loc :=
  match f with
  | .here l => some l
  | .mem pas _ _ _ => pas.head?.map Loc.phys
  | _ => none

/-- What an engine can do about an element. -/
inductive EngStep where
  | wait (c : Cause)
  | walk (va : W64)
  | ask (lane pa n : Nat)
  | fault (code : BitVec 8) (infos : List W64)
  | go (s : State)
  | last
deriving DecidableEq, Repr

/-- The deferred words of a fault at an element (R281). -/
def elemInfos (m : EngCmd) (ea : W64) (code : BitVec 8) (sub : Nat) : List W64 :=
  [m.pc, ea, BitVec.ofNat 64 (code.toNat + 2 ^ 8 * sub)]

/-- What keeps a checked element from being reached: a missing translation, or a fault (R281). -/
def foundStop (m : EngCmd) (ea : W64) (fs : List Found) : Option EngStep :=
  fs.findSome? fun f =>
    match f with
    | .missing va => some (.walk va)
    | .fault code infos => some (.fault code (elemInfos m ea code ((infos.getD 1 0).toNat % 256) ++ if code = tcECC then infos else []))
    | _ => none

/-- The rows that an engine must wait for before it reads: fills of others (R270). -/
def rowStop (s : State) (c : Nat) (m : EngCmd) (ea : W64) (fs : List Found) : Option EngStep :=
  fs.findSome? fun f =>
    match f with
    | .here (.scratch off) =>
      if (s.core c).fills.any fun (x : Fill) => x.row == off / 64 && x.owner != m.stamp then
        if (s.expiredAt c [off / 64]).isSome then some (.fault tcNEXP (elemInfos m ea tcNEXP 0)) else some (.wait .presence)
      else none
    | _ => none

/-- A run of an element's bytes that lie in another package: the first byte's number, its address, and how many there are. -/
structure AwayRun where
  first : Nat
  pa : Nat
  len : Nat
deriving DecidableEq, Repr

/-- The physical address of a byte in another package. -/
def Found.away (s : State) (f : Found) : Option Nat :=
  match f.place with
  | some (.phys pa) => if pkgOf pa = s.self then none else some pa
  | _ => none

/-- The bytes of an element that lie in other packages, as contiguous runs: an element may cross from one page to another. -/
def awayRuns (s : State) (fs : List Found) : List AwayRun :=
  ((List.range fs.length).zip fs).foldl (fun (rs : List AwayRun) q =>
    match q.2.away s, rs.getLast? with
    | none, _ => rs
    | some pa, some r =>
      if r.first + r.len = q.1 ∧ r.pa + r.len = pa then rs.dropLast ++ [{ r with len := r.len + 1 }]
      else rs ++ [{ first := q.1, pa := pa, len := 1 }]
    | some pa, none => [{ first := q.1, pa := pa, len := 1 }]) []

/-- The tag under which the answer for run `i` of an element is kept. -/
def runLane (lane i : Nat) : Nat := lane + 16 * i

/-- Whether the bytes of an element in other packages have still to be asked for or waited for (R477). -/
def awayStop (s : State) (c slot lane : Nat) (fs : List Found) : Option EngStep :=
  ((List.range 8).zip (awayRuns s fs)).findSome? fun q =>
    match s.remotes.find? fun r => r.core == c && r.gang == slot && r.lane == runLane lane q.1 && !r.isWrite with
    | none => some (.ask (runLane lane q.1) q.2.pa q.2.len)
    | some r => if r.data.isSome then none else some (.wait .l2miss)

/-- The bytes of a checked element. -/
def engBytes (s : State) (c slot lane : Nat) (g : Gang) (fs : List Found) : List Byte :=
  let runs := (List.range 8).zip (awayRuns s fs)
  ((List.range fs.length).zip fs).map fun p =>
    match runs.find? fun q => q.2.first ≤ p.1 && p.1 < q.2.first + q.2.len with
    | some q => ((s.remoteData c slot (runLane lane q.1) (pkgOf q.2.pa)).getD []).getD (p.1 - q.2.first) 0
    | none => match p.2.place with | some l => heldByte s c g l | none => 0

/-- The party of an engine's accesses (R383, R387): its own path of the attributed gang. -/
def engParty (g : Gang) (m : EngCmd) (p : Path) : Party := { m.party with uid := engineUid g.uid p }

/-- The clock of an engine's accesses (R387). -/
def engClock (g : Gang) (m : EngCmd) (p : Path) : TMap Nat := mset m.clock (engineUid g.uid p) m.stamp

/-- The tracked accesses of an element (R369, R383): one when its bytes are contiguous, else one a byte. -/
def engAccesses (s : State) (g : Gang) (m : EngCmd) (p : Path) (kind : AccKind) (ea : W64) (fs : List Found) : List Access :=
  let mk (pa n : Nat) : Access :=
    { pa := pa, len := n, party := engParty g m p, path := p, kind := kind, order := 0, scope := 0, ea := ea, pc := m.pc,
      epoch := m.stamp }
  let ps : List (Nat × Bool) := fs.filterMap fun f => match f with | .mem pas t _ _ => some (pas.headD 0, t) | _ => none
  let here := ps.filter fun q => q.2 && pkgOf q.1 == s.self
  match here with
  | [] => []
  | q :: _ =>
    if (List.range here.length).all fun i => (here.getD i (0, false)).1 == q.1 + i then [mk q.1 here.length]
    else here.map fun r => mk r.1 1

/-- The race that one of an element's accesses completes (R382, R383), as a deferred MMX. -/
def engRace (s : State) (g : Gang) (m : EngCmd) (p : Path) (accs : List Access) : Option EngStep :=
  accs.findSome? fun a => (s.findRace (engClock g m p) a).map fun r => .fault tcMMX (mmxInfos a r m.pc)

/-- Put one engine-written byte at its place, ending the release sequences it overwrites (R374). -/
def engPut (c slot lane : Nat) (s : State) (q : Found × Byte) : State :=
  match q.1.place with
  | none => s
  | some l =>
    match s.gang? c slot with
    | none => s
    | some g =>
      let key := locKey c (g.lane lane).uid l
      let home := match q.1 with | .mem _ _ h _ => h | _ => 0
      (putPlace s c slot lane home l [q.2]).endSequences key.1 1 key.2

/-- Write an element's bytes: a request for each run of them in another package, the others byte by byte. -/
def engWrite (s : State) (c slot lane tag tenant : Nat) (fs : List Found) (bs : List Byte) : State :=
  let s1 := ((fs.zip bs).filter fun q => (q.1.away s).isNone).foldl (engPut c slot lane) s
  (awayRuns s fs).foldl (fun t r => sendWrite t c slot tag tenant r.pa ((bs.drop r.first).take r.len) true) s1

/-- The bytes that replace a destination's, for an element of width `w` with the bits `v` (R278). -/
def mergeBits (w : Nat) (high : Bool) (old : List Byte) (v : Nat) : List Byte :=
  if w = 4 then
    let o := (old.headD 0).toNat
    [BitVec.ofNat 8 (if high then o % 16 + 16 * (v % 16) else o / 16 * 16 + v % 16)]
  else leBytes (w / 8) v

/-- The bits of an element in its bytes. -/
def bitsIn (w : Nat) (high : Bool) (bs : List Byte) : Nat :=
  if w = 4 then (bs.headD 0).toNat / (if high then 16 else 1) % 16 else ofLe bs

/-- Read the source of an element: its bits, or why not yet, and the accesses made. -/
def readElem (s : State) (c slot lane : Nat) (g : Gang) (m : EngCmd) (p : Path) (w : Nat) (src : Option (W64 × Bool)) :
    Except EngStep (Nat × List Access) :=
  match src with
  | none => .ok (0, [])
  | some (ea, high) =>
    let fs := engFound (engView s c slot m) c g lane ea (max 1 (w / 8)) 0
    match foundStop m ea fs with
    | some e => .error e
    | none =>
      match rowStop s c m ea fs with
      | some e => .error e
      | none =>
        match awayStop s c slot (engineLane p) fs with
        | some e => .error e
        | none =>
          let accs := engAccesses s g m p .read ea fs
          match engRace s g m p accs with
          | some e => .error e
          | none => .ok (bitsIn w high (engBytes s c slot (engineLane p) g fs), accs)

/-- Write the destination of an element, or say why not yet. -/
def writeElem (s : State) (c slot lane : Nat) (g : Gang) (m : EngCmd) (p : Path) (w : Nat) (dst : Option (W64 × Bool)) (v : Nat) :
    EngStep :=
  match dst with
  | none => .go s
  | some (ea, high) =>
    let fs := engFound (engView s c slot m) c g lane ea (max 1 (w / 8)) 1
    match foundStop m ea fs with
    | some e => e
    | none =>
      let tag := engineLane p + 1
      match (if w = 4 then awayStop s c slot tag fs else none) with
      | some e => e
      | none =>
        let accs := engAccesses s g m p .write ea fs
        match engRace s g m p accs with
        | some e => e
        | none =>
          let s1 := engWrite s c slot lane tag g.tenant fs (mergeBits w high (engBytes s c slot tag g fs) v)
          .go (accs.foldl (fun t a => t.recordAccess (engClock g m p) a) s1)

/-- Move one element (R279 to R281): nothing of it happens until all of it can. -/
def moveElem (s : State) (c slot lane : Nat) (g : Gang) (m : EngCmd) (p : Path) (w : Nat) (el : Elem) : EngStep :=
  match readElem s c slot lane g m p w el.src with
  | .error e => e
  | .ok (v, accs) =>
    match writeElem s c slot lane g m p w el.dst v with
    | .go t =>
      let t1 := accs.foldl (fun u a => u.recordAccess (engClock g m p) a) t
      .go ((List.range 8).foldl (fun u i =>
        (u.dropRemote c slot (runLane (engineLane p) i)).dropRemote c slot (runLane (engineLane p + 1) i)) t1)
    | e => e

/-- Send a request that an element needs from another package (R477). -/
def engAsk (s : State) (c slot tenant lane pa n : Nat) : State :=
  s.ask { Packet.blank with dst := pkgOf pa, tenant := tenant, addr := pa, size := n, op := pkRead }
    { tag := 0, core := c, gang := slot, lane := lane, pkg := pkgOf pa, isWrite := false, atomic := false, engine := true, data := none, own := [] }

/-- Whether an engine's writes to other packages are not all acknowledged (R478). -/
def engAwaits (s : State) (c slot : Nat) (p : Path) : Bool :=
  s.remotes.any fun r => r.core == c && r.gang == slot && r.isWrite && r.engine && r.lane == engineLane p + 1

end Sys2Proof.Machine
end

