-- ==== Sys2Proof/Machine/Registers.lean ====
section
/-! DEFINITION. Which registers and predicates each instruction's fields name, from the tables of forms (R107, R119, R126,
R135, R146, R152, R184, R248, R275, R315, R329, R479): for the declared counts of R85 and for native long words. -/

namespace Sys2Proof.Machine

/-- What a register field names: a file (`x` or `v`), a predicate, or nothing of these; a run has its length. -/
inductive OperandClass where
  | other
  | v (n : Nat)
  | x (n : Nat)
  | p
deriving DecidableEq, Repr

/-- The use of one field: 0 for d, 1 for a, 2 for b, 3 for c. -/
structure OperandUse where
  field : Nat
  cls : OperandClass
  num : Nat
  reads : Bool
  writes : Bool
deriving DecidableEq, Repr

/-- The class T of the tables: the file that a type's registers are in (R41). -/
def classT (t : Ty) : OperandClass := if isX t then .x 1 else .v 1

/-- The extension of a format-C instruction. -/
def extOf (p : Parts) : BitVec 18 := p.third.setWidth 18

/-- The classes of d, a, b and c for opcodes of class 000 (R107). -/
def classes000 (p : Parts) : List OperandClass :=
  let t := classT p.ty
  let i : Bool := match p.fmt with | .i => true | _ => false
  let b : OperandClass := if i then .other else t
  if p.op ≤ 0x007 || p.op = 0x009 || p.op = 0x00A || (0x00D ≤ p.op && p.op ≤ 0x017) || 0x02F ≤ p.op then [t, t, b, .other]
  else if p.op = 0x008 then [t, t, t, t]
  else if p.op = 0x00B || p.op = 0x00C || p.op = 0x018 || p.op = 0x028 || p.op = 0x02B then [t, t, .other, .other]
  else if 0x019 ≤ p.op && p.op ≤ 0x020 || p.op = 0x022 || p.op = 0x023 then [t, t, if i then .other else .v 1, .other]
  else if p.op = 0x021 || p.op = 0x024 then [t, t, t, .v 1]
  else if 0x025 ≤ p.op && p.op ≤ 0x027 then [.v 1, t, .other, .other]
  else if p.op = 0x029 then [.v 1, .v 1, .v 1, .v 1]
  else if p.op = 0x02A then [t, t, t, .p]
  else if p.op = 0x02C then [t, .other, .other, .other]
  else if p.op = 0x02D then [.x 1, .x 1, t, .other]
  else if p.op = 0x02E then [.x 1, .x 1, .other, .other]
  else [.other, .other, .other, .other]

/-- The classes for class 001 (R119). -/
def classes001 (p : Parts) : List OperandClass :=
  let t := classT p.ty
  match p.op with
  | 0x040 | 0x042 => [.p, t, t, .other]
  | 0x041 => [.p, t, .other, .other]
  | 0x043 | 0x044 | 0x045 => [.p, .p, .p, .other]
  | 0x046 => [.p, .p, .other, .other]
  | 0x047 => if p.mod.getLsbD 0 then [.other, .v 1, .other, .other] else [.v 1, .other, .other, .other]
  | _ => [.p, .p, .p, .p]

/-- The classes for class 010 (R126). -/
def classes010 (p : Parts) : List OperandClass :=
  let t := classT p.ty
  match p.op with
  | 0x083 => [t, t, t, t]
  | 0x087 | 0x088 | 0x089 | 0x08A | 0x08B | 0x08C | 0x08D | 0x08E | 0x091 | 0x094 | 0x095 => [t, t, .other, .other]
  | 0x08F => [.v 1, t, .other, .other]
  | 0x090 => [t, t, .v 1, .other]
  | 0x092 => [t, classT (tyOf (bitsOf (extOf p) 0 4)), .other, .other]
  | _ => [t, t, t, .other]

/-- The classes for class 011 (R135). -/
def classes011 (p : Parts) : List OperandClass :=
  match p.op with
  | 0x0C0 | 0x0C1 | 0x0C2 | 0x0C7 => [.v 1, .v 1, .v 1, .v 1]
  | 0x0C4 => [.v 1, .v 1, .other, .other]
  | 0x0C8 => [.other, .v 1, .other, .other]
  | 0x0C9 => [.v 1, .other, .other, .other]
  | _ => [.v 1, .v 1, .v 1, .other]

/-- The classes for class 100 (R184, R275). -/
def classes100 (p : Parts) : List OperandClass :=
  let t := classT p.ty
  match p.op with
  | 0x100 | 0x101 | 0x102 | 0x103 => [t, .x 1, .other, .other]
  | 0x104 | 0x105 => [.v 16, .x 1, .other, .other]
  | 0x106 => [.v 16, .v 16, .v 16, .v 1]
  | 0x107 => [.p, .x 1, .other, .other]
  | 0x108 => [t, .x 1, t, .other]
  | 0x109 => [t, .x 1, t, t]
  | 0x10A => [.x 2, .x 1, .x 2, .x 2]
  | 0x10B => [.other, .x 1, t, .other]
  | 0x10E => [.other, .x 1, .other, .other]
  | 0x10F => [.other, if bitsOf (extOf p) 0 5 = 0 then .x 1 else .v 1, .other, .other]
  | 0x110 => [.v 1, .other, .other, .other]
  | 0x111 => [.other, .v 1, .other, .other]
  | _ => [.other, .other, .other, .other]

/-- The classes for class 101 (R146, R152). -/
def classes101 (p : Parts) : List OperandClass :=
  let t := classT p.ty
  match p.op with
  | 0x141 | 0x143 | 0x148 | 0x151 => [.other, .x 1, .other, .other]
  | 0x146 => [.x 1, .x 1, .v (bitsOf (extOf p) 0 5), .x (bitsOf (extOf p) 5 4)]
  | 0x147 => [.other, .x 1, .v (bitsOf (extOf p) 0 5), .x 1]
  | 0x14C => [.v 1, .other, .other, .other]
  | 0x14D | 0x150 => [.other, .v 1, .other, .other]
  | 0x152 => [if specialWide p.b then .x 1 else .v 1, .other, .other, .other]
  | 0x158 => [t, t, .v 1, .p]
  | 0x159 => [.p, .p, .other, .other]
  | 0x15A => [.v 1, .p, .other, .other]
  | 0x15B | 0x15C => [t, t, .other, .other]
  | 0x15D => [.p, .other, .other, .other]
  | _ => [.other, .other, .other, .other]

/-- The classes for classes 110 and 111 (R248, R275, R315, R329, R479). -/
def classes11x (p : Parts) : List OperandClass :=
  match p.op with
  | 0x183 | 0x184 | 0x185 => [.other, .other, .other, .v 1]
  | 0x186 => [.v 16, .other, .v 1, .other]
  | 0x187 => [.other, .v 16, .v 1, .other]
  | 0x18A | 0x18C | 0x192 | 0x1C1 | 0x1C9 => [.other, .x 1, .other, .other]
  | 0x18D | 0x191 | 0x1C4 | 0x1C5 => [.other, .x 1, .v 1, .other]
  | 0x190 | 0x199 => [.other, .v 1, .x 1, .other]
  | 0x193 | 0x194 | 0x19A | 0x1C2 | 0x1C8 => [.other, .v 1, .other, .other]
  | 0x198 => [.x 1, .x 1, .v 1, .other]
  | 0x19C => [.p, .v 1, .other, .other]
  | 0x19E => [.p, .x 1, .other, .other]
  | 0x1C0 => [.x 1, .other, .other, .other]
  | 0x1C3 => [.other, .x 1, .x 1, .v 1]
  | 0x1C6 => [.x 1, .v 1, .other, .other]
  | _ => [.other, .other, .other, .other]

/-- The classes of an instruction's fields. -/
def classesOf (p : Parts) : List OperandClass :=
  match p.op / 64 with
  | 0 => classes000 p
  | 1 => classes001 p
  | 2 => classes010 p
  | 3 => classes011 p
  | 4 => classes100 p
  | 5 => classes101 p
  | _ => classes11x p

/-- The opcodes whose d is read and not written: stores, and BULK's local address. -/
def readsD (op : Nat) : Bool := op = 0x102 || op = 0x103 || op = 0x105 || op = 0x198

/-- The opcodes whose d is both read and written: PACK, QNT, QNTSR (R137, R140, R141). -/
def updatesD (op : Nat) : Bool := op = 0x0C3 || op = 0x0C6 || op = 0x0C7

/-- The register and predicate operands of an instruction; c is a destination of SHFL alone (R147). The fields of an absent
operand and empty runs have no use. -/
def operandUses (p : Parts) : List OperandUse :=
  let cs := classesOf p
  let one (field num : Nat) : List OperandUse :=
    let cls := cs.getD field .other
    let writes := (field == 0 && !readsD p.op) || (field == 3 && p.op == 0x158)
    match cls with
    | .other | .v 0 | .x 0 => []
    | _ => [{ field := field, cls := cls, num := num, reads := !writes || (field == 0 && updatesD p.op), writes := writes }]
  one 0 p.d ++ one 1 p.a ++ (match p.fmt with | .i => [] | _ => one 2 p.b) ++ one 3 p.c

/-- Whether an instruction keeps to the declared counts of the two files (R85). -/
def withinCounts (p : Parts) (vregs xregs : Nat) : Bool :=
  (operandUses p).all fun u =>
    match u.cls with
    | .v n => u.num + n ≤ vregs
    | .x n => u.num + n ≤ xregs
    | _ => true

end Sys2Proof.Machine
end

