-- ==== Sys2Proof/Machine/LongForm.lean ====
section
/-! DEFINITION. The form of native long words: slots, condition trees, latencies, what each slot reads and writes, and the
static faults of R223 (R211 to R216, R219, R220, R225). -/

namespace Sys2Proof

open Machine

/-! ### Slots (R211 to R213) -/

/-- A slot that holds an operation, with its number and the value of its continuation (R212, R213). -/
structure LSlot where
  k : Nat
  bits : BitVec 64
  cont : Option W32
deriving DecidableEq, Repr

/-- The seven slots of a word, S0 to B (R211). -/
def LWord.slots (w : LWord) : List (BitVec 64) := [w.s0, w.s1, w.v0, w.v1, w.m, w.e, w.b]

/-- Whether slot bits are a continuation (R213). -/
def isCont (x : BitVec 64) : Bool := slotOp x == 0x1FE

/-- The operations of a word: neither empty slots nor continuations. -/
def LWord.ops (w : LWord) : List LSlot :=
  (List.range 7).filterMap fun k =>
    let x := (w.slots).getD k 0
    if x == 0 || isCont x then none
    else
      let p := if k = 0 then 0 else (w.slots).getD (k - 1) 0
      some { k := k, bits := x, cont := if isCont p then some (p.setWidth 32) else none }

def LSlot.op (x : LSlot) : Nat := slotOp x.bits
def LSlot.guard (x : LSlot) : Guard := { neg := x.bits.getLsbD 46, pred := x.bits.extractLsb' 42 4 }
def LSlot.leaf (x : LSlot) : Nat := bitsOf x.bits 39 3
def LSlot.hold (x : LSlot) : Nat := bitsOf x.bits 37 2
def LSlot.peek (x : LSlot) : Bool := x.bits.getLsbD 36
def LSlot.d (x : LSlot) : Nat := bitsOf x.bits 27 9
def LSlot.a (x : LSlot) : Nat := bitsOf x.bits 18 9
def LSlot.bc (x : LSlot) : Nat := bitsOf x.bits 0 18
def LSlot.third (x : LSlot) : W32 := x.cont.getD 0

/-- The fields of a slot as those of a ZN-V instruction (R212, R213, R222). -/
def LSlot.raw (x : LSlot) : RawFields :=
  let m : BitVec 4 := x.bits.extractLsb' 51 4
  { mod := if x.peek then m ||| 1 else m, ty := tyOf (bitsOf x.bits 47 4), g := x.guard, d := x.d, a := x.a
    b := bitsOf x.bits 9 9, c := bitsOf x.bits 0 9, imm := x.bits.setWidth 14, ext := x.third.setWidth 18, lit := x.third }

/-- The instruction of a slot, with native register numbers; none for the native-only operations. -/
def LSlot.instr (x : LSlot) : Option Instr := (opcodeMap x.op).map fun q => q.2 x.raw

/-- Format-C opcodes whose entries leave the extension unused (R213). -/
def extUnused : List Nat := [0x008, 0x021, 0x024, 0x029, 0x048, 0x083, 0x0C2, 0x106, 0x183, 0x185, 0x186, 0x187, 0x1C3]

/-- Whether an operation takes a continuation (R213, R225). -/
def takesCont (op : Nat) : Bool :=
  op == 0x1E9 || op == 0x1EB ||
    match opcodeMap op with
    | some (.c, _) => !extUnused.contains op
    | some (.l, _) => true
    | _ => false

/-- The LD of format I that LDSPEC performs (R226). -/
def LSlot.specLoad (x : LSlot) : IForm :=
  { mod := x.raw.mod, ty := x.raw.ty, g := x.guard, d := x.d, a := x.a, imm := x.raw.imm }

/-- The register and predicate operands of a slot (R212, R225). -/
def LSlot.uses (x : LSlot) : List OperandUse :=
  match x.op with
  | 0x1E0 => [{ field := 0, cls := classT x.raw.ty, num := x.d, reads := false, writes := true },
              { field := 1, cls := .x 1, num := x.a, reads := true, writes := false }]
  | 0x1E4 => [{ field := 1, cls := .x 1, num := x.a, reads := true, writes := false }]
  | 0x1EA => [{ field := 1, cls := .p, num := x.a, reads := true, writes := false }]
  | 0x047 => (match x.instr.bind partsOf with | some p => operandUses p | none => []) ++ (List.range 12).map fun p =>
      { field := 4, cls := .p, num := p, reads := !x.raw.mod.getLsbD 0, writes := x.raw.mod.getLsbD 0 }
  | _ => match x.instr.bind partsOf with | some p => operandUses p | none => []

/-- The first number that names the hold latch, D.125 (R209). -/
def latchBase : Nat := 509

/-- How many native registers a use names. -/
def useSpan (u : OperandUse) : Nat := match u.cls with | .v n => n | .x n => 2 * n | _ => 0

/-- What a use names: native registers of 32 bits, a predicate, or an entry of the hold latch (R209, R221). -/
def destsOf (u : OperandUse) : List NDest :=
  match u.cls with
  | .other => []
  | .p => [.pred u.num]
  | .v n => if latchBase ≤ u.num then [.latch (u.num - latchBase)] else (List.range n).map fun i => .reg (u.num + i)
  | .x n => if latchBase ≤ u.num then [.latch (u.num - latchBase)] else (List.range (2 * n)).map fun i => .reg (u.num + i)

/-- What a slot writes: its destinations and the latch entry it captures. -/
def LSlot.writes (x : LSlot) : List NDest :=
  ((x.uses.filter fun u => u.writes).flatMap fun u => destsOf u) ++ (if x.hold = 0 then [] else [.latch (x.hold - 1)])

/-- The predicate that a guard or a test reads. -/
def guardSources (g : Guard) : List NDest := if g.pred.toNat < 12 then [.pred g.pred.toNat] else []

/-- What a slot's operation reads. -/
def LSlot.operands (x : LSlot) : List NDest := (x.uses.filter fun u => u.reads).flatMap fun u => destsOf u

/-- What a slot reads: its sources and its guard's predicate. -/
def LSlot.sources (x : LSlot) : List NDest := x.operands ++ guardSources x.guard

/-- The instruction that a slot's operation performs (R212): LDSPEC performs an LD (R226). -/
def LSlot.performs (x : LSlot) : Option Instr := if x.op = 0x1E0 then some (.ldI x.specLoad) else x.instr

/-- The value that a slot reads for its source a in a lane (R221). -/
def LSlot.captured (x : LSlot) (f : Fibre) : W64 :=
  match x.uses.find? fun u => u.field == 1 with
  | none => 0
  | some u =>
    if latchBase ≤ u.num then f.held (u.num - latchBase)
    else match u.cls with | .x _ => f.rn64 u.num | _ => (f.rn u.num).setWidth 64

/-! ### Condition trees (R215) -/

/-- A condition tree. -/
inductive CTree where
  | leaf
  | node (x y : CTree)
deriving DecidableEq, Repr

def CTree.nodes (t : CTree) : Nat := match t with | .leaf => 0 | .node x y => 1 + x.nodes + y.nodes
def CTree.leaves (t : CTree) : Nat := match t with | .leaf => 1 | .node x y => x.leaves + y.leaves

/-- The leaf that a lane selects: tests in preorder, leaves from left to right. -/
def CTree.pick (t : CTree) (pass : Nat → Bool) (test first : Nat) : Nat :=
  match t with
  | .leaf => first
  | .node x y => if pass test then x.pick pass (test + 1) first else y.pick pass (test + 1 + x.nodes) (first + x.leaves)

/-- The shapes of R215 by code. -/
def shapes : List CTree :=
  let l := CTree.leaf
  let t := CTree.node
  [l, t l l, t (t l l) l, t l (t l l), t (t (t l l) l) l, t (t l (t l l)) l, t (t l l) (t l l), t l (t (t l l) l)]
  ++ [t l (t l (t l l)), t (t (t (t l l) l) l) l, t (t (t l (t l l)) l) l, t (t (t l l) (t l l)) l,
      t (t l (t (t l l) l)) l, t (t l (t l (t l l))) l, t (t (t l l) l) (t l l), t (t l (t l l)) (t l l)]
  ++ [t (t l l) (t (t l l) l), t (t l l) (t l (t l l)), t l (t (t (t l l) l) l), t l (t (t l (t l l)) l),
      t l (t (t l l) (t l l)), t l (t l (t (t l l) l)), t l (t l (t l (t l l)))]

/-- The shape code of a word. -/
def LWord.shapeCode (w : LWord) : Nat := bitsOf w.header 52 5
/-- The tree of a word. -/
def LWord.tree (w : LWord) : CTree := shapes.getD w.shapeCode .leaf
/-- Test `i` of a word, laid out like a guard. -/
def LWord.sel (w : LWord) (i : Nat) : Guard :=
  { neg := w.header.getLsbD (36 + 5 * i), pred := w.header.extractLsb' (32 + 5 * i) 4 }
/-- Whether a stop stands after slot `k` (R218). -/
def LWord.stop (w : LWord) (k : Nat) : Bool := w.header.getLsbD (57 + k)
/-- Whether a word ends a commit region. -/
def LWord.commit (w : LWord) : Bool := w.header.getLsbD 31
/-- Whether a word's matrix operations advance the metadata PC (R232). -/
def LWord.mdadv (w : LWord) : Bool := w.header.getLsbD 30
/-- The declaration of a yield word, in ck (R230). -/
def LWord.yieldCk (w : LWord) : Nat := 64 * bitsOf w.header 16 14
/-- Whether the B slot holds YIELD (R230). -/
def LWord.isYield (w : LWord) : Bool := slotOp w.b == 0x1E7

/-! ### Latencies (R219) -/

/-- The latency of a slot's results in issue distance; none when they are interlocked. The operations that the table leaves
out are taken as interlocked (log entry 12). -/
def LSlot.latency (x : LSlot) : Option Nat :=
  let wide := isX x.raw.ty
  let fp64 := x.raw.ty == .fp64 || (x.op == 0x092 && tyOf (bitsOf x.raw.ext 0 4) == .fp64)
  let fp (n m : Nat) : Option Nat := some (if fp64 then m else n)
  match x.op / 64 with
  | 0 =>
    if x.op = 0x005 || x.op = 0x006 || x.op = 0x007 || x.op = 0x008 then some 3
    else if x.op = 0x009 || x.op = 0x00A then some (if wide then 18 else 10)
    else some 1
  | 1 => if x.op = 0x042 then fp 4 8 else some 1
  | 2 =>
    if x.op = 0x086 || x.op = 0x087 then fp 12 24
    else if 0x088 ≤ x.op && x.op ≤ 0x08E then some 8
    else fp 4 8
  | 3 => if x.op = 0x0C9 then none else some 4
  | 5 =>
    if x.op = 0x152 then some 2
    else if x.op = 0x158 || x.op = 0x159 || x.op = 0x15A || x.op = 0x15D then some 3
    else if x.op = 0x15B || x.op = 0x15C then some 6
    else none
  | _ => none

/-- The ck for which a slot's operation occupies its unit (R214, R219): a floating operation V0, a division its own slot. -/
def LSlot.occupancy (x : LSlot) : Nat :=
  let fp64 := x.raw.ty == .fp64 || (x.op == 0x092 && tyOf (bitsOf x.raw.ext 0 4) == .fp64)
  match x.op / 64 with
  | 0 => if x.op = 0x009 || x.op = 0x00A then (if isX x.raw.ty then 16 else 8) else 0
  | 2 =>
    if x.op = 0x086 || x.op = 0x087 then (if fp64 then 32 else 4)
    else if 0x088 ≤ x.op && x.op ≤ 0x08E then 2
    else if fp64 then 16 else 0
  | _ => 0

/-! ### Static faults (R214, R220, R223, R225) -/

/-- Whether a slot accepts an opcode (R214). -/
def slotAccepts (k op : Nat) : Bool :=
  let cls := op / 64
  let gang := 0x158 ≤ op && op ≤ 0x15D
  match k with
  | 0 => cls == 0 || cls == 1 || op == 0x152
  | 1 => cls == 0 || cls == 1 || op == 0x152 || (0x140 ≤ op && op ≤ 0x145)
  | 2 => cls == 0 || cls == 2 || cls == 3 || gang
  | 3 => cls == 0 || (cls == 3 && op != 0x0C8 && op != 0x0C9) || op == 0x092 || op == 0x08F
  | 4 => (0x180 ≤ op && op ≤ 0x18B) || op == 0x1E3 || op == 0x1E4 || op == 0x1EB
  | 5 => cls == 4 || (0x18C ≤ op && op ≤ 0x19B) || op == 0x1E0 || op == 0x1E1 || op == 0x1E2
  | _ => (cls == 5 && !gang) || (0x19C ≤ op && op ≤ 0x19F) || (0x1C0 ≤ op && op ≤ 0x1C9) || (0x1E5 ≤ op && op ≤ 0x1EA)

/-- The trap codes that R11 lists. -/
def trapListed (c : Nat) : Bool := (1 ≤ c && c ≤ 0x12) || (0x14 ≤ c && c ≤ 0x16)

/-- Whether a native-only operation keeps to its fields (R225). -/
def LSlot.nativeOk (x : LSlot) : Bool :=
  let mt := bitsOf x.bits 47 8
  let da := bitsOf x.bits 18 18
  let always := x.guard.pred == 15 && !x.guard.neg && x.leaf == 7
  let bare := mt == 0 && x.hold == 0 && !x.peek
  let lit := x.bc == 0 && da == 0 && bare && always
  match x.op with
  | 0x1E0 => fieldFaultsOf (.ldI { x.specLoad with imm := 0 }) == [] && x.bc / 2 ^ 14 ≤ 14 && !x.peek
  | 0x1E1 => bare && always && da == 0 && x.bc ≤ 14
  | 0x1E2 => bare && always && da == 0 && x.bc < 2 ^ 15
  | 0x1E3 => bare && always && da == 0 && x.bc < 2 ^ 14
  | 0x1E4 => mt == 0 && !x.peek && always && x.d == 0 && x.bc == 0
  | 0x1E5 | 0x1E6 | 0x1E7 => bare && always && da == 0 && x.bc == 0
  | 0x1E8 => bare && da == 0 && x.bc < 256 && trapListed x.bc && (x.guard.pred.toNat < 12 || (x.guard.pred == 15 && !x.guard.neg))
  | 0x1E9 => lit
  | 0x1EA => bare && always && x.d == 0 && x.a < 12 && x.bc == 0
  | _ => lit && x.third.toNat % 4 == 0

/-- Whether bits that a format leaves unused are zero (R31 to R34, R212). -/
def LSlot.unusedOk (x : LSlot) : Bool :=
  match opcodeMap x.op with
  | some (.a, _) => bitsOf x.bits 0 9 == 0
  | some (.i, _) => bitsOf x.bits 14 4 == 0
  | some (.l, _) => bitsOf x.bits 0 9 == 0
  | _ => true

/-- The predicates that a word's tests read (R215). -/
def LWord.tests (w : LWord) : List NDest := (List.range w.tree.nodes).flatMap fun i => guardSources (w.sel i)

/-- Whether a field of a slot has an encoding fault (R62, R223); the extension of a slot without its continuation is not judged. -/
def LSlot.fieldsOk (x : LSlot) (i : Instr) : Bool :=
  (fieldFaultsOf i).all fun q => takesCont x.op && x.cont.isNone && q.2 == 8

/-- Whether a slot's operation may stand there as it is encoded (reason 0x05 of R223). -/
def LSlot.ok (x : LSlot) : Bool :=
  let us := x.uses
  slotAccepts x.k x.op && x.op != 0x094 && x.op != 0x095
    && (match x.instr with
        | some i => x.fieldsOk i && x.unusedOk && (!x.peek || x.op == 0x110)
        | none => nativeOnly x.op && x.nativeOk)
    && us.all (fun u => match u.cls with | .x _ => latchBase ≤ u.num || u.num % 2 == 0 | _ => true)
    && us.all (fun u => !u.writes || u.cls == .p || u.num + max 1 (useSpan u) ≤ latchBase)
    && (x.hold == 0 || us.any fun u => u.field == 1 && u.cls != .p)
    && (if takesCont x.op && x.op < 0x1E0 then
          match opcodeMap x.op with | some (.c, _) => decide (x.third.toNat < 2 ^ 18) | _ => true
        else true)

/-- Whether an operation transfers control (R214, R223). -/
def isTransfer (op : Nat) : Bool := 0x140 ≤ op && op ≤ 0x145

/-- The slot mask of some slot numbers. -/
def slotMask (ks : List Nat) : Nat := (ks.eraseDups).foldl (fun n k => n + 2 ^ k) 0

/-- The pairs of operations of a word, in slot order, of which a relation holds. -/
def pairsWith (xs : List LSlot) (r : LSlot → LSlot → Bool) : List Nat :=
  xs.flatMap fun x => xs.flatMap fun y => if x.k < y.k && r x y then [x.k, y.k] else []

/-- The reads of banks: cycle, section and register (R220). -/
def LSlot.ports (x : LSlot) : List (Nat × Nat × Nat) :=
  (x.uses.filter fun u => u.reads && u.cls != .p && u.num < latchBase).map fun u =>
    ((u.field + 3) % 4, u.num / 128, u.num)

/-- Whether two lists of reads ask one bank for two registers in one cycle (R220). -/
def portClash (xs ys : List (Nat × Nat × Nat)) : Bool :=
  xs.any fun p => ys.any fun q => p.1 == q.1 && p.2.1 == q.2.1 && p.2.2 != q.2.2

/-- Whether a selector is a legal test (R211). -/
def selOk (g : Guard) : Bool := g.pred.toNat < 12 || (g.pred == 15 && !g.neg)

/-- The static faults of a word: reason and slot mask (R223). -/
def LWord.staticFaults (w : LWord) : List (Nat × Nat) :=
  let xs := w.ops
  let lone (p : LSlot → Bool) : List Nat := (xs.filter p).map fun x => x.k
  let one (r : Nat) (ks : List Nat) : List (Nat × Nat) := if ks = [] then [] else [(r, slotMask ks)]
  let stray := (List.range 7).filter fun k =>
    let x := (w.slots).getD k 0
    isCont x && !(k < 6 && takesCont (slotOp ((w.slots).getD (k + 1) 0)))
  let badCont := (List.range 7).filter fun k =>
    let x := (w.slots).getD k 0
    isCont x && bitsOf x 32 23 != 0
  let used := w.tree.nodes
  let badSel := (List.range 4).any fun i => if i < used then !selOk (w.sel i) else bitsOf w.header (32 + 5 * i) 5 != 0
  let badHead := bitsOf w.header 0 16 != 0 || 23 ≤ w.shapeCode || badSel || (bitsOf w.header 16 14 != 0 && !w.isYield)
  let leaves := lone fun x => x.leaf != 7 && decide (w.tree.leaves ≤ x.leaf)
  let yields := if w.isYield && !w.commit then [6] else []
  one 1 (pairsWith xs fun x y => x.writes.any fun d => y.writes.contains d)
    ++ one 2 ((pairsWith xs fun x y => portClash x.ports y.ports) ++ lone fun x => portClash x.ports x.ports)
    ++ one 4 (pairsWith xs fun x y => isTransfer x.op && isTransfer y.op && (x.leaf == y.leaf || x.leaf == 7 || y.leaf == 7))
    ++ one 5 (badCont ++ lone fun x => !x.ok)
    ++ one 6 (stray ++ lone fun x => takesCont x.op && x.cont.isNone)
    ++ (if badHead || leaves ≠ [] || yields ≠ [] then [(7, slotMask (leaves ++ yields))] else [])

end Sys2Proof
end

