-- ==== Sys2Proof/Machine/Wake.lean ====
section
/-! DEFINITION. Waking a parked instruction: it is issued again for its lanes, and its region commits (R91, R187, R200). -/

namespace Sys2Proof.Machine

/-- The parked instruction that an item names: an index into a gang's waits, or the firmware fibre's. -/
def waitOf (s : State) (it : AtItem) : Option Wait :=
  if it.gang = fwSlot then (s.core it.core).fwWait else (s.gang? it.core it.gang).bind fun g => g.waits[it.item]?

/-- Whether what a PC group waits for at a native word is there. For a queue, the wait's address holds the queue and how many entries
the word needs. -/
def nativeReady (s : State) (it : AtItem) (w : Wait) (g : Gang) : Bool :=
  match w.cause with
  | .l2miss => !s.remotes.any fun r => r.core == it.core && r.gang == it.gang && !r.isWrite && !r.engine && w.mask.getLsbD r.lane && r.data.isNone
  | .presence =>
    let rows := rowsAt ((windowOf s it.core g).1 + w.va.toNat % 2 ^ 48) 1
    rows.all (s.core it.core).present || (s.expiredAt it.core rows).isSome
  | .qempty =>
    let q := w.va.toNat % 16
    let have_ := if q < 6 then mget [] g.queues q else ((s.blockOf? it.core g).map fun b => mget [] b.queues q).getD []
    decide (w.va.toNat / 16 ≤ have_.length)
  | _ => w.pf.contains (w.va.toNat / 2 ^ 16) || ((s.core it.core).tlbFind g.tenant g.ctx w.va).isSome

/-- A PC group that waits at a native word issues it again once it may; at a page that cannot be made resident its region replays, and
the virtual instruction meets the fault (R21, R187, R237). -/
def wakeNative (s : State) (it : AtItem) (w : Wait) : State :=
  match s.gang? it.core it.gang with
  | none => s
  | some g =>
    if !nativeReady s it w g then s
    else if w.translates && w.pf.contains (w.va.toNat / 2 ^ 16) then rollbackVirtual s it.core it.gang
    else s.setGang it.core it.gang { g.unpark w.mask with granted := g.granted ||| w.mask }

/-- Run a parked instruction again, when it is one that `run` knows: an open region of the gang commits first, since a parked
instruction ended its own. -/
def wake (s : State) (it : AtItem) (granted : Bool) (run : Instr → State → Option State) : State :=
  match waitOf s it with
  | none => s
  | some w =>
    if w.isNative then wakeNative s it w
    else
    let isOpen := match s.gang? it.core it.gang with | some g => !g.region.isEmpty | none => false
    if isOpen then commitRegion s it.core it.gang
    else
      let s1 := s.reissue it.core it.gang w granted
      match run w.instr s1 with
      | some t => commitRegion t it.core it.gang
      | none => s

/-- Whether a gang's waits may be woken: its context is resident, it is not stopped, and no commit of it waits. -/
def wakeable (s : State) (c slot : Nat) (g : Gang) : Bool :=
  g.stop.isNone && (g.region.isEmpty || (commitStall s c slot g).isNone) && !(s.core c |>.slotFor g.ctx).isNone

end Sys2Proof.Machine
end

