-- ==== Sys2Proof/Machine/Copy.lean ====
section
/-! DEFINITION. Shape writes, queue registers, and the copy engine (R272 to R281). -/

namespace Sys2Proof.Machine

/-! ### SHW (R276) -/

/-- The half of a shape register after one field is written (R251, R276). -/
def Shape.put (h : Shape) (k : Nat) (x : W64) (v : W32) : Shape :=
  if k = 0 then { h with base := x }
  else if k = 1 then { h with fmt := v.extractLsb' 0 4, rank := v.extractLsb' 4 3 }
  else
    let d := (k - 2) / 3
    match (k - 2) % 3 with
    | 0 => { h with ext := mset h.ext d v }
    | 1 => { h with stride := mset h.stride d v }
    | _ => { h with origin := mset h.origin d v }

/-- SHW (R276): one field of the shadow half, from the lowest lane. -/
def execShw (f : CForm) (s : State) : Result :=
  .next (userOp s fun g =>
    let e := execLanes s g f.g
    let x := g.lane (lowLane e)
    retireWith s fun y =>
      if e = 0 then y
      else
        let h := mset y.arch.hSh f.d ((g.hShadow f.d).put (bitsOf f.ext 0 5) (x.rx f.a) (x.rv f.a))
        { y with arch := { y.arch with hSh := h } })

/-! ### Queues (R272 to R274) -/

/-- The entries of a queue register that a gang names. -/
def queueOf (s : State) (c : Nat) (g : Gang) (q : Nat) : List W32 :=
  if q < 6 then mget [] g.queues q else ((s.blockOf? c g).map fun b => mget [] b.queues q).getD []

/-- A QERR of R274, for the lowest lane of EXEC. -/
def queueError (s : State) (e : Mask) (sub q : Nat) : State :=
  takeTrap s tcQERR (lowLane e) [BitVec.ofNat 64 sub, BitVec.ofNat 64 q, e.setWidth 64]

/-- Pop `n` entries of a queue, with the clocks that their pushes carry (R273, R376). -/
def popQueue (s : State) (c slot : Nat) (g : Gang) (q n : Nat) : State :=
  if q < 6 then s.modGang c slot fun x => { x with queues := mmod [] x.queues q fun l => l.drop n }
  else match g.block with
    | none => s
    | some u => s.modBlock c u fun b =>
        { b with queues := mmod [] b.queues q fun l => l.drop n, queueClock := mmod [] b.queueClock q fun l => l.drop n }

/-- The clocks of the entries of a block's queue. -/
def queueClocks (s : State) (c : Nat) (g : Gang) (q : Nat) : List (TMap Nat) :=
  if q < 6 then [] else ((s.blockOf? c g).map fun b => mget [] b.queueClock q).getD []

/-- LDQ (R273, R274). -/
def doLdq (f : AForm) (s : State) : State :=
  userOp s fun g =>
    let e := execLanes s g f.g
    let c := s.cur.core
    let n := countLanes e
    if e = 0 then retireWith s id
    else if f.a = 0 ∨ f.a = 2 then queueError s e 0x02 f.a
    else if 16 < n then queueError s e 0x03 f.a
    else
      let es := queueOf s c g f.a
      if es.length < n then
        s.putCur (((g.advance (groupLanes s g &&& ~~~e) s.cur.next).park s (.ldq f) e .qempty 0).chargeOnce s)
      else
        let pk := f.mod.getLsbD 0
        let cs := if pk then [] else queueClocks s c g f.a
        let s1 := retireWith s fun y => y.mapLanes e fun l x =>
          let i := countLanes (e &&& (laneBit l - 1))
          (x.wv f.d (es.getD i 0)).learn (cs.getD i [])
        if pk then s1 else popQueue s1 c s.cur.gang g f.a n

/-- LDQ. -/
def execLdq (f : AForm) (s : State) : Result := .next (doLdq f s)

/-- STQ (R273, R274). -/
def doStq (f : AForm) (s : State) : State :=
  userOp s fun g =>
    let e := execLanes s g f.g
    let c := s.cur.core
    let n := countLanes e
    if e = 0 then retireWith s id
    else if f.d < 6 then queueError s e 0x01 f.d
    else if 16 < n then queueError s e 0x03 f.d
    else if 16 < (queueOf s c g f.d).length + n then
      s.putCur (((g.advance (groupLanes s g &&& ~~~e) s.cur.next).park s (.stq f) e .qfull 0).chargeOnce s)
    else
      let s1 := retireWith s fun y => y.mapLanes e fun _ x => x.tick
      match g.block with
      | none => s1
      | some u => s1.modBlock c u fun b =>
          { b with
            queues := mmod [] b.queues f.d fun l => l ++ (lanesOf e).map fun i => (g.lane i).rv f.a
            queueClock := mmod [] b.queueClock f.d fun l => l ++ (lanesOf e).map fun i => (g.lane i).clock }

/-- STQ. -/
def execStq (f : AForm) (s : State) : Result := .next (doStq f s)

/-- LDQ_WAKE (R273): an LDQ that waited is issued again. -/
def execLdqWake (it : AtItem) (s : State) : Result :=
  .next (wake s it false fun i t => match i with | .ldq f => some (doLdq f t) | _ => none)

/-- STQ_WAKE (R273): an STQ that waited is issued again. -/
def execStqWake (it : AtItem) (s : State) : Result :=
  .next (wake s it false fun i t => match i with | .stq f => some (doStq f t) | _ => none)

/-! ### COPY and COPYG as issued (R275, R277, R279, R280) -/

/-- The shape of an engine command of the copy and fabric engines: collective, its .sw first, no check at the instruction. -/
def engineOp (s : State) (gd : Guard) (sw : Gang → Gang) (cmd : Gang → Mask → EngCmd) : State :=
  collectiveOp s gd fun g e => retireWith s fun x => (sw x).addCmd (cmd (sw g) e)

/-- Whether a copy command goes out (R279). -/
def EngCmd.out (m : EngCmd) : Bool := m.ext.getLsbD 1
/-- Whether a copy or bulk command asks for a token. -/
def EngCmd.done (m : EngCmd) : Bool := m.ext.getLsbD 0

/-- The positions of one slab of a COPYG (R280). -/
def slabCount (h : Shape) : Nat := h.count (h.rankOf - 1)

/-- The number of elements of a copy command: 0 with RANK 0 (R278). -/
def copyCount (m : EngCmd) : Nat :=
  let h := m.shape
  if h.rankOf = 0 then 0
  else if m.kind == .copyg then slabCount h * m.words.length
  else h.count h.rankOf

/-- Element `p` of a copy command (R279, R280). -/
def copyElem (m : EngCmd) (p : Nat) : Elem :=
  let h := m.shape
  let w := elemWidth h.ty
  let sides : Option (W64 × Bool) × (W64 × Bool) :=
    if m.kind == .copyg then
      let n := slabCount h
      let (l, ix) := m.words.getD (p / n) (0, 0)
      let slab := (n * w / 8 + (if n * w % 8 = 0 then 0 else 1) + 63) / 64 * 64
      let last := h.rankOf - 1
      let inside := decide (0 ≤ ix.toInt) && decide (ix.toInt < (h.extOf last : Int))
      (if inside then some (h.strided w (h.posIdx last (p % n) ++ [ix.toNat])) else none,
        denseAt (m.addr + BitVec.ofNat 64 (l * slab)) w (p % n))
    else (some (h.strided w (h.posIdx h.rankOf p)), denseAt m.addr w p)
  if m.out then { src := if sides.1.isSome then some sides.2 else none, dst := sides.1 }
  else { src := sides.1, dst := some sides.2 }

/-- The rows that a copy command fills from its element `n` on (R269): those of its scratchpad destinations within the window. -/
def copyRowsFrom (s : State) (c : Nat) (g : Gang) (m : EngCmd) (n : Nat) : List Nat :=
  ((List.range (copyCount m - n)).flatMap fun p =>
    match (copyElem m (n + p)).dst with
    | some (ea, _) =>
      let n := max 1 (elemWidth m.shape.ty / 8)
      if (windowFault (gangWindow s c g) ea n).isNone then windowRows s c g ea n else []
    | none => []).eraseDups

/-- The rows that a copy command fills (R269). -/
def copyRows (s : State) (c : Nat) (g : Gang) (m : EngCmd) : List Nat := copyRowsFrom s c g m 0

/-- The fills of an owner end in the rows whose last byte it has written: those that nothing still to come writes (R269). -/
def Core.rowsWritten (k : Core) (owner : Nat) (rest : List Nat) : Core :=
  { k with fills := updAll (fun f => f.owner == owner && !rest.contains f.row) (fun f => { f with done := true }) k.fills }

/-- A copy command as its instruction forms it. -/
def copyCmd (s : State) (f : CForm) (kind : CmdKind) (g : Gang) (e : Mask) : EngCmd :=
  let m : EngCmd := { EngCmd.blank s g e kind with
    ext := f.ext, addr := (g.lane (lowLane e)).rx f.a, shape := g.hActive 0
    words := if kind = CmdKind.copyg then (lanesOf e).map fun l => (l, (g.lane l).rv f.b) else [] }
  { m with rows := copyRows s s.cur.core g m }

/-- COPY (R279). -/
def execCopy (f : CForm) (s : State) : Result := .next (engineOp s f.g (fun g => g.sw f.mod 0) (copyCmd s f .copy))
/-- COPYG (R280). -/
def execCopyg (f : CForm) (s : State) : Result := .next (engineOp s f.g (fun g => g.sw f.mod 0) (copyCmd s f .copyg))

/-! ### Running copy commands (R277, R281) -/

/-- The next step of a copy command that has moved `m.imm` elements. The last waits for its writes to other packages. -/
def copyStep (s : State) (c slot : Nat) (m : EngCmd) : EngStep :=
  match s.gang? c slot with
  | none => .last
  | some g =>
    if m.imm < copyCount m then
      moveElem s c slot (g.laneOf m.party.uid) g m .copy (elemWidth m.shape.ty) (copyElem m m.imm)
    else if engAwaits s c slot .copy then .wait .l2miss
    else .last

/-- How a copy command's run ends for now. -/
inductive CopyEnd where
  | pause
  | failed (code : BitVec 8) (infos : List W64)
  | finished
deriving DecidableEq, Repr

/-- Move elements until the command must wait, fails or is complete. -/
def copyRun (fuel : Nat) (s : State) (c slot : Nat) (m : EngCmd) : State × EngCmd × CopyEnd :=
  match fuel with
  | 0 => (s, m, .pause)
  | k + 1 =>
    match copyStep s c slot m with
    | .go t => copyRun k t c slot { m with imm := m.imm + 1 }
    | .last => (s, m, .finished)
    | .fault code infos => (s, m, .failed code infos)
    | .ask lane pa n => (engAsk s c slot (((s.gang? c slot).map fun g => g.tenant).getD 0) lane pa n, m, .pause)
    | _ => (s, m, .pause)

/-- The bytes that a copy command moved. -/
def copyBytes (m : EngCmd) : Nat := (copyCount m * elemWidth m.shape.ty + 7) / 8

/-- The token of a copy command (R281). -/
def copyToken (m : EngCmd) : Nat := (if m.kind == .copyg then 2 else 1) + bitsOf m.ext 2 12 * 16

/-- The head of a core's copy engine, if it is the head of this gang's q2; one that has started goes on through a save
(R291). -/
def copyHead (s : State) (c slot : Nat) : Option EngCmd :=
  match s.gang? c slot with
  | none => none
  | some g =>
    match g.q2 with
    | m :: _ =>
      if headStamp (s.core c) (fun x => x.q2) = some m.stamp ∧ (s.core c).mayStart g m then some m else none
    | [] => none

/-- A command that is complete (R269, R281, R302): its fills, its energy and its token. -/
def copyDone (s : State) (c slot : Nat) (m : EngCmd) : State :=
  let ctx := ((s.gang? c slot).map fun g => g.ctx).getD 0
  let s1 := s.modCore c fun k => (k.doneFills m.stamp).addEnergy ctx 7 (4 * ((copyBytes m + 63) / 64))
  if m.done then pushToken s1 c slot 3 (copyToken m) else s1

/-- Run the head of a gang's q2 when it is of the right kind (R277, R281). -/
def runCopyHead (at_ : AtGang) (kind : CmdKind) (s : State) : State :=
  match copyHead s at_.core at_.gang with
  | none => s
  | some m =>
    if m.kind != kind then s
    else
      let r := copyRun (copyCount m + 1) s at_.core at_.gang m
      let setHead (t : State) (ms : List EngCmd) : State :=
        t.modGang at_.core at_.gang fun g => { g with q2 := ms ++ g.q2.drop 1 }
      match r.2.2 with
      | .pause =>
        let rest := match r.1.gang? at_.core at_.gang with | some g => copyRowsFrom r.1 at_.core g m r.2.1.imm | none => []
        (setHead r.1 [r.2.1]).modCore at_.core fun k => k.rowsWritten m.stamp rest
      | .failed code infos =>
        reapGang (deferFault ((setHead r.1 []).modCore at_.core fun k => k.endFills m.stamp) at_.core at_.gang 2 code infos)
          at_.core at_.gang
      | .finished => reapGang (copyDone (setHead r.1 []) at_.core at_.gang m) at_.core at_.gang

/-- COPY_CMD (R279, R281). -/
def execCopyCmd (at_ : AtGang) (s : State) : Result := .next (runCopyHead at_ .copy s)
/-- COPYG_CMD (R280, R281). -/
def execCopygCmd (at_ : AtGang) (s : State) : Result := .next (runCopyHead at_ .copyg s)

end Sys2Proof.Machine
end

