-- ==== Sys2Proof/Machine/Sequencer.lean ====
section
/-! DEFINITION. The sequencer: the commands that a body generates, their checks and their run (R262 to R266). -/

namespace Sys2Proof.Machine

/-- The body of a run. -/
def seqBody (s : State) (g : Gang) (q : SeqPos) : List Byte := (bodyOf s g q.body).getD []

/-- The iteration vector's sum with a level's strides. -/
def strideSum (iter : List Nat) (st : Nat → Int) : Int :=
  (List.range 6).foldl (fun (t : Int) (k : Nat) => t + (iter.getD k 0 : Nat) * st k) 0

/-- Whether an entry's masks let it run in an iteration (R263). -/
def SeqEntry.active (e : SeqEntry) (body : List Byte) (iter : List Nat) : Bool :=
  (List.range 6).all fun k =>
    (!e.firstMask.testBit k || iter.getD k 0 == 0) && (!e.lastMask.testBit k || iter.getD k 0 + 1 == seqExtent body k)

/-- The next iteration vector, i0 fastest; none after the last. -/
def nextIter (body : List Byte) (iter : List Nat) (k : Nat) (fuel : Nat) : Option (List Nat) :=
  match fuel with
  | 0 => none
  | f + 1 =>
    if iter.getD k 0 + 1 < max 1 (seqExtent body k) then some (iter.set k (iter.getD k 0 + 1))
    else nextIter body (iter.set k 0) (k + 1) f

/-- The position after one entry; none at the end of the run (R263). -/
def SeqPos.advance (q : SeqPos) (body : List Byte) : Option SeqPos :=
  if q.entry + 1 < seqCount body then some { q with entry := q.entry + 1 }
  else (nextIter body q.iter 0 6).map fun i => { q with iter := i, entry := 0 }

/-- A shape of the snapshot with its origins moved (R263). -/
def seqShape (h : Shape) (e : SeqEntry) (iter : List Nat) : Shape :=
  let o (n : Nat) : W32 := BitVec.ofInt 32 (h.originOf n + strideSum iter fun k => e.originStride k n)
  { h with origin := mset (mset h.origin 0 (o 0)) 1 (o 1) }

/-- The command that an entry forms in an iteration (R263), and whether a field is out of range (R264). -/
def seqForm (s : State) (c : Nat) (g : Gang) (m : EngCmd) (q : SeqPos) : Option (EngCmd × Bool) :=
  let body := seqBody s g q
  let e := seqEntry body q.entry
  let b := s.blockOf? c g
  let vals := mget [] q.vals q.entry
  let val (l : Nat) : W64 := mget 0 vals l
  let fld (v f : Nat) : Int := v + strideSum q.iter fun k => e.fieldStride k f
  let oMax : Int := ((b.map fun x => x.oCount).getD 0 : Nat)
  let accMax : Int := ((b.map fun x => x.accCount).getD 0 : Nat)
  let within (v n : Int) : Bool := decide (0 ≤ v) && decide (v < n)
  let base : EngCmd := { m with seq := none, rows := [], imm := 0 }
  let addr (l : Nat) : W64 := m.addr + val l + BitVec.ofInt 64 (strideSum q.iter e.addrStride)
  let product (f : CForm) (kind : CmdKind) : EngCmd × Bool :=
    let ok := within (fld f.d 0) accMax && within (fld f.a 1) oMax && (kind == .mmag || within (fld f.b 2) oMax)
    ({ base with
        kind := kind, ty := f.ty, mod := f.mod, d := (fld f.d 0).toNat, a := (fld f.a 1).toNat, b := (fld f.b 2).toNat
        ext := f.ext, word := (val (if kind == .mmag then 8 else 0)).setWidth 32
        words := (List.range 8).map fun l => (l, (val l).setWidth 32)
        imm := 4 * (f.ext.toNat + (if kind == .mmas then mget 0 q.mmas q.entry else 0)), shape := seqShape q.h1 e q.iter }, !ok)
  let copy (f : CForm) (kind : CmdKind) : EngCmd × Bool :=
    ({ base with
        kind := kind, ext := f.ext, addr := addr 32, shape := seqShape q.h0 e q.iter
        words := (vals.filter fun (p : Nat × W64) => p.1 < 32).map fun (p : Nat × W64) => (p.1, p.2.setWidth 32) }, false)
  match e.instr with
  | some (.oload f) =>
    some ({ base with kind := .oload, ty := f.ty, mod := f.mod, d := (fld f.d 0).toNat, ext := f.ext
                      shape := seqShape q.h1 e q.iter }, !within (fld f.d 0) oMax)
  | some (.mma f) => some (product f .mma)
  | some (.mmas f) => some (product f .mmas)
  | some (.mmag f) => some (product f .mmag)
  | some (.accz f) =>
    some ({ base with kind := .accz, imm := bitsOf f.imm 0 4 },
      decide (2 ^ ((b.map fun x => x.accCount).getD 0) ≤ bitsOf f.imm 0 4))
  | some (.actlut f) => some ({ base with kind := .actlut, a := (fld f.a 1).toNat }, !within (fld f.a 1) oMax)
  | some (.copy f) => some (copy f .copy)
  | some (.copyg f) => some (copy f .copyg)
  | _ => none

/-- The words of a SEQE (R264). -/
def seqInfos (m : EngCmd) (q : SeqPos) (sub : Nat) : List W64 :=
  let i (k : Nat) : Nat := q.iter.getD k 0 % 65536
  [m.pc, BitVec.ofNat 64 (i 0 + 2 ^ 16 * i 1 + 2 ^ 32 * i 2 + 2 ^ 48 * i 3),
    BitVec.ofNat 64 (i 4 + 2 ^ 16 * i 5 + 2 ^ 32 * q.entry + 2 ^ 40 * sub)]

/-- The rows that a generated command fills. -/
def generatedRows (s : State) (c : Nat) (g : Gang) (m : EngCmd) : List Nat :=
  if m.kind == .copy || m.kind == .copyg then copyRows s c g m else matrixRows s c g m

/-- The rows that the commands of a run fill from a position on (R269): their fills begin at the SEQRUN's commit
(log entry 53). -/
def seqRows (fuel : Nat) (s : State) (c : Nat) (g : Gang) (m : EngCmd) (q : SeqPos) : List Nat :=
  match fuel with
  | 0 => []
  | k + 1 =>
    let body := seqBody s g q
    let e := seqEntry body q.entry
    let here := if e.active body q.iter then
        match seqForm s c g m q with
        | some (x, false) => generatedRows s c g x
        | _ => []
      else []
    let q1 := { q with mmas := mset q.mmas q.entry (mget 0 q.mmas q.entry + 1) }
    match q1.advance body with
    | some r => (here ++ seqRows k s c g m r).eraseDups
    | none => here

/-- The positions of a whole run. -/
def seqTotal (body : List Byte) : Nat :=
  seqCount body * (List.range 6).foldl (fun n k => n * max 1 (seqExtent body k)) 1

/-- SEQRUN (R263): the snapshot becomes one entry of q0. -/
def execSeqrun (f : IForm) (s : State) : Result :=
  .next (collectiveOp s f.g fun g e =>
    if g.isFree then takeTrap s tcOSLOT (lowLane e) [0x01, 0, 0]
    else
      let q := seqSnapshot s g e f.imm.toNat
      let m : EngCmd := { EngCmd.blank s g e .seqrun with addr := (g.lane (lowLane e)).rx f.a, seq := some q }
      retireWith s fun x => x.addCmd { m with rows := seqRows (seqTotal (seqBody s g q)) s s.cur.core g m q })

/-- What a sequencer run can do next. -/
inductive SeqStep where
  | wait (c : Cause)
  | walk (va : W64)
  | fault (code : BitVec 8) (infos : List W64)
  | go (s : State) (imm : Nat) (finished : Bool)
deriving DecidableEq, Repr

/-- A fault of a generated copy (R264): what an address check finds is a SEQE. -/
def seqCopyFault (m : EngCmd) (q : SeqPos) (code : BitVec 8) (infos : List W64) : SeqStep :=
  if code = tcPROT ∨ code = tcPF ∨ code = tcWIN then .fault tcSEQE (seqInfos m q (bitsOf (infos.getD 2 0) 8 8))
  else .fault code infos

/-- Run a generated copy from where it stands (R263, R281). -/
def seqCopy (s : State) (c slot : Nat) (m : EngCmd) (q : SeqPos) (x : EngCmd) : SeqStep :=
  match copyStep s c slot x with
  | .wait cause => .wait cause
  | .walk va => .walk va
  | .fault code infos => seqCopyFault m q code infos
  | _ =>
    let r := copyRun (copyCount x + 1) s c slot x
    match r.2.2 with
    | .pause => .go r.1 r.2.1.imm false
    | .failed code infos =>
      if r.2.1.imm = m.imm then seqCopyFault m q code infos else .go r.1 r.2.1.imm false
    | .finished =>
      let ctx := ((s.gang? c slot).map fun g => g.ctx).getD 0
      let t := r.1.modCore c fun k => k.addEnergy ctx 7 (4 * ((copyBytes x + 63) / 64))
      .go (if x.done then pushToken t c slot 3 (copyToken x) else t) 0 true

/-- The rows that the run will not fill again have their fills done (R269); `rest` are those that the position itself still fills. -/
def seqRowsDone (s : State) (c slot : Nat) (m : EngCmd) (q : SeqPos) (rest : List Nat) : State :=
  match s.gang? c slot with
  | none => s
  | some g =>
    let body := seqBody s g q
    let later := match q.advance body with
      | some r => seqRows (seqTotal body) s c g m r
      | none => []
    s.modCore c fun k => k.rowsWritten m.stamp (rest ++ later)

/-- The step of one position of a run (R263, R264). -/
def seqStep (s : State) (c slot : Nat) (m : EngCmd) (q : SeqPos) : SeqStep :=
  match s.gang? c slot with
  | none => .go s 0 true
  | some g =>
    if !(seqEntry (seqBody s g q) q.entry).active (seqBody s g q) q.iter then .go s 0 true
    else
      match seqForm s c g m q with
      | none => .go s 0 true
      | some (_, true) => .fault tcSEQE (seqInfos m q 0x09)
      | some (x, false) =>
        if x.kind == .copy || x.kind == .copyg then
          match seqCopy s c slot m q { x with imm := m.imm, addr2 := m.addr2 } with
          | .go t n true => .go (seqRowsDone t c slot m q []) n true
          | .go t n false => .go (seqRowsDone t c slot m q (copyRowsFrom t c g x n)) n false
          | o => o
        else
          match matrixCheck s c g x with
          | some f => .fault tcSEQE (seqInfos m q f.sub)
          | none =>
            match matrixWait s c g x with
            | some cause => .wait cause
            | none =>
              let rows := if x.kind == .oload then oloadRows s c g x else []
              if (s.expiredAt c rows).isSome then .fault tcNEXP [m.pc, 0, 0]
              else .go (seqRowsDone (runMatrix s c slot { x with stamp := 0 }) c slot m q []) 0 true

/-- The run after a finished position: the next one, or the end (R263). -/
def seqNext (s : State) (c slot : Nat) (m : EngCmd) (q : SeqPos) : State :=
  match s.gang? c slot with
  | none => s
  | some g =>
    let ran := (seqEntry (seqBody s g q) q.entry).active (seqBody s g q) q.iter
    let q1 := if ran then { q with mmas := mset q.mmas q.entry (mget 0 q.mmas q.entry + 1) } else q
    match q1.advance (seqBody s g q) with
    | some r => s.setGang c slot { g with q0 := { m with seq := some r, imm := 0, addr2 := 0 } :: g.q0.drop 1 }
    | none =>
      reapGang ((s.setGang c slot { g with q0 := g.q0.drop 1 }).modCore c fun k => k.doneFills m.stamp) c slot

/-- The run at the head of the matrix engine, if this gang's q0 holds it. -/
def seqHead (s : State) (c slot : Nat) : Option (EngCmd × SeqPos) :=
  match matrixHead s c slot with
  | some m => match m.seq with
    | some q => if m.kind == .seqrun then some (m, q) else none
    | none => none
  | none => none

/-- SEQUENCER_RUN (R263): one position of the run at the engine's head. -/
def execSequencerRun (at_ : AtGang) (s : State) : Result :=
  .next (match seqHead s at_.core at_.gang with
    | none => s
    | some (m, q) =>
      match seqStep s at_.core at_.gang m q with
      | .go t _ true => seqNext t at_.core at_.gang m q
      | .go t n false => t.modGang at_.core at_.gang fun g => { g with q0 := { m with imm := n } :: g.q0.drop 1 }
      | .fault code infos =>
        let s1 := s.modGang at_.core at_.gang fun g => { g with q0 := g.q0.drop 1 }
        reapGang (deferFault (s1.modCore at_.core fun k => k.endFills m.stamp) at_.core at_.gang 1 code infos) at_.core at_.gang
      | _ => s)

end Sys2Proof.Machine
end

