-- ==== Sys2Proof/Machine/Fen.lean ====
section
/-! DEFINITION. The fen: name spaces, publish records, routes, rendezvous, relays and tarns (R359 to R368, R428). -/

namespace Sys2Proof.Machine

/-! ### Name spaces (R282, R359) -/

/-- A name-space descriptor (R359). -/
structure NameDesc where
  fmt : Nat
  rank : Nat
  life : Nat
  keep : Nat
  ext : List Nat
  tile : List Nat
  pubrec : Nat
deriving DecidableEq, Repr

/-- The elements of a tile. -/
def NameDesc.elems (d : NameDesc) : Nat := ((d.tile.take d.rank).foldl (fun n t => n * t) 1)
/-- The tiles of a space. -/
def NameDesc.tiles (d : NameDesc) : Nat :=
  (List.range d.rank).foldl (fun n k => n * (d.ext.getD k 1 / max 1 (d.tile.getD k 1))) 1
/-- The bytes of a tile. -/
def NameDesc.bytes (d : NameDesc) : Nat := (d.elems * elemWidth (tyOf d.fmt) + 7) / 8

/-- Whether a descriptor is one that a loader writes; any other reads as absent (R359). -/
def NameDesc.valid (d : NameDesc) : Bool :=
  0 < d.rank && d.rank ≤ 6 && d.fmt < 15 && d.tiles < 2 ^ 36 && d.bytes ≤ 2 ^ 18
    && (List.range d.rank).all fun k => decide (d.tile.getD k 0 ≠ 0) && decide (d.ext.getD k 0 % d.tile.getD k 1 = 0)

/-- The descriptor of a name space of a tenant (R352, R359). -/
def nameDesc (s : State) (tenant space : Nat) : Option NameDesc :=
  let at_ := memNat s.mem ((s.tenant tenant).desc + 8) 8 + 64 * space
  let n (off k : Nat) : Nat := memNat s.mem (at_ + off) k
  let d : NameDesc :=
    { fmt := n 0 1, rank := n 1 1, life := n 2 2, keep := n 4 4, ext := (List.range 6).map fun i => n (8 + 4 * i) 4
      tile := (List.range 6).map fun i => n (32 + 4 * i) 4, pubrec := n 56 8 }
  if d.valid then some d else none

/-- The space of a name (R359). -/
def nameSpace (name : W64) : Nat := bitsOf name 52 12
/-- The tile index of a name. -/
def nameTile (name : W64) : Nat := bitsOf name 16 36
/-- The iteration of a name. -/
def nameIter (name : W64) : Nat := bitsOf name 0 16

/-- The ticks of a number of units of 1.024 µs, rounded up to a tick boundary (R284; log entry 54). -/
def unitTicks (n : Nat) : Nat := (1024 * n + 999) / 1000

/-! ### Publish records (R360) -/

/-- The address of a name's publish record. -/
def pubAddr (d : NameDesc) (name : W64) : Nat := d.pubrec + 4 * nameTile name

/-- Whether a publish of a name would be new (R360). -/
def isNew (s : State) (d : NameDesc) (name : W64) : Bool :=
  let r : W64 := BitVec.ofNat 64 (s.rd (pubAddr d name) 4)
  let diff := (nameIter name + 65536 - bitsOf r 0 16) % 65536
  !r.getLsbD 16 || (decide (1 ≤ diff) && decide (diff ≤ 32767))

/-- Whether a name is the last published iteration of its tile. -/
def isLast (s : State) (d : NameDesc) (name : W64) : Bool :=
  let r : W64 := BitVec.ofNat 64 (s.rd (pubAddr d name) 4)
  r.getLsbD 16 && bitsOf r 0 16 == nameIter name

/-! ### Routes (R361, R489) -/

/-- The address of a routing entry (R361). -/
def routeAddr (s : State) (tenant space : Nat) : Nat := memNat s.mem ((s.tenant tenant).desc + 16) 8 + 8 * space

/-- The route of a space: package and die; none when it is clear, or names no package of the fabric or a lost one (R489). -/
def routeOf (s : State) (tenant space : Nat) : Option (Nat × Nat) :=
  let r : W64 := BitVec.ofNat 64 (s.rd (routeAddr s tenant space) 8)
  if r.getLsbD 0 && s.namesPkg (bitsOf r 1 4) && s.live.getLsbD (bitsOf r 1 4) then some (bitsOf r 1 4, bitsOf r 5 2) else none

/-- Whether a routing entry is set at all. -/
def routeSet (s : State) (tenant space : Nat) : Bool := s.rd (routeAddr s tenant space) 8 % 2 == 1

/-! ### Holders (R362 to R364) -/

/-- The slice of a name's rendezvous (R362). -/
def rendezvousSlice (name : W64) : Nat :=
  (List.range 7).foldl (fun n i => n ^^^ bitsOf name (16 + 7 * i) (min 7 (48 - 7 * i))) 0

/-- The holder that an interest of a core on a die meets first (R364). -/
def firstHolder (s : State) (tenant die : Nat) (name : W64) : Holder :=
  match routeOf s tenant (nameSpace name) with
  | some (p, d) => if p = s.self ∧ d = die then .rendezvous die (rendezvousSlice name) else .dieRelay die
  | none => .dieRelay die

/-- The holder to which a holder of this package sends an interest on; none while there is no route (R364). -/
def nextHolder (s : State) (tenant : Nat) (name : W64) (h : Holder) : Option Holder :=
  match h, routeOf s tenant (nameSpace name) with
  | .rendezvous _ _, _ => none
  | _, none => none
  | .dieRelay _, some (p, d) => some (if p = s.self then .rendezvous d (rendezvousSlice name) else .pkgRelay s.self)
  | .pkgRelay _, some (p, d) => some (if p = s.self then .rendezvous d (rendezvousSlice name) else .pkgRelay p)

/-- Send an interest on: within the package to its next holder, else as a packet (R486). -/
def sendInterest (s : State) (tenant : Nat) (name : W64) (h : Holder) (face : Face) (until_ : Nat) : State :=
  match h with
  | .pkgRelay p =>
    if p = s.self then s.push (.interestArrival { holder := h, tenant := tenant, name := name, face := face, until_ := until_ })
    else s.send { Packet.blank with dst := p, tenant := tenant, op := pkInterest, name := name, until_ := until_ - s.ticks }
  | _ => s.push (.interestArrival { holder := h, tenant := tenant, name := name, face := face, until_ := until_ })

/-- The fen entry of a holder for a name (log entry 55). -/
def fenEntry (s : State) (h : Holder) (tenant : Nat) (name : W64) : Option FenEntry :=
  s.fen.find? fun e => e.holder == h && e.tenant == tenant && e.name == name

/-- Apply `f` to the entry of a holder for a name. -/
def modEntryOf (s : State) (h : Holder) (tenant : Nat) (name : W64) (f : FenEntry → FenEntry) : State :=
  { s with fen := updFirst (fun e => e.holder == h && e.tenant == tenant && e.name == name) f s.fen }

/-! ### Copies of tiles (R365, R367) -/

/-- Send a copy of a tile along a face. -/
def sendCopy (s : State) (tenant : Nat) (name : W64) (pubseq : Nat) (bytes : List Byte) (clock : TMap Nat) (f : Face) : State :=
  match f with
  | .consumer c => s.push (.namedArrival { consumer := c, tenant := tenant, name := name, bytes := bytes, clock := clock })
  | .relay h =>
    match h with
    | .pkgRelay p =>
      if p = s.self then
        s.push (.tileForward { holder := h, tenant := tenant, name := name, pubseq := pubseq, bytes := bytes, clock := clock })
      else s.send { Packet.blank with dst := p, tenant := tenant, op := pkTile, name := name, tag := pubseq, data := bytes }
    | _ => s.push (.tileForward { holder := h, tenant := tenant, name := name, pubseq := pubseq, bytes := bytes, clock := clock })
  | .prefetch launch =>
    let hold (t : Tarn) : Tarn := { t with holds := (launch :: t.holds).eraseDups }
    s.mapDies fun d => { d with tarns := updAll (fun (t : Tarn) => t.tenant == tenant && t.name == name) hold d.tarns }

/-- Send the copies of a holder's entry along its faces and remove them; a held face keeps its copy (R365, R367, R368). -/
def serveFaces (s : State) (h : Holder) (tenant : Nat) (name : W64) (pubseq : Nat) (bytes : List Byte) (clock : TMap Nat) : State :=
  match fenEntry s h tenant name with
  | none => s
  | some e =>
    let live (f : Face × Nat × Bool) : Bool := match f.1 with | .prefetch _ => decide (s.ticks < f.2.1) | _ => true
    let fresh := e.faces.filter fun f => !(e.forwarded.contains (f.1, pubseq)) && live f
    let now := fresh.filter fun f => !f.2.2
    let held := (fresh.filter fun f => f.2.2).filterMap fun f =>
      match f.1 with | .consumer c => some (c.serial.toNat, bytes, clock) | _ => none
    let s1 := now.foldl (fun t f => sendCopy t tenant name pubseq bytes clock f.1) s
    modEntryOf s1 h tenant name fun x =>
      { x with faces := x.faces.filter fun f => f.2.2, sentUntil := 0, held := x.held ++ held
               forwarded := x.forwarded ++ now.map fun f => (f.1, pubseq) }

/-! ### Tarns (R366, R428) -/

/-- The bytes that a tile takes in its tarn. -/
def tarnBytes (n : Nat) : Nat := 512 * ((n + 511) / 512)

/-- The bytes of a tenant's tiles on a die. -/
def tarnUsed (d : Die) (tenant : Nat) : Nat :=
  (d.tarns.filter fun t => t.tenant == tenant).foldl (fun n t => n + tarnBytes t.bytes.length) 0

/-- Whether a tile's home entry has a face whose copy is still to be sent: a held one (R366, R368). -/
def State.unsent (s : State) (t : Tarn) : Bool :=
  match fenEntry s (.rendezvous t.die t.slice) t.tenant t.name with | some e => e.held != [] | none => false

/-- The tile to evict: the least recently used whose keep time has run out, else the least recently used (R366). -/
def evictee (unsent : Tarn → Bool) (d : Die) (tenant now : Nat) : Option Tarn :=
  let mine := d.tarns.filter fun t => t.tenant == tenant && !unsent t && t.holds == []
  let past := mine.filter fun t => t.keepUntil ≤ now
  (if past = [] then mine else past).foldl (fun (o : Option Tarn) t => match o with
    | some u => if t.lastUse < u.lastUse then some t else o
    | none => some t) none

/-- Store a tile within the tenant's quota, evicting as R366 gives; one that does not fit is not stored. -/
def storeTile (unsent : Tarn → Bool) (fuel : Nat) (d : Die) (quota now : Nat) (t : Tarn) : Die :=
  if tarnUsed d t.tenant + tarnBytes t.bytes.length ≤ quota then { d with tarns := d.tarns ++ [t] }
  else match fuel with
  | 0 => d
  | k + 1 =>
    match evictee unsent d t.tenant now with
    | some v => storeTile unsent k { d with tarns := d.tarns.erase v } quota now t
    | none => d

/-- The tarn quota of a tenant per die (R352). -/
def tarnQuota (s : State) (tenant : Nat) : Nat := memNat s.mem ((s.tenant tenant).desc + 24) 4

/-- Publish a new tile at its rendezvous on this package (R365). -/
def publish (s : State) (d : NameDesc) (die tenant : Nat) (name : W64) (bytes : List Byte) (clock : TMap Nat) : State :=
  let sl := rendezvousSlice name
  let (seq, s1) := s.fresh
  let s2 := s1.wr (pubAddr d name) 4 (nameIter name + 65536)
  let tile : Tarn := { die := die, slice := sl, tenant := tenant, name := name, bytes := bytes, clock := clock
                       keepUntil := if d.keep = 0 then 2 ^ 64 else s.ticks + unitTicks d.keep
                       lastUse := seq, holds := [] }
  let s3 := s2.modDie die fun k => storeTile s.unsent k.tarns.length k (tarnQuota s tenant) s.ticks tile
  serveFaces s3 (.rendezvous die sl) tenant name seq bytes clock

/-- The tile of a name in its rendezvous tarn, when an interest is answered from it (R364, R366). -/
def tarnTile (s : State) (die tenant : Nat) (name : W64) : Option Tarn :=
  match nameDesc s tenant (nameSpace name) with
  | none => none
  | some d =>
    if isLast s d name then (s.die die).tarns.find? fun t => t.tenant == tenant && t.name == name else none

/-! ### Interests (R364) -/

/-- A face joins an entry, with the longer lifetime. -/
def FenEntry.join (e : FenEntry) (f : Face) (until_ : Nat) : FenEntry :=
  if e.faces.any fun x => x.1 == f then
    { e with faces := updAll (fun x => x.1 == f) (fun x => (x.1, max x.2.1 until_, x.2.2)) e.faces }
  else { e with faces := e.faces ++ [(f, until_, false)] }

/-- Send an entry's interest on when a face outlives what was sent (R364). -/
def forwardEntry (s : State) (h : Holder) (tenant : Nat) (name : W64) : State :=
  match fenEntry s h tenant name with
  | none => s
  | some e =>
    let longest := e.faces.foldl (fun n f => max n f.2.1) 0
    match nextHolder s tenant name h with
    | none => s
    | some n =>
      if longest ≤ e.sentUntil then s
      else modEntryOf (sendInterest s tenant name n (.relay h) longest) h tenant name fun x => { x with sentUntil := longest }

/-- Whether a holder, which has room for at least one entry, has none for a further one (R364; log entry 55). -/
def holderFull (s : State) (h : Holder) : Bool := decide (Config.holderRoom h < (s.fen.filter fun e => e.holder == h).length)

/-- A holder refuses an interest (R364): a consumer's engine sends it again 1 µs later; a relay takes what it has sent on as not sent, and
refuses its own faces. -/
def refuseFace (fuel : Nat) (s : State) (tenant : Nat) (name : W64) (f : Face) : State :=
  match f with
  | .consumer c => s.modGang c.core c.gang fun g =>
      let i := mget Interest.none g.interests c.slot
      if i.state == .pending && i.serial == c.serial then
        { g with interests := mset g.interests c.slot { i with refused := some (s.ticks + 1) } }
      else g
  | .prefetch _ => s
  | .relay h =>
    match fuel with
    | 0 => s
    | k + 1 =>
      let back (t : State) : State := match fenEntry t h tenant name with
        | none => t
        | some e => e.faces.foldl (fun u q => refuseFace k u tenant name q.1) (modEntryOf t h tenant name fun x => { x with sentUntil := 0 })
      match h with
      | .pkgRelay p =>
        if p = s.self then back s
        else s.send { Packet.blank with dst := p, response := true, tenant := tenant, op := pkInterest + 16, name := name }
      | _ => back s

/-- INTEREST_ARRIVAL (R364): the tarn answers, or the entry gains a face and sends on what it must; a holder without room refuses. -/
def execInterestArrival (m : InterestMsg) (s : State) : Result :=
  .next (
    let tile := match m.holder with | .rendezvous die _ => tarnTile s die m.tenant m.name | _ => none
    match tile with
    | some t =>
      let (seq, s1) := s.fresh
      let s2 := s1.modDie t.die fun d => { d with tarns := updFirst (fun x => x == t) (fun x => { x with lastUse := seq }) d.tarns }
      sendCopy s2 m.tenant m.name seq t.bytes t.clock m.face
    | none =>
      if (fenEntry s m.holder m.tenant m.name).isNone && holderFull s m.holder then refuseFace 4 s m.tenant m.name m.face
      else
      let blank : FenEntry := { holder := m.holder, tenant := m.tenant, name := m.name, faces := [], sentUntil := 0, held := []
                                forwarded := [] }
      let s1 := if (fenEntry s m.holder m.tenant m.name).isSome then s else { s with fen := s.fen ++ [blank] }
      forwardEntry (modEntryOf s1 m.holder m.tenant m.name fun e => e.join m.face m.until_) m.holder m.tenant m.name)

/-- TILE_FORWARD (R365, R367): a relay sends a copy along each of its faces. -/
def execTileForward (m : TileMsg) (s : State) : Result :=
  .next (serveFaces s m.holder m.tenant m.name m.pubseq m.bytes m.clock)

/-- FACE_DROP (R367): a face 64 µs past its lifetime goes; an entry without faces or held copies goes with it. -/
def execFaceDrop (r : FaceRef) (s : State) : Result :=
  .next (
    let s1 := modEntryOf s r.holder r.tenant r.name fun e =>
      { e with faces := e.faces.filter fun f => !(f.1 == r.face && f.2.1 + 64 ≤ s.ticks && !f.2.2) }
    { s1 with fen := s1.fen.filter fun e =>
        !(e.holder == r.holder && e.tenant == r.tenant && e.name == r.name && e.faces == [] && e.held == []) })

/-! ### Route changes (R361, R364) -/

/-- Re-send the pending entries of this package's relays for a space after its route changed. -/
def resendSpace (s : State) (tenant space : Nat) : State :=
  (s.fen.filter fun e => e.tenant == tenant && nameSpace e.name == space).foldl (fun t e =>
    match e.holder with
    | .rendezvous _ _ => t
    | h => forwardEntry (modEntryOf t h tenant e.name fun x => { x with sentUntil := 0 }) h tenant e.name) s

/-- Write a routing entry here and tell the relays here and in every other package (R361, R486). -/
def setRoute (s : State) (tenant space : Nat) (entry : W64) (tell : Bool) : State :=
  let s1 := resendSpace (s.wr (routeAddr s tenant space) 8 entry.toNat) tenant space
  if tell then s1.peers.foldl (fun t p => t.sendMgmt p (.routeChange tenant space entry)) s1 else s1

/-- The entry that a register's route forms (R361). -/
def routeEntry (x : W64) : W64 := BitVec.ofNat 64 (bitsOf x 6 1 + bitsOf x 0 4 * 2 + bitsOf x 4 2 * 32)

/-! ### Rebinds (R368) -/

/-- The holder at which a consumer's face lies on this package. -/
def rebindFace (s : State) (m : RebindMsg) : State :=
  s.fen.foldl (fun t e =>
    if e.tenant == m.tenant && e.name == m.name && e.faces.any fun f => f.1 == .consumer m.old then
      let copies := e.held.filter fun h => h.1 == m.old.serial.toNat
      let t1 := modEntryOf t e.holder e.tenant e.name fun x =>
        { x with faces := if copies = [] then updAll (fun f => f.1 == .consumer m.old) (fun f => (.consumer m.new, f.2.1, false)) x.faces
                   else x.faces.filter fun f => f.1 != .consumer m.old
                 held := x.held.filter fun h => h.1 != m.old.serial.toNat }
      copies.foldl (fun u h => u.push (.namedArrival
        { consumer := m.new, tenant := e.tenant, name := e.name, bytes := h.2.1, clock := h.2.2 })) t1
    else t) s

/-- REBIND (R368): the face moves to where the context now runs, and held copies are delivered. -/
def execRebind (m : RebindMsg) (s : State) : Result := .next (rebindFace s m)

end Sys2Proof.Machine
end

