-- ==== Sys2Proof/Machine/Named.lean ====
section
/-! DEFINITION. The named-data engine: its instructions, its commands, arrivals and expiries (R282 to R291). -/

namespace Sys2Proof.Machine

/-! ### Tiles in scratchpad (R282) -/

/-- The index vector of element `p` of a tile. -/
def NameDesc.idx (d : NameDesc) (p : Nat) : List Nat :=
  (List.range d.rank).map fun k => p / ((d.tile.take k).foldl (fun n t => n * t) 1) % max 1 (d.tile.getD k 1)

/-- The place of element `p` of a tile under a shape, when it is in h2's extent (R282). -/
def tilePlace (d : NameDesc) (h : Shape) (p : Nat) : Option (W64 × Bool) :=
  let idx := d.idx p
  let inside := (List.range d.rank).all fun k =>
    let i := h.originOf k + (idx.getD k 0 : Nat)
    decide (0 ≤ i) && decide (i < (h.extOf k : Int))
  if inside then some (h.strided (elemWidth (tyOf d.fmt)) idx) else none

/-- The bytes that an element of a space takes. -/
def NameDesc.step (d : NameDesc) : Nat := max 1 (elemWidth (tyOf d.fmt) / 8)

/-- The row set of a tile (R282). -/
def nameRows (s : State) (c : Nat) (g : Gang) (d : NameDesc) (h : Shape) : List Nat :=
  ((List.range d.elems).flatMap fun p => match tilePlace d h p with
    | some (ea, _) => windowRows s c g ea d.step
    | none => []).eraseDups

/-! ### Checks (R283, R286) -/

/-- R283's checks of NWANT and NPUB. -/
def nameCheck (s : State) (c : Nat) (g : Gang) (name : W64) (h : Shape) (kind : Nat) : Option Failing :=
  match nameDesc s g.tenant (nameSpace name) with
  | none => some (protFail name 0x10)
  | some d =>
    if d.tiles ≤ nameTile name then some (protFail name 0x11)
    else if h.fmt.toNat ≠ d.fmt ∨ h.rankOf ≠ d.rank then some (protFail name 0x12)
    else (List.range d.elems).findSome? fun p => match tilePlace d h p with
      | some (ea, _) => (windowFault (gangWindow s c g) ea d.step).map fun sub => sideFail ea kind sub
      | none => none

/-- Whether an interest slot is Free for a further NWANT: none holds it, and none of the open region takes it (R286). -/
def slotFree (g : Gang) (n : Nat) : Bool :=
  (mget Interest.none g.interests n).state == .free && !g.region.cmds.any fun m => m.kind == .nwant && m.d == n

/-- The lifetime of an interest in ticks (R284): the low bits of a register, or the space's default when they are 0. -/
def lifetime (s : State) (tenant : Nat) (name : W64) (v : W32) : Nat :=
  let n := bitsOf v 0 16
  unitTicks (if n = 0 then ((nameDesc s tenant (nameSpace name)).map fun d => d.life).getD 0 else n)

/-! ### The instructions (R283, R286, R287, R288, R290) -/

/-- NREG (R290). -/
def execNreg (f : AForm) (s : State) : Result :=
  .next (collectiveOp s f.g fun g e =>
    let x := g.lane (lowLane e)
    let space := bitsOf (x.rv f.a) 0 12
    if (nameDesc s g.tenant space).isNone then takeTrap s tcPROT (lowLane e) [BitVec.ofNat 64 space, 0x10]
    else retireWith s fun y => y.addCmd { EngCmd.blank s g e .nreg with d := space, addr := x.rx f.b })

/-- NWANT (R284, R286). -/
def execNwant (f : CForm) (s : State) : Result :=
  .next (collectiveOp s f.g fun g e =>
    let c := s.cur.core
    let x := g.lane (lowLane e)
    let name := x.rx f.a
    let slot := bitsOf f.ext 0 5
    let h := (g.sw f.mod 2).hActive 2
    if !slotFree g slot then takeTrap s tcQERR (lowLane e) [0x04, BitVec.ofNat 64 slot, e.setWidth 64]
    else
      match nameCheck s c g name h 1 with
      | some p => takeTrap s p.code (lowLane e) p.infos
      | none =>
        let rows := match nameDesc s g.tenant (nameSpace name) with
          | some d => nameRows s c g d h
          | none => []
        let m : EngCmd := { EngCmd.blank s g e .nwant with
          d := slot, ext := f.ext, addr := name, imm := lifetime s g.tenant name (x.rv f.b), shape := h, rows := rows }
        retireWith s fun y => (y.sw f.mod 2).addCmd m)

/-- NPUB (R287). -/
def execNpub (f : CForm) (s : State) : Result :=
  .next (collectiveOp s f.g fun g e =>
    let c := s.cur.core
    let name := (g.lane (lowLane e)).rx f.a
    let h := (g.sw f.mod 2).hActive 2
    match nameCheck s c g name h 0 with
    | some p => takeTrap s p.code (lowLane e) p.infos
    | none =>
      let rows := match nameDesc s g.tenant (nameSpace name) with
        | some d => nameRows s c g d h
        | none => []
      let m : EngCmd := { EngCmd.blank s g e .npub with ext := f.ext, addr := name, shape := h, rows := rows }
      retireWith s fun y => (y.sw f.mod 2).addCmd m)

/-- NDROP (R288). -/
def execNdrop (f : AForm) (s : State) : Result :=
  .next (collectiveOp s f.g fun g e =>
    retireWith s fun y => y.addCmd { EngCmd.blank s g e .ndrop with mask := (g.lane (lowLane e)).rv f.a })

/-! ### NWAIT (R289) -/

/-- The slot that a lane of an NWAIT names. -/
def waitSlot (g : Gang) (a l : Nat) : Nat := bitsOf ((g.lane l).rv a) 0 5

/-- Free a slot of a gang, whose fills end with bytes unchanged, on whichever core their rows are (R284, R291). -/
def freeInterest (s : State) (uid n : Nat) : State :=
  (s.mapCores fun k => k.endFills (interestOwner uid n)).modGangByUid uid fun x => { x with interests := mset x.interests n Interest.none }

/-- NWAIT's NEXP (R289): the reported slot is free after the trap, unless the trap only began a replay. -/
def namedExpired (s : State) (l n : Nat) (i : Interest) : State :=
  let t := takeTrap s tcNEXP l [i.name, BitVec.ofNat 64 n, 0]
  match t.gang? s.cur.core s.cur.gang with
  | some g => if g.stop.isSome then freeInterest t g.uid n else t
  | none => t

/-- NWAIT (R289). -/
def doNwait (f : AForm) (s : State) : State :=
  userOp s fun g =>
    let e := execLanes s g f.g
    let at_ (l : Nat) : Interest := mget Interest.none g.interests (waitSlot g f.a l)
    if e = 0 then retireWith s id
    else
      match (lanesOf e).find? fun l => (at_ l).state == .free with
      | some l => takeTrap s tcQERR l [0x05, BitVec.ofNat 64 (waitSlot g f.a l), e.setWidth 64]
      | none =>
        if (lanesOf e).any fun l => (at_ l).state == .pending then
          s.putCur (((g.advance (groupLanes s g &&& ~~~e) s.cur.next).park s (.nwait f) e .named 0).chargeOnce s)
        else
          match (lanesOf e).find? fun l => (at_ l).state == .expired with
          | some l => namedExpired s l (waitSlot g f.a l) (at_ l)
          | none =>
            let c := (lanesOf e).foldl (fun k l => clockJoin k (at_ l).clock) []
            let s1 := s.modCore s.cur.core fun k => k.lcDrop g.tenant
            retireWith s1 fun y =>
              let z := y.mapLanes e fun _ x => x.learn c
              { z with interests := (lanesOf e).foldl (fun m l => mset m (waitSlot g f.a l) Interest.none) z.interests }

/-- NWAIT. -/
def execNwait (f : AForm) (s : State) : Result := .next (doNwait f s)

/-! ### The engine's commands (R277, R284, R287, R288, R290) -/

/-- The rows that an NPUB still waits for: fills of others (R270). -/
def npubWaits (s : State) (c : Nat) (m : EngCmd) : Bool :=
  m.rows.any fun r => (s.core c).fills.any fun (f : Fill) => f.row == r && f.owner != m.stamp

/-- The head of a core's named-data queue: the commands of a context that is being saved stay behind (R310). -/
def namedFirst (s : State) (c : Nat) : Option EngCmd := (s.core c).namedQ.find? fun m => !(s.core c).saving m.ctx

/-- The head of a core's named-data queue, when it comes from the gang of a slot. -/
def namedHead (s : State) (c slot : Nat) : Option EngCmd :=
  match namedFirst s c with
  | some m => if m.gang = slot then some m else none
  | none => none

/-- Whether the named-data engine's head may run. -/
def namedReady (s : State) (c slot : Nat) : Option EngCmd :=
  match namedHead s c slot with
  | some m => if m.kind == .npub && npubWaits s c m && (s.expiredAt c m.rows).isNone then none else some m
  | none => none

/-- Let a gang whose last command has run complete, where it is. -/
def reapByUid (s : State) (uid : Nat) : State :=
  match s.gangPlace uid with
  | some (c, slot) => reapGang s c slot
  | none => s

/-- Run the head of the named-data queue when it is of the right kind. Its gang may have migrated since: the command stays in the
engine that took it (R277, R339). -/
def runNamed (at_ : AtGang) (kind : CmdKind) (s : State) (run : State → Gang → EngCmd → State) : State :=
  match namedReady s at_.core at_.gang with
  | none => s
  | some m =>
    if m.kind == kind then
      let s1 := s.modCore at_.core fun k => { k with namedQ := k.namedQ.filter fun x => x.stamp != m.stamp }
      match s.gangByUid m.party.gangUid with
      | some g => reapByUid (run s1 g m) g.uid
      | none => s1
    else s

/-- A fault that the named-data engine finds (R247, R277): the gang is marked and its later named commands go. -/
def deferNamed (s : State) (uid : Nat) (code : BitVec 8) (infos : List W64) : State :=
  (discardNamed s uid).modGangByUid uid fun g => { g with deferred := g.deferred ++ [{ code := code, infos := infos }] }

/-- Push a token to a gang's q4, wherever it is. -/
def pushNamedToken (s : State) (uid tok : Nat) : State :=
  s.modGangByUid uid fun g => { g with queues := mmod [] g.queues 4 fun l => l ++ [BitVec.ofNat 32 tok] }

/-- NREG_CMD (R290, R361). -/
def execNregCmd (at_ : AtGang) (s : State) : Result :=
  .next (runNamed at_ .nreg s fun t g m => setRoute t g.tenant m.d (routeEntry m.addr) true)

/-- The consumer of an interest slot (R363). -/
def consumerOf (s : State) (c slot : Nat) (g : Gang) (n : Nat) (i : Interest) : Consumer :=
  { pkg := s.self, core := c, ctx := g.ctx, gang := slot, slot := n, serial := i.serial }

/-- Send a Pending slot's interest into the fen (R364). -/
def sendWant (s : State) (c slot : Nat) (g : Gang) (n : Nat) (i : Interest) : State :=
  s.push (.interestArrival
    { holder := firstHolder s g.tenant (c / 256) i.name, tenant := g.tenant, name := i.name
      face := .consumer (consumerOf s c slot g n i), until_ := i.until_ })

/-- NWANT_CMD (R284, R364): the interest enters the fen. -/
def execNwantCmd (at_ : AtGang) (s : State) : Result :=
  .next (runNamed at_ .nwant s fun t g m =>
    let i := mget Interest.none g.interests m.d
    if i.state == .pending then sendWant t at_.core at_.gang g m.d i else t)

/-- INTEREST_RESEND (R364): an interest that a holder refused is sent again while its slot is Pending. -/
def execInterestResend (it : AtItem) (s : State) : Result :=
  .next (match s.gang? it.core it.gang with
    | none => s
    | some g =>
      let i := mget Interest.none g.interests it.item
      if i.state == .pending && decide (s.ticks < i.until_) then
        (sendWant s it.core it.gang g it.item i).modGang it.core it.gang fun x =>
          { x with interests := mset x.interests it.item { i with refused := none } }
      else s)

/-- The bytes of a tile as its rows stand (R282, R287): an element outside h2's extent reads as zero. -/
def tileBytes (s : State) (c : Nat) (g : Gang) (d : NameDesc) (h : Shape) : List Byte :=
  let w := elemWidth (tyOf d.fmt)
  let el (p : Nat) : Nat := match tilePlace d h p with
    | some (ea, hi) => (s.core c).padElem w ((windowOf s c g).1 + ea.toNat % 2 ^ 48) hi
    | none => 0
  (List.range d.bytes).map fun i =>
    if w = 4 then BitVec.ofNat 8 (el (2 * i) % 16 + (if 2 * i + 1 < d.elems then 16 * (el (2 * i + 1) % 16) else 0))
    else BitVec.ofNat 8 (el (i / (w / 8)) / 256 ^ (i % (w / 8)))

/-- A tile read from its rows goes to its rendezvous (R287, R360, R361, R365, R489). -/
def sendTile (s : State) (c slot : Nat) (g : Gang) (m : EngCmd) (d : NameDesc) (bytes : List Byte) : State :=
  let space := nameSpace m.addr
  let s1 := if routeSet s g.tenant space then s
    else setRoute s g.tenant space (BitVec.ofNat 64 (1 + s.self * 2 + c / 256 * 32)) true
  match routeOf s1 g.tenant space with
  | none => s1
  | some (p, die) =>
    if p = s1.self then
      if isNew s1 d m.addr then publish s1 d die g.tenant m.addr bytes m.clock
      else deferNamed s1 g.uid tcNDUP [m.pc, m.addr]
    else s1.send { Packet.blank with
      dst := p, tenant := g.tenant, op := pkTile + 16, name := m.addr, addr := m.pc.toNat, data := bytes
      consumer := some { pkg := s1.self, core := c, ctx := g.ctx, gang := slot, slot := 0, serial := BitVec.ofNat 32 g.uid } }

/-- NPUB_CMD (R287): the rows are read, the token pushed, the tile published; a row of an Expired interest defers NEXP. -/
def execNpubCmd (at_ : AtGang) (s : State) : Result :=
  .next (runNamed at_ .npub s fun t g m =>
    let c := at_.core
    if npubWaits t c m then
      deferNamed (t.modCore c fun k => k.endFills m.stamp) g.uid tcNEXP [m.pc, 0, 0]
    else
      match nameDesc t g.tenant (nameSpace m.addr) with
      | none => t.modCore c fun k => k.doneFills m.stamp
      | some d =>
        let bytes := tileBytes t c g d m.shape
        let t1 := t.modCore c fun k => (k.doneFills m.stamp).addEnergy g.ctx 7 (4 * ((bytes.length + 63) / 64))
        let t2 := if m.ext.getLsbD 0 then pushNamedToken t1 g.uid 3 else t1
        sendTile t2 c at_.gang g m d bytes)

/-- NDROP_CMD (R284, R288). -/
def execNdropCmd (at_ : AtGang) (s : State) : Result :=
  .next (runNamed at_ .ndrop s fun t g m =>
    m.words.foldl (fun u (q : Nat × W32) =>
      let i := mget Interest.none g.interests q.1
      if i.state != .free && i.serial == q.2 then freeInterest u g.uid q.1 else u) t)

/-! ### Outcomes of interests (R284, R367) -/

/-- The state of an interest token (R285). -/
def interestToken (kind n : Nat) : Nat := kind + n * 16

/-- Write an arrived tile into its row set (R282, R286). -/
def deliver (s : State) (c : Nat) (g : Gang) (i : Interest) (bytes : List Byte) : State :=
  match nameDesc s g.tenant (nameSpace i.name) with
  | none => s
  | some d =>
    let w := elemWidth (tyOf d.fmt)
    (List.range d.elems).foldl (fun t p => match tilePlace d i.shape p with
      | none => t
      | some (ea, hi) =>
        let off := (windowOf t c g).1 + ea.toNat % 2 ^ 48
        let key := locKey c (g.lane 0).uid (.scratch off)
        let v := if w = 4 then (bytes.getD (p / 2) 0).toNat / 16 ^ (p % 2) % 16 else leAt bytes (p * (w / 8)) (w / 8)
        (t.modCore c fun k => k.putElem w off hi v).endSequences key.1 d.step key.2) s

/-- NAMED_ARRIVAL (R284, R367): the engine accepts a tile only for a Pending slot with the interest's serial, before its
lifetime ends; every other arrival is discarded. -/
def execNamedArrival (m : ArrivalMsg) (s : State) : Result :=
  .next (
    let c := m.consumer.core
    let slot := m.consumer.gang
    match s.gang? c slot with
    | none => s
    | some g =>
      let i := mget Interest.none g.interests m.consumer.slot
      if i.state == .pending && i.serial == m.consumer.serial && g.ctx == m.consumer.ctx && decide (s.ticks < i.until_) then
        let s1 := deliver s c g i m.bytes
        let s2 := s1.modCore c fun k =>
          (k.doneFills (interestOwner g.uid m.consumer.slot)).addEnergy g.ctx 7 (4 * ((m.bytes.length + 63) / 64))
        let s3 := s2.modGang c slot fun x =>
          { x with interests := mset x.interests m.consumer.slot { i with state := .arrived, clock := m.clock } }
        if i.tok then pushToken s3 c slot 4 (interestToken 1 m.consumer.slot) else s3
      else s)

/-- INTEREST_EXPIRY (R284): a Pending slot whose lifetime has ended expires; its fills stay outstanding. -/
def execInterestExpiry (it : AtItem) (s : State) : Result :=
  .next (match s.gang? it.core it.gang with
    | none => s
    | some g =>
      let i := mget Interest.none g.interests it.item
      if i.state == .pending && decide (i.until_ ≤ s.ticks) then
        let s1 := s.modGang it.core it.gang fun x =>
          { x with interests := mset x.interests it.item { i with state := .expired } }
        if i.tok then pushToken s1 it.core it.gang 4 (interestToken 2 it.item) else s1
      else s)

end Sys2Proof.Machine
end

