-- ==== Sys2Proof/Machine/Cluster.lean ====
section
/-! DEFINITION. The cluster: its barriers, the yoke, and migration (R326 to R340), and what a core has room for (R86). -/

namespace Sys2Proof.Machine

/-! ### Room on a core (R86, R208, R420) -/

/-- The registers per lane that a gang's translation keeps resident (R86). -/
def residentOf (s : State) (g : Gang) : Nat := ((translOf s g).map fun t => t.resident).getD 128

/-- The gang slots of a core that are taken, by gangs or by migrations on their way. -/
def slotsTaken (s : State) (c : Nat) : List Nat :=
  (s.core c).gangs.map (fun (q : Nat × Gang) => q.1) ++ (s.migrations.filter fun m => m.dst == c).map fun m => m.slot

/-- The free gang slots of a core, lowest first (R208). -/
def freeSlots (s : State) (c : Nat) : List Nat := (List.range 32).filter fun i => !(slotsTaken s c).contains i

/-- The registers per lane that gangs on a core and on their way to it take. -/
def windowsTaken (s : State) (c : Nat) : Nat :=
  (s.core c).gangs.foldl (fun n (q : Nat × Gang) => n + residentOf s q.2) 0
    + (s.migrations.filter fun m => m.dst == c).foldl (fun n m => n + residentOf s m.gang) 0

/-- Whether a core has slots and windows for `n` gangs of a resident count (R86, R420). -/
def hasRoom (s : State) (c n resident : Nat) : Bool :=
  n ≤ (freeSlots s c).length && windowsTaken s c + n * resident ≤ 4096

/-! ### Cluster barriers (R330 to R332) -/

/-- A gang released from a CBAR phase (R331): every fibre parked there is Ready at its next instruction, after the clocks
of all that arrived. -/
def Gang.cbarRelease (g : Gang) (uids : List Nat) (clock : TMap Nat) : Gang :=
  if uids.contains g.uid then
    let m := g.lanesWhere fun f => f.status == .parked .cbar
    (g.release m).mapBoth m fun _ f => f.learn clock
  else g

/-- Release a phase, wherever its gangs now are (R331, R332). -/
def releaseCbar (s : State) (uids : List Nat) (clock : TMap Nat) : State :=
  let s1 := s.mapCores fun k => { k with gangs := k.gangs.map fun (g : Nat × Gang) => (g.1, g.2.cbarRelease uids clock) }
  { s1 with saved := s1.saved.map fun v => { v with gangs := v.gangs.map fun (g : Nat × Gang) => (g.1, g.2.cbarRelease uids clock) } }

/-- CBAR (R330, R331). -/
def execCbar (f : IForm) (s : State) : Result :=
  .next (collectiveOp s f.g fun g e =>
    let cl := s.cur.core / 4
    let k := s.cluster cl
    let slot := bitsOf f.imm 0 3
    let count := bitsOf f.imm 3 8
    let ps := (k.phases g.ctx).getD []
    let parked := g.park s (.cbar f) e .cbar 0
    if (k.phases g.ctx).isNone ∧ 32 ≤ k.entries.length then s.putCur parked
    else
      match mfind ps slot with
      | some p =>
        if p.count ≠ count then
          takeTrap s tcBARX (lowLane e) [BitVec.ofNat 64 (slot + 512), BitVec.ofNat 64 p.count, BitVec.ofNat 64 count]
        else arrive s g parked cl slot p e
      | none => arrive s g parked cl slot { count := count, gangs := [], clock := [] } e)
where
  /-- The gang's arrival at a phase. -/
  arrive (s : State) (g parked : Gang) (cl slot : Nat) (p : CPhase) (e : Mask) : State :=
    let clock := clockJoin p.clock (g.clocks e)
    let uids := p.gangs ++ [g.uid]
    let ps := ((s.cluster cl).phases g.ctx).getD []
    let s1 := s.putCur (((parked.mapLanes e fun _ x => x.tick)).chargeOnce s)
    if p.count ≤ uids.length then
      let s2 := s1.modCluster cl fun k => k.setPhases g.ctx (mset ps slot { p with gangs := [], clock := [] })
      retryCbars (releaseCbar s2 uids clock) cl
    else s1.modCluster cl fun k => k.setPhases g.ctx (mset ps slot { p with gangs := uids, clock := clock })

/-! ### The yoke (R333 to R336) -/

/-- A waiting YOKE leaves its wait: P[d] is written in its lanes, which go on at the next instruction (R333). -/
def endYoke (s : State) (c slot : Nat) (formed : Bool) (clock : TMap Nat) : State :=
  s.modGang c slot fun g =>
    let m := g.lanesWhere fun f => f.status == .parked .yoke
    let d := match g.waits.find? fun w => w.cause == .yoke with
      | some w => match w.instr with | .yoke f => f.d | _ => 0
      | none => 0
    (g.release m).mapBoth m fun _ f => (f.wp d formed).learn clock

/-- YOKE (R333): a member has its predicate at once; any other gang waits. -/
def execYoke (f : AForm) (s : State) : Result :=
  .next (collectiveOp s f.g fun g e =>
    if g.member4.isSome then retireWith s fun y => y.mapLanes e fun _ x => x.wp f.d true
    else
      let key := bitsOf ((g.lane (lowLane e)).rv f.a) 0 16
      let s1 := s.putCur (((g.park s (.yoke f) e .yoke 0).mapLanes e fun _ x => x.tick).chargeOnce s)
      s1.modCluster (s.cur.core / 4) fun k => { k with waiting := k.waiting ++ [(s.cur.core, s.cur.gang, key, s.ck)] })

/-- The waiting YOKEs of a key and a context, the first on each core of a cluster (R333). -/
def yokeSet (s : State) (cl key ctx : Nat) : List (Nat × Nat) :=
  let k := s.cluster cl
  (List.range 4).filterMap fun i =>
    (k.waiting.find? fun w => w.1 == 4 * cl + i && w.2.2.1 == key
      && ((s.gang? w.1 w.2.1).map fun g => g.ctx) == some ctx).map fun w => (w.1, w.2.1)

/-- The four gangs that a key can form into a yoke now, in commit order of its waiting YOKEs (R333). -/
def yokeReady (s : State) (cl key : Nat) : Option (List (Nat × Nat)) :=
  let k := s.cluster cl
  if k.members ≠ [] then none
  else k.waiting.findSome? fun w =>
    if w.2.2.1 = key then
      match s.gang? w.1 w.2.1 with
      | some g => if (yokeSet s cl key g.ctx).length = 4 then some (yokeSet s cl key g.ctx) else none
      | none => none
    else none

/-- YOKE_FORMATION (R333): the four waiting gangs become members together. -/
def execYokeFormation (cluster key : Nat) (s : State) : Result :=
  .next (match yokeReady s cluster key with
    | none => s
    | some ms =>
      let clock := ms.foldl (fun c q => match s.gang? q.1 q.2 with
        | some g => clockJoin c (g.clocks g.live)
        | none => c) []
      let s1 := ms.foldl (fun t q => (endYoke t q.1 q.2 true clock).modGang q.1 q.2 fun g =>
        { g with member4 := some (q.1 % 4), decoupled := false }) s
      s1.modCluster cluster fun k =>
        { k with waiting := k.waiting.filter fun w => !(ms.contains (w.1, w.2.1))
                 members := ms.map (fun q => (q.1 % 4, q.2)), shared := true, tp := 0, regather := 0 })

/-- YOKE_TIMEOUT (R333): a YOKE that has waited 65,536 ck goes on alone. -/
def execYokeTimeout (at_ : AtGang) (s : State) : Result :=
  .next (
    let cl := at_.core / 4
    if (s.cluster cl).waiting.any fun w => w.1 == at_.core && w.2.1 == at_.gang && decide (w.2.2.2 + 65536 ≤ s.ck) then
      (endYoke s at_.core at_.gang false []).modCluster cl fun k =>
        { k with waiting := k.waiting.filter fun w => !(w.1 == at_.core && w.2.1 == at_.gang) }
    else s)

/-- UNYOKE (R336). -/
def execUnyoke (f : AForm) (s : State) : Result :=
  .next (userOp s fun g =>
    let s1 := retireWith s id
    if execLanes s g f.g ≠ 0 ∧ g.member4.isSome then dissolveYoke s1 s.cur.core else s1)

/-! ### Migration (R338 to R340) -/

/-- The mesh hops between the clusters of two cores (R342): through the hub between dies. -/
def hops (a b : Nat) : Nat :=
  let p := a / 4 % 64
  let q := b / 4 % 64
  let d (x y : Nat) : Nat := if x ≤ y then y - x else x - y
  if a / 256 = b / 256 then d (p % 8) (q % 8) + d (p / 8) (q / 8) else p / 8 + q / 8

/-- The core that MIGRATE chooses for a checked page (R338). -/
def migrateTarget (s : State) (ctx : Nat) (pte : W64) (pa : Nat) : Option Nat :=
  if pkgOf pa ≠ s.self then none
  else if pteHome pte = 2 then some (pteHomeSel pte)
  else
    let cl := if pteHome pte = 1 then (pteHomeSel pte / 128 % 4) * 64 + pteHomeSel pte % 128 / 2
      else dieOf pa * 64 + sliceOf pa / 2
    let load (i : Nat) : Nat := ((s.core (4 * cl + i)).gangs.filter fun (g : Nat × Gang) => g.2.ctx == ctx).length
    some (4 * cl + (List.range 4).foldl (fun b i => if load i < load b then i else b) 0)

/-- The ck that a gang's message takes (R339; log entry 60). -/
def moveCk (a b : Nat) (g : Gang) : Nat :=
  let bytes := g.arch.fibres.foldl (fun n (p : Nat × Fibre) => n + 4 * p.2.v.length + 8 * p.2.x.length + p.2.stackSize) 0
  32 + (bytes + 63) / 64 + 2 * hops a b

/-- The gang leaves its core (R339): its slot at the target is reserved, and its commit is done. -/
def departGang (s : State) (e : Mask) (d dst slot : Nat) (g : Gang) : State :=
  let c := s.cur.core
  let g1 := (g.endSpec.mapLanes e fun _ x => x.wp d true).advance (groupLanes s g) s.cur.next
  let a := { g1.arch with fibres := g1.arch.fibres.map fun (p : Nat × Fibre) => (p.1, { p.2 with latch := [] }) }
  let g2 := { g1 with arch := a, base := a, region := Region.empty }
  let s1 := s.modCore c fun k =>
    { (k.addEnergy g.ctx 4 1) with
      gangs := mdel k.gangs s.cur.gang, blocks := k.blocks.filter fun b => some b.uid != g.block
      aliases := k.aliases.filter fun a => a.gang != s.cur.gang }
  { s1 with
    migrations := s1.migrations ++ [{ src := c, dst := dst, slot := slot, gang := g2, block := s.blockOf? c g, arrives := s.ck + moveCk c dst g2 }]
    remotes := s1.remotes.map fun r => if r.core == c && r.gang == s.cur.gang then { r with core := dst, gang := slot } else r }

/-- The decision of a MIGRATE whose target is known (R339). -/
def migrateTo (s : State) (g : Gang) (e : Mask) (d : Nat) (target : Option Nat) : State :=
  let stay (b : Bool) : State := retireWith s fun y => y.mapLanes e fun _ x => x.wp d b
  match target with
  | none => stay false
  | some t =>
    if t = s.cur.core then stay true
    else
      if ((s.core t).slotFor g.ctx).isSome ∧ hasRoom s t 1 (residentOf s g) then departGang s e d t ((freeSlots s t).headD 0) g
      else stay false

/-- MIGRATE (R338, R339). -/
def doMigrate (f : AForm) (s : State) : State :=
  collectiveOp s f.g fun g e =>
    let c := s.cur.core
    let l := lowLane e
    let ea := (g.lane l).rx f.a
    if !g.isFree then takeTrap s tcPROT l [ea, 0xA1]
    else if g.member4.isSome then takeTrap s tcPROT l [ea, 0xA2]
    else if bitsOf ea 56 8 ≠ 0 then takeTrap s tcPROT l [ea, 0x01]
    else
      let wait (cause : Cause) : State := s.putCur (g.park s (.migrate f) e cause 0)
      let go (t : Option Nat) : State :=
        if g.q2 ≠ [] ∨ classBusy s c s.cur.gang g 4 then wait .fence
        else if g.interests.any fun (q : Nat × Interest) => q.2.state == .pending then wait .named
        else migrateTo s g e f.d t
      if bitsOf ea 49 15 = 0x7F then go none
      else
        match (s.core c).tlbFind g.tenant g.ctx ea with
        | some t => go (migrateTarget s g.ctx t.pte (ptePa t.pte + (ea.toNat - t.va)))
        | none =>
          if s.cur.pf.contains (ea.toNat / 2 ^ 16) then takeTrap s tcPF l [ea, 0]
          else parkTlb s g (.migrate f) e ea

/-- MIGRATE. -/
def execMigrate (f : AForm) (s : State) : Result := .next (doMigrate f s)

/-- NWAIT_WAKE (R289, R291): an NWAIT whose slots are decided, or a MIGRATE without Pending slots, is issued again. -/
def execNwaitWake (it : AtItem) (s : State) : Result :=
  .next (wake s it false fun i t => match i with
    | .nwait f => some (doNwait f t)
    | .migrate f => some (doMigrate f t)
    | _ => none)

/-- MIGRATION_ARRIVAL (R339): the gang takes its reserved slot as the youngest of the core. -/
def execMigrationArrival (index : Nat) (s : State) : Result :=
  .next (match s.migrations[index]? with
    | none => s
    | some m =>
      let s1 := s.modCore m.dst fun k =>
        { k with gangs := mset k.gangs m.slot { m.gang with age := k.nextAge }, nextAge := k.nextAge + 1
                 blocks := k.blocks ++ m.block.toList.map fun b => { b with gangs := [m.slot] } }
      { s1 with migrations := s1.migrations.eraseIdx index })

end Sys2Proof.Machine
end

