-- ==== Sys2Proof/Machine/Bulk.lean ====
section
/-! DEFINITION. The fabric engine: BULK, arrival counters and their waits (R479 to R483). -/

namespace Sys2Proof.Machine

/-! ### Arrival counters (R480, R482) -/

/-- The counter that a register names. -/
def counterIndex (f : Fibre) (r : Nat) : Nat := bitsOf (f.rv r) 0 4

/-- A counter of a gang's home block. -/
def counterOf (s : State) (c : Nat) (g : Gang) (k : Nat) : ArrCounter :=
  match homeBlock? s c g with
  | some b => mget ArrCounter.zero b.counters k
  | none => ArrCounter.zero

/-- Whether a gang has no counters where it runs: a free gang away from its home block's core (R89, R274). -/
def noCounters (s : State) (c : Nat) (g : Gang) : Bool := (homeBlock? s c g).isNone

/-- ARMT (R482). -/
def execArmt (f : CForm) (s : State) : Result :=
  .next (userOp s fun g =>
    let e := execLanes s g f.g
    let c := s.cur.core
    let x := g.lane (lowLane e)
    let k := counterIndex x f.a
    if e = 0 then retireWith s id
    else if noCounters s c g then takeTrap s tcQERR (lowLane e) [0x07, BitVec.ofNat 64 k, e.setWidth 64]
    else
      let old := counterOf s c g k
      let base : ArrCounter := if f.ext.getLsbD 0 then ArrCounter.zero else old
      (retireWith s id).modBlock c g.home fun b =>
        { b with counters := mset b.counters k { base with target := x.rx f.b, armed := true } })

/-- What a lane released by ARWAIT follows (R482): every unit counted up to the target. -/
def counterClock (a : ArrCounter) : TMap Nat :=
  a.units.foldl (fun k (u : Nat × TMap Nat) => if u.1 < a.target.toNat then clockJoin k u.2 else k) []

/-- ARWAIT (R482): each lane whose counter has reached its target goes on; the others park. -/
def doArwait (f : AForm) (s : State) : State :=
  userOp s fun g =>
    let e := execLanes s g f.g
    let c := s.cur.core
    let k (l : Nat) : Nat := counterIndex (g.lane l) f.a
    if e = 0 then retireWith s id
    else if noCounters s c g then takeTrap s tcQERR (lowLane e) [0x07, BitVec.ofNat 64 (k (lowLane e)), e.setWidth 64]
    else
      match (lanesOf e).find? fun l => !(counterOf s c g (k l)).armed with
      | some l => takeTrap s tcQERR l [0x06, BitVec.ofNat 64 (k l), e.setWidth 64]
      | none =>
        let ok := maskOf fun l => e.getLsbD l && decide ((counterOf s c g (k l)).target ≤ (counterOf s c g (k l)).value)
        let g1 := g.mapLanes ok fun l x => x.learn (counterClock (counterOf s c g (k l)))
        let late := e &&& ~~~ok
        s.putCur ((((g1.advance (groupLanes s g &&& ~~~late) s.cur.next).park s (.arwait f) late .arrive 0)).chargeOnce s)

/-- ARWAIT. -/
def execArwait (f : AForm) (s : State) : Result := .next (doArwait f s)

/-- ARWAIT_WAKE (R482): an ARWAIT is issued again for its parked lanes. -/
def execArwaitWake (it : AtItem) (s : State) : Result :=
  .next (wake s it false fun i t => match i with | .arwait f => some (doArwait f t) | _ => none)

/-! ### BULK as issued (R481, R483) -/

/-- Whether a bulk command puts (R481). -/
def EngCmd.put (m : EngCmd) : Bool := m.mod.getLsbD 0
/-- Whether a get counts its units (R481). -/
def EngCmd.cnt (m : EngCmd) : Bool := m.ext.getLsbD 1

/-- The number of elements of a bulk command: 0 with RANK 0. -/
def bulkCount (m : EngCmd) : Nat := if m.shape.rankOf = 0 then 0 else m.shape.count m.shape.rankOf
/-- The element width of a bulk command. -/
def bulkWidth (m : EngCmd) : Nat := elemWidth m.shape.ty
/-- B of R481. -/
def bulkBytes (m : EngCmd) : Nat := (bulkCount m * bulkWidth m + 7) / 8

/-- R483's checks at the instruction. -/
def bulkCheck (s : State) (c : Nat) (g : Gang) (m : EngCmd) : Option Failing :=
  firstFail
    [if !m.put && bulkBytes m != 0 then (windowFault (gangWindow s c g) m.addr (bulkBytes m)).map fun sub => sideFail m.addr 1 sub
       else none,
     if !m.put && m.addr.toNat % 64 != 0 then some (protFail m.addr 0xB0) else none,
     if m.shape.fmt == 15 then some (oslotFail 0x06 15) else none]

/-- BULK (R481, R483): one command from the lowest lane's operands; an empty EXEC has no effect. -/
def execBulk (f : CForm) (s : State) : Result :=
  .next (userOp s fun g =>
    let e := execLanes s g f.g
    let c := s.cur.core
    let x := g.lane (lowLane e)
    if e = 0 then retireWith s id
    else
      let h := (g.sw f.mod 3).hActive 3
      let m : EngCmd := { EngCmd.blank s g e .bulk with
        mod := f.mod, d := counterIndex x f.b, ext := f.ext, addr := x.rx f.d, shape := { h with base := x.rx f.a } }
      if m.cnt ∧ noCounters s c g then takeTrap s tcQERR (lowLane e) [0x07, BitVec.ofNat 64 m.d, e.setWidth 64]
      else
        match bulkCheck s c g m with
        | some p => takeTrap s p.code (lowLane e) p.infos
        | none =>
          let rows := if m.put || bulkBytes m == 0 then [] else windowRows s c g m.addr (bulkBytes m)
          retireWith s fun y => (y.sw f.mod 3).addCmd { m with rows := rows })

/-! ### Running a bulk command (R481) -/

/-- Element `p` of a bulk command. -/
def bulkElem (m : EngCmd) (p : Nat) : Elem :=
  let far := m.shape.strided (bulkWidth m) (m.shape.posIdx m.shape.rankOf p)
  let near := denseAt m.addr (bulkWidth m) p
  if m.put then { src := some near, dst := some far } else { src := some far, dst := some near }

/-- The elements of a full unit. -/
def unitElems (m : EngCmd) : Nat := 4096 * 8 / bulkWidth m
/-- The elements of unit `u` of a command. -/
def elemsInUnit (m : EngCmd) (u : Nat) : Nat := min (unitElems m) (bulkCount m - u * unitElems m)

/-- The head of a core's fabric queue for a gang: the commands of a context that is being saved stay behind, but one that has
started goes on (R310, R483). -/
def fabricHead (s : State) (c slot : Nat) : Option EngCmd :=
  match (s.core c).fabricQ.find? fun m => m.imm != 0 || !(s.core c).saving m.ctx with
  | some m => if m.gang = slot then some m else none
  | none => none

/-- Replace a command of the fabric queue. -/
def putFabric (s : State) (c : Nat) (m : EngCmd) : State :=
  s.modCore c fun k => { k with fabricQ := updFirst (fun (x : EngCmd) => x.stamp == m.stamp) (fun _ => m) k.fabricQ }

/-- Count `n` written elements of a unit; the unit's bytes are added to the counter once it is whole (R481, R482). -/
def countUnit (s : State) (c : Nat) (g : Gang) (m : EngCmd) (u n : Nat) : State × EngCmd :=
  let done := (mget 0 m.words u).toNat + n
  let m1 := { m with words := mset m.words u (BitVec.ofNat 32 done) }
  let s1 :=
    if m.cnt ∧ done = elemsInUnit m u then
      let bytes := (elemsInUnit m u * bulkWidth m + 7) / 8
      let old := counterOf s c g m.d
      let new : ArrCounter := { old with
        value := BitVec.ofNat 64 (min (old.value.toNat + bytes) (2 ^ 64 - 1))
        units := old.units ++ [(old.value.toNat, engClock g m .fabric)] }
      s.modBlock c g.home fun b => { b with counters := mset b.counters m.d new }
    else s
  (s1, m1)

/-- An element as its home addresses it, twice the address, plus one for a high nibble, when it lies in one run in package `q`. -/
def elemWord (s : State) (q : Nat) (fs : List Found) (high : Bool) : Option Nat :=
  match awayRuns s fs with
  | [r] => if r.len = fs.length ∧ pkgOf r.pa = q then some (2 * r.pa + (if high then 1 else 0)) else none
  | _ => none

/-- The elements from `p` on, within one unit, that lie wholly in package `q` and pass their checks (R481, R483). -/
def remoteRun (fuel : Nat) (s : State) (c slot : Nat) (g : Gang) (m : EngCmd) (q p : Nat) : List Nat × Nat :=
  match fuel with
  | 0 => ([], 0)
  | k + 1 =>
    let far := m.shape.strided (bulkWidth m) (m.shape.posIdx m.shape.rankOf p)
    let fs := engFound (engView s c slot m) c g (g.laneOf m.party.uid) far.1 (max 1 (bulkWidth m / 8)) 0
    if (foundStop m far.1 fs).isSome then ([], 0)
    else
      match elemWord s q fs far.2 with
      | some w =>
        let r := remoteRun k s c slot g m q (p + 1)
        (w :: r.1, r.2 + 1)
      | none => ([], 0)

/-- The tag under which a bulk run's answer is kept. -/
def bulkLane (p : Nat) : Nat := 65536 + p

/-- Whether bulk runs or units of a gang are still on their way. -/
def bulkPending (s : State) (c slot : Nat) : Bool :=
  (s.core c).units.any (fun u => u.gang == slot)
    || s.remotes.any fun r => r.core == c && r.gang == slot && r.engine && decide (65536 ≤ r.lane)

/-- The next step of a bulk command, as `copyStep`. -/
def bulkStep (s : State) (c slot : Nat) (m : EngCmd) : EngStep :=
  match s.gang? c slot with
  | none => .last
  | some g =>
    if m.imm < bulkCount m then
      moveElem s c slot (g.laneOf m.party.uid) g m .fabric (bulkWidth m) (bulkElem m m.imm)
    else if bulkPending s c slot ∨ engAwaits s c slot .fabric then .wait .l2miss
    else .last

/-- The rows that a get has still to write (R481): those of the elements that it has not met, and of the runs on their way, which `vals`
holds by first element with their counts. -/
def bulkRest (s : State) (c : Nat) (g : Gang) (m : EngCmd) : List Nat :=
  let w := bulkWidth m
  let rows (p n : Nat) : List Nat :=
    if n = 0 then [] else
    let first := denseAt m.addr w p
    let last := denseAt m.addr w (p + n - 1)
    windowRows s c g first.1 ((last.1 - first.1).toNat + max 1 (w / 8))
  if m.put then [] else rows m.imm (bulkCount m - m.imm) ++ m.vals.flatMap fun (q : Nat × List W32) => rows q.1 ((q.2.headD 0).toNat)

/-- The fills of a get end in the rows that it has written (R269, R481). -/
def bulkRowsDone (s : State) (c : Nat) (m : EngCmd) : State :=
  match s.gang? c m.gang with
  | some g => s.modCore c fun k => k.rowsWritten m.stamp (bulkRest s c g m)
  | none => s

/-- Send the request of a run of elements in another package (R481). -/
def askRun (s : State) (c slot : Nat) (g : Gang) (m : EngCmd) (q : Nat) (ws : List Nat) : State :=
  s.ask { Packet.blank with
      dst := q, tenant := g.tenant, op := pkBulkGet, size := bulkWidth m, data := ws.flatMap fun w => leBytes 8 w }
    { tag := 0, core := c, gang := slot, lane := bulkLane m.imm, pkg := q, isWrite := false, atomic := false, engine := true, data := none, own := [] }

/-- Move elements, and ask for runs, until the command must wait, fails or is complete. -/
def bulkRun (fuel : Nat) (s : State) (c slot : Nat) (m : EngCmd) : State × EngCmd × CopyEnd :=
  match fuel with
  | 0 => (s, m, .pause)
  | k + 1 =>
    match bulkStep s c slot m, s.gang? c slot with
    | .go t, some g =>
      let r := if m.put then (t, m) else countUnit t c g m (m.imm / unitElems m) 1
      bulkRun k r.1 c slot { r.2 with imm := m.imm + 1 }
    | .last, _ => (s, m, .finished)
    | .fault code infos, _ => if bulkPending s c slot then (s, m, .pause) else (s, m, .failed code infos)
    | .ask lane pa n, some g =>
      if m.put then (engAsk s c slot g.tenant lane pa n, m, .pause)
      else
        let room := unitElems m - m.imm % unitElems m
        let r := remoteRun (min room (bulkCount m - m.imm)) s c slot g m (pkgOf pa) m.imm
        if r.2 = 0 then (engAsk s c slot g.tenant lane pa n, m, .pause)
        else bulkRun k (askRun s c slot g m (pkgOf pa) r.1) c slot
          { m with imm := m.imm + r.2, vals := mset m.vals m.imm [BitVec.ofNat 32 r.2] }
    | _, _ => (s, m, .pause)

/-- A bulk command that is complete (R269, R302, R481). -/
def bulkDone (s : State) (c slot : Nat) (m : EngCmd) : State :=
  let ctx := ((s.gang? c slot).map fun g => g.ctx).getD 0
  let s1 := s.modCore c fun k => (k.doneFills m.stamp).addEnergy ctx 7 (4 * ((bulkBytes m + 63) / 64))
  if m.done then pushToken s1 c slot 5 ((if m.put then 2 else 1) + bitsOf m.ext 2 12 * 16) else s1

/-- Run the head of a core's fabric queue when it goes the right way (R481, R483). -/
def runFabricHead (at_ : AtGang) (put : Bool) (s : State) : State :=
  match fabricHead s at_.core at_.gang with
  | none => s
  | some m =>
    if m.put != put then s
    else
      let r := bulkRun (bulkCount m + 1) s at_.core at_.gang m
      let drop (t : State) : State := t.modCore at_.core fun k => { k with fabricQ := k.fabricQ.filter fun x => x.stamp != m.stamp }
      match r.2.2 with
      | .pause => bulkRowsDone (putFabric r.1 at_.core r.2.1) at_.core r.2.1
      | .failed code infos =>
        reapGang (deferFault ((drop r.1).modCore at_.core fun k => k.endFills m.stamp) at_.core at_.gang 4 code infos)
          at_.core at_.gang
      | .finished => reapGang (bulkDone (drop r.1) at_.core at_.gang m) at_.core at_.gang

/-- BULK_GET (R481). -/
def execBulkGet (at_ : AtGang) (s : State) : Result := .next (runFabricHead at_ false s)
/-- BULK_PUT (R481). -/
def execBulkPut (at_ : AtGang) (s : State) : Result := .next (runFabricHead at_ true s)

/-- Write the elements of a run, `n` bytes each, into the window. -/
def writeRun (s : State) (c : Nat) (g : Gang) (m : EngCmd) (p0 : Nat) (bytes : List Byte) : State × Nat :=
  let w := bulkWidth m
  let n := max 1 (w / 8)
  let k := bytes.length / n
  ((List.range k).foldl (fun t i =>
    let near := denseAt m.addr w (p0 + i)
    let off := (windowOf t c g).1 + near.1.toNat % 2 ^ 48
    let key := locKey c 0 (.scratch off)
    (t.modCore c fun q => q.putElem w off near.2 (leAt bytes (i * n) n)).endSequences key.1 n key.2) s, k)

/-- BULK_UNIT_ARRIVAL (R481, R482): a unit's bytes reach the window, and its counter when the unit is whole. -/
def execBulkUnitArrival (it : AtCore) (s : State) : Result :=
  .next (match (s.core it.core).units[it.item]? with
    | none => s
    | some u =>
      let s1 := s.modCore it.core fun k => { k with units := k.units.eraseIdx it.item }
      match (s1.core it.core).fabricQ.find? (fun m => m.stamp == u.owner), s1.gang? it.core u.gang with
      | some m, some g =>
        let r := writeRun s1 it.core g m u.off u.bytes
        let q := countUnit r.1 it.core g m (u.off / unitElems m) r.2
        let m1 := { q.2 with vals := mdel q.2.vals u.off }
        bulkRowsDone (putFabric q.1 it.core m1) it.core m1
      | _, _ => s1)

/-- An answer to a bulk run becomes a unit on its way to the window (R481). -/
def bulkAnswer (s : State) (r : Remote) (bytes : List Byte) : State :=
  match s.gang? r.core r.gang, (s.core r.core).fabricQ.find? fun m => m.gang == r.gang with
  | some g, some m =>
    s.modCore r.core fun k => { k with units := k.units ++
      [{ gang := r.gang, block := g.home, off := r.lane - 65536, bytes := bytes, counter := if m.cnt then some m.d else none
         owner := m.stamp, clock := [] }] }
  | _, _ => s

end Sys2Proof.Machine
end

