-- ==== Sys2Proof/Machine/System.lean ====
section
/-! DEFINITION. The privileged instructions and the firmware's events: system registers, return from a trap, invalidation,
saving and loading a context, the mailbox (R57, R292 to R316, R356, R494). -/

namespace Sys2Proof.Machine

/-! ### System registers (R9, R294) -/

/-- The STATE code of a slot (R294). -/
def SlotState.code (x : SlotState) : Nat :=
  match x with | .empty => 0 | .running => 1 | .resident => 2 | .loading => 3 | .saving => 4

/-- A register of a user slot by its offset (R294): an empty or loading slot reads zero but for CTXID and STATE. -/
def slotReg (u : UserSlot) (off : Nat) : Nat :=
  let quiet := u.state = .empty ∨ u.state = .loading
  match off with
  | 0 => u.ctx.toNat + (if u.occupied then 4096 else 0)
  | 4 => u.state.code + (if quiet then 0 else u.penalty.toNat * 8)
  | _ =>
    if quiet then 0
    else match off with
    | 1 => u.rank.toNat
    | 2 => u.tickets.toNat
    | 3 => u.pass.toNat
    | 5 => u.trapbase.toNat
    | 6 => u.trapvalid.toNat
    | 7 => u.ovr.toNat
    | 8 => u.energy.toNat
    | _ => (mget 0 u.stall (off - 256)).toNat

/-- A system register as SRD reads it (R294). -/
def sysReg (k : Core) (n : Nat) : Nat :=
  match n with
  | 1 => k.slice.toNat
  | 2 => k.fwshare.toNat
  | 3 => k.weights.toNat
  | 4 => k.static.toNat
  | 5 => k.event.toNat
  | 6 => k.ckcount.toNat
  | 7 => match k.mbox with | m :: _ => m.1.toNat + 16 * m.2.1.toNat + 65536 * m.2.2.1.toNat | [] => 0
  | 8 => match k.mbox with | m :: _ => m.2.2.2.toNat | [] => 0
  | 9 => 0
  | _ => slotReg (k.slotOf (n / 4096 - 2)) (n % 4096)

/-- A write to a register of a user slot (R294): ignored while it is empty, loading or saving. -/
def setSlotReg (u : UserSlot) (off : Nat) (v : W64) : UserSlot :=
  if !u.live then u
  else match off with
  | 1 => { u with rank := v.setWidth 2 }
  | 2 => { u with tickets := v.setWidth 8 }
  | 3 => { u with pass := v.setWidth 32 }
  | 5 => { u with trapbase := v &&& ~~~0x1FFF }
  | 7 => { u with ovr := v.setWidth 32 }
  | _ => u

/-- A system register as SWR writes it (R9, R294). -/
def setSysReg (k : Core) (n : Nat) (v : W64) : Core :=
  match n with
  | 1 => { k with slice := v.setWidth 16 }
  | 2 => { k with fwshare := v.setWidth 5 }
  | 3 => { k with weights := v }
  | 4 => { k with static := v.setWidth 16 }
  | 5 => { k with event := k.event &&& ~~~(v.setWidth 5) }
  | 6 | 7 | 8 => k
  | 9 => if v.getLsbD 0 then { k with mbox := k.mbox.drop 1 } else k
  | _ => k.modSlot (n / 4096 - 2) fun u => setSlotReg u (n % 4096) v

/-- The shape of a privileged instruction: PROT outside the firmware context; with a false guard it only moves on. `act`
acts for the firmware fibre, which has moved to the next instruction. -/
def privileged (s : State) (gd : Guard) (act : Gang → Fibre → State → State) : State :=
  privOp s gd fun g =>
    if execLanes s g gd = 0 then retireWith s id else act g (g.lane 0) (retireWith s id)

/-- Write an `x` register of the firmware fibre. -/
def fwWrite (s : State) (n : Nat) (v : W64) : State := s.modCore s.cur.core fun k => { k with fw := k.fw.wx n v }

/-- SRD (R316). -/
def execSrd (f : IForm) (s : State) : Result :=
  .next (privileged s f.g fun _ _ t => fwWrite t f.d (BitVec.ofNat 64 (sysReg (s.core s.cur.core) f.imm.toNat)))

/-- SWR (R316). -/
def execSwr (f : IForm) (s : State) : Result :=
  .next (privileged s f.g fun _ x t => t.modCore s.cur.core fun k => setSysReg k f.imm.toNat (x.rx f.a))

/-- ECLR (R304). -/
def execEclr (f : AForm) (s : State) : Result :=
  .next (privileged s f.g fun _ x t =>
    let n := bitsOf (x.rv f.a) 0 1
    let u := (s.core s.cur.core).slotOf n
    let t1 := fwWrite t f.d (BitVec.ofNat 64 (if u.state = .empty then 0 else u.energy.toNat))
    if f.mod.getLsbD 0 ∨ u.state = .empty then t1
    else t1.modCore s.cur.core fun k => k.modSlot n fun v => { v with energy := 0 })

/-- HALT (R316). -/
def execHalt (f : AForm) (s : State) : Result :=
  .next (privileged s f.g fun _ _ t => t.modCore s.cur.core fun k => { k with halted := true })

/-! ### WFI (R316) -/

/-- WFI: on at once when an event of the mask is set, else parked. -/
def execWfi (f : AForm) (s : State) : Result :=
  .next (privileged s f.g fun g x t =>
    if (s.core s.cur.core).event &&& (x.rv f.a).setWidth 5 ≠ 0 then t
    else s.putCur (g.park s (.wfi f) 1 .result 0))

/-- Whether the firmware fibre waits in WFI for an event that is now set. -/
def wfiReady (k : Core) : Bool :=
  match k.fwWait with
  | some w => match w.instr with
    | .wfi f => k.event &&& (k.fw.rv f.a).setWidth 5 != 0
    | _ => false
  | none => false

/-- WFI_WAKE (R316): an event of the mask is set. -/
def execWfiWake (core : Nat) (s : State) : Result :=
  .next (if wfiReady (s.core core) then s.modGang core fwSlot fun g => g.release 1 else s)

/-! ### ERET (R308) -/

/-- The gang of a context whose record is entry `i` of its table. -/
def stoppedAt (k : Core) (ctx i : Nat) : Option (Nat × Gang) :=
  k.gangs.find? fun (q : Nat × Gang) => q.2.ctx == ctx && (match q.2.stop with | some t => t.entry == some i | none => false)

/-- Kill a stopped gang by its record (R308, R417 to R419): its launch fails with the trap's code, unless the gang was being cancelled,
and its fibres exit (log entry 57). -/
def killGang (s : State) (c slot : Nat) (g : Gang) (r : TrapRec) : State :=
  let s1 := s.modGang c slot fun x => { x with stop := none, cancel := true }
  exitLanes (if r.code = tcCANC then s1 else failLaunch s1 g.launch r.code.toNat 0 (some r.name)) c slot g.live

/-- Resume a stopped gang (R247, R308): it takes a further deferred fault at once; else it is examined again, and so are the phases of
its block, where it meets the condition of an ORPH or BARX again (R169, R170). -/
def resumeStopped (s : State) (c slot : Nat) (st : Stop) (after : Bool) : State :=
  let s1 := s.modGang c slot fun x => resumeGang x st after
  match s1.gang? c slot with
  | some g =>
    if g.deferred ≠ [] then takeDeferred s1 c slot
    else examine (match g.block with | some u => evalPhases s1 c u | none => s1) c slot
  | none => s1

/-- ERET's effect on the record and its gang (R308). -/
def doEret (s : State) (mode ctx n i : Nat) : State :=
  let c := s.cur.core
  let s1 := s.modCore c fun k => k.modSlot n fun u => { u with trapvalid := u.trapvalid &&& ~~~(BitVec.ofNat 64 (2 ^ i)) }
  match stoppedAt (s.core c) ctx i with
  | none => s1
  | some (slot, g) =>
    match g.stop with
    | none => s1
    | some st =>
      match mode with
      | 0 => resumeStopped s1 c slot st true
      | 1 => resumeStopped s1 c slot st false
      | 2 => killGang s1 c slot g st.record
      | _ => s1.modGang c slot fun x => { x with stop := some { st with entry := some 64 } }

/-- ERET (R308). -/
def execEret (f : AForm) (s : State) : Result :=
  .next (privOp s f.g fun g =>
    if execLanes s g f.g = 0 then retireWith s id
    else
      let v := (g.lane 0).rv f.a
      let n := bitsOf v 8 1
      let u := (s.core s.cur.core).slotOf n
      if u.state = .empty ∨ !u.trapvalid.getLsbD (bitsOf v 0 6) then takeTrap s tcPROT 0 [v.setWidth 64, 0x90]
      else doEret (retireWith s id) (bitsOf f.mod 0 2) u.ctx.toNat n (bitsOf v 0 6))

/-! ### Records that wait (R299, R305) -/

/-- Whether a gang has a record that waits for a free entry. -/
def recordWaits (g : Gang) : Bool := (match g.stop with | some t => t.entry.isNone | none => false) || g.notices != []

/-- PENDING_RECORD_WRITE (R305): a waiting record is written once an entry is free. -/
def execPendingRecordWrite (at_ : AtGang) (s : State) : Result :=
  .next (match s.gang? at_.core at_.gang with
    | none => s
    | some g =>
      match g.notices, g.stop with
      | r :: rest, _ =>
        match writeRecord s at_.core g.ctx r with
        | some (_, t) => t.modGang at_.core at_.gang fun x => { x with notices := rest }
        | none => s
      | [], some st =>
        if st.entry.isSome then s
        else match writeRecord s at_.core g.ctx st.record with
        | some (i, t) => t.modGang at_.core at_.gang fun x => { x with stop := some { st with entry := some i } }
        | none => s
      | [], none => s)

/-- Whether a gang's deferred fault is taken now (R247): at its commit point, or at once when every live fibre is parked. -/
def deferredReady (g : Gang) : Bool := g.deferred != [] && g.stop.isNone && g.live != 0 && (g.region.isEmpty || g.ready == 0)

/-- DEFERRED_FAULT_TAKE (R247). -/
def execDeferredFaultTake (at_ : AtGang) (s : State) : Result :=
  .next (match s.gang? at_.core at_.gang with
    | none => s
    | some g => if deferredReady g then takeDeferred (if g.region.isEmpty then s else rollback s at_.core at_.gang) at_.core at_.gang else s)

/-! ### TLBINV (R316, R356, R385) -/

/-- Retire the records of pages of a range that are no longer tracked (R385). -/
def retireUntracked (s : State) (tenant : Nat) (base len : Nat) (all : Bool) : State :=
  let gone (r : Access) : Bool :=
    r.party.tenant == tenant && (all || overlaps r.ea.toNat r.len base len)
      && (match walk s tenant r.ea with | .leaf e _ => !pteT e | _ => true)
  s.mapDies fun d => { d with records := d.records.filter fun r => !gone r }

/-- Whether an invalidation takes in some bytes of a tenant (R316). -/
def Invalidation.covers (v : Invalidation) (tenant va n : Nat) : Bool :=
  v.tenant == tenant && (v.all || overlaps va n v.base.toNat v.len.toNat)

/-- The walk caches and the walks in flight without what they hold of a range (R354, R356). -/
def dropWalks (s : State) (v : Invalidation) : State :=
  let keeps (e : WalkEntry) : Bool := !v.covers e.tenant (e.idx * 2 ^ levelShift e.lvl) (2 ^ levelShift e.lvl)
  { s.mapDies (fun d => { d with walkCaches := d.walkCaches.map fun (q : Nat × List WalkEntry) => (q.1, q.2.filter keeps) }) with
    farPtes := [] }

/-- The local part of an invalidation (R356). -/
def invalidateHere (s : State) (v : Invalidation) : State :=
  retireUntracked (dropWalks (dropTlbs s v.tenant v.base.toNat v.len.toNat v.all) v) v.tenant v.base.toNat v.len.toNat v.all

/-- Whether requests to other packages up to one with a tag are still to be performed there (R356, R477). -/
def State.outstanding (s : State) (last : Nat) : Bool := s.remotes.any fun r => r.data.isNone && Nat.ble r.tag last

/-- Whether a gang holds a gated store to memory within an invalidated range: an access translated and not yet performed (R20, R356). -/
def State.gatedIn (s : State) (v : Invalidation) : Bool :=
  let mine (tenant : Nat) (st : GStore) : Bool :=
    (match st.loc with | .phys _ => true | _ => false) && v.covers tenant st.acc.ea.toNat st.bytes.length
  s.allGangs.any fun g => (g.region.stores ++ (match g.spec with | some p => p.held.stores | none => [])).any (mine g.tenant)

/-- Whether accesses translated before an invalidation are still to be performed: requests to other packages up to the last then
made, and gated stores (R356; log entry 29). -/
def State.unperformed (s : State) (last : Nat) (v : Invalidation) : Bool := s.outstanding last || s.gatedIn v

/-- This package's own bit among the acknowledgements that an invalidation awaits, while accesses translated before it are to be
performed (R356; log entry 29). -/
def ownAck (s : State) (v : Invalidation) : BitVec 16 := if s.unperformed s.nextTag v then BitVec.ofNat 16 (2 ^ s.self) else 0

/-- Owe this package's own acknowledgement of an invalidation with a tag, when there is something to wait for. -/
def holdAck (s : State) (tag : Nat) (v : Invalidation) : State :=
  if s.unperformed s.nextTag v then
    { s with owedAcks := s.owedAcks ++ [{ pkg := s.self, tag := tag, last := s.nextTag, range := v }] }
  else s

/-- TLBINV (R316): the firmware fibre parks until every package has dropped the range; nothing to do completes at once. -/
def execTlbinv (f : CForm) (s : State) : Result :=
  .next (privileged s f.g fun g x t =>
    let all := f.mod.getLsbD 0
    let v : Invalidation := { tenant := bitsOf (x.rv f.c) 0 12, base := x.rx f.a, len := x.rx f.b, all := all
                              acks := BitVec.ofNat 16 (s.peers.foldl (fun m p => m + 2 ^ p) 0) }
    if !all ∧ x.rx f.b = 0 then t
    else
      let s1 := s.putCur (g.park s (.tlbinv f) 1 .tlb 0)
      let s2 := holdAck (s1.modCore s.cur.core fun k => { k with inval := some { v with acks := v.acks ||| ownAck s v } }) s.cur.core v
      s.peers.foldl (fun u p => u.sendMgmt p (.invalidate v.tenant v.base v.len all s.cur.core)) (invalidateHere s2 v))

/-- Whether a core's TLBINV has been acknowledged everywhere. -/
def invalDone (k : Core) : Bool := match k.inval with | some v => v.acks == 0 | none => false

/-- TLBINV_COMPLETE (R356): the firmware fibre goes on; no translation of the range is left. -/
def execTlbinvComplete (core : Nat) (s : State) : Result :=
  .next (match (s.core core).inval with
    | some v =>
      if v.acks = 0 then
        (invalidateHere (s.modCore core fun k => { k with inval := none }) v).modGang core fwSlot fun g => g.release 1
      else s
    | none => s)

/-! ### The mailbox (R494) -/

/-- The header of a save area (R312). -/
def headerBytes (ctx size : Nat) (trapbase : W64) : List Byte :=
  leBytes 4 0x46545843 ++ leBytes 2 ctx ++ [Config.stepping, 0] ++ leBytes 8 size ++ leBytes 8 trapbase.toNat ++ leBytes 40 0

/-- The save areas that the dispatcher can keep (R420; log entries 11 and 19). -/
def areaAt (s : State) (i : Nat) : W64 := BitVec.ofNat 64 (2 ^ 48 * s.self + 2 ^ 36 * (i % 16) + 57 * 2 ^ 30 + 2 ^ 23 * (i / 16))

/-- A context without a place on a slot of a core. -/
def Ctx.leave (x : Ctx) (c n : Nat) : Ctx := { x with places := x.places.filter fun p => (p.1, p.2.1) != (c, n) }

/-- Make a save area for a load, unless it holds a part of the context: an empty context's header, with a record table in the same area
(R310; log entries 11 and 19). -/
def prepareArea (s : State) (x : Nat) (addr : W64) : State :=
  if (s.ctx x).areas.contains addr then s
  else s.wrBytes (fwPhys addr) (headerBytes x 64 (addr + BitVec.ofNat 64 (2 ^ 23 - 2 ^ 13)) ++ leBytes 8 0)

/-- A dispatcher message enters a core's mailbox, unless it is full. -/
def mailTo (s : State) (kind : Nat) (m : MboxMsg) : State :=
  s.modCore m.core fun k =>
    if 16 ≤ k.mbox.length then k
    else { k with mbox := k.mbox ++ [(BitVec.ofNat 4 kind, BitVec.ofNat 12 m.ctx, BitVec.ofNat 1 m.slot, m.addr)]
                  event := k.event ||| 16 }

/-- MBOX_LOAD (R420, R494): the dispatcher has a save area for the context, and from now on expects it in the slot. -/
def execMboxLoad (m : MboxMsg) (s : State) : Result :=
  .next (
    if 16 ≤ (s.core m.core).mbox.length then s
    else
      let s1 : State := { prepareArea s m.ctx m.addr with nextArea := s.nextArea + (if m.addr = areaAt s s.nextArea then 1 else 0) }
      mailTo (s1.modCtx m.ctx fun x => { x with places := x.places ++ [(m.core, m.slot, m.addr)] }) 1 m)
/-- MBOX_SAVE (R494). -/
def execMboxSave (m : MboxMsg) (s : State) : Result := .next (mailTo s 2 m)

/-! ### Replies of service cores (R176) -/

/-- The bytes of a reply: the reply words, then the status in the completion word. -/
def replyBytes (r : SvcReply) : List Byte :=
  ((List.range 7).flatMap fun i => leBytes 8 (r.words.getD i 0).toNat) ++ leBytes 8 r.status.toNat

/-- Service core `k` as a party of the memory model (R372, R383). -/
def serviceParty (k tenant : Nat) : Party :=
  { uid := 2 ^ 47 + k, job := 0, launchNo := 0, launch := 0, name := .service k, core := 0, gang := 0, gangUid := 0, tenant := tenant }

/-- What the call whose zero stands at a completion word orders before its service (R176). -/
def callClock (s : State) (key die : Nat) : TMap Nat := (s.headsAt key die).foldl (fun c r => clockJoin c r.clock) []

/-- Record an access of service core `k` to a tracked page of a tenant, at a fresh epoch (R383, R384; log entry 73). -/
def recordService (s : State) (k tenant : Nat) (va : W64) (n : Nat) (kind : AccKind) (order scope : BitVec 3) (clk : TMap Nat) : State :=
  match walk s tenant va with
  | .leaf e size =>
    let pa := ptePa e + va.toNat % size
    if pteT e && pkgOf pa == s.self then
      let (u, s1) := s.fresh
      s1.recordAccess clk { pa := pa, len := n, party := serviceParty k tenant, path := .lane, kind := kind, order := order, scope := scope
                            ea := va, pc := 0, epoch := u }
    else s
  | _ => s

/-- A completion store of service core `k` (R176, R376): a package-scope release at a location, ordered after the call whose zero it
replaces and after the service's own accesses. -/
def completionHead (s : State) (k tenant key die : Nat) : State :=
  let p := serviceParty k tenant
  (s.endSequences key 8 die).addHead die
    { pa := key, len := 8, clock := mset (callClock s key die) p.uid s.uids, scope := 4, party := p }

/-- Write a reply into a stack slice or window that some core, or a gang on its way between cores, holds, or its status into a global
block; none when no core holds the slice or window. -/
def placeReply (s : State) (r : SvcReply) : Option State :=
  match r.place with
  | .stack uid off =>
    let holds (g : Gang) : Bool := (g.lanesWhere fun f => f.uid == uid) != 0
    let put (g : Gang) : Gang := g.mapBoth (g.lanesWhere fun f => f.uid == uid) fun _ f => { f with stack := putBytes f.stack off (replyBytes r) }
    let key := locKey 0 uid (.stack 0 (off + 56))
    if s.cores.any (fun (k : Nat × Core) => k.2.gangs.any fun (g : Nat × Gang) => holds g.2) || s.migrations.any fun m => holds m.gang then
      let s1 := s.mapCores fun k => { k with gangs := k.gangs.map fun (g : Nat × Gang) => (g.1, put g.2) }
      some (completionHead { s1 with migrations := s1.migrations.map fun m => { m with gang := put m.gang } } 0 0 key.1 key.2)
    else none
  | .window u off =>
    match s.cores.findSome? fun (k : Nat × Core) => (k.2.block? u).map fun b => (k.1, b) with
    | some (c, b) =>
      let at_ := 64 * b.rowBase + off
      let key := locKey c 0 (.scratch (at_ + 56))
      some (completionHead (s.modCore c fun k => { k with scratch := putBytes k.scratch at_ (replyBytes r) }) 0 0 key.1 key.2)
    | none => none
  | .glob tenant ea =>
    match walk s tenant ea with
    | .leaf e n =>
      let pa := ptePa e + ea.toNat % n + 56
      let k := stackOf pa
      let s1 := recordService s k tenant (ea + 56) 8 .write 3 4 (callClock s pa (dieOf pa))
      some (completionHead (s1.wr pa 8 r.status.toNat) k tenant pa (dieOf pa))
    | _ => some s
  | .phys pa => some (completionHead (s.wr (pa + 56) 8 r.status.toNat) (stackOf pa) 0 (pa + 56) (dieOf pa))

/-- Whether a part of a context that is saved, or being loaded, holds the stack slice or window of a reply's block. -/
def Saved.holds (v : Saved) (p : ReqPlace) : Bool :=
  v.current && match p with
    | .stack uid _ => v.gangs.any fun (g : Nat × Gang) => (g.2.lanesWhere fun f => f.uid == uid) != 0
    | .window u _ => v.blocks.any fun b => b.uid == u
    | _ => false

/-- A reply reaches its block, waits for a saved context, or is discarded (R176). -/
def deliverReply (s : State) (r : SvcReply) : State :=
  match placeReply s r with
  | some t => t
  | none =>
    if s.saved.any fun v => v.ctx == r.ctx && v.holds r.place then
      { s with heldReplies := s.heldReplies ++ [r] }
    else s

/-- SYSCALL_REPLY (R176). -/
def execSyscallReply (r : SvcReply) (s : State) : Result := .next (deliverReply s r)

/-! ### Saving a context (R238, R266, R291, R309 to R311, R332, R336, R368) -/

/-- Bring a context's gangs to their commit points, and let its yoke and its waiting YOKEs go (R238, R310, R336)
(log entry 56). -/
def stopContext (s : State) (c ctx : Nat) : State :=
  let mine := (s.core c).gangs.filter fun (q : Nat × Gang) => q.2.ctx == ctx
  let s1 := mine.foldl (fun t (q : Nat × Gang) =>
    (if q.2.region.isEmpty && !q.2.inNative then t else undoRegion t c q.1 Gang.undone).modGang c q.1 fun g => g.endSpec) s
  let s2 := if mine.any fun (q : Nat × Gang) => q.2.member4.isSome then dissolveYoke s1 c else s1
  s2.modCluster (c / 4) fun k => { k with waiting := k.waiting.filter fun w => !(w.1 == c && mine.any fun (q : Nat × Gang) => q.1 == w.2.1) }

/-- The size that a save writes into its header (log entry 11). -/
def saveSize (s : State) (c ctx : Nat) : Nat :=
  let k := s.core c
  65536 + 65536 * (k.gangs.filter fun (q : Nat × Gang) => q.2.ctx == ctx).length
    + (k.blocks.filter fun b => b.ctx == ctx).foldl (fun n b => n + 64 * b.rows + 16384 * b.oCount + 65536 * b.accCount) 0

/-- CTXSV (R309, R493; log entry 58). -/
def execCtxsv (f : AForm) (s : State) : Result :=
  .next (privOp s f.g fun g =>
    if execLanes s g f.g = 0 then retireWith s id
    else
      let x := g.lane 0
      let c := s.cur.core
      let n := bitsOf (x.rv f.b) 0 1
      let u := (s.core c).slotOf n
      let trap (sub : W64) : State := takeTrap s tcPROT 0 [x.rx f.a, sub, (x.rv f.b).setWidth 64]
      if !u.live then trap 0x91
      else if bitsOf (x.rx f.a) 0 16 ≠ 0 then trap 0x92
      else if !fwAddrOk s (x.rx f.a) then takeTrap s tcPROT 0 (protInfos (x.rx f.a) 1 0x01)
      else
        let ctx := u.ctx.toNat
        let s1 := stopContext (retireWith s id) c ctx
        let mv : Move := { slot := n, saving := true, addr := x.rx f.a, until_ := s.ck + (saveSize s c ctx + 255) / 256 }
        s1.modCore c fun k =>
          let k1 := if k.running = some n then k.switchTo none else k
          { k1.modSlot n fun v => { v with state := .saving } with moves := k1.moves ++ [mv] })

/-- Whether something of a context that has started still has to end before its save can (R201, R265, R266, R291, R310, R311, R340): a
read of another package need not, since its lane is saved Parked and reads again. -/
def saveBlocked (s : State) (c ctx : Nat) : Bool :=
  let k := s.core c
  let mine := k.gangs.filter fun (q : Nat × Gang) => q.2.ctx == ctx
  mine.any (fun (q : Nat × Gang) => (match q.2.q2 with | m :: _ => m.imm != 0 | [] => false)
      || q.2.q0.any (fun m => m.kind == .accrd) || k.units.any (fun u => u.gang == q.1)
      || k.fabricQ.any (fun m => m.gang == q.1 && m.imm != 0)
      || q.2.pend.any (fun p => p.interlocked)
      || s.remotes.any (fun r => r.core == c && r.gang == q.1 && (r.engine || r.isWrite || (r.atomic && r.data.isNone))))
    || s.migrations.any fun m => m.dst == c && m.gang.ctx == ctx

/-- Mark the faces of a context's Pending slots on a core held (R368). -/
def holdFaces (s : State) (c ctx : Nat) : State :=
  let mine (f : Face) : Bool := match f with | .consumer x => x.pkg == s.self && x.core == c && x.ctx == ctx | _ => false
  { s with fen := s.fen.map fun e => { e with faces := updAll (fun f => mine f.1) (fun f => (f.1, f.2.1, true)) e.faces } }

/-- Whether a key of per-block storage belongs to one of some blocks. -/
def inBlocks (bs : List Block) (base : Block → Nat) (count : Block → Nat) (unit key : Nat) : Bool :=
  bs.any fun b => unit * base b ≤ key && key < unit * (base b + count b)

/-- What a save takes of a context on a core, under a number that its area names. -/
def savedOf (s : State) (c n uid : Nat) : Saved :=
  let k := s.core c
  let u := k.slotOf n
  let ctx := u.ctx.toNat
  let bs := k.blocks.filter fun b => b.ctx == ctx
  let mine (slot : Nat) : Bool := match mfind k.gangs slot with | some g => g.ctx == ctx | none => false
  { uid := uid, current := true, core := c, ctx := ctx, regs := u
    gangs := k.gangs.filter fun (q : Nat × Gang) => q.2.ctx == ctx
    blocks := bs
    scratch := k.scratch.filter fun (p : Nat × Byte) => inBlocks bs (fun b => b.rowBase) (fun b => b.rows) 64 p.1
    fills := k.fills.filter fun f => inBlocks bs (fun b => b.rowBase) (fun b => b.rows) 1 f.row
    opmem := k.opmem.filter fun (p : Nat × Byte) => inBlocks bs (fun b => b.oBase) (fun b => b.oCount) 16384 p.1
    acc := k.acc.filter fun (p : Nat × W32) => inBlocks bs (fun b => b.accBase) (fun b => b.accCount) 16384 p.1
    hist := mget [] k.hist ctx
    bins := k.bins.filter fun b => b.ctx == ctx
    namedQ := k.namedQ.filter fun m => m.ctx == ctx
    fabricQ := k.fabricQ.filter fun m => m.ctx == ctx
    heads := bs.flatMap fun b => s.scratchHeads c (64 * b.rowBase) (64 * b.rows)
    answers := s.remotes.filter fun r => r.core == c && mine r.gang && !r.engine && r.data.isSome }

/-- A core without a context that was saved: its state, its tasks and its private translations go (R301, R354). -/
def Core.withoutCtx (k : Core) (n ctx : Nat) : Core :=
  let mine (slot : Nat) : Bool := match mfind k.gangs slot with | some g => g.ctx == ctx | none => false
  let bs := k.blocks.filter fun b => b.ctx == ctx
  let k1 := { k with
    gangs := k.gangs.filter fun (q : Nat × Gang) => q.2.ctx != ctx
    blocks := k.blocks.filter fun b => b.ctx != ctx
    fills := k.fills.filter fun f => !inBlocks bs (fun b => b.rowBase) (fun b => b.rows) 1 f.row
    scratch := k.scratch.filter fun (p : Nat × Byte) => !inBlocks bs (fun b => b.rowBase) (fun b => b.rows) 64 p.1
    opmem := k.opmem.filter fun (p : Nat × Byte) => !inBlocks bs (fun b => b.oBase) (fun b => b.oCount) 16384 p.1
    acc := k.acc.filter fun (p : Nat × W32) => !inBlocks bs (fun b => b.accBase) (fun b => b.accCount) 16384 p.1
    hist := mdel k.hist ctx
    bins := k.bins.filter fun b => b.ctx != ctx
    deque := k.deque.filter fun t => t.ctx != ctx
    namedQ := k.namedQ.filter fun m => m.ctx != ctx
    fabricQ := k.fabricQ.filter fun m => m.ctx != ctx
    aliases := k.aliases.filter fun a => !mine a.gang
    tlb := k.tlb.filter fun e => e.ctx != some ctx
    moves := k.moves.filter fun m => m.slot != n }
  { k1.modSlot n fun _ => UserSlot.empty with event := k1.event ||| BitVec.ofNat 5 (2 ^ (2 + n)) }

/-- SAVE_COMPLETE (R309, R310): the save area holds the header and names the context's contents (log entry 11), and the slot is empty. -/
def execSaveComplete (it : AtCore) (s : State) : Result :=
  .next (match (s.core it.core).moves.find? fun m => m.slot == it.item && m.saving with
    | none => s
    | some m =>
      let c := it.core
      let ctx := ((s.core c).slotOf it.item).ctx.toNat
      if s.ck < m.until_ ∨ saveBlocked s c ctx then s
      else
        let (u, s0) := s.fresh
        let v := savedOf s c it.item u
        let tasks := (s.core c).deque.filter fun t => t.ctx == ctx
        let away (r : Remote) : Bool := r.core == c && v.gangs.any fun (g : Nat × Gang) => g.1 == r.gang
        let s1 := (holdFaces { s0 with remotes := s0.remotes.filter fun r => !away r } c ctx).wrBytes (fwPhys m.addr)
          (headerBytes ctx (saveSize s c ctx) v.regs.trapbase ++ leBytes 8 u)
        let s2 := s1.modDie (c / 256) fun d => { d with pool := d.pool ++ tasks.map fun t => { ctx := ctx, core := c, fibre := none, task := some t, opened := s.ck } }
        let s3 := s2.modCore c fun k => k.withoutCtx it.item ctx
        ({ s3 with saved := s3.saved ++ [v] } : State).modCtx ctx fun x =>
          { x.leave c it.item with areas := (x.areas.erase m.addr) ++ [m.addr] })

/-! ### Loading a context (R91, R312, R332, R368) -/

/-- Whether the header at an address matches (R312), for a core whose other slot holds `other`. -/
def headerOk (s : State) (addr : W64) (other : Option Nat) : Bool :=
  let a := fwPhys addr
  s.rd a 4 == 0x46545843 && s.rd (a + 6) 1 == Config.stepping.toNat && s.rd (a + 7) 1 == 0 && s.rd (a + 4) 2 < 4096
    && ((memRead s.mem (a + 24) 40).all fun b => b == 0) && other != some (s.rd (a + 4) 2)

/-- CTXLD (R312, R493). -/
def execCtxld (f : AForm) (s : State) : Result :=
  .next (privOp s f.g fun g =>
    if execLanes s g f.g = 0 then retireWith s id
    else
      let x := g.lane 0
      let c := s.cur.core
      let n := bitsOf (x.rv f.b) 0 1
      let k := s.core c
      let o := k.slotOf (1 - n)
      let other := if o.occupied then some o.ctx.toNat else none
      if !fwAddrOk s (x.rx f.a) then takeTrap s tcPROT 0 (protInfos (x.rx f.a) 0 0x01)
      else if (k.slotOf n).occupied ∨ !headerOk s (x.rx f.a) other then
        takeTrap s tcPROT 0 [x.rx f.a, 0x93, (x.rv f.b).setWidth 64]
      else
        let a := fwPhys (x.rx f.a)
        let mv : Move := { slot := n, saving := false, addr := x.rx f.a, until_ := s.ck + (s.rd (a + 8) 8 + 255) / 256 }
        (retireWith s id).modCore c fun k =>
          { k.modSlot n fun v => { v with state := .loading, ctx := BitVec.ofNat 12 (s.rd (a + 4) 2) } with moves := k.moves ++ [mv] })

/-- The lowest base at which `n` units lie clear of ranges already taken. -/
def firstFit (fuel : Nat) (taken : List (Nat × Nat)) (n base : Nat) : Nat :=
  match fuel with
  | 0 => base
  | k + 1 =>
    match taken.find? fun r => overlaps r.1 r.2 base n with
    | some r => firstFit k taken n (r.1 + r.2)
    | none => base

/-- A block placed on a core: its rows, slots and accumulators at bases clear of the core's other blocks. -/
def Core.seat (k : Core) (b : Block) : Block :=
  let fit (base count : Block → Nat) : Nat := firstFit (k.blocks.length + 1) (k.blocks.map fun x => (base x, count x)) (count b) 0
  { b with rowBase := fit (fun x => x.rowBase) (fun x => x.rows), oBase := fit (fun x => x.oBase) (fun x => x.oCount)
           accBase := fit (fun x => x.accBase) (fun x => x.accCount) }

/-- The moves of per-block storage at a restore: old block and new. -/
def relocate (ps : List (Block × Block)) (base count : Block → Nat) (unit key : Nat) : Nat :=
  match ps.find? fun p => unit * base p.1 ≤ key && key < unit * (base p.1 + count p.1) with
  | some p => key - unit * base p.1 + unit * base p.2
  | none => key

/-- A gang at a restore (R91, R201, R312): its parked fibres stay Parked, a miss is issued again, and its rows follow its blocks. -/
def restoreGang (ps : List (Block × Block)) (slotMap : Nat → Nat) (g : Gang) : Gang :=
  let row (r : Nat) : Nat := relocate ps (fun b => b.rowBase) (fun b => b.rows) 1 r
  let cmd (m : EngCmd) : EngCmd := { m with gang := slotMap m.gang, rows := m.rows.map row }
  { g with waits := updAll (fun w => w.cause == .l2miss) (fun w => { w with ticket := 1 }) g.waits
           q0 := g.q0.map cmd, q2 := g.q2.map cmd
           interests := g.interests.map fun (q : Nat × Interest) => (q.1, { q.2 with rows := q.2.rows.map row }) }

/-- The slots that a restored context's gangs take: free ones of the core, in order of the gangs' age. -/
def restoreSlots (s : State) (c : Nat) (gs : List (Nat × Gang)) : List (Nat × Nat) :=
  let old := (sortBy (fun (a b : Nat × Gang) => decide (a.2.age ≤ b.2.age)) gs).map fun (q : Nat × Gang) => q.1
  old.zip (freeSlots s c)

/-- A block at a restore: its references to gang slots follow them. -/
def restoreBlock (slotMap : Nat → Nat) (b : Block) : Block :=
  { b with gangs := b.gangs.map slotMap, claims := b.claims.map fun q => { q with gang := slotMap q.gang }
           bars := b.bars.map fun (p : Nat × BarPhase) => (p.1, { p.2 with
             parked := p.2.parked.map (fun (q : Nat × Mask) => (slotMap q.1, q.2)), arrs := p.2.arrs.map fun (q : Nat × Mask) => (slotMap q.1, q.2) }) }

/-- Zero what a block takes on its core and set its rows' presence bits (R241, R268, R422). -/
def Core.clearFor (k : Core) (b : Block) : Core :=
  let out (lo n x : Nat) : Bool := !(lo ≤ x && x < lo + n)
  { k with scratch := k.scratch.filter fun (p : Nat × Byte) => out (64 * b.rowBase) (64 * b.rows) p.1
           fills := k.fills.filter fun f => out b.rowBase b.rows f.row
           opmem := k.opmem.filter fun (p : Nat × Byte) => out (16384 * b.oBase) (16384 * b.oCount) p.1
           acc := k.acc.filter fun (p : Nat × W32) => out (16384 * b.accBase) (16384 * b.accCount) p.1 }

/-- Seat the blocks of a saved context on a core, one after another, each on cleared storage. -/
def seatAll (k : Core) (bs : List Block) : Core × List (Block × Block) :=
  bs.foldl (fun (acc : Core × List (Block × Block)) b =>
    let b1 := acc.1.seat b
    ({ acc.1.clearFor b1 with blocks := acc.1.blocks ++ [b1] }, acc.2 ++ [(b, b1)])) (k, [])

/-- Put a saved context on a core (R312). -/
def restore (s : State) (c n : Nat) (v : Saved) : State :=
  let sm := restoreSlots s c v.gangs
  let slotMap (i : Nat) : Nat := ((sm.find? fun p => p.1 == i).map fun p => p.2).getD i
  let k0 := s.core c
  let (k1, ps) := seatAll k0 (v.blocks.map (restoreBlock slotMap))
  let pairs := v.blocks.zip (ps.map fun p => p.2)
  let old := sm.map fun p => p.1
  let ages (i : Nat) : Nat := k0.nextAge + old.idxOf i
  let gs := v.gangs.map fun (q : Nat × Gang) => (slotMap q.1, { restoreGang pairs slotMap q.2 with age := ages q.1 })
  let rows (x : Nat) : Nat := relocate pairs (fun b => b.rowBase) (fun b => b.rows) 64 x
  let row (x : Nat) : Nat := relocate pairs (fun b => b.rowBase) (fun b => b.rows) 1 x
  let cmd (m : EngCmd) : EngCmd := { m with gang := slotMap m.gang, rows := m.rows.map row }
  let k2 : Core := { k1 with
    gangs := gs.foldl (fun m (q : Nat × Gang) => mset m q.1 q.2) k1.gangs
    scratch := v.scratch.foldl (fun m (p : Nat × Byte) => mset m (rows p.1) p.2) k1.scratch
    fills := k1.fills ++ v.fills.map fun f => { f with row := row f.row }
    opmem := v.opmem.foldl (fun m (p : Nat × Byte) => mset m (relocate pairs (fun b => b.oBase) (fun b => b.oCount) 16384 p.1) p.2) k1.opmem
    acc := v.acc.foldl (fun m (p : Nat × W32) => mset m (relocate pairs (fun b => b.accBase) (fun b => b.accCount) 16384 p.1) p.2) k1.acc
    hist := mset k1.hist v.ctx v.hist
    bins := k1.bins ++ v.bins
    namedQ := k1.namedQ ++ v.namedQ.map cmd
    fabricQ := k1.fabricQ ++ v.fabricQ.map cmd
    nextAge := k1.nextAge + v.gangs.length }
  let s0 := s.setCore c (k2.modSlot n fun _ => v.regs)
  let free := ps.foldl (fun t p => t.dropScratchHeads c (64 * p.2.rowBase) (64 * p.2.rows)) s0
  let placed := v.heads.foldl (fun t h => t.addHead (c / 256)
    { h with pa := 2 ^ 60 + 2 ^ 20 * c + rows (h.pa - (2 ^ 60 + 2 ^ 20 * v.core)) }) free
  let s1 : State := { placed with remotes := placed.remotes ++ v.answers.map fun r => { r with core := c, gang := slotMap r.gang } }
  let yokes := v.gangs.filterMap fun (g : Nat × Gang) => (g.2.waits.find? fun w => w.cause == .yoke).map fun w =>
    (c, slotMap g.1, (match w.instr with | .yoke f => bitsOf ((g.2.lane (lowLane w.mask)).rv f.a) 0 16 | _ => 0), w.since)
  let s2 := s1.modCluster (c / 4) fun q => { q with waiting := q.waiting ++ yokes }
  let s3 := v.gangs.foldl (fun t (g : Nat × Gang) => g.2.waits.foldl (fun t w =>
    if w.translates then startWalk t c g.2.tenant w.va else t) t) s2
  v.gangs.foldl (fun t (g : Nat × Gang) => g.2.interests.foldl (fun t (q : Nat × Interest) =>
    if q.2.state == .pending then
      let who (core slot : Nat) : Consumer := { pkg := s.self, core := core, ctx := v.ctx, gang := slot, slot := q.1, serial := q.2.serial }
      let oldCore := s.fen.findSome? fun e => e.faces.findSome? fun f => match f.1 with
        | .consumer x => if x.ctx == v.ctx && x.gang == g.1 && x.slot == q.1 && x.serial == q.2.serial then some x.core else none
        | _ => none
      t.push (.rebind { tenant := g.2.tenant, name := q.2.name, old := who (oldCore.getD c) g.1, new := who c (slotMap g.1) })
    else t) t) s3

/-- LOAD_COMPLETE (R312): the context is resident with the contents that its area names (log entry 11); replies held for it land before its
gangs are eligible (R176). -/
def execLoadComplete (it : AtCore) (s : State) : Result :=
  .next (match (s.core it.core).moves.find? fun m => m.slot == it.item && !m.saving with
    | none => s
    | some m =>
      if s.ck < m.until_ then s
      else
        let c := it.core
        let ctx := ((s.core c).slotOf it.item).ctx.toNat
        let held := s.rd (fwPhys m.addr + 64) 8
        let s1 := match s.saved.find? fun v => v.uid == held && v.ctx == ctx with
          | some v =>
            let t := restore s c it.item v
            { t with saved := t.saved.map fun (w : Saved) => if w.uid == v.uid then { w with current := false } else w }
          | none => s
        let s2 := s1.modCore c fun k =>
          let k1 := k.modSlot it.item fun u =>
            { u with state := .resident, ctx := BitVec.ofNat 12 ctx, trapbase := BitVec.ofNat 64 (s.rd (fwPhys m.addr + 16) 8) &&& ~~~0x1FFF
                     wholeInterval := false }
          { k1 with moves := k1.moves.filter fun x => x.slot != it.item, event := k1.event ||| BitVec.ofNat 5 (2 ^ (2 + it.item)) }
        let s3 := s2.modCtx ctx fun x =>
          { x.leave c it.item with places := (x.leave c it.item).places ++ [(c, it.item, m.addr)], areas := x.areas.erase m.addr }
        let mine : List SvcReply := s3.heldReplies.filter fun r => r.ctx == ctx
        mine.foldl deliverReply { s3 with heldReplies := s3.heldReplies.filter fun r => r.ctx != ctx })

end Sys2Proof.Machine
end

