-- ==== Sys2Proof/Machine/Scheduling.lean ====
section
/-! DEFINITION. The events of the context arbiter, energy intervals, spawn bins and tasks (R160, R297, R299, R301, R303,
R423 to R425). -/

namespace Sys2Proof.Machine

/-! ### Slices and overruns (R297, R299) -/

/-- SLICE_END (R297): the slice is over; the running context is charged and a new slice begins. -/
def execSliceEnd (core : Nat) (s : State) : Result := .next (arbitrate s core fun k => k.newSlice)

/-- Whether a gang has overrun and this is not yet noted (R299; log entry 50). -/
def overrun (g : Gang) : Bool := g.yieldCtr == 0 && !g.overran && g.stop.isNone

/-- A YOVR notice (R299, R307): written, or pending while the table is full. -/
def noteOverrun (s : State) (c slot : Nat) (g : Gang) : State :=
  let f := g.lane (lowLane g.live)
  let r := trapRecord s g f tcYOVR true false f.pc [BitVec.ofNat 64 g.declared]
  match writeRecord s c g.ctx r with
  | some (_, t) => t
  | none => s.modGang c slot fun x => { x with notices := x.notices ++ [r] }

/-- YIELD_OVERRUN (R299): the notice, the context's OVR and PENALTY, then a decision point. If it switches, the gang parks at its next
commit point, which is here when its region is empty. -/
def execYieldOverrun (at_ : AtGang) (s : State) : Result :=
  .next (match s.gang? at_.core at_.gang with
    | none => s
    | some g =>
      if !overrun g then s
      else
        let s1 := (noteOverrun s at_.core at_.gang g).modGang at_.core at_.gang fun x => { x with overran := true }
        let s2 := s1.modCore at_.core fun k => match k.slotFor g.ctx with
          | some n => k.modSlot n fun u => { u with ovr := if u.ovr = BitVec.allOnes 32 then u.ovr else u.ovr + 1, penalty := 4 }
          | none => k
        let s3 := arbitrate s2 at_.core fun k => k.decide none
        if (s3.core at_.core).running = (s2.core at_.core).running ∨ (s3.core at_.core).running = (s2.core at_.core).slotFor g.ctx then s3
        else s3.modGang at_.core at_.gang fun x =>
          let y := { x with yieldDue := true, declared := 1048512 }
          if x.region.isEmpty then y.parkYield else y)

/-! ### Energy intervals (R303) -/

/-- ENERGY_INTERVAL (R303, R319): the end of an interval. A turn in whose ck an interval ends runs it as those ck pass, before
anything else (log entry 4). -/
def execEnergyInterval (core : Nat) (s : State) : Result := .next (s.modCore core Core.interval)

/-! ### Free gangs (R86, R89, R159, R423 to R425) -/

/-- The registers per lane that a launch's translation keeps resident (log entry 70). -/
def launchResident (s : State) (uid : Nat) : Nat :=
  (((s.launch? uid).bind fun l => s.kiln[l.transl]?).map fun t => if t.resident = 0 then 128 else t.resident).getD 128

/-- Form a gang of a context on a core, youngest of all, in its lowest free slot (R162, R295, R296). -/
def formGang (s : State) (c ctx tenant launch home : Nat) (block : Option Nat) (index : Nat) (fs : List Fibre) : State :=
  let slot := (freeSlots s c).headD 0
  let (uid, s1) := s.fresh
  let arch : GArch := { GArch.empty with fibres := (List.range fs.length).zip fs }
  let g : Gang := { Gang.empty with
    uid := uid, ctx := ctx, tenant := tenant, arch := arch, base := arch, launch := launch, home := home, block := block
    index := index, transl := ((s.launch? launch).map fun l => l.transl).getD 0, age := (s.core c).nextAge }
  s1.modCore c fun k => { k with gangs := mset k.gangs slot g, nextAge := k.nextAge + 1 }

/-- The pseudo-block of a free gang: its own barrier slots and queues (R167, R272). -/
def ownBlock (uid launch ctx slot : Nat) : Block :=
  { uid := uid, launch := launch, ctx := ctx, x := 0, y := 0, z := 0, linear := 2 ^ 32, gangs := [slot], bars := []
    barCount := 16, counters := [], queues := [], queueClock := [], rowBase := 0, rows := 0, oBase := 0, oCount := 0
    accBase := 0, accCount := 0, claims := [], exited := false }

/-- Form a free gang on a core (R424, R425). -/
def formFree (s : State) (c ctx launch home : Nat) (fs : List Fibre) : State :=
  let (u, s1) := s.fresh
  let slot := (freeSlots s c).headD 0
  let s2 := s1.modCore c fun k => { k with blocks := k.blocks ++ [ownBlock u launch ctx slot] }
  formGang s2 c ctx (s.ctx ctx).tenant launch home (some u) 0 fs

/-- The spawn serial of a fibre. -/
def serialOf (f : Fibre) : Nat := match f.name with | .spawned n => n | .launched _ _ _ _ | .service _ => 0

/-- Fibres in ascending serial order (R159). -/
def bySerial (fs : List Fibre) : List Fibre := sortBy (fun a b => decide (serialOf a ≤ serialOf b)) fs

/-- Whether a context is resident on a core, so that gangs of it may form there. -/
def residentOn (s : State) (c ctx : Nat) : Bool :=
  match (s.core c).slotFor ctx with
  | some n => ((s.core c).slotOf n).live
  | none => false

/-- Whether a bin launches or closes now (R424). -/
def binDue (s : State) (b : Bin) : Bool := 32 ≤ b.fibres.length || b.opened + (s.ctx b.ctx).bintime ≤ s.ck

/-- The fibres of the die pool that share the key of its item `i` (R425). -/
def poolGroup (d : Die) (i : Nat) : List PoolItem :=
  match d.pool[i]? with
  | some p => match p.fibre with
    | some f => (d.pool.filter fun q => q.ctx == p.ctx && (match q.fibre with
        | some g => g.entry == f.entry && g.home == f.home
        | none => false)).take 32
    | none => []
  | none => []

/-- The core on which a pool gang forms (R425): its home block's, else the nearest with the context and room. -/
def poolCore (s : State) (die : Nat) (ps : List PoolItem) (ctx home resident : Nat) : Option Nat :=
  let ok (c : Nat) : Bool := residentOn s c ctx && hasRoom s c 1 resident
  let homeCore := (s.cores.find? fun (q : Nat × Core) => (q.2.block? home).isSome).map fun q => q.1
  let low := ps.foldl (fun (o : Option (Nat × Nat)) p => match p.fibre with
    | some f => match o with
      | some q => if serialOf f < q.1 then some (serialOf f, p.core) else some q
      | none => some (serialOf f, p.core)
    | none => o) none
  let src := (low.map fun q => q.2).getD (die * 256)
  match homeCore with
  | some c => if ok c then some c else nearest ok src
  | none => nearest ok src
where
  /-- The nearest core of the die that qualifies. -/
  nearest (ok : Nat → Bool) (src : Nat) : Option Nat :=
    (List.range 256).foldl (fun (o : Option Nat) i =>
      let c := die * 256 + i
      if ok c then
        match o with
        | some b => if hops src c < hops src b then some c else some b
        | none => some c
      else o) none

/-- Form a gang of a group of pool fibres when it is due and some core has room (R425). -/
def takePool (s : State) (die i : Nat) : State :=
  let ps := poolGroup (s.die die) i
  match ps with
  | [] => s
  | p :: _ =>
    match p.fibre with
    | none => s
    | some f =>
      if 32 ≤ ps.length ∨ (ps.any fun q => q.opened + (s.ctx p.ctx).bintime ≤ s.ck) then
        match poolCore s die ps p.ctx f.home (launchResident s f.launch) with
        | some c =>
          let s1 := s.modDie die fun d => { d with pool := d.pool.filter fun q => !ps.contains q }
          formFree s1 c p.ctx f.launch f.home (bySerial (ps.filterMap fun q => q.fibre))
        | none => s
      else s

/-- The item numbers of BIN_TIMEOUT from which the die pool's groups are counted. -/
def poolItem : Nat := 4096

/-- BIN_TIMEOUT (R424, R425): a full or timed-out bin becomes a free gang, or waits closed for room. -/
def execBinTimeout (it : AtCore) (s : State) : Result :=
  .next (
    if poolItem ≤ it.item then takePool s (it.core / 256) (it.item - poolItem)
    else
    match (s.core it.core).bins[it.item]? with
    | none => s
    | some b =>
      if !binDue s b then s
      else
        let launch := (b.fibres.head?.map fun f => f.launch).getD 0
        if residentOn s it.core b.ctx && hasRoom s it.core 1 (launchResident s launch) then
          let s1 := s.modCore it.core fun k => { k with bins := k.bins.eraseIdx it.item }
          formFree s1 it.core b.ctx launch b.home (bySerial b.fibres)
        else s.modCore it.core fun k => { k with bins := k.bins.modify it.item fun x => { x with closed := true } })

/-! ### Tasks (R160, R301, R341) -/

/-- Whether a core can start a task. -/
def canTake (s : State) (c : Nat) (t : Task) : Bool := residentOn s c t.ctx && hasRoom s c 1 (launchResident s t.launch)

/-- The cores whose deques core `c` steals from before the pool: its cluster's, from the next index on (R301). -/
def clusterVictims (c : Nat) : List Nat := [1, 2, 3].map fun i => c / 4 * 4 + (c + i) % 4

/-- The clusters of a die nearest first, ties to the lower index (R301). -/
def farVictims (c : Nat) : List Nat :=
  let cls := (List.range 64).filter fun i => i != c / 4 % 64
  let dist (i : Nat) : Nat := hops c (c / 256 * 256 + 4 * i)
  (sortBy (fun a b => decide (dist a < dist b ∨ (dist a = dist b ∧ a ≤ b))) cls).flatMap fun i =>
    (List.range 4).map fun j => c / 256 * 256 + 4 * i + j

/-- The task that a core takes next, and the state without it (R301). -/
def nextTask (s : State) (c : Nat) : Option (Task × State) :=
  let own := (s.core c).deque.find? (canTake s c)
  match own with
  | some t => some (t, s.modCore c fun k => { k with deque := k.deque.erase t })
  | none =>
    let steal (v : Nat) : Option (Task × State) :=
      (((s.core v).deque.reverse.find? (canTake s c))).map fun t =>
        (t, s.modCore v fun k => { k with deque := (k.deque.reverse.erase t).reverse })
    match (clusterVictims c).findSome? steal with
    | some r => some r
    | none =>
      let d := c / 256
      match (s.die d).pool.find? (fun p => match p.task with | some t => canTake s c t | none => false) with
      | some p => p.task.map fun t => (t, s.modDie d fun k => { k with pool := k.pool.erase p })
      | none => (farVictims c).findSome? steal

/-- The fibres of a task, with their spawn serials (R159, R160; log entry 59). -/
def taskFibres (s : State) (t : Task) (tenant : Nat) : List Fibre × State :=
  let stack := ((s.launch? t.launch).bind fun l => l.image.kernels[l.kernel]?).map fun k => k.stack
  let parent : Fibre := { Fibre.absent with stackSize := stack.getD 0, job := t.party.job, launchNo := t.party.launchNo, launch := t.launch }
  t.args.foldl (fun (acc : List Fibre × State) a =>
    let n := takeSerial acc.2 tenant t.party.job
    let u := n.2.fresh
    (acc.1 ++ [newFibre parent u.1 n.1 t.entry a [] t.home t.uid t.clock], u.2)) ([], s)

/-- Start a task as a free gang on a core, owing its join counter a decrement (R160). -/
def startTask (s : State) (c : Nat) (t : Task) : State :=
  let tenant := (s.ctx t.ctx).tenant
  let r := taskFibres s t tenant
  let j : JoinRef := { launch := t.launch, tenant := tenant, addr := t.join, forker := t.party.uid, home := t.home
                       party := t.party, clock := t.clock, owed := false }
  let s1 : State := { r.2 with tasks := mset r.2.tasks t.uid j }
  let s2 := s1.modLaunch t.launch fun l => { l with spawned := l.spawned + (r.1.length - 1) }
  formFree s2 c t.ctx t.launch t.home r.1

/-- TASK_TAKE (R160, R301): a core with room takes the next task. -/
def execTaskTake (core : Nat) (s : State) : Result :=
  .next (match nextTask s core with
    | some (t, u) => startTask u core t
    | none => s)

end Sys2Proof.Machine
end

