-- ==== Sys2Proof/Machine/Paging.lean ====
section
/-! DEFINITION. Page tables as the service cores keep them, page walks, failed pages, migration of pages, and the events of
memory (R195, R343 to R358, R443, R453 to R455, R490). -/

namespace Sys2Proof.Machine

/-! ### Tables (R350, R352) -/

/-- The number of entries of a table at a level (R350). -/
def levelCount (lvl : Nat) : Nat := match lvl with | 0 => 131072 | 3 => 32 | _ => 512

/-- The indices of a table whose entry has V set. -/
def presentIdx (m : List Host.Cell) (tbl n : Nat) : List Nat :=
  m.filterMap fun c =>
    if tbl ≤ c.1 ∧ c.1 < tbl + 8 * n ∧ (c.1 - tbl) % 8 = 0 ∧ c.2.toNat % 2 = 1 then some ((c.1 - tbl) / 8) else none

/-- A leaf of a table: where its PTE lies, the PTE, its first virtual address and its size. -/
structure Leaf where
  at_ : Nat
  pte : W64
  va : Nat
  size : Nat
deriving DecidableEq, Repr

/-- The leaves under a table, and the tables themselves with their sizes. -/
def tableTree (m : List Host.Cell) (fuel lvl tbl va : Nat) : List Leaf × List (Nat × Nat) :=
  match fuel with
  | 0 => ([], [])
  | k + 1 =>
    (presentIdx m tbl (levelCount lvl)).foldl (fun (acc : List Leaf × List (Nat × Nat)) i =>
      let e : W64 := BitVec.ofNat 64 (memNat m (tbl + 8 * i) 8)
      let v := va + i * 2 ^ levelShift lvl
      if e.getLsbD 1 then (acc.1 ++ [{ at_ := tbl + 8 * i, pte := e, va := v, size := levelSize lvl }], acc.2)
      else
        let r := tableTree m k (lvl + 1) (2 ^ 8 * bitsOf e 8 44) v
        (acc.1 ++ r.1, acc.2 ++ r.2)) ([], [(tbl, 8 * levelCount lvl)])

/-- The leaves and tables of every tenant. -/
def allTables (s : State) : List Leaf × List (Nat × Nat) :=
  s.tenants.foldl (fun (acc : List Leaf × List (Nat × Nat)) (t : Nat × Tenant) =>
    let r := tableTree s.mem 4 0 (s.root t.1) 0
    (acc.1 ++ r.1, acc.2 ++ r.2)) ([], [])

/-- The leaf that maps an address of a tenant, whether or not its V bit is still set (R455). -/
def rawLeaf (s : State) (fuel lvl tbl va : Nat) : Option Leaf :=
  match fuel with
  | 0 => none
  | k + 1 =>
    let at_ := tbl + 8 * levelIndex va lvl
    let e := s.pteAt at_
    if e.getLsbD 1 then some { at_ := at_, pte := e, va := va / levelSize lvl * levelSize lvl, size := levelSize lvl }
    else if e.getLsbD 0 then rawLeaf s k (lvl + 1) (2 ^ 8 * bitsOf e 8 44) va
    else none

/-- The present leaf that maps an address of a tenant. -/
def leafAt (s : State) (tenant va : Nat) : Option Leaf :=
  (rawLeaf s 4 0 (s.root tenant) va).bind fun l => if l.pte.getLsbD 0 then some l else none

/-! ### Memory taken by service cores (R343, R347, R352; log entry 19) -/

/-- The first address of a stack of this package. -/
def State.stackAddr (s : State) (stk : Nat) : Nat := 2 ^ 48 * s.self + 2 ^ 36 * stk

/-- The offset in each stack of the areas that the package keeps, below those of R347, for page tables, save areas, the kiln cache and the
journal (R435; log entry 19). -/
def serviceArea : Nat := 56 * 2 ^ 30

/-- A page of a stack's service area for a table. -/
def takeTable (s : State) (stk : Nat) : Nat × State :=
  let n := mget 0 s.nextFrame stk
  (s.stackAddr stk + serviceArea + 2 ^ 16 * n, { s with nextFrame := mset s.nextFrame stk (n + 1) })

/-- What a base moves to until `size` bytes aligned to `size` lie clear of taken ranges. -/
def fitAt (fuel : Nat) (taken : List (Nat × Nat)) (size base : Nat) : Nat :=
  match fuel with
  | 0 => base
  | k + 1 =>
    match taken.find? fun r => overlaps r.1 r.2 base size with
    | some r => fitAt k taken size ((r.1 + r.2 + size - 1) / size * size)
    | none => base

/-- The launch pages (R490), as ranges. -/
def launchRanges (s : State) : List (Nat × Nat) :=
  s.launches.flatMap fun l => if l.state == .done then [] else [(l.paramPage.toNat, 2 ^ 16), (l.constPage.toNat, 2 ^ 16)]

/-- The ranges of physical memory that no new page may take. -/
def takenRanges (s : State) : List (Nat × Nat) :=
  let t := allTables s
  (t.1.map fun l => (ptePa l.pte, l.size)) ++ t.2 ++ (s.failedPages.map fun p => (2 ^ 16 * p, 2 ^ 16)) ++ launchRanges s
    ++ s.dies.flatMap fun (d : Nat × Die) => (d.2.poolPages ++ d.2.recordPages).map fun p => (p, 2 ^ 16)

/-- The enabled windows of a tenant (R352): base and limit. -/
def tenantWindows (s : State) (tenant : Nat) : List (Nat × Nat) :=
  (List.range 8).filterMap fun i =>
    let at_ := (s.tenant tenant).desc + 32 + 16 * i
    let b := memNat s.mem at_ 8
    let l := memNat s.mem (at_ + 8) 8
    if b % 2 = 1 then some (2 ^ 16 * (b / 2 ^ 16 % 2 ^ 36), 2 ^ 16 * (l / 2 ^ 16 % 2 ^ 36)) else none

/-- A free page of a size within a tenant's windows on one of some stacks (log entry 19). -/
def freePage (s : State) (tenant size : Nat) (stks : List Nat) : Option Nat :=
  let taken := takenRanges s
  let ws := tenantWindows s tenant
  (stks.filter fun k => !s.stackDown.getLsbD k).findSome? fun k =>
    let lo := s.stackAddr k
    let hi := lo + serviceArea
    ws.findSome? fun w =>
      let base := fitAt (taken.length + 1) taken size ((max w.1 lo + size - 1) / size * size)
      if base + size ≤ min w.2 hi then some base else none

/-! ### Changing a table (R350) -/

/-- Write one PTE. -/
def State.wrPte (s : State) (at_ : Nat) (e : W64) : State := s.wr at_ 8 e.toNat

/-- Write the leaves of a table that splits a large leaf. -/
def splitLeaf (s : State) (lvl tbl : Nat) (e : W64) : State :=
  (List.range (levelCount lvl)).foldl (fun t i =>
    t.wrPte (tbl + 8 * i) (e + BitVec.ofNat 64 (i * levelSize lvl))) s

/-- Where the 64 KiB leaf of an address lies, making and splitting tables on the way. -/
def leafSlot (s : State) (fuel lvl tbl va stk : Nat) : Nat × State :=
  let at_ := tbl + 8 * levelIndex va lvl
  match fuel with
  | 0 => (at_, s)
  | k + 1 =>
    let e := s.pteAt at_
    if e.getLsbD 0 && !e.getLsbD 1 then leafSlot s k (lvl + 1) (2 ^ 8 * bitsOf e 8 44) va stk
    else
      let t := takeTable s stk
      let s1 := t.2.wrPte at_ (BitVec.ofNat 64 (t.1 + 1))
      let s2 := if e.getLsbD 0 && lvl != 0 then splitLeaf s1 (lvl + 1) t.1 e else s1
      leafSlot s2 k (lvl + 1) t.1 va stk

/-- Put a 64 KiB leaf into a tenant's table. -/
def putLeaf (s : State) (tenant va : Nat) (e : W64) : State :=
  let r := leafSlot s 3 0 (s.root tenant) va (stackOf (ptePa e))
  r.2.wrPte r.1 e

/-- The leaf PTE of a page with its attributes (R346, R350). -/
def leafPte (pa : Nat) (w x t : Bool) (home sel : Nat) : W64 :=
  let b (c : Bool) (n : Nat) : Nat := if c then 2 ^ n else 0
  BitVec.ofNat 64 (1 + 2 + 4 + b w 3 + b x 4 + b t 6 + 2 ^ 8 * home + 2 ^ 16 * (pa / 2 ^ 16) + 2 ^ 52 * sel)

/-- The memory without the bytes of a range: they read as zero. -/
def memClear (m : List Host.Cell) (a n : Nat) : List Host.Cell := m.filter fun c => !(a ≤ c.1 && c.1 < a + n)

/-- The bytes of a range moved to another place. -/
def memMove (m : List Host.Cell) (a b n : Nat) : List Host.Cell :=
  (m.filter fun c => a ≤ c.1 && c.1 < a + n).foldl (fun t c => memSet t (c.1 - a + b) c.2) (memClear (memClear m b n) a n)

/-! ### Pins (R345, R346) -/

/-- Whether a home may be given to a page at a physical address (R346, R351). -/
def homeAllowed (pa home sel : Nat) : Bool :=
  match home with
  | 0 | 3 => sel == 0
  | 1 => sel < 512 && sel / 128 == dieOf pa
  | _ => sel < 1024

/-- The scratchpad rows of a core that firmware has set aside for pages homed there (R326): the topmost ones. -/
def rowsAside (s : State) (c : Nat) : Nat :=
  (allTables s).1.foldl (fun n l => if pteHome l.pte = 2 ∧ pteHomeSel l.pte = c then n + l.size / 64 else n) 0

/-- Whether a pin has room (R326, R345, R357): the pages pinned in a slice that share its sets take at most PINW ways, and a page of a
core's SRAM takes rows above those of its blocks. -/
def pinRoom (s : State) (pa home sel : Nat) : Bool :=
  if home = 2 then
    decide ((s.core sel).blocks.foldl (fun n b => max n (b.rowBase + b.rows)) 0 + rowsAside s sel + 1024 ≤ 16384)
  else if home = 1 then
    let pinw := (mget SliceCfg.reset (s.die (sel / 128)).slices (sel % 128)).pinw.toNat
    let mine := (allTables s).1.filter fun l =>
      pteHome l.pte == 1 && pteHomeSel l.pte == sel && ptePa l.pte / 2 ^ 16 % 4 == pa / 2 ^ 16 % 4 && ptePa l.pte != pa
    mine.length < pinw
  else true

/-! ### Invalidation (R356) -/

/-- Tag values below this are cores' (R316); others stand for services and commands. -/
def awaitBase : Nat := 4096

/-- Invalidate a range of a tenant here and ask the other packages to, on behalf of a service or a command; `moved` says from where and
to where a migration has moved the page. -/
def invalidateFor (s : State) (tenant base len : Nat) (req : Option SvcReq) (cmd : Option CmdRef)
    (moved : Option (Nat × Nat × Nat)) : State :=
  let v : Invalidation := { tenant := tenant, base := BitVec.ofNat 64 base, len := BitVec.ofNat 64 len, all := false, acks := 0 }
  let s1 := invalidateHere s v
  let acks : BitVec 16 := BitVec.ofNat 16 (s.peers.foldl (fun m p => m + 2 ^ p) 0) ||| ownAck s v
  if acks = 0 then s1
  else
    let (u, s2) := s1.fresh
    let a : Await := { tag := awaitBase + u, acks := acks, req := req, cmd := cmd, moved := moved }
    let s3 := holdAck { s2 with awaits := s2.awaits ++ [a] } (awaitBase + u) v
    s.peers.foldl (fun t p => t.sendMgmt p (.invalidate tenant v.base v.len false (awaitBase + u))) s3

/-- An acknowledgement of an invalidation arrives from a package: a core's, a service's or a command's. -/
def ackInvalidate (s : State) (tag src : Nat) : State :=
  let clear (a : BitVec 16) : BitVec 16 := a &&& ~~~(BitVec.ofNat 16 (2 ^ src))
  if tag < awaitBase then
    s.modCore tag fun k => { k with inval := k.inval.map fun v => { v with acks := clear v.acks } }
  else
    let s1 : State := { s with awaits := updAll (fun a => a.tag == tag) (fun a => { a with acks := clear a.acks }) s.awaits }
    s1

/-! ### Failed pages (R455) -/

/-- Enter a physical page in the failed-page map: V is cleared in every leaf that maps it, and the range invalidated. -/
def enterFailed (s : State) (page : Nat) : State :=
  if s.failedPages.contains page then s
  else
    let hit := s.tenants.flatMap fun (t : Nat × Tenant) =>
      ((tableTree s.mem 4 0 (s.root t.1) 0).1.filter fun l => overlaps (ptePa l.pte) l.size (2 ^ 16 * page) (2 ^ 16)).map
        fun l => (t.1, l)
    let s1 : State := { s with failedPages := page :: s.failedPages }
    hit.foldl (fun t q => invalidateFor (t.wrPte q.2.at_ (q.2.pte &&& ~~~1)) q.1 q.2.va q.2.size none none none) s1

/-- The pages of a range of a tenant that lie on failed pages (R445): their virtual addresses. -/
def failedIn (s : State) (tenant base len : Nat) : List Nat :=
  if len = 0 then []
  else
    let first := base / 2 ^ 16
    let ls := s.failedPages.flatMap fun p => (rawLeaves s tenant).filterMap fun l =>
      if ptePa l.pte ≤ 2 ^ 16 * p ∧ 2 ^ 16 * p < ptePa l.pte + l.size then some (l.va + (2 ^ 16 * p - ptePa l.pte)) else none
    let down := ((rawLeaves s tenant).filter fun l => s.pageFailed (ptePa l.pte / 2 ^ 16)).flatMap fun l =>
      if s.failedPages.contains (ptePa l.pte / 2 ^ 16) then [] else (List.range (l.size / 2 ^ 16)).map fun i => l.va + 2 ^ 16 * i
    sortBy (fun a b => decide (a ≤ b)) ((ls ++ down).filter fun v => first ≤ v / 2 ^ 16 && v < base + len)
where
  /-- The leaves of a tenant, whose V may be clear. -/
  rawLeaves (s : State) (tenant : Nat) : List Leaf := rawTree s.mem 4 0 (s.root tenant) 0
  /-- The leaves under a table that have L set, or V set below a table. -/
  rawTree (m : List Host.Cell) (fuel lvl tbl va : Nat) : List Leaf :=
    match fuel with
    | 0 => []
    | k + 1 =>
      let idx := m.filterMap fun c =>
        if tbl ≤ c.1 ∧ c.1 < tbl + 8 * levelCount lvl ∧ (c.1 - tbl) % 8 = 0 then some ((c.1 - tbl) / 8) else none
      idx.flatMap fun i =>
        let e : W64 := BitVec.ofNat 64 (memNat m (tbl + 8 * i) 8)
        let v := va + i * 2 ^ levelShift lvl
        if e.getLsbD 1 then [{ at_ := tbl + 8 * i, pte := e, va := v, size := levelSize lvl }]
        else if e.getLsbD 0 then rawTree m k (lvl + 1) (2 ^ 8 * bitsOf e 8 44) v
        else []

/-! ### Moving a page (R357, R358) -/

/-- What a gang's accesses not yet performed, and those of its record, name after a physical range has moved. -/
def Region.moved (r : Region) (dest : Nat → Nat) : Region :=
  let acc (a : Access) : Access := { a with pa := dest a.pa }
  let loc (l : Loc) : Loc := match l with | .phys a => .phys (dest a) | _ => l
  { r with stores := r.stores.map fun st => { st with loc := loc st.loc, acc := acc st.acc }, reads := r.reads.map acc }

/-- A physical range moved: its bytes, race records, release heads, FATOM windows, and the stores to it that are still gated (R357). -/
def movePhys (s : State) (old new n : Nat) : State :=
  let dest (pa : Nat) : Nat := if old ≤ pa ∧ pa < old + n then pa - old + new else pa
  let mine (pa : Nat) : Bool := decide (old ≤ pa ∧ pa < old + n)
  let recs := (s.dies.flatMap fun (d : Nat × Die) => d.2.records.filter fun r => mine r.pa).map fun r => { r with pa := dest r.pa }
  let rels := (s.dies.flatMap fun (d : Nat × Die) => d.2.releases.filter fun r => mine r.pa).map fun r => { r with pa := dest r.pa }
  let wins := (s.dies.flatMap fun (d : Nat × Die) => d.2.windows.filter fun w => mine w.pa).map fun w => { w with pa := dest w.pa }
  let s1 := s.mapDies fun d => { d with
    records := d.records.filter fun r => !mine r.pa
    releases := d.releases.filter fun r => !mine r.pa
    windows := d.windows.filter fun w => !mine w.pa }
  let s2 := s1.modDie (dieOf new) fun d =>
    { d with records := recs ++ d.records, releases := rels ++ d.releases, windows := d.windows ++ wins }
  let s3 := s2.mapCores fun k => { k with gangs := k.gangs.map fun (q : Nat × Gang) =>
    (q.1, { q.2 with region := q.2.region.moved dest, spec := q.2.spec.map fun p => { p with held := p.held.moved dest } }) }
  { s3 with mem := memMove s3.mem old new n }

/-- The stacks that a page may move to. -/
def stackChoice (newStack : Option Nat) (home sel : Nat) : List Nat :=
  match newStack with
  | some k => [k]
  | none => if home = 1 then (List.range 4).map fun i => sel / 128 * 4 + i else List.range 16

/-- The target of a migrate command for a leaf: its physical address and home; none when the command fails (R357). -/
def pageTarget (s : State) (tenant : Nat) (l : Leaf) (newStack : Option Nat) (newHome : Option (Nat × Nat)) :
    Option (Nat × Nat × Nat) :=
  let h := newHome.getD (pteHome l.pte, pteHomeSel l.pte)
  let stays := match newStack with
    | some k => decide (stackOf (ptePa l.pte) = k)
    | none => true
  let pa := if stays then some (ptePa l.pte) else freePage s tenant l.size (stackChoice newStack h.1 h.2)
  match pa with
  | none => none
  | some a => if homeAllowed a h.1 h.2 && pinRoom s a h.1 h.2 then some (a, h.1, h.2) else none

/-- The lines of a range leave every slice, written back (R344, R357). -/
def dropLines (s : State) (pa n : Nat) : State :=
  let mine (x : L2Line) : Bool := overlaps (512 * x.line) 512 pa n
  evictLines (s.mapDies fun d => { d with l2 := d.l2.map fun (q : Nat × List L2Line) => (q.1, q.2.filter fun x => !mine x) })
    (s.dies.flatMap fun (d : Nat × Die) => d.2.l2.flatMap fun (q : Nat × List L2Line) => q.2.filter mine)

/-- Carry a migration out: the copy, the new PTE and the invalidation (R357). -/
def migrateLeaf (s : State) (tenant : Nat) (l : Leaf) (t : Nat × Nat × Nat) (req : Option SvcReq) (cmd : Option CmdRef) : State :=
  let s0 := dropLines s (ptePa l.pte) l.size
  let s1 := if t.1 = ptePa l.pte then s0 else movePhys s0 (ptePa l.pte) t.1 l.size
  let keep : W64 := l.pte &&& BitVec.ofNat 64 0x7F
  let e : W64 := keep ||| BitVec.ofNat 64 (2 ^ 8 * t.2.1 + 2 ^ 16 * (t.1 / 2 ^ 16) + 2 ^ 52 * t.2.2)
  invalidateFor (s1.wrPte l.at_ e) tenant l.va l.size req cmd (if t.1 = ptePa l.pte then none else some (ptePa l.pte, t.1, l.size))

/-- Count a migrate command that completes after its deadline (R358). -/
def countSlip (s : State) (tenant deadline : Nat) : State :=
  if deadline < s.ticks then
    let at_ := (s.tenant tenant).desc + 28
    s.wr at_ 4 (min (memNat s.mem at_ 4 + 1) (2 ^ 32 - 1))
  else s

/-! ### Walks (R355) -/

/-- Where a walk for an address starts: below the deepest non-leaf entry that the walk cache of its slice holds (R354): level and
table. -/
def walkStart (s : State) (d tenant va : Nat) : Nat × Nat :=
  let cache := mget [] (s.die d).walkCaches (walkerSlice tenant (BitVec.ofNat 64 va))
  (([2, 1, 0].findSome? fun lvl => cache.find? fun e =>
    e.tenant == tenant && e.lvl == lvl && e.idx == va / 2 ^ levelShift lvl).map fun e => (e.lvl + 1, e.tbl)).getD (0, s.root tenant)

/-- The non-leaf entries that a walk has read. -/
def walkTables (s : State) (fuel tenant lvl tbl va : Nat) : List WalkEntry :=
  match fuel with
  | 0 => []
  | k + 1 =>
    let e := s.pteAt (tbl + 8 * levelIndex va lvl)
    if lvl < 3 && e.getLsbD 0 && !e.getLsbD 1 && nonLeafOk s e lvl then
      let t := 2 ^ 8 * bitsOf e 8 44
      { tenant := tenant, lvl := lvl, idx := va / 2 ^ levelShift lvl, tbl := t } :: walkTables s k tenant (lvl + 1) t va
    else []

/-- The walk cache of a walk's slice takes the entries that it read, 256 at most: the latest (R354; log entry 5). -/
def cacheWalk (s : State) (d tenant va : Nat) (from_ : Nat × Nat) : State :=
  let read := walkTables s (4 - from_.1) tenant from_.1 from_.2 va
  s.modDie d fun k => { k with walkCaches := mmod [] k.walkCaches (walkerSlice tenant (BitVec.ofNat 64 va)) fun l =>
    (read ++ l.filter fun e => !read.contains e).take 256 }

/-- The first PTE of a walk that lies in another package and has not been read (R486). -/
def farPte (s : State) (fuel lvl tbl va : Nat) : Option Nat :=
  match fuel with
  | 0 => none
  | k + 1 =>
    let at_ := tbl + 8 * levelIndex va lvl
    if pkgOf at_ ≠ s.self ∧ mfind s.farPtes at_ = none then some at_
    else
      let e := s.pteAt at_
      if e.getLsbD 0 && !e.getLsbD 1 then farPte s k (lvl + 1) (2 ^ 8 * bitsOf e 8 44) va else none

/-- The gang number that a walker's reads of other packages carry. -/
def walkerGang : Nat := 40

/-- The TLB of a core with a translation for every resident context of a tenant (R354). -/
def Core.tlbFill (k : Core) (tenant va : Nat) (pte : W64) (size : Nat) (ctxs : List Nat) : Core :=
  let base := va / size * size
  let mk (x : Option Nat) : TlbEntry := { tenant := tenant, ctx := x, va := base, size := size, pte := pte }
  let new := if pteG pte then [mk none] else ctxs.map fun x => mk (some x)
  { k with tlb := (new ++ k.tlb.filter fun e => !(e.tenant == tenant && e.va == base && e.size == size
      && (e.ctx == none || ctxs.any fun x => e.ctx == some x))).take 512 }

/-- Give a translation to the cores that wait for it. -/
def fillTlbs (s : State) (cores : List Nat) (tenant va : Nat) (pte : W64) (size : Nat) : State :=
  cores.foldl (fun t c => t.modCore c fun k =>
    k.tlbFill tenant va pte size ((k.gangs.filterMap fun (q : Nat × Gang) => if q.2.tenant == tenant then some q.2.ctx else none).eraseDups)) s

/-- Whether an address lies in the 64 KiB page with a number. -/
def onPage (va : W64) (page : Nat) : Bool := va.toNat / 2 ^ 16 == page

/-- A page fault that optimised native code has met (R237): its region rolls back and replays, which is counted under TLB. -/
def replayFaults (s : State) (c slot : Nat) (g : Gang) : State :=
  if !g.inOrder && g.waits.any fun w => w.isNative && w.cause == .page then
    rollback (s.modGang c slot fun x => { x with replayFor := some 7 }) c slot
  else s

/-- The waits of a tenant's gangs for a page now wait for the service core (R187, R355). -/
def waitPage (s : State) (tenant page : Nat) : State :=
  let mine (w : Wait) : Bool := (w.cause == .tlb || w.cause == .page) && onPage w.va page
  let lanes (p : Wait → Bool) (g : Gang) : Mask := g.waits.foldl (fun (m : Mask) w => if mine w && p w then m ||| w.mask else m) 0
  let paged (f : Fibre) : Fibre := { f with status := .parked .page }
  let s1 := s.mapCores fun k => { k with gangs := k.gangs.map fun (q : Nat × Gang) =>
    if q.2.tenant == tenant && q.2.waits.any mine then
      let g := (q.2.mapBoth (lanes (fun w => !w.isNative) q.2) fun _ f => paged f).mapLanes (lanes Wait.isNative q.2) fun _ f => paged f
      (q.1, { g with waits := updAll mine (fun w => { w with cause := .page }) g.waits })
    else q }
  s1.cores.foldl (fun t (k : Nat × Core) => k.2.gangs.foldl (fun u (q : Nat × Gang) => replayFaults u k.1 q.1 q.2) t) s1

/-- The waits of a tenant's gangs for a page that cannot be made resident raise PF when they go on; so do the engine
commands that stand at it (R247, R355). -/
def failPage (s : State) (tenant page : Nat) : State :=
  let mark (m : EngCmd) : EngCmd := { m with addr2 := BitVec.ofNat 64 (2 ^ 16 * page) ||| 1 }
  s.mapCores fun k =>
    let ofTenant (slot : Nat) : Bool := match mfind k.gangs slot with | some g => g.tenant == tenant | none => false
    let head (l : List EngCmd) : List EngCmd := match l with | m :: r => mark m :: r | [] => []
    let shared (l : List EngCmd) : List EngCmd :=
      match l with | m :: r => (if ofTenant m.gang then mark m else m) :: r | [] => []
    { k with
      fabricQ := shared k.fabricQ
      gangs := k.gangs.map fun (q : Nat × Gang) =>
        if q.2.tenant == tenant then
          let mine (w : Wait) : Bool := w.translates && onPage w.va page
          (q.1, { q.2 with waits := updAll mine (fun w => { w with pf := page :: w.pf }) q.2.waits, q0 := head q.2.q0, q2 := head q.2.q2 })
        else q }

/-- The answer that the service core has for a page (R355). -/
def pagerFor (s : State) (tenant : Nat) (va : W64) : ResidentMsg :=
  (s.pager.find? fun r => r.tenant == tenant && onPage r.va (va.toNat / 2 ^ 16)).getD { tenant := tenant, va := va, pte := none }

/-- PAGE_WALK (R351, R355): the walk ends for every waiter, or waits for a table in another package; a table in a lost one ends it
with a fault (R488). -/
def execPageWalk (r : WalkReq) (s : State) : Result :=
  .next (
    let die := r.core / 256
    let from_ := walkStart s die r.tenant r.va.toNat
    match farPte s (4 - from_.1) from_.1 from_.2 r.va.toNat with
    | some at_ =>
      if !s.live.getLsbD (pkgOf at_) then
        retryJoins (failPage { s with farPtes := [] } r.tenant (r.va.toNat / 2 ^ 16)) r.tenant (r.va.toNat / 2 ^ 16) true
      else s.ask { Packet.blank with dst := pkgOf at_, tenant := r.tenant, addr := at_, size := 8, op := pkRead, name := r.va }
        { tag := 0, core := r.core, gang := walkerGang, lane := 0, pkg := pkgOf at_, isWrite := false, atomic := false, engine := false, data := none, own := [] }
    | none =>
      let page := r.va.toNat / 2 ^ 16
      let mine (w : Walk) : Bool := w.slice == walkerSlice r.tenant r.va && w.tenant == r.tenant && w.page == page
      let cores := (r.core :: (s.die die).walks.flatMap fun w => if mine w then w.waiters else []).eraseDups
      let s1 := { (cacheWalk s die r.tenant r.va.toNat from_).modDie die fun d => { d with walks := d.walks.filter fun w => !mine w } with
        farPtes := [] }
      match walkAt s r.va from_ with
      | .leaf e n => retryJoins (fillTlbs s1 cores r.tenant r.va.toNat e n) r.tenant page false
      | .notPresent => (waitPage s1 r.tenant page).push (.pageResident
          (match rawLeaf s 4 0 (s.root r.tenant) r.va.toNat with
            | some l => if s.pageFailed ((ptePa l.pte + r.va.toNat % l.size) / 2 ^ 16) then { tenant := r.tenant, va := r.va, pte := none }
                        else pagerFor s r.tenant r.va
            | none => pagerFor s r.tenant r.va))
      | .malformed => retryJoins (failPage s1 r.tenant page) r.tenant page true)

/-- The cores with a wait for a page of a tenant. -/
def pageWaiters (s : State) (tenant page : Nat) : List Nat :=
  (s.cores.filter fun (q : Nat × Core) => q.2.gangs.any fun (g : Nat × Gang) => g.2.tenant == tenant
    && g.2.waits.any fun w => w.translates && onPage w.va page).map fun q => q.1

/-- PAGE_RESIDENT (R355): the page is resident and the walk is repeated, or every waiter raises PF. -/
def execPageResident (r : ResidentMsg) (s : State) : Result :=
  .next (
    let page := r.va.toNat / 2 ^ 16
    match r.pte with
    | none => retryJoins (failPage s r.tenant page) r.tenant page true
    | some e =>
      let s1 := putLeaf { s with pager := s.pager.filter fun q => !(q.tenant == r.tenant && onPage q.va page) } r.tenant (2 ^ 16 * page) e
      let again := (pageWaiters s r.tenant page).map fun c => Event.pageWalk { core := c, tenant := r.tenant, va := r.va }
      let joins := if s.tasks.any fun (q : Nat × JoinRef) => q.2.owed && q.2.tenant == r.tenant && onPage q.2.addr page then
          [Event.pageWalk { core := 0, tenant := r.tenant, va := r.va }] else []
      s1.pushAll (if again = [] then joins else again))

/-- WALK_RETRY (R355): a miss that found its walker full is sent again, 16 ck later. -/
def execWalkRetry (r : WalkReq) (s : State) : Result :=
  .next (startWalk (s.modCore r.core fun k => { k with retries := k.retries.eraseP fun q => q.1 == r }) r.core r.tenant r.va)

/-! ### FATOM contributions (R195, R196) -/

/-- A contribution queues at its home slice; the first opens the window (R195, R196). -/
def addContribution (m : Contribution) (s : State) : State :=
  s.modDie (dieOf m.pa) fun d =>
    let ws := if d.windows.any (isWindow m.launch m.pa m.ty) then d.windows
      else d.windows ++ [{ launch := m.launch, pa := m.pa, ty := m.ty, folded := none, items := [], counts := [] }]
    { d with windows := updFirst (isWindow m.launch m.pa m.ty) (fun w => { w with items := w.items ++ [(m.k1, m.k2, m.k3, m.value)] }) ws }

/-- FATOM_CONTRIBUTION (R195, R196). -/
def execFatomContribution (m : Contribution) (s : State) : Result := .next (addContribution m s)

/-- The ck of a clock state that some ns take, rounded up (R15). -/
def Clock.cyclesIn (k : Clock) (ns : Nat) : Nat :=
  (ns * (match k with | .ghz1_1 => 11 | .ghz0_9 => 9 | .ghz0_7 => 7 | .ghz0_5 => 5) + 9) / 10

/-! ### HBM (R349, R442, R453, R454) -/

/-- REFRESH_INTERVAL (R349): a bank is refreshed, postpones its refresh, or after 8 postponements forces an all-bank refresh of its
pseudo-channel, which refreshes every bank of that and takes 350 ns (log entries 63 and 87). -/
def execRefreshInterval (r : RefreshTick) (s : State) : Result :=
  .next (s.modDie (r.stack / 4) fun d =>
    let key := 65536 * r.stack + r.bank
    let n := mget 0 d.refresh key
    let along (k : Nat) : Bool := k / 65536 == r.stack && Config.bankChannel (k % 65536) == Config.bankChannel r.bank
    if d.forced.contains key then
      { d with refresh := d.refresh.map (fun (q : Nat × Nat) => (q.1, if along q.1 then 0 else q.2))
               forced := d.forced.filter fun k => !along k
               refreshing := mset d.refreshing (65536 * r.stack + Config.bankChannel r.bank) (s.ck + d.clock.cyclesIn 350) }
    else if r.waiting && n < 8 then
      { d with refresh := mset d.refresh key (n + 1), forced := if n + 1 = 8 then key :: d.forced else d.forced }
    else { d with refresh := mset d.refresh key 0 })

/-- PATROL_SCRUB (R453 to R455): a corrected error is counted; an uncorrectable sector fails its page. -/
def execPatrolScrub (r : ScrubRead) (s : State) : Result :=
  .next (match r.result with
    | .clean => s
    | .corrected => s.modDie (r.stack / 4) fun d => { d with corrected := d.corrected + 1 }
    | .uncorrectable => enterFailed (s.modDie (r.stack / 4) fun d => { d with uncorrected := d.uncorrected + 1 }) (r.pa / 2 ^ 16))

/-- ERROR_COUNT_REPORT (R442): the counts of each die since the last report. -/
def execErrorCountReport (s : State) : Result :=
  .next (
    let words := (List.range 4).flatMap fun d => [(s.die d).corrected, (s.die d).uncorrected]
    (s.report 6 0 words).mapDies fun d => { d with corrected := 0, uncorrected := 0 })

end Sys2Proof.Machine
end

