-- ==== Sys2Proof/Machine/Failure.lean ====
section
/-! DEFINITION. Lost cores and failed links: what the sluice and the firmware do when a unit is gone (R432, R433, R472). -/

namespace Sys2Proof.Machine

/-! ### Removing the work of a launch without a record (R433) -/

/-- Remove a gang with everything it holds on its core: no fibre of it takes a trap or counts as an exit. -/
def purgeGang (s : State) (c slot : Nat) : State :=
  match mfind (s.core c).gangs slot with
  | none => s
  | some g =>
    let s1 := if g.member4.isSome then dissolveYoke s c else s
    let s2 := [1, 2, 3, 4].foldl (fun t e => discardEngine t c slot e) s1
    let s3 := withdrawInterests s2 c slot
    let s4 := s3.modCore c fun k =>
      { k with gangs := mdel k.gangs slot, aliases := k.aliases.filter fun a => a.gang != slot
               units := k.units.filter fun u => u.gang != slot }
    let s4a := s4.mapCores fun k => { k with
      fills := k.fills.filter fun f => !(2 ^ 60 + g.uid * 32 ≤ f.owner && f.owner < 2 ^ 60 + g.uid * 32 + 32) }
    let s5 := (leaveCbars s4a g.uid).modCluster (c / 4) fun k =>
      { k with waiting := k.waiting.filter fun w => !(w.1 == c && w.2.1 == slot) }
    { s5 with remotes := s5.remotes.filter fun r => !(r.core == c && r.gang == slot) }

/-- A saved context without the gangs, blocks and commands of a launch. -/
def Saved.purged (v : Saved) (uid : Nat) : Saved :=
  let mine (g : Gang) : Bool := g.launch == uid || g.ofLaunch uid
  let slots := (v.gangs.filter fun (g : Nat × Gang) => mine g.2).map fun (g : Nat × Gang) => g.1
  { v with gangs := v.gangs.filter fun (g : Nat × Gang) => !mine g.2
           blocks := v.blocks.filter fun b => b.launch != uid
           namedQ := v.namedQ.filter fun m => m.party.launch != uid
           fabricQ := v.fabricQ.filter fun m => m.party.launch != uid
           answers := v.answers.filter fun r => !slots.contains r.gang }

/-- Remove every gang, block, queued fibre and task of a launch, and discard its windows' contributions (R197, R433). -/
def purgeLaunch (s : State) (uid : Nat) : State :=
  let s1 := dropQueued (closeWindows s uid false) uid
  let targets := s1.cores.flatMap fun (q : Nat × Core) =>
    (q.2.gangs.filter fun (g : Nat × Gang) => g.2.launch == uid || g.2.ofLaunch uid).map fun (g : Nat × Gang) => (q.1, g.1)
  let s2 := targets.foldl (fun t q => purgeGang t q.1 q.2) s1
  let s3 := s2.mapCores fun k => { k with blocks := k.blocks.filter fun b => b.launch != uid }
  { s3 with saved := s3.saved.map (fun v => if v.current then v.purged uid else v)
            migrations := s3.migrations.filter (fun m => !(m.gang.launch == uid || m.gang.ofLaunch uid))
            tasks := s3.tasks.filter fun (q : Nat × JoinRef) => q.2.launch != uid }

/-- What becomes of a launch with a block on a lost unit whose state does not survive (R433): re-run from its start under the
same number when it is restartable, else LOST. -/
def handleLost (s : State) (class_ : Nat) (uid : Nat) : State :=
  match s.launch? uid with
  | none => s
  | some l =>
    if l.state == .done then s
    else
      let s1 := purgeLaunch s uid
      let restartable := match l.image.kernels[l.kernel]? with | some k => k.restartable | none => false
      if l.outcome.isSome then
        tryComplete (s1.modLaunch uid fun x => { x with blocksDone := x.nextBlock, spawned := 0 }) uid
      else if restartable then
        (s1.report 1 l.tenant [l.job, l.number, class_]).modLaunch uid fun x =>
          { x with state := .waiting, nextBlock := 0, blocksDone := 0, spawned := 0, restarted := true, blockCancel := [] }
      else
        tryComplete (s1.modLaunch uid fun x => { x with outcome := some .lost, blocksDone := x.nextBlock, spawned := 0 }) uid

/-! ### Lost cores (R432) -/

/-- The contexts whose state a core holds: a context being loaded still stands in its save area (R432). -/
def Core.heldCtxs (k : Core) : List Nat :=
  [k.slot0, k.slot1].filterMap fun u => if u.occupied && u.state != .loading then some u.ctx.toNat else none

/-- The launches with a block or a gang on a core. -/
def Core.launchesOn (k : Core) : List Nat :=
  ((k.blocks.map fun b => b.launch) ++ k.gangs.map fun (q : Nat × Gang) => q.2.launch).eraseDups

/-- A core whose resident contexts are lost (R432, R446): its launches are handled, its queued tasks go to its die's pool,
and `after` is what stands in its place (log entry 64). -/
def loseCore (s : State) (class_ c : Nat) (after : Core) : State :=
  let k := s.core c
  let s1 := dissolveYoke s c
  let s2 := k.launchesOn.foldl (fun t u => handleLost t class_ u) s1
  let k2 := s2.core c
  let s3 := s2.modDie (c / 256) fun d => { d with
    pool := d.pool ++ (k2.deque.map fun t => { ctx := t.ctx, core := c, fibre := none, task := some t, opened := s.ck })
      ++ k2.bins.flatMap fun b => b.fibres.map fun f => { ctx := b.ctx, core := c, fibre := some f, task := none, opened := b.opened } }
  let s4 := [k.slot0, k.slot1].foldl (fun t u =>
    if u.occupied then t.modCtx u.ctx.toNat fun x => { x with places := x.places.filter fun p => p.1 != c } else t) s3
  s4.setCore c after

/-! ### Failed links (R472) -/

/-- A link enters Failed: its replay buffer goes, and every packet that it last carried is sent again at once by the route
of the moment. -/
def failLink (s : State) (p : Nat) : State :=
  let s1 := s.modLink p fun l =>
    { l with state := .failed, unacked := [], resendFrom := none, episode := none, owesNack := false, outQ := [], tagFails := 0 }
  let back := s1.streams.flatMap fun t => (t.unacked.filter fun u => u.2.2 == p).map fun u => u.1
  back.foldl (fun t q => t.transmit q) s1

end Sys2Proof.Machine
end

