-- ==== Sys2Proof/Machine/Service.lean ====
section
/-! DEFINITION. SYSCALL and KCALL, and the services of the service cores and the kiln (R176, R443 to R446). -/

namespace Sys2Proof.Machine

/-! ### Requests (R176, R444) -/

/-- The context number that stands for the firmware in a request. -/
def fwCtx : Nat := 4096

/-- The services of R445 by number. -/
def syscallEvent (n : Nat) (r : SvcReq) : Option Event :=
  match n with
  | 1 => some (.pageMap r)
  | 2 => some (.pageUnmap r)
  | 3 => some (.pageAttr r)
  | 4 => some (.nspaceSet r)
  | 5 => some (.sampleCfg r)
  | 6 => some (.failedQuery r)
  | _ => none

/-- The services of R446 by number. -/
def kcallEvent (n : Nat) (r : SvcReq) : Option Event :=
  match n with
  | 1 => some (.cacheDrop r)
  | 2 => some (.kilnCfg r)
  | 3 => some (.sketchRead r)
  | 4 => some (.measureRead r)
  | 5 => some (.keyRefresh r)
  | 6 => some (.coreReset r)
  | 7 => some (.powerCap r)
  | _ => none

/-- A request reaches its core (R444): one to a block that awaits a status is discarded, an unknown service is EINVAL. -/
def acceptRequest (s : State) (ev : Option Event) (r : SvcReq) : State :=
  if s.requests.any fun q => q.place == r.place then s
  else match ev with
  | some i => ({ s with requests := s.requests ++ [r] } : State).push i
  | none => s.push (.syscallReply { ctx := r.ctx, place := r.place, words := r.args, status := 2 })

/-- A place `n` bytes further on the same block. -/
def Found.plus (f : Found) (n : Nat) : Found :=
  match f with
  | .here l => .here (l.plus n)
  | .mem pas t h a => .mem (pas.map fun p => p + n) t h a
  | f => f

/-- The place of a request block (R176). -/
def placeOf (s : State) (c : Nat) (g : Gang) (l : Nat) (ea : W64) (f : Found) : ReqPlace :=
  match f with
  | .here (.stack x off) => .stack (g.lane x).uid off
  | .here (.scratch off) => .window g.home (off - (windowOf s c g).1)
  | .mem pas _ _ _ => if s.inFirmware then .phys (pas.headD 0) else .glob g.tenant ea
  | _ => .stack (g.lane l).uid 0

/-- The lowest-numbered live stack on a core's die (R176). -/
def liveStack (s : State) (c : Nat) : Nat :=
  (((List.range 4).map fun i => c / 256 * 4 + i).find? fun k => !s.stackDown.getLsbD k).getD (c / 256 * 4)

/-- The request of one lane (R176): a stack or scratchpad block's arguments travel with it. -/
def requestOf (s : State) (g : Gang) (n : Nat) (q : Nat × W64 × Found) : SvcReq :=
  let args := match q.2.2 with
    | .here l => (List.range 7).map fun i => BitVec.ofNat 64 (ofLe (readPlace s s.cur.core g (l.plus (8 * i)) 8))
    | _ => []
  let stk := match q.2.2 with | .mem pas _ _ _ => stackOf (pas.headD 0) | _ => liveStack s s.cur.core
  { service := n, stk := stk, tenant := g.tenant, ctx := if s.inFirmware then fwCtx else g.ctx, place := placeOf s s.cur.core g q.1 q.2.1 q.2.2, args := args }

/-- Send one lane's request to the package that homes its block (R176). -/
def sendRequest (s : State) (f : Found) (r : SvcReq) : State :=
  match f.remotePas s with
  | pa :: _ => s.send { Packet.blank with dst := pkgOf pa, tenant := r.tenant, op := pkMgmt, body := .svcCall r }
  | [] => acceptRequest s (syscallEvent r.service r) r

/-- Whether a request block lies in an aperture (R176, R178): a stack slice or window, all of it, or the global one. The firmware's
addresses are those of R493. -/
def blockInside (s : State) (g : Gang) (l : Nat) (ea : W64) : Bool :=
  bitsOf ea 56 8 == 0 && (s.inFirmware || bitsOf ea 49 15 != 0x7F ||
    ea.toNat % 2 ^ 48 + 64 ≤ if ea.getLsbD 48 then (windowOf s s.cur.core g).2 else stackSizeOf s (g.lane l))

/-- R154's check of a lane's request block. -/
def blockCheck (s : State) (g : Gang) (l : Nat) (ea : W64) : Option (W64 × Nat) :=
  if bitsOf ea 0 6 ≠ 0 ∨ !blockInside s g l ea then some (ea, 0x85) else none

/-- The zeros that a SYSCALL stores to the completion words (R176). -/
def zeroStores (s : State) (g : Gang) (qs : List (Nat × W64 × Found)) : List GStore :=
  qs.flatMap fun q => storesOf s g q.1 (q.2.1 + 56) (q.2.2.plus 56) (List.replicate 8 0) .write 3 4

/-- SYSCALL (R154, R176). -/
def execSyscall (f : IForm) (s : State) : Result :=
  .next (match s.curGang? with
    | none => s
    | some g =>
      let e := execLanes s g f.g
      if e = 0 then retireWith s id
      else match firstProt (lanesOf e) fun l => blockCheck s g l ((g.lane l).rx f.a) with
      | some (l, infos) => takeTrap s tcPROT l infos
      | none =>
        if !s.inFirmware && s.awaitsAcks s.cur.core s.cur.gang then parkExec s g (.syscall f) e .fence
        else
          match resolveAll (checkLanes s g e (fun x => x.rx f.a) 64 1 0x151 false (apertureRule false 64 1 3)) with
          | .park va => parkTlb s g (.syscall f) e va
          | .trap code l infos => takeTrap s code l infos
          | .go accs =>
            let sp := splitWaits s g 64 0 false accs
            let sts := zeroStores s g sp.1
            match sts.findSome? fun st => storeRace s (g.lane (g.laneOf st.acc.party.uid)).clock st with
            | some (x, r) => takeTrap s tcMMX (g.laneOf x.party.uid) (mmxInfos x r 0)
            | none =>
              let done := lanesMask (sp.1.map fun q => q.1)
              let s1 := sts.foldl (fun t st => performStore t s.cur.core s.cur.gang st) s
              let s2 := s1.modGang s.cur.core s.cur.gang fun x =>
                (parkWaiting s (((x.mapLanes done fun _ y => y.tick).advance done s.cur.next).advance (groupLanes s g &&& ~~~e) s.cur.next)
                  (.syscall f) sp.2).chargeOnce s
              sp.1.foldl (fun t q => sendRequest t q.2.2 (requestOf s g f.imm.toNat q)) s2)

/-- KCALL (R316, R446). -/
def execKcall (f : IForm) (s : State) : Result :=
  .next (privOp s f.g fun g =>
    let e := execLanes s g f.g
    if e = 0 then retireWith s id
    else
      let ea := (g.lane 0).rx f.a
      if bitsOf ea 0 6 ≠ 0 ∨ !fwAddrOk s ea then takeTrap s tcPROT 0 [ea, 0x85]
      else
        let r : SvcReq := { service := f.imm.toNat, stk := 16, tenant := 0, ctx := fwCtx, place := .phys ea.toNat, args := [] }
        acceptRequest ((retireWith s id).wr (ea.toNat + 56) 8 0) (kcallEvent f.imm.toNat r) r)

/-! ### Serving (R444) -/

/-- Status values (R444). -/
def stOK : Nat := 1
def stEINVAL : Nat := 2
def stENOMEM : Nat := 3
def stEPERM : Nat := 4
/-- The status of a request that its core lost (R432, R444). -/
def stLOST : Nat := 2 ^ 64 - 1

/-- The seven argument words of a request (R444). -/
def argsOf (s : State) (r : SvcReq) : List W64 :=
  match r.place with
  | .glob t ea => (List.range 7).map fun i => BitVec.ofNat 64 (readVirt s t (ea + BitVec.ofNat 64 (8 * i)) 8)
  | .phys pa => (List.range 7).map fun i => BitVec.ofNat 64 (s.rd (pa + 8 * i) 8)
  | _ => r.args

/-- What the SYSCALL of a global request block orders before its service (R176). -/
def requestClock (s : State) (tenant : Nat) (ea : W64) : TMap Nat :=
  match walk s tenant ea with
  | .leaf e n => let pa := ptePa e + ea.toNat % n + 56; callClock s pa (dieOf pa)
  | _ => []

/-- A service core's plain access to a tenant's memory for a request, as race detection sees it (R383; log entry 73). -/
def serviceAccess (s : State) (r : SvcReq) (va : W64) (n : Nat) (kind : AccKind) : State :=
  recordService s (r.stk % 16) r.tenant va n kind 0 0 (match r.place with | .glob t ea => requestClock s t ea | _ => [])

/-- Write a reply and then the status through the mapping that stands (R444); replies to stack slices and windows travel
(R176). -/
def finishRequest (s : State) (r : SvcReq) (status : Nat) (ws : List (Nat × W64)) : State :=
  let args := argsOf s r
  let s1 : State := { s with requests := s.requests.filter fun q => q != r, awaits := s.awaits.filter fun a => a.req != some r }
  let full := (List.range 7).map fun i => mget (args.getD i 0) ws i
  let s2 := match r.place with
    | .glob t ea =>
      let read := (List.range 7).foldl (fun u i => serviceAccess u r (ea + BitVec.ofNat 64 (8 * i)) 8 .read) s1
      ws.foldl (fun u w => writeVirt (serviceAccess u r (ea + BitVec.ofNat 64 (8 * w.1)) 8 .write) t (ea + BitVec.ofNat 64 (8 * w.1))
        (leBytes 8 w.2.toNat)) read
    | .phys pa => ws.foldl (fun u w => u.wr (pa + 8 * w.1) 8 w.2.toNat) s1
    | _ => s1
  let rep : SvcReply := { ctx := r.ctx, place := r.place, words := full, status := BitVec.ofNat 64 status }
  match r.place with
  | .glob _ _ | .phys _ => deliverReply s2 rep
  | _ => s2.push (.syscallReply rep)

/-- The shape of every service (R444): a request that is no longer outstanding is dropped; one that waits for an invalidation
is answered once every package has acknowledged it; any other is carried out. `words` are the reply words on success. -/
def serve (r : SvcReq) (s : State) (words : List W64 → List (Nat × W64)) (act : List W64 → State → Nat × List (Nat × W64) × State) :
    State :=
  if !s.requests.contains r then s
  else
    let mine (t : State) : List Await := t.awaits.filter fun a => a.req == some r
    match mine s with
    | [] =>
      let o := act (argsOf s r) s
      if o.1 = stOK ∧ (mine o.2.2).any (fun a => a.acks != 0) then o.2.2 else finishRequest o.2.2 r o.1 o.2.1
    | ms => if ms.all fun a => a.acks == 0 then finishRequest s r stOK (words (argsOf s r)) else s

/-- An argument word. -/
def arg (as : List W64) (n : Nat) : Nat := (as.getD n 0).toNat

/-! ### Pages (R445) -/

/-- The 64 KiB pages of a range that begins on a page boundary. -/
def pagesOf (base len : Nat) : List Nat := (List.range ((base % 2 ^ 16 + len + 2 ^ 16 - 1) / 2 ^ 16)).map fun i => 2 ^ 16 * (base / 2 ^ 16 + i)

/-- Whether a physical address lies in a tenant's windows (R353). -/
def inWindows (s : State) (tenant pa : Nat) : Bool := (tenantWindows s tenant).any fun w => decide (w.1 ≤ pa ∧ pa < w.2)

/-- A page of a tenant made resident for the package's own access, or the trap code of the access (R179, R422). -/
inductive Brought where
  | ok (s : State)
  | fault (code : BitVec 8)
deriving DecidableEq, Repr

/-- The code that the checks of R179 give for a leaf. -/
def leafCode (s : State) (tenant : Nat) (e : W64) (pa : Nat) (write : Bool) : Option (BitVec 8) :=
  if !(if write then pteW e else pteR e) then some tcPROT
  else if !s.live.getLsbD (pkgOf pa) then some tcPF
  else if !inWindows s tenant pa then some tcWIN
  else none

/-- Make one page resident and check it. -/
def bringPage (s : State) (tenant va : Nat) (write : Bool) : Brought :=
  let check (t : State) : Brought :=
    match walk t tenant (BitVec.ofNat 64 va) with
    | .leaf e n => match leafCode t tenant e (ptePa e + va % n) write with
      | some c => .fault c
      | none => .ok t
    | _ => .fault tcPF
  match walk s tenant (BitVec.ofNat 64 va) with
  | .notPresent =>
    match (pagerFor s tenant (BitVec.ofNat 64 va)).pte with
    | none => .fault tcPF
    | some e =>
      check (putLeaf { s with pager := s.pager.filter fun q => !(q.tenant == tenant && onPage q.va (va / 2 ^ 16)) } tenant
        (2 ^ 16 * (va / 2 ^ 16)) e)
  | _ => check s

/-- Make a range resident and check it (log entry 72). -/
def bringRange (s : State) (tenant va n : Nat) (write : Bool) : Brought :=
  if n = 0 then .ok s
  else (pagesOf va n).foldl (fun b v => match b with
    | .ok t => bringPage t tenant v write
    | f => f) (.ok s)

/-- The end of the global aperture (R178). -/
def globalEnd : Nat := 0xFE * 2 ^ 48

/-- The page that PAGE_MAP and PAGE_ATTR describe in a2 (R445): W, X, T, HOME and HOMESEL; none when it breaks R346. -/
def attrOf (a2 : Nat) : Option (Bool × Bool × Bool × Nat × Nat) :=
  let home := a2 / 8 % 4
  let sel := a2 / 32 % 1024
  let ok : Bool := match home with
    | 0 | 3 => sel == 0
    | 1 => sel < 512
    | _ => true
  if a2 < 2 ^ 15 ∧ ok then some (a2.testBit 0, a2.testBit 1, a2.testBit 2, home, sel) else none

/-- Whether a range holds a launch page of a tenant (R490). -/
def holdsLaunchPage (s : State) (tenant base len : Nat) : Bool :=
  s.launches.any fun l => l.tenant == tenant && l.state != .done &&
    ((l.paramPage != 0 && overlaps l.paramVa.toNat (2 ^ 16) base len) || (l.constPage != 0 && overlaps l.constVa.toNat (2 ^ 16) base len))

/-- Whether the mapped pages of a range lie within the tenant's windows (R353, R444). -/
def rangeInWindows (s : State) (tenant base len : Nat) : Bool :=
  (pagesOf base len).all fun v => match leafAt s tenant v with
    | some l => (tenantWindows s tenant).any fun w =>
        let pa := ptePa l.pte + v % l.size
        decide (w.1 ≤ pa ∧ pa < w.2)
    | none => true

/-- The stacks from which a page with a home may come (R346). -/
def homeStacks (home sel : Nat) : List Nat := stackChoice none home sel

/-- Map one zero-filled page (R445); none when there is no page or no room for its pin (log entry 61). -/
def mapOne (r : SvcReq) (at_ : Bool × Bool × Bool × Nat × Nat) (o : Option State) (va : Nat) : Option State :=
  match o with
  | none => none
  | some s =>
    match freePage s r.tenant (2 ^ 16) (homeStacks at_.2.2.2.1 at_.2.2.2.2) with
    | none => none
    | some pa =>
      if !pinRoom s pa at_.2.2.2.1 at_.2.2.2.2 then none
      else
        let old := leafAt s r.tenant va
        let s1 := putLeaf { s with mem := memClear s.mem pa (2 ^ 16) } r.tenant va
          (leafPte pa at_.1 at_.2.1 at_.2.2.1 at_.2.2.2.1 at_.2.2.2.2)
        some (if old.isSome then invalidateFor s1 r.tenant va (2 ^ 16) (some r) none none else s1)

/-- PAGE_MAP (R445, R490; log entry 62). -/
def execPageMap (r : SvcReq) (s : State) : Result :=
  .next (serve r s (fun as => [(0, BitVec.ofNat 64 (arg as 1))]) fun as s =>
    let a0 := arg as 0
    let a1 := arg as 1
    match attrOf (arg as 2) with
    | none => (stEINVAL, [], s)
    | some at_ =>
      if r.ctx = fwCtx then (stEPERM, [], s)
      else if a0 % 2 ^ 16 ≠ 0 ∨ a1 % 2 ^ 16 ≠ 0 ∨ globalEnd < a0 + a1 then (stEINVAL, [], s)
      else if holdsLaunchPage s r.tenant a0 a1 then (stEPERM, [], s)
      else match (pagesOf a0 a1).foldl (mapOne r at_) (some s) with
      | some t => (stOK, [(0, BitVec.ofNat 64 a1)], t)
      | none => (stENOMEM, [], s))

/-- The leaf of a page as a 64 KiB page of its own, splitting a larger one. -/
def ownLeaf (s : State) (tenant va : Nat) : Option (Leaf × State) :=
  match leafAt s tenant va with
  | none => none
  | some l =>
    let r := leafSlot s 3 0 (s.root tenant) va (stackOf (ptePa l.pte))
    (leafAt r.2 tenant va).map fun m => (m, r.2)

/-- PAGE_UNMAP (R445): replies once the invalidation is complete. -/
def execPageUnmap (r : SvcReq) (s : State) : Result :=
  .next (serve r s (fun _ => []) fun as s =>
    let a0 := arg as 0
    let a1 := arg as 1
    if r.ctx = fwCtx then (stEPERM, [], s)
    else if globalEnd < a0 + a1 then (stEINVAL, [], s)
    else if !rangeInWindows s r.tenant a0 a1 then (stEPERM, [], s)
    else
      (stOK, [], (pagesOf a0 a1).foldl (fun t v => match ownLeaf t r.tenant v with
        | some (l, u) => invalidateFor (u.wrPte l.at_ 0) r.tenant v (2 ^ 16) (some r) none none
        | none => t) s))

/-- Change one page's attributes (R357, R385, R445); none when a change of home fails. -/
def attrOne (r : SvcReq) (at_ : Bool × Bool × Bool × Nat × Nat) (o : Option State) (va : Nat) : Option State :=
  match o with
  | none => none
  | some s =>
    match ownLeaf s r.tenant va with
    | none => some s
    | some (l, s1) =>
      let e := leafPte (ptePa l.pte) at_.1 at_.2.1 at_.2.2.1 (pteHome l.pte) (pteHomeSel l.pte) ||| (l.pte &&& 0x20)
      let m : Leaf := { l with pte := e }
      let s2 := s1.wrPte l.at_ e
      if at_.2.2.2 = (pteHome l.pte, pteHomeSel l.pte) then some (invalidateFor s2 r.tenant va (2 ^ 16) (some r) none none)
      else match pageTarget s2 r.tenant m none (some at_.2.2.2) with
      | some t => some (countSlip (migrateLeaf s2 r.tenant m t (some r) none) r.tenant 0)
      | none => none

/-- PAGE_ATTR (R445, R490): changes after the invalidation; a new home is a migrate command with deadline 0. -/
def execPageAttr (r : SvcReq) (s : State) : Result :=
  .next (serve r s (fun _ => []) fun as s =>
    let a0 := arg as 0
    let a1 := arg as 1
    match attrOf (arg as 2) with
    | none => (stEINVAL, [], s)
    | some at_ =>
      if r.ctx = fwCtx then (stEPERM, [], s)
      else if a0 % 2 ^ 16 ≠ 0 ∨ a1 % 2 ^ 16 ≠ 0 ∨ globalEnd < a0 + a1 then (stEINVAL, [], s)
      else if holdsLaunchPage s r.tenant a0 a1 || !rangeInWindows s r.tenant a0 a1 then (stEPERM, [], s)
      else match (pagesOf a0 a1).foldl (attrOne r at_) (some s) with
      | some t => (stOK, [], t)
      | none => (stENOMEM, [], s))

/-! ### Name spaces, samples, failed pages (R359, R441, R445, R455) -/

/-- Whether an image of a name-space descriptor keeps every rule of R359. -/
def descImageOk (bs : List Byte) : Bool :=
  let n (off k : Nat) : Nat := leAt bs off k
  let d : NameDesc :=
    { fmt := n 0 1, rank := n 1 1, life := n 2 2, keep := n 4 4, ext := (List.range 6).map fun i => n (8 + 4 * i) 4
      tile := (List.range 6).map fun i => n (32 + 4 * i) 4, pubrec := n 56 8 }
  d.rank == 0 || (d.valid && d.life != 0 && n 56 8 % 4 == 0
    && (List.range 6).all fun k => decide (k < d.rank) || d.ext.getD k 0 == 1)

/-- NSPACE_SET (R359, R445): a page of the image that is not present is made resident; an image that cannot be read is EPERM (log
entry 61). -/
def execNspaceSet (r : SvcReq) (s : State) : Result :=
  .next (serve r s (fun _ => []) fun as s =>
    let space := arg as 0
    let va := as.getD 1 0
    if r.ctx = fwCtx then (stEPERM, [], s)
    else if 4095 < space ∨ globalEnd < va.toNat + 64 then (stEINVAL, [], s)
    else match bringRange s r.tenant va.toNat 64 false with
    | .fault _ => (stEPERM, [], s)
    | .ok s =>
    let bs := (List.range 64).map fun i => BitVec.ofNat 8 (readVirt s r.tenant (va + BitVec.ofNat 64 i) 1)
    if !descImageOk bs then (stEINVAL, [], s)
    else (stOK, [], (serviceAccess s r va 64 .read).wrBytes (memNat s.mem ((s.tenant r.tenant).desc + 8) 8 + 64 * space) bs))

/-- Whether a number is a power of two from 64 to 65,536. -/
def ringSize (n : Nat) : Bool := (List.range 11).any fun i => 64 * 2 ^ i == n

/-- SAMPLE_CFG (R441, R445): the indices restart at 0. -/
def execSampleCfg (r : SvcReq) (s : State) : Result :=
  .next (serve r s (fun _ => []) fun as s =>
    let ring := as.getD 0 0
    let n := arg as 1
    let k := arg as 2
    let old := (s.ctx r.ctx).sample
    let out : List (Nat × W64) := [(0, BitVec.ofNat 64 old.dropped)]
    if r.ctx = fwCtx then (stEPERM, [], s)
    else if n = 0 then (stOK, out, s.modCtx r.ctx fun x => { x with sample := SampleCfg.off })
    else if bitsOf ring 0 6 ≠ 0 ∨ globalEnd < ring.toNat + 64 * (n + 1) ∨ !ringSize n ∨ k < 4 ∨ 20 < k then (stEINVAL, [], s)
    else if !rangeInWindows s r.tenant ring.toNat (64 * (n + 1)) then (stEPERM, [], s)
    else
      (stOK, out, (writeVirt (serviceAccess s r ring 64 .write) r.tenant ring (List.replicate 64 0)).modCtx r.ctx fun x =>
        { x with sample := { on := true, ring := ring, entries := n, k := k, write := 0, dropped := 0 } }))

/-- FAILED_QUERY (R445, R455). -/
def execFailedQuery (r : SvcReq) (s : State) : Result :=
  .next (serve r s (fun _ => []) fun as s =>
    let a0 := arg as 0
    let a1 := arg as 1
    if r.ctx = fwCtx then (stEPERM, [], s)
    else if globalEnd < a0 + a1 then (stEINVAL, [], s)
    else
      let ps := failedIn s r.tenant a0 a1
      (stOK, [(0, BitVec.ofNat 64 ps.length), (1, BitVec.ofNat 64 (ps.headD 0))], s))

/-! ### Firmware requests to the kiln (R446) -/

/-- The translations that running launches use (R435). -/
def translInUse (s : State) (i : Nat) : Bool :=
  s.launches.any (fun l => l.transl == i && (l.state == .placing || l.state == .running || l.state == .cancelling))
    || s.cores.any fun (k : Nat × Core) => k.2.gangs.any fun (g : Nat × Gang) => g.2.transl == i

/-- CACHE_DROP (R446): the tenant's entries that no running launch uses go. -/
def execCacheDrop (r : SvcReq) (s : State) : Result :=
  .next (serve r s (fun _ => []) fun as s =>
    let t := arg as 0
    if 4095 < t then (stEINVAL, [], s)
    else
      (stOK, [], { s with kiln := (List.range s.kiln.length).zip s.kiln |>.map fun q =>
        if q.2.tenant == t && !translInUse s q.1 then { q.2 with resident := 0 } else q.2 }))

/-- KILN_CFG (R439, R446). -/
def execKilnCfg (r : SvcReq) (s : State) : Result :=
  .next (serve r s (fun _ => []) fun as s =>
    let a := arg as 0
    let g := a % 2 ^ 16
    let l := a / 2 ^ 16 % 2 ^ 8
    if 2 ^ 24 ≤ a ∨ g = 0 ∨ l = 0 then (stEINVAL, [], s) else (stOK, [], { s with glazeth := g, aliasth := l }))

/-- SKETCH_READ (R440, R446). -/
def execSketchRead (r : SvcReq) (s : State) : Result :=
  .next (serve r s (fun _ => []) fun as s =>
    let d := s.die (arg as 0)
    if 3 < arg as 0 ∨ 2 < arg as 1 then (stEINVAL, [], s)
    else
      let m := match arg as 1 with | 0 => d.launchSk | 1 => d.pcSk | _ => d.aliasSk
      (stOK, [(0, BitVec.ofNat 64 (sketchEstimate m (arg as 2)))], s))

/-- Whether `n` bytes at an address pass the checks of R493. -/
def fwRangeOk (s : State) (a : W64) (n : Nat) : Bool :=
  bitsOf a 52 12 == 0 && bitsOf a 48 4 == s.self && a.toNat % 2 ^ 48 + n ≤ 2 ^ 40

/-- MEASURE_READ (R446, R449): the measurement log, 512 bytes. -/
def execMeasureRead (r : SvcReq) (s : State) : Result :=
  .next (serve r s (fun _ => []) fun as s =>
    let a := as.getD 0 0
    if !fwRangeOk s a 512 then (stEINVAL, [], s)
    else
      let bs := Config.measureLogBytes s.measureLog
      (stOK, [], s.wrBytes a.toNat ((List.range 512).map fun i => bs.getD i 0)))

/-- Start the refresh of a fabric stream at its sending end (R452): the receiver gets the new key for its idle slot first. -/
def startRefresh (s : State) (r : StreamRef) : State :=
  match s.keySlots r with
  | none => s
  | some k =>
    if k.refreshing then s
    else
      let (key, s1) := s.freeVal 256
      let slot := 1 - k.cur
      (s1.modKeys r fun x => { x.put slot key with refreshing := true }).sendMgmt r.peer (.keyAgree r.tenant slot key)

/-- Give the streams of a tenant to and from a peer their first keys, unless they have keys (R452; log entry 24). -/
def agreeKeys (s : State) (peer tenant : Nat) : State :=
  [true, false].foldl (fun t tx =>
    let r : StreamRef := { peer := peer, tenant := tenant, tx := tx }
    if (t.keySlots r).isSome then t
    else
      let q := t.freeVal 256
      q.2.modKeys r fun x => x.put 0 q.1) s

/-- KEY_REFRESH (R446, R451, R452): a1 numbers a host stream by its function and port, a fabric stream by peer and tenant
(log entry 24). -/
def execKeyRefresh (r : SvcReq) (s : State) : Result :=
  .next (serve r s (fun _ => []) fun as s =>
    let n := arg as 1
    match arg as 0 with
    | 0 =>
      match mfind (s.fn (n / 2)).ide (n % 2) with
      | none => (stEINVAL, [], s)
      | some _ => (stOK, [], s.modFn (n / 2) fun f => { f with ide := mmod IdeStream.insecure f.ide (n % 2) fun x => { x with refreshing := true } })
    | 1 =>
      let ref : StreamRef := { peer := n % 16, tenant := n / 16, tx := true }
      if (s.keySlots ref).isNone then (stEINVAL, [], s) else (stOK, [], startRefresh s ref)
    | _ => (stEINVAL, [], s))

/-- CORE_RESET (R446): only of a halted core. -/
def execCoreReset (r : SvcReq) (s : State) : Result :=
  .next (serve r s (fun _ => []) fun as s =>
    let c := arg as 0
    if 1023 < c then (stEINVAL, [], s)
    else if !(s.core c).halted then (stEPERM, [], s)
    else (stOK, [], loseCore s 0 c Core.reset))

/-- POWER_CAP (R446, R456). -/
def execPowerCap (r : SvcReq) (s : State) : Result :=
  .next (serve r s (fun _ => []) fun as s =>
    let w := arg as 0
    if w < 1000 ∨ 5200 < w then (stEINVAL, [], s) else (stOK, [], { s with powerCap := w }))

end Sys2Proof.Machine
end

