-- ==== Sys2Proof/Machine/Sha3.lean ====
section
/-! DEFINITION. SHA3-256, which the spec names for keys, digests and measurements (R18, R80, R449, R450; log entry 8). -/

namespace Sys2Proof.Machine

/-- The lanes of a Keccak state: lane (x, y) stands at index x + 5y. -/
abbrev Keccak : Type := List W64

/-- Lane `i` of a state. -/
def kLane (a : Keccak) (i : Nat) : W64 := a.getD i 0

/-- The rotation of each lane. -/
def keccakRot : List Nat := [0, 1, 62, 28, 27, 36, 44, 6, 55, 20, 3, 10, 43, 25, 39, 41, 45, 15, 21, 8, 18, 2, 61, 56, 14]

/-- The round constants. -/
def keccakRc : List W64 :=
  [0x0000000000000001, 0x0000000000008082, 0x800000000000808A, 0x8000000080008000, 0x000000000000808B, 0x0000000080000001,
   0x8000000080008081, 0x8000000000008009, 0x000000000000008A, 0x0000000000000088, 0x0000000080008009, 0x000000008000000A,
   0x000000008000808B, 0x800000000000008B, 0x8000000000008089, 0x8000000000008003, 0x8000000000008002, 0x8000000000000080,
   0x000000000000800A, 0x800000008000000A, 0x8000000080008081, 0x8000000000008080, 0x0000000080000001, 0x8000000080008008]

/-- The column parities mixed into every lane. -/
def keccakTheta (a : Keccak) : Keccak :=
  let c := (List.range 5).map fun x => kLane a x ^^^ kLane a (x + 5) ^^^ kLane a (x + 10) ^^^ kLane a (x + 15) ^^^ kLane a (x + 20)
  let d := (List.range 5).map fun x => c.getD ((x + 4) % 5) 0 ^^^ (c.getD ((x + 1) % 5) 0).rotateLeft 1
  (List.range 25).map fun i => kLane a i ^^^ d.getD (i % 5) 0

/-- The lanes rotated and moved. -/
def keccakRhoPi (a : Keccak) : Keccak :=
  (List.range 25).map fun i =>
    let j := (i % 5 + 3 * (i / 5)) % 5 + 5 * (i % 5)
    (kLane a j).rotateLeft (keccakRot.getD j 0)

/-- The step that is not linear, along each row. -/
def keccakChi (a : Keccak) : Keccak :=
  (List.range 25).map fun i =>
    kLane a i ^^^ (~~~(kLane a (i / 5 * 5 + (i + 1) % 5)) &&& kLane a (i / 5 * 5 + (i + 2) % 5))

/-- One round with its constant. -/
def keccakRound (a : Keccak) (rc : W64) : Keccak :=
  match keccakChi (keccakRhoPi (keccakTheta a)) with
  | [] => []
  | x :: r => (x ^^^ rc) :: r

/-- The permutation Keccak-f[1600]. -/
def keccakF (a : Keccak) : Keccak := keccakRc.foldl keccakRound a

/-- The state with one block of 136 bytes taken in. -/
def keccakAbsorb (a : Keccak) (block : List Byte) : Keccak :=
  keccakF ((List.range 25).map fun i => kLane a i ^^^ BitVec.ofNat 64 (leAt block (8 * i) 8))

/-- A message with its domain bits and its padding to whole blocks of 136 bytes. -/
def sha3Padded (bs : List Byte) : List Byte :=
  let q := 136 - bs.length % 136
  bs ++ (if q = 1 then [0x86] else 0x06 :: List.replicate (q - 2) 0 ++ [0x80])

/-- Take in blocks. -/
def sha3Absorb (n : Nat) (a : Keccak) (bs : List Byte) : Keccak :=
  match n with
  | 0 => a
  | k + 1 => sha3Absorb k (keccakAbsorb a (bs.take 136)) (bs.drop 136)

/-- SHA3-256 of a byte string: its 32 bytes in order make the number, the first lowest (R5; log entry 8). -/
def sha3 (bs : List Byte) : BitVec 256 :=
  let p := sha3Padded bs
  let a := sha3Absorb (p.length / 136) (List.replicate 25 0) p
  BitVec.ofNat 256 ((kLane a 0).toNat + 2 ^ 64 * (kLane a 1).toNat + 2 ^ 128 * (kLane a 2).toNat + 2 ^ 192 * (kLane a 3).toNat)

end Sys2Proof.Machine
end

