-- ==== Sys2Proof/Machine/Kiln.lean ====
section
/-! DEFINITION. The kiln: what it decodes and checks, the choice and making of translations, glazes and sketches (R65, R80,
R85, R210, R435 to R440). -/

namespace Sys2Proof.Machine

/-! ### What the kiln checks (R65, R85, R438) -/

/-- The parcels of the instruction of an entry of a body (R262). -/
def seqParcels (body : List Byte) (j : Nat) : Nat :=
  match decodeBytes ((body.drop (32 + 128 * j)).take 12) with | .ok _ n _ _ => n | .bad _ _ n _ => n

/-- Whether a sequencer body keeps to R262: an instruction of fewer than three parcels is followed by zero bytes. -/
def bodyOk (body : List Byte) : Bool :=
  let n := seqCount body
  let nlev := leAt body 1 1
  let zero (off k : Nat) : Bool := leAt body off k == 0
  1 ≤ n && n ≤ 16 && 1 ≤ nlev && nlev ≤ 6 && body.length == 32 + 128 * n && zero 2 2 && zero 16 16
    && (List.range 6).all (fun k => 1 ≤ seqExtent body k && (k < nlev || seqExtent body k == 1))
    && (List.range n).all fun j =>
      let o := 32 + 128 * j
      zero (o + 14) 18 && leAt body (o + 13) 1 / 16 == 0
        && (List.range 6).all (fun k => zero (o + 32 + 16 * k + 3) 1)
        && zero (o + 4 * seqParcels body j) (12 - 4 * seqParcels body j)
        && (match (seqEntry body j).instr with
            | some (.oload f) => !f.mod.getLsbD 3
            | some (.accz _) | some (.actlut _) => true
            | some (.mma f) | some (.mmas f) | some (.mmag f) => !f.mod.getLsbD 3
            | some (.copy f) | some (.copyg f) => !f.mod.getLsbD 3
            | _ => false)

/-- Whether the slots that a mask of 32 bits names are all declared. -/
def maskWithin (m n : Nat) : Bool := m < 2 ^ n

/-- The reason for which an instruction fails its launch, if any (R152, R241, R248, R249, R260, R263, R438; log entry 42). -/
def declaredFault (m : Image) (k : Kernel) (vregs xregs : Nat) (i : Instr) : Option Nat :=
  let two (ok : Bool) : Option Nat := if ok then none else some 2
  let regs : Bool := match partsOf i with | some p => withinCounts p vregs xregs | none => true
  if !regs then some 2
  else
    match i with
    | .bar f => two (bitsOf f.imm 0 4 < k.bars)
    | .barn f => two (bitsOf f.ext 0 4 < k.bars)
    | .oclaim f => two (bitsOf f.imm 0 5 + bitsOf f.imm 5 6 ≤ k.slots)
    | .orelease f => two (maskWithin f.lit.toNat k.slots)
    | .oload f => two (f.d < k.slots)
    | .mma f => two (f.d < k.acc && f.a < k.slots && f.b < k.slots)
    | .mmas f =>
      if !(f.d < k.acc && f.a < k.slots && f.b < k.slots) then some 2
      else if m.metadata.length < 4 * f.ext.toNat + 4 then some 4 else none
    | .mmag f => two (f.d < k.acc && f.a < k.slots)
    | .accrd f => two (f.a < k.acc)
    | .accwr f => two (f.d < k.acc)
    | .accz f => two (maskWithin (bitsOf f.imm 0 4) k.acc)
    | .actlut f => two (f.a < k.slots)
    | .seqrun f =>
      match m.bodies[f.imm.toNat]? with
      | none => some 2
      | some b => if bodyOk b then none else some 4
    | _ => none

/-- The declared counts of the function or kernel whose entry is `fn` (R85, R155). -/
def countsOf (m : Image) (k : Kernel) (fn : W64) : Nat × Nat :=
  match m.funcs.find? fun q => q.entry == fn with
  | some q => (q.vregs, q.xregs)
  | none => (k.vregs, k.xregs)

/-- Whether control may go on to the next instruction (R65). An instruction that always traps counts as one that falls through: its
handler may resume at the next one (R308; log entry 80). -/
def fallsThrough (i : Instr) : Bool :=
  let always (g : Guard) : Bool := g.pred == 15
  match i with
  | .bra f => !always f.g
  | .brx f => !always f.g
  | .ret f => !always f.g
  | .exit f => !always f.g
  | _ => true

/-- What the kiln has decoded: the addresses, each with the function through which it was reached, and the lowest reason it met. -/
structure Walked where
  seen : List (W64 × W64)
  reason : Option Nat
deriving DecidableEq, Repr

/-- The lower of two reasons (R438). -/
def lowerReason (a b : Option Nat) : Option Nat :=
  match a, b with | some x, some y => some (min x y) | none, y => y | x, none => x

/-- Decode from starting points, each with the function it is in, through direct targets and fall-through (R65, R85). An
encoding fault is no reason, and decoding goes on after the faulting instruction (R64, R495). An address that two functions
share is checked under the counts of both. -/
def kilnWalk (fuel : Nat) (m : Image) (k : Kernel) (work : List (W64 × W64)) (w : Walked) : Walked :=
  match fuel, work with
  | 0, _ => w
  | _, [] => w
  | n + 1, (pc, fn) :: rest =>
    if w.seen.contains (pc, fn) then kilnWalk n m k rest w
    else
      let w1 := { w with seen := (pc, fn) :: w.seen }
      if pc.toNat < m.base.toNat ∨ m.base.toNat + m.code.length ≤ pc.toNat then kilnWalk n m k rest w
      else
        match decodeBytes ((m.code.drop (pc.toNat - m.base.toNat)).take 28) with
        | .bad _ _ parcels _ => kilnWalk n m k ((pc + BitVec.ofNat 64 (4 * parcels), fn) :: rest) w1
        | .ok i parcels headAt _ =>
          let c := countsOf m k fn
          let next := pc + BitVec.ofNat 64 (4 * parcels)
          let target (lit : W32) : W64 := pc + BitVec.ofNat 64 (4 * headAt) + 4 * lit.signExtend 64
          let jumps := match i with
            | .bra f => [(target f.lit, fn)]
            | .call f => [(target f.lit, target f.lit)]
            | _ => []
          kilnWalk n m k ((if fallsThrough i then [(next, fn)] else []) ++ jumps ++ rest)
            { w1 with reason := lowerReason w1.reason (declaredFault m k c.1 c.2 i) }

/-- More steps than the pairs of an address at which a code section can start an instruction and a function that can reach it, each
met from its paths. -/
def walkFuel (m : Image) : Nat := (m.code.length + m.funcs.length + 4) ^ 2

/-- The kernel of a launch. -/
def Launch.kern (l : Launch) : Option Kernel := l.image.kernels[l.kernel]?

/-- Decode what is newly reached at run time, and fail the launch when a declared count is exceeded there (R65, R85). -/
def reachPc (s : State) (uid : Nat) (pc fn : W64) : State :=
  match s.launch? uid with
  | none => s
  | some l =>
    match l.kern with
    | none => s
    | some k =>
      if l.fns.contains (pc, fn) then s
      else
        let w := kilnWalk (walkFuel l.image) l.image k [(pc, fn)] { seen := l.fns, reason := none }
        let s1 := s.modLaunch uid fun x => { x with fns := w.seen }
        match w.reason with
        | some r => failLaunch s1 uid tcXLAT.toNat r none
        | none => s1

/-- Whether one block of a kernel fits an empty core (R420, R438). -/
def fitsEmpty (k : Kernel) (resident : Nat) : Bool :=
  let n := (k.fibres + 31) / 32
  n ≤ 32 && n * resident ≤ 4096 && k.scratch ≤ 2 ^ 20 && k.bars ≤ 64 && k.slots ≤ 32 && k.acc ≤ 4

/-- The reasons for which a launch fails at its start, and what the kiln has decoded for it (R85, R438). -/
def startCheck (l : Launch) (resident : Nat) : Walked :=
  let m := l.image
  let base : List (Option Nat) :=
    [if m.malformed then some 1 else none, if m.hasNative && !m.signed then some 3 else none,
     if 2 ^ 28 < m.code.length then some 6 else none]
  match l.kern with
  | none => { seen := [], reason := some 1 }
  | some k =>
    let entry := m.base + BitVec.ofNat 64 k.entry
    let w := kilnWalk (walkFuel m) m k [(entry, entry)] { seen := [], reason := none }
    let fit := if fitsEmpty k resident then none else some 5
    { w with reason := (base ++ [w.reason, fit]).foldl lowerReason none }

/-! ### Translations (R80, R435 to R437) -/

/-- The kiln cache key of a launch (R80): the image without its symbols, relocations and signature, the constants and the
stepping. -/
def launchKey (l : Launch) : BitVec 256 := sha3 (l.image.bytes ++ l.constBytes ++ [Config.stepping])

/-- Whether an entry may serve a tenant (R436). -/
def maySees (t : Transl) (tenant : Nat) : Bool := t.resident != 0 && (t.tenant == tenant || t.isPublic)

/-- The index of the newest local entry of a key that may serve a tenant (R437). -/
def newestEntry (s : State) (key : BitVec 256) (tenant : Nat) : Option Nat :=
  ((List.range s.kiln.length).filter fun i => match s.kiln[i]? with
    | some t => t.key == key && maySees t tenant
    | none => false).foldl (fun (o : Option Nat) i =>
      let gen (j : Nat) : Nat := (s.kiln[j]?.map fun t => t.generation).getD 0
      match o with
      | some j => if gen j ≤ gen i then some i else some j
      | none => some i) none

/-- The size of the cache area in words of 64 bytes (R435). -/
def kilnWords : Nat := 2 ^ 26

/-- Evict least recently used entries that no launch uses until `n` more words fit (R435). -/
def evict (fuel : Nat) (s : State) (n : Nat) : Option State :=
  let used := s.kiln.foldl (fun a t => if t.resident = 0 then a else a + t.words.length) 0
  if used + n ≤ kilnWords then some s
  else
    match fuel with
    | 0 => none
    | k + 1 =>
      let free := (List.range s.kiln.length).filter fun i => match s.kiln[i]? with
        | some t => t.resident != 0 && !translInUse s i
        | none => false
      let use (i : Nat) : Nat := (s.kiln[i]?.map fun t => t.lastUse).getD 0
      match free with
      | [] => none
      | i :: r =>
        let v := r.foldl (fun b j => if use j < use b then j else b) i
        evict k { s with kiln := s.kiln.modify v fun t => { t with resident := 0 } } n

/-- Install an entry (R435); none while every entry is in use and the area is full. -/
def installEntry (s : State) (t : Transl) : Option State :=
  (evict s.kiln.length s t.words.length).map fun u =>
    { u with kiln := u.kiln ++ [{ t with resident := if t.resident = 0 then 128 else t.resident, lastUse := s.ck }] }

/-- The bisque of a launch when no other kiln makes it: the image's signed native pre-translation (R1, R17; log entry 82), else the
image run as virtual code (log entry 12). -/
def plainBisque (l : Launch) : Transl :=
  let pre : Option Transl := if l.image.hasNative && l.image.signed then Config.preTranslation l.image.native else none
  match pre with
  | some t =>
    { t with key := launchKey l, tenant := l.tenant, isPublic := l.image.isPublic, glaze := false, generation := 0, lastUse := 0 }
  | none =>
  { key := launchKey l, tenant := l.tenant, isPublic := l.image.isPublic, glaze := false, generation := 0, resident := 128
    words := [], entries := [], side := [], maps := [], infos := [], windows := [], unhoisted := [], cuts := none, fallbacks := [], origins := [], lastUse := 0 }

/-- Let a launch go on with a chosen entry, or fail it for a reason met at its start (R437, R438, R440). -/
def useEntry (s : State) (l : Launch) (i : Nat) : State :=
  let resident := (s.kiln[i]?.map fun t => t.resident).getD 128
  let w := startCheck l resident
  match w.reason with
  | some r => failLaunch s l.uid tcXLAT.toNat r none
  | none =>
    let s1 : State := { s with kiln := s.kiln.modify i fun t => { t with lastUse := s.ck }, kilnAsks := mdel s.kilnAsks l.uid }
    s1.modLaunch l.uid fun x => { x with transl := i, fns := w.seen, state := .placing }

/-- The kiln's choice at a launch's start (R437): a local entry, else a peer's, else a bisque that is now compiled. -/
def chooseEntry (s : State) (l : Launch) : State :=
  match newestEntry s (launchKey l) l.tenant with
  | some i => useEntry s l i
  | none =>
    let asks : BitVec 16 := s.peers.foldl (fun m j => m ||| BitVec.ofNat 16 (2 ^ j)) 0
    let s1 := s.modLaunch l.uid fun x => { x with state := .kilnWait }
    s.peers.foldl (fun t j => t.sendMgmt j (.entryAsk (launchKey l) l.tenant l.uid))
      { s1 with kilnAsks := mset s1.kilnAsks l.uid asks }

/-- Whether a launch waits for a bisque that no peer can still supply (R437). -/
def bisqueOwed (s : State) (l : Launch) : Bool := l.state == .kilnWait && mget 0 s.kilnAsks l.uid == 0

/-- Launches that wait for a key go on once an entry serves them. -/
def serveWaiting (s : State) (key : BitVec 256) : State :=
  s.launches.foldl (fun t l =>
    if l.state == .kilnWait && launchKey l == key then
      match newestEntry t key l.tenant with
      | some i => useEntry t l i
      | none => t
    else t) s

/-- BISQUE_COMPLETE (R435, R437): the translation is installed as generation 0, unless its key has an entry by now, and the
launches that wait for it go on. -/
def execBisqueComplete (t : Transl) (s : State) : Result :=
  .next (match newestEntry s t.key t.tenant with
    | some _ => serveWaiting s t.key
    | none =>
      match installEntry s { t with generation := 0, glaze := false } with
      | none => s
      | some s1 => serveWaiting s1 t.key)

/-! ### Glazes and sketches (R439, R440) -/

/-- The largest estimate of a key over the dies' sketches. -/
def dieEstimates (s : State) (sel : Die → TMap W32) (key : Nat) : Nat :=
  s.dies.foldl (fun n d => max n (sketchEstimate (sel d.2) key)) 0

/-- The kernel IDs of a key: an image has at most 65,536 kernels that a launch can name; those that launched are asked. -/
def kernelIdsOf (s : State) (key : BitVec 256) : List Nat :=
  ((s.launches.filter fun l => launchKey l == key).map fun l => kernelId key l.kernel).eraseDups

/-- Whether a kernel has reached GLAZETH launches since its newest entry was made (R439). -/
def isHot (s : State) (kid : Nat) : Bool :=
  mget 0 s.newestCounts kid + s.glazeth ≤ dieEstimates s (fun d => d.launchSk) kid

/-- Whether a region's rollbacks have reached ALIASTH (R439). -/
def isAliased (s : State) (kid : Nat) (pc : W64) : Bool :=
  s.aliasth ≤ dieEstimates s (fun d => d.aliasSk) (kid ^^^ pc.toNat)

/-- GLAZE_COMPLETE (R439): a glaze that a hot kernel or an aliased region called for is installed with the next generation;
it keeps the regions that earlier glazes unhoisted. -/
def execGlazeComplete (t : Transl) (s : State) : Result :=
  .next (match newestEntry s t.key t.tenant with
    | none => s
    | some i =>
      let old := s.kiln[i]?.getD t
      let kids := kernelIdsOf s t.key
      let hot := kids.any (isHot s)
      let alias_ := kids.any fun k => t.unhoisted.any fun pc => !old.unhoisted.contains pc && isAliased s k pc
      if !(hot || alias_) ∨ !(old.unhoisted.all fun pc => t.unhoisted.contains pc) then s
      else
        match installEntry s { t with generation := (old.generation + 1) % 2 ^ 16, glaze := true } with
        | none => s
        | some s1 => { s1 with newestCounts := kids.foldl (fun m k => mset m k (dieEstimates s (fun d => d.launchSk) k)) s1.newestCounts })

/-- Halve every counter of a sketch, rounding down (R440). -/
def halve (m : TMap W32) : TMap W32 := m.map fun (q : Nat × W32) => (q.1, q.2 >>> 1)

/-- SKETCH_DECAY (R440; log entry 67). -/
def execSketchDecay (s : State) : Result :=
  .next (s.mapDies fun d => { d with launchSk := halve d.launchSk, pcSk := halve d.pcSk, aliasSk := halve d.aliasSk })

/-- KILN_TRANSLATE_TARGET (R65, R85, R210): the target that a PC group waits for is translated; the group resumes, its region
replaying in order up to the target (log entry 12). -/
def execKilnTranslateTarget (it : AtItem) (s : State) : Result :=
  .next (match s.gang? it.core it.gang with
    | none => s
    | some g =>
      let m := g.lanesWhere fun f => f.status == .parked .kiln
      if m = 0 then s
      else
        let s1 : State := { s with kilnWaiting := s.kilnWaiting.filter fun q => q.1 != g.transl }
        rollbackVirtual (s1.setGang it.core it.gang (g.mapBoth m fun _ f => { f with status := .ready })) it.core it.gang)

end Sys2Proof.Machine
end

