-- ==== Sys2Proof/Machine/Images.lean ====
section
/-! DEFINITION. ZKI images as the sluice reads and places them (R77 to R80, R251, R411; log entry 6). -/

namespace Sys2Proof.Machine

/-- A section of an image: its type, offset, size, alignment (a power of two) and whether its reserved fields are zero. -/
structure ZSection where
  kind : Nat
  off : Nat
  size : Nat
  align : Nat
  clean : Bool
deriving DecidableEq, Repr

/-- The section table of an image (R77). -/
def zSections (bs : List Byte) : List ZSection :=
  let n := leAt bs 16 4
  let t := leAt bs 24 8
  if 12 < n then []
  else (List.range n).map fun i =>
    let e := (bs.drop (t + 32 * i)).take 32
    { kind := leAt e 0 4, off := leAt e 8 8, size := leAt e 16 8, align := leAt e 24 1, clean := leAt e 4 4 == 0 && leAt e 25 7 == 0 }

/-- The bytes of a section type, empty when the image has none; zero-fill holds no bytes. -/
def zBytes (bs : List Byte) (kind : Nat) : List Byte :=
  match (zSections bs).find? fun z => z.kind == kind with
  | some z => if kind = 3 then [] else (bs.drop z.off).take z.size
  | none => []

/-- A kernel descriptor of 128 bytes (R78). -/
def kernelAt (e : List Byte) : Kernel :=
  { entry := leAt e 0 8, fibres := leAt e 12 2, vregs := leAt e 16 4, xregs := leAt e 20 4, scratch := leAt e 24 4
    stack := leAt e 28 4, acc := leAt e 32 1, slots := leAt e 33 1, bars := leAt e 34 1
    restartable := leAt e 35 1 % 2 == 1, adapter := leAt e 35 1 / 2 % 2 == 1, params := leAt e 36 2, consts := leAt e 38 2
    shapes := (List.range 4).map fun i => leAt e (40 + 2 * i) 2, affinity := leAt e 48 2, exported := true }

/-- Whether a descriptor keeps to its limits (R78); an affinity that is a name-space index is one of the 4,096 of R359. -/
def kernelOk (e : List Byte) (codeSize shapeCount : Nat) : Bool :=
  let k := kernelAt e
  e.length == 128 && k.entry < codeSize && k.entry % 4 == 0 && leAt e 14 2 == 0 && leAt e 50 78 == 0
    && 1 ≤ k.fibres && k.fibres ≤ 1024 && k.scratch % 64 == 0 && k.scratch ≤ 2 ^ 20 && k.stack % 16 == 0 && k.acc ≤ 4
    && k.slots ≤ 32 && k.bars ≤ 16 && leAt e 35 1 < 4 && k.params ≤ 4096 && k.consts ≤ 64
    && k.shapes.all (fun i => i == 0xFFFF || i < shapeCount) && (k.affinity < 4096 || k.affinity == 0xFFFF)

/-- A shape record of 88 bytes (R75, R251). -/
def shapeAt (e : List Byte) : Shape :=
  { base := BitVec.ofNat 64 (leAt e 0 8), fmt := BitVec.ofNat 4 (leAt e 8 1), rank := BitVec.ofNat 3 (leAt e 8 1 / 16)
    ext := (List.range 6).map fun k => (k, BitVec.ofNat 32 (leAt e (16 + 12 * k) 4))
    stride := (List.range 6).map fun k => (k, BitVec.ofNat 32 (leAt e (20 + 12 * k) 4))
    origin := (List.range 6).map fun k => (k, BitVec.ofNat 32 (leAt e (24 + 12 * k) 4)) }

/-- Whether a shape record's reserved bits are zero (R6, R251). -/
def shapeOk (e : List Byte) : Bool := leAt e 8 1 < 128 && leAt e 9 7 == 0

/-- The bodies of a sequencer-body section, each on a 64-byte boundary (R262). -/
def bodiesOf (fuel : Nat) (bs : List Byte) : List (List Byte) :=
  match fuel with
  | 0 => []
  | n + 1 =>
    if bs = [] then []
    else
      let len := 32 + 128 * leAt bs 0 1
      bs.take len :: bodiesOf n (bs.drop ((len + 63) / 64 * 64))

/-- A relocation entry (R79). -/
structure Reloc where
  kind : Nat
  symbol : Nat
  off : Nat
  target : Nat
  clean : Bool
deriving DecidableEq, Repr

/-- The relocation entries of a section (R79). -/
def relocsOf (bs : List Byte) : List Reloc :=
  (List.range (bs.length / 16)).map fun i =>
    let e := (bs.drop (16 * i)).take 16
    { kind := leAt e 0 4, symbol := leAt e 4 4, off := leAt e 8 6, target := leAt e 14 1, clean := leAt e 15 1 == 0 }

/-- Bytes with others in their place. -/
def patchBytes (bs : List Byte) (off : Nat) (new : List Byte) : List Byte :=
  bs.take off ++ new ++ bs.drop (off + new.length)

/-- The bytes that a relocation puts at its target (R79), from the old ones: 8 bytes of data or a 32-bit literal parcel. The
target offset names the bytes that change: for a MOVI its literal parcel (log entry 80). -/
def relocBytes (kind : Nat) (old : List Byte) (v : Nat) : List Byte :=
  match kind with
  | 1 => leBytes 8 v
  | 2 => leBytes 4 (v % 2 ^ 32)
  | 3 => leBytes 4 (v / 2 ^ 32)
  | _ => if old.length = 8 then leBytes 8 (leAt old 0 8 % 2 ^ 52 + 2 ^ 52 * (v % 2 ^ 12))
         else leBytes 4 (leAt old 0 4 % 2 ^ 20 + 2 ^ 20 * (v % 2 ^ 12))

/-- The width of a relocation's target: data words have 8 bytes, the literals of MOVI in code 4. An NSPACE in the data section
changes a B64 word, and one elsewhere a literal (log entry 80). -/
def relocWidth (kind target : Nat) : Nat := if kind = 1 then 8 else if kind = 4 && target == 2 then 8 else 4

/-- The value that a relocation writes (R74, R79; log entries 6 and 81): an address, or the space index of a name record. -/
def relocValue (bs : List Byte) (tenant base : Nat) (r : Reloc) : Nat :=
  if r.kind = 4 then (Config.spaceIndex tenant base (Config.symbolRecord (zBytes bs 10) r.symbol)).toNat
  else (Config.symbolValue (zBytes bs 10) base r.symbol).toNat

/-- Apply an image's relocations to its bytes (R79). -/
def relocateImage (bs : List Byte) (tenant base : Nat) : List Byte :=
  (relocsOf (zBytes bs 9)).foldl (fun b r =>
    match (zSections bs).find? fun z => z.kind == r.target with
    | some z => patchBytes b (z.off + r.off)
        (relocBytes r.kind ((b.drop (z.off + r.off)).take (relocWidth r.kind r.target)) (relocValue bs tenant base r))
    | none => b) bs

/-- The range of addresses that an image's zero-fill section takes when the image lies at `base`: its first address and its
length (R77; log entry 80). -/
def zeroFill (bs : List Byte) (base : Nat) : Nat × Nat :=
  match (zSections bs).find? fun z => z.kind == 3 with
  | some z => (base + z.off, z.size)
  | none => (base, 0)

/-- The descriptor that the loader gives to a space of an image, with its space index (R74, R359, R399; log entry 81). -/
def nameDescBytes (tenant base : Nat) (q : Nat × Nat × List (Nat × Nat) × Nat) : Nat × List Byte :=
  let space := Config.spaceIndex tenant base q.1
  let place := Config.spacePlace tenant space
  let dims := q.2.2.1
  let dim (k : Nat) : Nat × Nat := dims.getD k (1, 1)
  (space.toNat, leBytes 1 q.2.1 ++ leBytes 1 dims.length ++ leBytes 2 q.2.2.2 ++ leBytes 4 place.2.toNat
    ++ ((List.range 6).flatMap fun k => leBytes 4 (dim k).1) ++ ((List.range 6).flatMap fun k => leBytes 4 (dim k).2)
    ++ leBytes 8 place.1.toNat)

/-- The spaces that an image declares: their indices and descriptors (R74). -/
def imageSpaces (bs : List Byte) (tenant base : Nat) : List (Nat × List Byte) :=
  let sec := zBytes bs 5
  if sec = [] then []
  else
    let rs := Config.nameRecords sec
    ((List.range rs.length).zip rs).map (nameDescBytes tenant base)

/-- The bytes of an image that its key covers (R80): the relocated image without its symbols, relocations and signature, and
without what their removal changes in the header and the section table: the number and the offsets of the sections, the
place of the table and the size (log entry 80). -/
def keyBytes (bs : List Byte) : List Byte :=
  let skip (k : Nat) : Bool := k == 9 || k == 10 || k == 12
  bs.take 16 ++ ((zSections bs).filter fun z => !skip z.kind).flatMap fun z =>
    leBytes 4 z.kind ++ leBytes 8 z.size ++ leBytes 1 z.align ++ zBytes bs z.kind

/-- Whether an image is malformed (R6, R77 to R79, R251, R438 reason 0x01). -/
def imageMalformed (bs : List Byte) : Bool :=
  let zs := zSections bs
  let codeSize := (zBytes bs 1).length
  let ks := zBytes bs 4
  let shapes := (zBytes bs 6).length / 88
  let hasNative := leAt bs 6 2 / 2 % 2 == 1
  !(leAt bs 0 4 == 0x31494B5A && leAt bs 4 2 == 1 && leAt bs 6 2 < 4 && leAt bs 9 7 == 0 && leAt bs 20 4 == 0
    && leAt bs 40 24 == 0 && leAt bs 32 8 == bs.length && 1 ≤ leAt bs 16 4 && leAt bs 16 4 ≤ 12
    && leAt bs 24 8 + 32 * leAt bs 16 4 ≤ bs.length
    && zs.all (fun z => z.clean && 1 ≤ z.kind && z.kind ≤ 12 && (z.kind == 3 || z.off + z.size ≤ bs.length)
      && z.off % 2 ^ z.align == 0)
    && (zs.map fun z => z.kind).eraseDups.length == zs.length
    && zs.any (fun z => z.kind == 1)
    && hasNative == zs.any (fun z => z.kind == 11) && (hasNative || leAt bs 8 1 == 0)
    && ks.length % 128 == 0
    && (List.range (ks.length / 128)).all (fun i => kernelOk ((ks.drop (128 * i)).take 128) codeSize shapes)
    && (List.range shapes).all (fun i => shapeOk (((zBytes bs 6).drop (88 * i)).take 88))
    && (relocsOf (zBytes bs 9)).all fun r => r.clean && 1 ≤ r.kind && r.kind ≤ 4
      && zs.any fun z => z.kind == r.target && r.off + relocWidth r.kind r.target ≤ z.size)

/-- An image placed at a tenant's address (R77 to R80, R411). Its code runs at the addresses where the image lies, which a base or
an offset off a 4-byte boundary leaves with bits [1:0] that are not zero (R29; log entry 80). -/
def placeImage (tenant handle base : Nat) (raw : List Byte) : Image :=
  let bs := relocateImage raw tenant base
  let codeOff := ((zSections bs).find? fun z => z.kind == 1).map (fun z => z.off) |>.getD 0
  let code := zBytes bs 1
  let ks := zBytes bs 4
  let cb := BitVec.ofNat 64 (base + codeOff)
  let symbols := zBytes bs 10
  let kernel (i : Nat) : Kernel :=
    let e := (ks.drop (128 * i)).take 128
    { kernelAt e with exported := symbols == [] || Config.symbolExported symbols (leAt e 8 4) }
  { tenant := tenant, handle := handle, base := cb, bytes := keyBytes bs
    code := code
    kernels := (List.range (ks.length / 128)).map kernel
    funcs := ((List.range (ks.length / 128)).map fun i =>
        let k := kernel i
        { entry := cb + BitVec.ofNat 64 k.entry, isKernel := true, vregs := k.vregs, xregs := k.xregs : Func })
      ++ (if symbols = [] then [] else (Config.imageFuncs symbols).map fun q =>
        { entry := cb + BitVec.ofNat 64 q.1, isKernel := q.2.1, vregs := q.2.2.1, xregs := q.2.2.2 : Func })
    shapes := (List.range ((zBytes bs 6).length / 88)).map fun i => shapeAt (((zBytes bs 6).drop (88 * i)).take 88)
    metadata := zBytes bs 7, bodies := bodiesOf 65536 (zBytes bs 8)
    isPublic := leAt bs 6 1 % 2 == 1, hasNative := leAt bs 6 1 / 2 % 2 == 1, native := zBytes bs 11
    signed := leAt bs 8 1 == Config.stepping.toNat && Config.nativeSigned (zBytes bs 11) (zBytes bs 12)
    malformed := imageMalformed raw }

end Sys2Proof.Machine
end

