-- ==== Sys2Proof/Machine/Sluice.lean ====
section
/-! DEFINITION. The sluice: rings, kicks and descriptors, the reading, checking and acceptance of batches, completion
records, and the operator's requests (R406 to R413, R429, R430, R434, R442; log entry 7). -/

namespace Sys2Proof.Machine

/-! ### Records (R411) -/

/-- `n` bytes of a record from byte `lo` on. -/
def recNat (r : BitVec 512) (lo n : Nat) : Nat := bitsOf r (8 * lo) (8 * n)
/-- The opcode of a record. -/
def recOp (r : BitVec 512) : Nat := recNat r 0 2
/-- The bytes of a record. -/
def recBytes (r : BitVec 512) : List Byte := leBytes 64 r.toNat
/-- A record from its bytes. -/
def recOf (bs : List Byte) : BitVec 512 := BitVec.ofNat 512 (ofLe bs)

def opBegin : Nat := 0x0001
def opCommit : Nat := 0x0002
def opJobOpen : Nat := 0x0010
def opJobClose : Nat := 0x0011
def opCheckpoint : Nat := 0x0012
def opImageLoad : Nat := 0x0020
def opImageDrop : Nat := 0x0021
def opLaunch : Nat := 0x0030
def opGraphCreate : Nat := 0x0031
def opGraphReplay : Nat := 0x0032
def opGraphDrop : Nat := 0x0033
def opCancel : Nat := 0x0040
def opPageMigrate : Nat := 0x0050
def opHcopy : Nat := 0x0060

/-- The byte ranges that the table of R411 names for an opcode, beyond opcode and flags; none for an unknown opcode. -/
def recFields (op : Nat) : Option (List (Nat × Nat)) :=
  match op with
  | 0x01 => some [(8, 8)]
  | 0x02 => some [(8, 8), (16, 4), (20, 4)]
  | 0x10 => some []
  | 0x11 | 0x12 => some [(8, 4)]
  | 0x20 => some [(8, 2), (16, 8), (24, 8)]
  | 0x21 | 0x33 => some [(8, 2)]
  | 0x30 => some [(8, 4), (12, 2), (14, 2), (16, 12), (28, 8), (36, 2), (40, 8), (48, 2), (56, 8)]
  | 0x31 => some [(8, 2), (16, 8), (24, 1)]
  | 0x32 => some [(8, 4), (12, 2), (16, 8), (24, 2)]
  | 0x40 => some [(8, 1), (12, 4), (16, 4), (20, 12)]
  | 0x50 => some [(8, 8), (16, 7), (32, 8)]
  | 0x60 => some [(8, 8), (16, 8), (24, 8)]
  | _ => none

/-- The flag bits that an opcode may set. -/
def recFlagsAllowed (op : Nat) : Nat :=
  if op = opLaunch ∨ op = opGraphReplay then 3 else if op = opHcopy then 1 else 0

/-- Whether a record's opcode is known and its reserved bytes and flag bits are zero (R412, reason 0x03). -/
def recClean (r : BitVec 512) : Bool :=
  match recFields (recOp r) with
  | none => false
  | some fs =>
    recNat r 2 2 ≤ recFlagsAllowed (recOp r) &&
      (List.range 60).all fun i => fs.any (fun f => f.1 ≤ 4 + i && 4 + i < f.1 + f.2) || recNat r (4 + i) 1 == 0

/-- One byte of a CRC-32C (R410; log entry 9). -/
def crc32cByte (c : BitVec 32) (b : Byte) : BitVec 32 :=
  (List.range 8).foldl (fun c _ => if c.getLsbD 0 then (c >>> 1) ^^^ 0x82F63B78#32 else c >>> 1) (c ^^^ b.setWidth 32)
/-- The CRC-32C of a byte string. -/
def crc32c (bs : List Byte) : BitVec 32 := ~~~(bs.foldl crc32cByte (BitVec.allOnes 32))

/-! ### Tenant memory as the sluice and dispatcher read it (R412, R422) -/

/-- Bytes of a tenant's memory, zero where nothing is mapped. -/
def virtBytes (s : State) (tenant va n : Nat) : List Byte :=
  (List.range n).map fun i => BitVec.ofNat 8 (readVirt s tenant (BitVec.ofNat 64 (va + i)) 1)

/-- Whether every page of a range is present. -/
def rangePresent (s : State) (tenant va n : Nat) : Bool :=
  n == 0 || (pagesOf va n).all fun v => (leafAt s tenant v).isSome

/-- The reason for which a range of a tenant fails validation (R412): 0x05 when a page lies outside its windows, else 0x06 when a
walk is MALFORMED or a right is lacking; a page that is not present passes. -/
def rangeReason (s : State) (tenant va n : Nat) (right : W64 → Bool) : Option Nat :=
  if n = 0 then none
  else
    let ws := (pagesOf va n).map fun v => (v, walk s tenant (BitVec.ofNat 64 v))
    if ws.any fun q => match q.2 with | .leaf e k => !inWindows s tenant (ptePa e + q.1 % k) | _ => false then some 5
    else if ws.any fun q => match q.2 with | .leaf e _ => !right e | .malformed => true | .notPresent => false then some 6
    else none

/-- Whether a range lies within the 56-bit addresses (R411). -/
def addrOk (va n : Nat) : Bool := va < 2 ^ 56 && va + n ≤ 2 ^ 56

/-! ### What is defined by a point of queue order (R412) -/

/-- A job as a batch may name it: closed, the next launch number, the replays' first launch numbers and the grids of launches. -/
structure JobEnv where
  number : Nat
  closed : Bool
  next : Nat
  replays : List Nat
  grids : List (Nat × Nat × Nat × Nat)
deriving DecidableEq, Repr

/-- A graph's nodes: LAUNCH records with masks of predecessors. -/
abbrev Nodes : Type := List (BitVec 512 × BitVec 64)

/-- The handles, jobs and pending names of a tenant at a point of queue order; a graph stands with its number. -/
structure Env where
  tenant : Nat
  images : List (Nat × Image)
  graphs : List (Nat × Nat × Nodes)
  jobs : List JobEnv
  nextJob : Nat
  busyImages : List Nat
  busyGraphs : List Nat
deriving DecidableEq, Repr

/-- An image read for a handle (R411, R412; log entry 79). -/
def imageAt (s : State) (tenant : Nat) (r : BitVec 512) : Image :=
  let va := recNat r 16 8
  placeImage tenant (recNat r 8 2) va (virtBytes s tenant va (recNat r 24 8))

/-- The nodes of a graph description (R411). -/
def nodesAt (s : State) (tenant va n : Nat) : Nodes :=
  (List.range n).map fun i =>
    let e := virtBytes s tenant (va + 72 * i) 72
    (recOf (e.take 64), BitVec.ofNat 64 (leAt e 64 8))

/-- The grid of a LAUNCH record. -/
def recGrid (r : BitVec 512) : Nat × Nat × Nat := (recNat r 16 4, recNat r 20 4, recNat r 24 4)

/-- The number of the graph that a command creates. -/
def graphId (entry index : Nat) : Nat := entry * 2048 + index

/-- What a command does to the handles and names (R411); a graph that it creates is numbered `id`. -/
def Env.handles (s : State) (e : Env) (id : Nat) (r : BitVec 512) : Env :=
  let h := recNat r 8 2
  if recOp r = opImageLoad then { e with images := (h, imageAt s e.tenant r) :: e.images }
  else if recOp r = opImageDrop then { e with images := e.images.filter fun p => p.1 != h }
  else if recOp r = opGraphCreate then { e with graphs := (h, id, nodesAt s e.tenant (recNat r 16 8) (recNat r 24 1)) :: e.graphs }
  else if recOp r = opGraphDrop then { e with graphs := e.graphs.filter fun p => p.1 != h }
  else e

/-- The names that a command not yet decided holds in use (R412, reason 0x08). -/
def Env.uses (e : Env) (r : BitVec 512) : Env :=
  if recOp r = opLaunch then { e with busyImages := recNat r 12 2 :: e.busyImages }
  else if recOp r = opGraphReplay then { e with busyGraphs := recNat r 12 2 :: e.busyGraphs }
  else e

/-- Apply `f` to a job of an environment. -/
def Env.modJob (e : Env) (j : Nat) (f : JobEnv → JobEnv) : Env := { e with jobs := updFirst (fun b => b.number == j) f e.jobs }

/-- What an earlier command of the same batch does to the jobs (R414). -/
def Env.jobStep (e : Env) (r : BitVec 512) : Env :=
  let j := recNat r 8 4
  if recOp r = opJobOpen then
    { e with jobs := e.jobs ++ [{ number := e.nextJob, closed := false, next := 1, replays := [], grids := [] }], nextJob := e.nextJob + 1 }
  else if recOp r = opJobClose then e.modJob j fun b => { b with closed := true }
  else if recOp r = opLaunch then e.modJob j fun b => { b with grids := (b.next, recGrid r) :: b.grids, next := b.next + 1 }
  else if recOp r = opGraphReplay then
    let ns := ((e.graphs.find? fun g => g.1 == recNat r 12 2).map fun g => g.2.2).getD []
    e.modJob j fun b => { b with
      replays := b.next :: b.replays, next := b.next + ns.length
      grids := ((List.range ns.length).zip ns).map (fun (q : Nat × BitVec 512 × BitVec 64) => (b.next + q.1, recGrid q.2.1)) ++ b.grids }
  else e

/-- The state after a command of the same batch. -/
def Env.step (s : State) (e : Env) (r : BitVec 512) : Env := ((e.handles s 0 r).uses r).jobStep r

/-- The commands of a tenant in the journal, with their entries and indices, in acceptance order. -/
def tenantCmds (s : State) (tenant : Nat) : List (Nat × Nat × JCmd) :=
  s.journal.flatMap fun e =>
    if (s.fn e.fn).tenant = tenant then ((List.range e.cmds.length).zip e.cmds).map fun q => (e.uid, q.1 + 1, q.2) else []

/-- What is defined for a tenant by its accepted commands that `keep` names by entry and index. -/
def envOf (s : State) (tenant : Nat) (keep : Nat → Nat → Bool) : Env :=
  let replayOf (l : Launch) : Bool := l.node = 1
  let jobs := (s.jobs.filter fun j => j.tenant == tenant).map fun j =>
    let ls := s.launches.filter fun l => l.tenant == tenant && l.job == j.number
    { number := j.number, closed := j.closed, next := j.nextLaunch, replays := (ls.filter replayOf).map fun l => l.number
      grids := ls.map fun l => (l.number, l.gx, l.gy, l.gz) : JobEnv }
  let e0 : Env :=
    { tenant := tenant, images := (s.images.filter fun m => m.tenant == tenant).map fun m => (m.handle, m)
      graphs := (s.graphs.filter fun g => g.tenant == tenant).map fun g => (g.handle, g.id, g.nodes)
      jobs := jobs, nextJob := (s.tenant tenant).nextJob, busyImages := [], busyGraphs := [] }
  ((tenantCmds s tenant).filter fun q => keep q.1 q.2.1).foldl (fun e q =>
    let e1 := if q.2.2.state == .waiting then e.handles s (graphId q.1 q.2.1) q.2.2.bits else e
    if q.2.2.isDecided then e1 else e1.uses q.2.2.bits) e0

/-! ### The checks of a command (R412) -/

/-- A reason when a condition fails. -/
def reasonUnless (ok : Bool) (n : Nat) : Option Nat := if ok then none else some n

/-- The checks of a LAUNCH record beyond its job: handles, ranges and limits, and that its kernel is exported (R72; log entries 68 and
80). -/
def launchReason (s : State) (e : Env) (r : BitVec 512) : Option Nat :=
  match e.images.find? fun m => m.1 == recNat r 12 2 with
  | none => some 4
  | some (_, m) =>
    let k := if m.malformed then none else m.kernels[recNat r 14 2]?
    let consts := (k.map fun x => 8 * x.consts).getD 0
    let grid (n : Nat) : Bool := 1 ≤ n && n ≤ 2 ^ 24
    (rangeReason s e.tenant (recNat r 28 8) (recNat r 36 2) pteR).or <|
    (rangeReason s e.tenant (recNat r 56 8) consts pteR).or <|
    reasonUnless (grid (recGrid r).1 && grid (recGrid r).2.1 && grid (recGrid r).2.2 && recNat r 48 2 ≤ 256
      && addrOk (recNat r 28 8) (recNat r 36 2) && addrOk (recNat r 56 8) consts
      && (m.malformed || match k with | some x => x.exported && x.params == recNat r 36 2 | none => false)) 7

/-- The checks of a graph's nodes, when its description is present. -/
def nodesReason (s : State) (e : Env) (ns : Nodes) : Option Nat :=
  ((List.range ns.length).zip ns).findSome? fun (q : Nat × BitVec 512 × BitVec 64) =>
    (reasonUnless (recOp q.2.1 == opLaunch && recClean q.2.1 && recNat q.2.1 8 4 == 0) 3).or <|
    (launchReason s e q.2.1).or <| reasonUnless (q.2.2.toNat < 2 ^ q.1) 7

/-- The patch entries of a replay (R411): node, length, offset and value bytes. -/
def patchesAt (s : State) (tenant va n : Nat) : List (Nat × Nat × Nat × List Byte) :=
  (List.range n).map fun i =>
    let e := virtBytes s tenant (va + 16 * i) 16
    (leAt e 0 1, leAt e 1 1, leAt e 2 2, (e.drop 8).take (leAt e 1 1))

/-- Whether a patch entry keeps to R411 and R426. Bytes [7:4] of the entry, which R411 does not name, may hold any value (log entry 80). -/
def patchOk (ns : Nodes) (p : Nat × Nat × Nat × List Byte) : Bool :=
  match ns[p.1]? with
  | some n => 1 ≤ p.2.1 && p.2.1 ≤ 8 && p.2.2.1 + p.2.1 ≤ recNat n.1 36 2
  | none => false

/-- The checks of a CANCEL record beyond its job (R411, R417). -/
def cancelReason (b : JobEnv) (r : BitVec 512) : Option Nat :=
  let level := recNat r 8 1
  let launch := recNat r 16 4
  let xyz := (recNat r 20 4, recNat r 24 4, recNat r 28 4)
  let grid := (b.grids.find? fun g => g.1 == launch).map fun g => g.2
  let known : Bool := match level with
    | 0 => (match grid with | some g => xyz.1 < g.1 && xyz.2.1 < g.2.1 && xyz.2.2 < g.2.2 | none => false)
    | 1 => grid.isSome
    | 2 => b.replays.contains launch
    | _ => true
  (reasonUnless known 4).or <|
    reasonUnless (level ≤ 4 && (level < 3 || launch == 0) && (level == 0 || xyz == (0, 0, 0))) 7

/-- Whether some page may take a migrate target (R346, R412). -/
def moveTargetOk (r : BitVec 512) : Bool :=
  let home := recNat r 18 2
  let sel := recNat r 20 2
  let stack := recNat r 22 1
  let homeOk : Bool := match home with
    | 0 | 3 => sel == 0
    | 1 => sel < 512 && (recNat r 16 1 == 0 || sel / 128 == stack / 4)
    | 2 => sel < 1024
    | _ => false
  recNat r 16 1 ≤ 1 && recNat r 17 1 ≤ 1 && stack < 16 && (recNat r 17 1 == 0 || homeOk)

/-- The job that a command names, beyond which `k` checks. -/
def withJob (e : Env) (r : BitVec 512) (k : JobEnv → Option Nat) : Option Nat :=
  match e.jobs.find? fun b => b.number == recNat r 8 4 with
  | none => some 4
  | some b => (k b).or (reasonUnless (!b.closed) 8)

/-- The reason for which a command fails validation, in the order of the table (R412). -/
def cmdReason (s : State) (e : Env) (r : BitVec 512) : Option Nat :=
  let op := recOp r
  let h := recNat r 8 2
  (reasonUnless (recClean r) 3).or <|
  if op = opJobClose ∨ op = opCheckpoint then withJob e r fun _ => none
  else if op = opImageLoad then
    (reasonUnless (!(e.images.any fun m => m.1 == h)) 4).or <| (rangeReason s e.tenant (recNat r 16 8) (recNat r 24 8) pteR).or <|
      reasonUnless (h != 0 && addrOk (recNat r 16 8) (recNat r 24 8)) 7
  else if op = opImageDrop then
    (reasonUnless (e.images.any fun m => m.1 == h) 4).or <| reasonUnless (!e.busyImages.contains h) 8
  else if op = opLaunch then withJob e r fun _ => launchReason s e r
  else if op = opGraphCreate then
    let va := recNat r 16 8
    let n := recNat r 24 1
    (reasonUnless (!(e.graphs.any fun g => g.1 == h)) 4).or <| (rangeReason s e.tenant va (72 * n) pteR).or <|
      (reasonUnless (1 ≤ n && n ≤ 64 && addrOk va (72 * n)) 7).or <|
      if rangePresent s e.tenant va (72 * n) then nodesReason s e (nodesAt s e.tenant va n) else none
  else if op = opGraphReplay then
    withJob e r fun _ => match e.graphs.find? fun g => g.1 == recNat r 12 2 with
      | none => some 4
      | some (_, _, ns) =>
        let va := recNat r 16 8
        let n := recNat r 24 2
        (rangeReason s e.tenant va (16 * n) pteR).or <| (reasonUnless (n ≤ 256 && addrOk va (16 * n)) 7).or <|
          if rangePresent s e.tenant va (16 * n) then reasonUnless ((patchesAt s e.tenant va n).all (patchOk ns)) 7 else none
  else if op = opGraphDrop then
    (reasonUnless (e.graphs.any fun g => g.1 == h) 4).or <| reasonUnless (!e.busyGraphs.contains h) 8
  else if op = opCancel then
    match e.jobs.find? fun b => b.number == recNat r 12 4 with
    | none => some 4
    | some b => (cancelReason b r).or (reasonUnless (!b.closed) 8)
  else if op = opPageMigrate then
    let va := recNat r 8 8
    (rangeReason s e.tenant va 1 fun _ => true).or (reasonUnless (addrOk va 1 && moveTargetOk r) 7)
  else if op = opHcopy then
    let va := recNat r 16 8
    let n := recNat r 24 8
    (rangeReason s e.tenant va n (if recNat r 2 2 = 1 then pteR else pteW)).or (reasonUnless (addrOk va n && n % 64 == 0) 7)
  else if op = opJobOpen then none
  else some 3

/-- The first failing command of a batch, with its reason and index from 1. -/
def firstBad (s : State) (e : Env) (i : Nat) (rs : List (BitVec 512)) : Option (Nat × Nat) :=
  match rs with
  | [] => none
  | r :: rest =>
    match cmdReason s e r with
    | some n => some (n, i)
    | none => firstBad s (e.step s r) (i + 1) rest

/-- The verdict on a batch at its COMMIT (R410, R412): the failure of the lowest record index, framing first there. -/
def batchVerdict (s : State) (tenant : Nat) (b : Batch) (commit : BitVec 512) : Option (Nat × Nat) :=
  let n := b.recs.length
  let framing := recNat commit 8 8 == b.seq.toNat && recNat commit 16 4 == n && 1 ≤ n
    && recNat commit 20 4 == (crc32c (b.recs.flatMap recBytes)).toNat
  let atCommit : Option (Nat × Nat) := if !framing then some (1, n + 1) else if !recClean commit then some (3, n + 1) else none
  let inside := firstBad s (envOf s tenant fun _ _ => true) 1 b.recs
  match b.bad, inside with
  | some x, some y => if x.2 ≤ y.2 then some x else some y
  | some x, none => some x
  | none, some y => some y
  | none, none => atCommit

/-! ### Rings (R407 to R409; log entry 7) -/

/-- The address of the descriptor of a position. -/
def Queue.slotAddr (q : Queue) (pos : Nat) : Nat := q.ring.toNat + 16 * (pos % q.size)

/-- Whether the flags of the slot at a position show it available for its wrap state. -/
def slotAvail (s : State) (fn : Nat) (q : Queue) : Bool :=
  let f := memNat s.hostMem (hostAt fn (q.slotAddr q.k + 14)) 2
  let w := q.k / q.size == 1
  f.testBit 7 == w && f.testBit 15 != w

/-- Advance the consumption position. -/
def Queue.advance (q : Queue) : Queue := { q with k := (q.k + 1) % (2 * q.size), stalled := none }

/-- Mark the buffer of an id used at the queue's used position, with a number of bytes written. -/
def markUsed (s : State) (fn qn : Nat) (id : BitVec 16) (len : Nat) : State :=
  let q := s.queue fn qn
  let a := q.slotAddr q.used
  let fl := (if q.used / q.size = 1 then 2 ^ 7 + 2 ^ 15 else 0) + (if len = 0 then 0 else 2)
  let bs := leBytes 4 len ++ leBytes 2 id.toNat ++ leBytes 2 fl
  ({ s with hostMem := memWrite s.hostMem (hostAt fn (a + 8)) bs } : State).modQueue fn qn fun q => { q with used := (q.used + 1) % (2 * q.size) }

/-- Mark used, in ring order, the command buffers whose batches are all decided (R430). -/
def flushUsed (bufs : List BufUse) (s : State) (fn qn : Nat) : State :=
  match bufs with
  | [] => s
  | b :: r =>
    if b.left = 0 then flushUsed r ((markUsed s fn qn b.id 0).modQueue fn qn fun q => { q with bufs := r }) fn qn else s

/-- Take `n` records of decided batches out of the buffers. -/
def settleBufs (bufs : List BufUse) (n : Nat) : List BufUse :=
  match bufs with
  | [] => []
  | b :: r => { b with left := b.left - n } :: settleBufs r (n - b.left)

/-- A batch of a queue is decided (R410, R430): its records leave their buffers, which are marked used in order. -/
def batchDecided (s : State) (fn qn : Nat) (b : Batch) : State :=
  let s1 := s.modQueue fn qn fun q => { q with expSeq := q.expSeq + 1, bufs := settleBufs q.bufs b.held }
  flushUsed (s1.queue fn qn).bufs s1 fn qn

/-- Reject a batch whole (R412): one record of kind 2. -/
def rejectBatch (s : State) (fn qn : Nat) (b : Batch) (why : Nat × Nat) : State :=
  let r : CRec := { kind := 2, status := why.1, flags := 0, seq := b.seq.toNat, index := why.2, value := 0, time := BitVec.ofNat 64 s.ticks }
  batchDecided ((s.modQueue fn qn fun q => { q with open_ := none }).modQueue fn (qn + 1) fun q => { q with recs := q.recs ++ [r] }) fn qn b

/-! ### Reading batches (R409, R410) -/

/-- A batch opened by what is no BEGIN. -/
def strayBatch (seq : W64) : Batch := { seq := seq, recs := [], bad := some (1, 0), held := 0 }

/-- Take one record, none for a malformed descriptor, into the open batch. -/
def addRecord (b : Batch) (r : Option (BitVec 512)) : Batch :=
  let b1 := { b with held := b.held + 1 }
  let mark (w : Nat × Nat) : Batch := { b1 with bad := some (b1.bad.getD w) }
  match r with
  | none => mark (1, b.recs.length + 1)
  | some x => if b.recs.length < 1024 then { b1 with recs := b1.recs ++ [x] } else mark (1, 1025)

/-- Whether a record read is a BEGIN or a COMMIT. -/
def isFrame (r : Option (BitVec 512)) : Bool :=
  match r with | some x => recOp x == opBegin || recOp x == opCommit | none => false

/-- Take records up to the next BEGIN or COMMIT into the open batch. -/
def feed (l : List (Option (BitVec 512))) (b : Option Batch) (seq : W64) : List (Option (BitVec 512)) × Option Batch :=
  match l with
  | [] => ([], b)
  | r :: rest => if isFrame r then (l, b) else feed rest (some (addRecord (b.getD (strayBatch seq)) r)) seq

/-- A queue whose waiting records are taken as far as they go. -/
def Queue.fed (q : Queue) : Queue :=
  let r := feed q.unread q.open_ q.expSeq
  { q with unread := r.1, open_ := r.2 }

/-- The journal's bytes in use (R426, R429): records, and the node records and parameter blocks of snapshots. -/
def journalUsed (s : State) : Nat :=
  s.journal.foldl (fun n e => n + 64 * (e.cmds.length + 2) + e.cmds.foldl (fun m c => m + c.params.foldl (fun k p => k + 72 + p.length) 0) 0) 0

/-- The bytes of the snapshots that a batch's replays take (R426, R429). -/
def snapshotBytes (s : State) (tenant : Nat) (rs : List (BitVec 512)) : Nat :=
  let size (e : Env) (r : BitVec 512) : Nat :=
    if recOp r = opGraphReplay then
      ((e.graphs.find? fun g => g.1 == recNat r 12 2).map fun g => g.2.2.foldl (fun n q => n + 72 + recNat q.1 36 2) 0).getD 0
    else 0
  (rs.foldl (fun (a : Nat × Env) r => (a.1 + size a.2 r, a.2.step s r)) (0, envOf s tenant fun _ _ => true)).1

/-- Whether a function's host memory may be reached: it is started, not being reset, and its stream is Secure unless it is
the PF (R431, R451). -/
def fnOpen (s : State) (fn : Nat) : Bool :=
  let f := s.fn fn
  f.status.getLsbD 2 && !f.resetting && (fn == 0 || f.ide.any fun (p : Nat × IdeStream) => p.2.secure)

/-- Whether the sluice consumes from a command queue now (R430, R432, R434). -/
def sluiceOpen (s : State) (fn : Nat) (q : Queue) : Bool :=
  q.enabled && fnOpen s fn && s.journalOk && journalUsed s < 2 ^ 27 && s.witnessRoom

/-- What the descriptor at the consumption position gives: its id and its records, a pseudo-record where it is malformed. -/
def readDescriptor (s : State) (fn : Nat) (q : Queue) : BitVec 16 × List (Option (BitVec 512)) :=
  let a := q.slotAddr q.k
  let n (off k : Nat) : Nat := memNat s.hostMem (hostAt fn (a + off)) k
  let len := n 8 4
  let fl := n 14 2
  let bad := fl.testBit 2 || fl.testBit 1 || len % 64 != 0
  (BitVec.ofNat 16 (n 12 2),
    if bad then [none] else (List.range (len / 64)).map fun i => some (recOf (memRead s.hostMem (hostAt fn (n 0 8 + 64 * i)) 64)))

/-- Consume descriptors of a command queue (R409, R430): in order, until a batch waits, or consumption stalls at a slot that is not
available or for want of room in the journal; it is tried again 1 µs later. -/
def consume (fuel : Nat) (s : State) (fn qn : Nat) : State :=
  match fuel with
  | 0 => s
  | n + 1 =>
    let q := s.queue fn qn
    if q.ready.isSome || q.unread != [] || q.k == q.c then s
    else if !sluiceOpen s fn q || !slotAvail s fn q then s.modQueue fn qn fun q => { q with stalled := some (s.ticks + 1) }
    else
      let d := readDescriptor s fn q
      let s1 := s.modQueue fn qn fun q =>
        ({ q.advance with unread := d.2, bufs := q.bufs ++ [{ id := d.1, left := d.2.length }] } : Queue).fed
      consume n s1 fn qn

/-- Go on reading a command queue. -/
def goOn (s : State) (fn qn : Nat) : State :=
  let s1 := s.modQueue fn qn Queue.fed
  consume (2 * (s1.queue fn qn).size + 1) s1 fn qn

/-- KICK (R408, R409). -/
def execKick (k : KickWrite) (s : State) : Result :=
  .next (
    let q := s.queue k.fn k.page
    if k.offset ≠ 0 ∨ (k.bytes ≠ 8 ∧ k.bytes ≠ 4) ∨ bitsOf k.value 0 16 ≠ k.page ∨ !q.enabled then s
    else
      let e := bitsOf k.value 16 15 + q.size * bitsOf k.value 31 1
      let d := (e + 2 * q.size - q.c) % (2 * q.size)
      let s1 := if 1 ≤ d ∧ d ≤ q.size then s.modQueue k.fn k.page fun x => { x with c := e % (2 * x.size) } else s
      if k.page % 2 = 0 then goOn s1 k.fn k.page else s1)

/-- DESCRIPTOR_REREAD (R409). -/
def execDescriptorReread (q : AtQueue) (s : State) : Result := .next (if q.queue % 2 = 0 then goOn s q.fn q.queue else s)

/-- Whether a record stands first among those that a queue has yet to take. -/
def nextRecord (q : Queue) (r : BitVec 512) : Bool := q.ready.isNone && q.unread.head? == some (some r)

/-- BEGIN (R410): a batch opens; one that was open has no COMMIT and is rejected. -/
def execBatchBegin (r : RecordMsg) (s : State) : Result :=
  .next (
    let q := s.queue r.fn r.queue
    if !nextRecord q r.bits then s
    else
      let s1 := match q.open_ with
        | some b => rejectBatch s r.fn r.queue b (b.bad.getD (1, b.recs.length + 1))
        | none => s
      let seq : W64 := BitVec.ofNat 64 (recNat r.bits 8 8)
      goOn (s1.modQueue r.fn r.queue fun x =>
        { x with unread := x.unread.tail
                 open_ := some { seq := seq, recs := [], held := 1
                                 bad := if seq ≠ x.expSeq then some (2, 0) else if recClean r.bits then none else some (3, 0) } }) r.fn r.queue)

/-- COMMIT (R410, R412): the batch is validated whole; it waits for acceptance or is rejected. -/
def execBatchCommit (r : RecordMsg) (s : State) : Result :=
  .next (
    let q := s.queue r.fn r.queue
    if !nextRecord q r.bits then s
    else
      let b0 := q.open_.getD (strayBatch q.expSeq)
      let b := { b0 with held := b0.held + 1 }
      let s1 := s.modQueue r.fn r.queue fun x => { x with unread := x.unread.tail, open_ := none }
      match batchVerdict s (s.fn r.fn).tenant b r.bits with
      | some why => goOn (rejectBatch s1 r.fn r.queue b why) r.fn r.queue
      | none => s1.modQueue r.fn r.queue fun x => { x with ready := some b })

/-! ### Acceptance (R414, R416, R430, R434) -/

/-- The job that a command belongs to, once its batch is accepted. -/
def cmdJob (r : BitVec 512) : Nat :=
  let op := recOp r
  if op = opCancel then recNat r 12 4
  else if op = opJobClose ∨ op = opCheckpoint ∨ op = opLaunch ∨ op = opGraphReplay then recNat r 8 4
  else 0

/-- What acceptance alone does for a command of a tenant (R414 to R416): job numbers are given, jobs close, phases end, and
launches and replays take their numbers. Until its outcome is decided a command's value is its job's phase. -/
def acceptCmd (s : State) (tenant entry : Nat) (q : Nat × BitVec 512) : State × JCmd :=
  let op := recOp q.2
  let c : CmdRef := { entry := entry, index := q.1 }
  let n := (s.tenant tenant).nextJob
  let m : JCmd := { bits := q.2, state := .waiting, status := .ok, value := 0, restarted := false, launches := [], params := []
                    job := if op = opJobOpen then n else cmdJob q.2 }
  let m := { m with value := BitVec.ofNat 64 (((s.job? tenant m.job).map fun j => j.phase).getD 0) }
  if op = opJobOpen then
    let j : Job := { tenant := tenant, number := n, openTick := s.ticks, closed := false, completed := false, nextLaunch := 1
                     nextSerial := 1, phase := 0, bad := [], clock := [] }
    (({ s with jobs := s.jobs ++ [j] } : State).modTenant tenant fun t => { t with nextJob := n + 1 }, m)
  else if op = opJobClose then (s.modJob tenant m.job fun j => { j with closed := true }, m)
  else if op = opCheckpoint then (s.modJob tenant m.job fun j => { j with phase := j.phase + 1 }, m)
  else if op = opLaunch then (s.push (.launch c), m)
  else if op = opGraphReplay then (s.push (.graphReplay c), m)
  else (s, m)

/-- Whether a batch that waits can be accepted now (R430): there is room for its whole entry. -/
def acceptOk (s : State) (fn : Nat) (q : Queue) (b : Batch) : Bool :=
  q.enabled && fnOpen s fn && s.journalOk && s.witnessRoom
    && journalUsed s + 64 * (b.recs.length + 2) + snapshotBytes s (s.fn fn).tenant b.recs ≤ 2 ^ 27

/-- BATCH_ACCEPT (R430, R434): the entry is in both copies; the witness knows, and the buffers are marked used. -/
def execBatchAccept (q : AtQueue) (s : State) : Result :=
  .next (match (s.queue q.fn q.queue).ready with
    | none => s
    | some b =>
      if !acceptOk s q.fn (s.queue q.fn q.queue) b then s
      else
        let tenant := (s.fn q.fn).tenant
        let (u, s1) := s.fresh
        let r := ((List.range b.recs.length).zip b.recs).foldl (fun (acc : State × List JCmd) p =>
          let x := acceptCmd acc.1 tenant u (p.1 + 1, p.2)
          (x.1, acc.2 ++ [x.2])) (s1, [])
        let e : JEntry := { uid := u, fn := q.fn, queue := q.queue, seq := b.seq.toNat, cmds := r.2, copy0 := true, copy1 := true
                            usedWritten := true, time := s.ticks }
        let s2 := ({ r.1 with journal := r.1.journal ++ [e] } : State).tellWitness q.fn q.queue b.seq.toNat 0 e.cmds.length
        goOn (batchDecided (s2.modQueue q.fn q.queue fun x => { x with ready := none }) q.fn q.queue b) q.fn q.queue)

/-- HUB_RECOVERY (R430): every batch in both copies is accepted, and used elements not yet written are written. -/
def execHubRecovery (s : State) : Result :=
  .next (
    let s1 : State := { s with journal := s.journal.map fun e => if e.copy0 && e.copy1 then { e with usedWritten := true } else e }
    s1.fns.foldl (fun t (f : Nat × Fn) => f.2.queues.foldl (fun u (q : Nat × Queue) =>
      if q.1 % 2 = 0 && q.2.enabled then flushUsed q.2.bufs u f.1 q.1 else u) t) s1)

/-- JOURNAL_REBUILD (R432): both copies stand again, and acceptance resumes. -/
def execJournalRebuild (s : State) : Result :=
  .next { s with journalOk := true, journal := s.journal.map fun e => { e with copy0 := true, copy1 := true } }

/-! ### Completion records (R413) -/

/-- The 32 bytes of a completion record. -/
def crecBytes (r : CRec) : List Byte :=
  [BitVec.ofNat 8 r.kind, BitVec.ofNat 8 r.status, BitVec.ofNat 8 r.flags, 0] ++ leBytes 8 r.seq ++ leBytes 2 r.index ++ leBytes 2 0
    ++ leBytes 8 r.value.toNat ++ leBytes 8 r.time.toNat

/-- Whether a queue's first waiting record can be written, or a buffer taken for it. -/
def recordReady (s : State) (fn qn : Nat) : Bool :=
  let q := s.queue fn qn
  qn % 2 == 1 && q.recs != [] && q.enabled && fnOpen s fn && s.witnessRoom && (q.partBuf.isSome || (q.k != q.c && slotAvail s fn q))

/-- A record of a command is written (R429, R430, R434): the witness is told, and an entry whose records are all written is
retired. -/
def recordWritten (s : State) (fn qn : Nat) (r : CRec) : State :=
  if r.kind ≠ 1 then s
  else
    let is (e : JEntry) : Bool := e.fn == fn && e.queue == qn - 1 && e.seq == r.seq
    let s1 : State := { s with
      journal := (updFirst is (fun e => e.modCmd r.index fun m => { m with state := .recorded }) s.journal).filter
        fun e => !(e.cmds.all fun m => m.state == .recorded) }
    s1.tellWitness fn (qn - 1) r.seq r.index 0

/-- The buffer that the next record goes into: the one being filled, or the next available one. -/
def nextBuf (s : State) (fn qn : Nat) : (BitVec 16 × W64 × Nat × Nat) × State :=
  let q := s.queue fn qn
  match q.partBuf with
  | some b => (b, s)
  | none =>
    let a := q.slotAddr q.k
    let n (off k : Nat) : Nat := memNat s.hostMem (hostAt fn (a + off)) k
    let fl := n 14 2
    let len := if fl.testBit 1 && !fl.testBit 2 then n 8 4 else 0
    ((BitVec.ofNat 16 (n 12 2), BitVec.ofNat 64 (n 0 8), len, 0), s.modQueue fn qn Queue.advance)

/-- COMPLETION_RECORD_WRITE (R413): the oldest record goes into a buffer, which is marked used once it is full or nothing more
waits (log entry 74). -/
def execCompletionRecordWrite (q : AtQueue) (s : State) : Result :=
  .next (
    if !recordReady s q.fn q.queue then s
    else
      let (b, s1) := nextBuf s q.fn q.queue
      match (s1.queue q.fn q.queue).recs with
      | [] => s
      | r :: rest =>
        if b.2.2.1 < b.2.2.2 + 32 then (markUsed s1 q.fn q.queue b.1 b.2.2.2).modQueue q.fn q.queue fun x => { x with partBuf := none }
        else
          let used := b.2.2.2 + 32
          let s2 : State := { s1 with hostMem := memWrite s1.hostMem (hostAt q.fn (b.2.1.toNat + b.2.2.2)) (crecBytes r) }
          let s3 := recordWritten s2 q.fn q.queue r
          if b.2.2.1 < used + 32 ∨ rest = [] then
            (markUsed s3 q.fn q.queue b.1 used).modQueue q.fn q.queue fun x => { x with recs := rest, partBuf := none }
          else s3.modQueue q.fn q.queue fun x => { x with recs := rest, partBuf := some (b.1, b.2.1, b.2.2.1, used) })

/-! ### Functions and the operator (R406, R407, R424, R427, R434, R442, R446, R484) -/

/-- The feature bits that a driver must accept (R407): VERSION_1, ACCESS_PLATFORM, RING_PACKED and NOTIFICATION_DATA. -/
def featuresNeeded : W64 := BitVec.ofNat 64 (2 ^ 32 + 2 ^ 33 + 2 ^ 34 + 2 ^ 38)
/-- The feature bits that a function offers (R407): also RING_EVENT_IDX and IN_ORDER, and the PF SR_IOV. -/
def featuresOffered (fn : Nat) : W64 :=
  featuresNeeded ||| BitVec.ofNat 64 (2 ^ 29 + 2 ^ 35 + if fn = 0 then 2 ^ 37 else 0)

/-- FEATURES_OK (R407): accepted, and then bit 3 of device_status reads one. -/
def execFeaturesOk (m : FeatureMsg) (s : State) : Result :=
  .next (
    if m.bits &&& featuresNeeded = featuresNeeded ∧ m.bits &&& ~~~(featuresOffered m.fn) = 0 then
      s.modFn m.fn fun f => { f with features := m.bits, status := f.status ||| 8 }
    else s.modFn m.fn fun f => { f with status := f.status &&& ~~~8#8 })

/-- DRIVER_OK (R448): refused with DEVICE_NEEDS_RESET after a failed boot stage. -/
def execDriverOk (fn : Nat) (s : State) : Result :=
  .next (s.modFn fn fun f => { f with status := if s.bootFailed then f.status ||| 64 else f.status ||| 4 })

/-- Set up a queue of a function: enabled, with both positions 0 (R407, R409). -/
def Queue.setup (q : Queue) (size : Nat) (ring : W64) : Queue :=
  { Queue.reset with enabled := true, size := size, ring := ring, ctx := q.ctx, recs := q.recs }

/-- The last words of a context (R442, kind 7): ENERGY, OVR, slip counter and, for each cause, the STALL total of its engines, over the
registers of its parts (log entry 80). -/
def releaseWords (s : State) (us : List UserSlot) (tenant : Nat) : List Nat :=
  let total (f : UserSlot → Nat) : Nat := us.foldl (fun n u => n + f u) 0
  [total fun u => u.energy.toNat, total fun u => u.ovr.toNat, memNat s.mem ((s.tenant tenant).desc + 28) 4]
    ++ (List.range 21).map fun k => total fun u => u.stall.foldl (fun n (p : Nat × BitVec 48) => if p.1 % 32 = k then n + p.2.toNat else n) 0

/-- Destroy a context: its last counters are reported, and neither its slot nor its save area holds it. -/
def destroyContext (s : State) (x : Nat) : State :=
  let tenant := (s.ctx x).tenant
  let regs := (s.cores.filterMap fun (k : Nat × Core) => (k.2.slotFor x).map k.2.slotOf)
    ++ (s.saved.filter fun v => v.current && v.ctx == x).map fun v => v.regs
  let s1 := s.report 7 tenant (releaseWords s regs tenant)
  let s2 := (s1.mapCores fun k => match k.slotFor x with | some n => k.withoutCtx n x | none => k).mapDies fun d =>
    { d with records := d.records.filter fun r => ((s.launch? r.party.launch).map fun l => l.ctx) != some x }
  { s2 with ctxs := mdel s2.ctxs x, saved := s2.saved.filter fun v => v.ctx != x }

/-- MANAGEMENT_QUEUE_REQUEST (R406, R442; log entry 20). -/
def execManagementQueueRequest (r : MgmtReq) (s : State) : Result :=
  .next (match r with
    | .bindTenant fn tenant desc =>
      if 512 < fn ∨ 4095 < tenant then s
      else
        let s1 := (s.modFn fn fun f => { f with tenant := tenant, bound := true }).modTenant tenant fun t => { t with desc := desc.toNat }
        s1.peers.foldl (fun t j => if (t.keySlots { peer := j, tenant := 4096, tx := true }).isSome then agreeKeys t j tenant else t) s1
    | .bindQueue fn queue ctx =>
      if 512 < fn ∨ 63 < queue ∨ 4095 < ctx then s
      else
        let k := queue / 2 * 2
        let s1 := (s.modQueue fn k fun q => { q with ctx := ctx }).modQueue fn (k + 1) fun q => { q with ctx := ctx }
        s1.modCtx ctx fun x => { x with tenant := (s.fn fn).tenant }
    | .setupQueue fn queue size ring =>
      if 512 < fn ∨ 63 < queue ∨ !(ringSize size && size ≤ 4096) then s else s.modQueue fn queue fun q => q.setup size ring
    | .setTickets tenant tickets => if tickets < 1 ∨ 65535 < tickets then s else s.modTenant tenant fun t => { t with tickets := tickets }
    | .setQuota tenant quota => writeSlices (s.wr ((s.tenant tenant).desc + 24) 4 quota)
    | .setBintime ctx ck => if ck < 64 ∨ 4096 < ck then s else s.modCtx ctx fun x => { x with bintime := ck }
    | .setPowerCap w => if w < 1000 ∨ 5200 < w then s else { s with powerCap := w }
    | .bindWitnessRing base n => { s with witnessRing := if n = 0 then none else some (base, n), witnessNext := 0 }
    | .setAperture tenant i base size members reduce ty =>
      if 7 < i then s
      else s.modTenant tenant fun t => { t with
        apertures := mset t.apertures i { base := base, size := size, members := members, reduce := reduce, ty := ty } }
    | .destroyContext ctx => destroyContext s ctx)

/-! ### What is due (R410, R413, R430) -/

/-- The next step of the sluice for a queue. -/
def queueDue (s : State) (fn qn : Nat) : Option Event :=
  let q := s.queue fn qn
  let at_ : AtQueue := { fn := fn, queue := qn }
  if qn % 2 = 1 then (if recordReady s fn qn then some (.completionRecordWrite at_) else none)
  else
    match q.ready with
    | some b => if acceptOk s fn q b then some (.batchAccept at_) else none
    | none =>
      if q.enabled && q.unread == [] && (match q.stalled with | some t => decide (t ≤ s.ticks) | none => false) then
        some (.descriptorReread at_)
      else
      match q.unread.head? with
      | some (some r) =>
        let m : RecordMsg := { fn := fn, queue := qn, bits := r }
        if recOp r = opBegin then some (.batchBegin m) else if recOp r = opCommit then some (.batchCommit m) else none
      | _ => none

end Sys2Proof.Machine
end

