-- ==== Sys2Proof/Machine/Dispatcher.lean ====
section
/-! DEFINITION. The commands of the journal, the starts of launches, placement, tenant scheduling, cancelling and function
resets (R411, R414 to R422, R426 to R428, R431, R490). -/

namespace Sys2Proof.Machine

/-! ### Writing tenant memory (R411, R422) -/

/-- Write bytes to a tenant's memory. -/
def writeRange (s : State) (tenant va : Nat) (bs : List Byte) : State :=
  ((List.range bs.length).zip bs).foldl (fun t (q : Nat × Byte) => writeVirt t tenant (BitVec.ofNat 64 (va + q.1)) [q.2]) s

/-! ### Commands and their order (R411, R414) -/

/-- A command with its entry. -/
def State.cmd? (s : State) (c : CmdRef) : Option (JEntry × JCmd) :=
  (s.entry? c.entry).bind fun e => (e.cmd? c.index).map fun m => (e, m)

/-- Apply `f` to a command. -/
def State.modCmd (s : State) (c : CmdRef) (f : JCmd → JCmd) : State := s.modEntry c.entry fun e => e.modCmd c.index f

/-- Whether a command stands before another in acceptance order. -/
def cmdBefore (e i : Nat) (c : CmdRef) : Bool := e < c.entry || (e == c.entry && i < c.index)

/-- The commands of the journal with their entries. -/
def allCmds (s : State) : List (JEntry × Nat × JCmd) :=
  s.journal.flatMap fun e => ((List.range e.cmds.length).zip e.cmds).map fun q => (e, q.1 + 1, q.2)

/-- Whether every earlier command of a command's queue has started (R414). -/
def inOrder (s : State) (c : CmdRef) (e : JEntry) : Bool :=
  (allCmds s).all fun q => !(q.1.fn == e.fn && q.1.queue == e.queue && cmdBefore q.1.uid q.2.1 c && q.2.2.state == .waiting)

/-- Whether every earlier command of a job of a tenant is decided. -/
def earlierDecided (s : State) (c : CmdRef) (tenant job : Nat) : Bool :=
  (allCmds s).all fun q => !((s.fn q.1.fn).tenant == tenant && q.2.2.job == job && cmdBefore q.1.uid q.2.1 c && !q.2.2.isDecided)

/-- Whether an earlier command of a job ended in a way that counts as a failure (R411). -/
def earlierBad (s : State) (c : CmdRef) (tenant job : Nat) : Bool :=
  match s.job? tenant job with
  | some j => j.bad.any fun b => cmdBefore b.1 b.2 c
  | none => false

/-- Run a command that waits and whose turn it is. -/
def runCmd (s : State) (c : CmdRef) (k : State → Nat → JCmd → State) : State :=
  match s.cmd? c with
  | none => s
  | some (e, m) => if m.state == .waiting && inOrder s c e then k s (s.fn e.fn).tenant m else s

/-- A command that ends OK with a value, or FAILED with a trap code. -/
def endOk (s : State) (c : CmdRef) (v : Nat) : State := s.decide c.entry c.index .ok (BitVec.ofNat 64 v)
/-- See `endOk`. -/
def endFailed (s : State) (c : CmdRef) (code : Nat) : State := s.decide c.entry c.index .failed (BitVec.ofNat 64 code)

/-! ### Jobs (R414 to R416) -/

/-- JOB_OPEN (R411, R413): the job's time counts from here. -/
def execJobOpen (c : CmdRef) (s : State) : Result :=
  .next (runCmd s c fun s tenant m => endOk (s.modJob tenant m.job fun j => { j with openTick := s.ticks }) c m.job)

/-- Whether every launch of a job up to a phase is done. -/
def phaseDone (s : State) (tenant job phase : Nat) : Bool :=
  s.launches.all fun l => !(l.tenant == tenant && l.job == job && l.phase ≤ phase) || l.state == .done

/-- JOB_CLOSE (R416): it completes when its job does. -/
def execJobClose (c : CmdRef) (s : State) : Result :=
  .next (match s.cmd? c with
    | none => s
    | some (e, m) =>
      let tenant := (s.fn e.fn).tenant
      let s1 := if m.state == .waiting && inOrder s c e then s.modCmd c fun y => { y with state := .running } else s
      let started : Bool := match s1.cmd? c with | some (_, y) => y.state == .running | none => false
      if started && earlierDecided s1 c tenant m.job && phaseDone s1 tenant m.job m.value.toNat then
        endOk (s1.modJob tenant m.job fun j => { j with completed := true }) c 0
      else s1)

/-- CHECKPOINT (R376, R384, R416): when its phase completes, the phase's race records are retired and the next is ordered after
it. -/
def execCheckpoint (c : CmdRef) (s : State) : Result :=
  .next (runCmd s c fun s tenant m =>
    if !phaseDone s tenant m.job m.value.toNat then s
    else
      let ls := s.launches.filter fun l => l.tenant == tenant && l.job == m.job && l.phase ≤ m.value.toNat
      let ids := ls.map fun l => l.uid
      let s1 := s.mapDies fun d => { d with records := d.records.filter fun r => !ids.contains r.party.launch }
      let s2 := s1.modJob tenant m.job fun j => { j with clock := ls.foldl (fun k l => clockJoin k l.clock) j.clock }
      endOk s2 c 0)

/-! ### Images and graphs (R411) -/

/-- Write to a tenant's memory the bytes in which `new` differs from `old`. -/
def writeChanged (s : State) (tenant va : Nat) (old new : List Byte) : State :=
  ((List.range new.length).zip (old.zip new)).foldl (fun t (q : Nat × Byte × Byte) =>
    if q.2.1 = q.2.2 then t else writeVirt t tenant (BitVec.ofNat 64 (va + q.1)) [q.2.2]) s

/-- What the loader does when an image is placed (R74, R77, R79, R359; log entries 80 and 81): the relocated bytes, the zero-fill
section, and the descriptors of the image's spaces. -/
def placeSections (s : State) (tenant base : Nat) (raw : List Byte) : State :=
  let z := zeroFill raw base
  let s1 := writeChanged s tenant base raw (relocateImage raw tenant base)
  (imageSpaces raw tenant base).foldl (fun t (q : Nat × List Byte) =>
    if descImageOk q.2 then t.wrBytes (memNat t.mem ((t.tenant tenant).desc + 8) 8 + 64 * q.1) q.2 else t)
    (writeRange s1 tenant z.1 (List.replicate z.2 0))

/-- Read an image and place it (R77, R79, R411): the state with the new handle, or the code of a page that cannot be read. Nothing
of a malformed image is placed. -/
def loadImage (s : State) (tenant : Nat) (r : BitVec 512) : Brought :=
  let base := recNat r 16 8
  match bringRange s tenant base (recNat r 24 8) false with
  | .fault code => .fault code
  | .ok t =>
    let img := imageAt t tenant r
    let raw := virtBytes t tenant base (recNat r 24 8)
    if img.malformed then .ok { t with images := t.images ++ [img] }
    else
      match bringRange t tenant (zeroFill raw base).1 (zeroFill raw base).2 false with
      | .fault code => .fault code
      | .ok u => .ok { placeSections u tenant base raw with images := u.images ++ [img] }

/-- IMAGE_LOAD (R411): the image is read and placed; a page that cannot be read fails the command. -/
def execImageLoad (c : CmdRef) (s : State) : Result :=
  .next (runCmd s c fun s tenant m =>
    match loadImage s tenant m.bits with
    | .fault code => endFailed s c code.toNat
    | .ok t => endOk t c 0)

/-- IMAGE_DROP (R411). -/
def execImageDrop (c : CmdRef) (s : State) : Result :=
  .next (runCmd s c fun s tenant m =>
    endOk { s with images := s.images.filter fun i => !(i.tenant == tenant && i.handle == recNat m.bits 8 2) } c 0)

/-- GRAPH_CREATE (R411). -/
def execGraphCreate (c : CmdRef) (s : State) : Result :=
  .next (runCmd s c fun s tenant m =>
    let va := recNat m.bits 16 8
    let n := recNat m.bits 24 1
    match bringRange s tenant va (72 * n) false with
    | .fault code => endFailed s c code.toNat
    | .ok t =>
      let g : Graph := { tenant := tenant, handle := recNat m.bits 8 2, id := graphId c.entry c.index, nodes := nodesAt t tenant va n }
      endOk { t with graphs := t.graphs ++ [g] } c 0)

/-- GRAPH_DROP (R411). -/
def execGraphDrop (c : CmdRef) (s : State) : Result :=
  .next (runCmd s c fun s tenant m =>
    endOk { s with graphs := s.graphs.filter fun g => !(g.tenant == tenant && g.handle == recNat m.bits 8 2) } c 0)

/-! ### Accepting launches and replays (R414, R426, R428) -/

/-- An image that has no kernel. -/
def Image.blank : Image :=
  { tenant := 0, handle := 0, base := 0, bytes := [], code := [], kernels := [], funcs := [], shapes := [], metadata := []
    bodies := [], isPublic := false, hasNative := false, native := [], signed := false, malformed := true }

/-- A launch as its record asks for it (R411), under a number of its job. -/
def newLaunch (s : State) (c : CmdRef) (m : JCmd) (tenant ctx uid number node graph : Nat) (img : Image) (r : BitVec 512) : Launch :=
  { uid := uid, tenant := tenant, ctx := ctx, job := m.job, number := number, image := img, kernel := recNat r 14 2, transl := s.kiln.length
    gx := recNat r 16 4, gy := recNat r 20 4, gz := recNat r 24 4
    paramVa := BitVec.ofNat 64 (recNat r 28 8), paramBytes := [], paramPage := 0
    constVa := BitVec.ofNat 64 (recNat r 56 8), constBytes := [], constPage := 0, consts := []
    adapter := BitVec.ofNat 64 (recNat r 40 8), adapterTiles := recNat r 48 2, state := .waiting, nextBlock := 0, blocksDone := 0
    spawned := 0, outcome := none, code := 0, cause := 0, restarted := false, blockCancel := [], entry := c.entry, index := c.index
    node := node, preds := [], fns := [], phase := m.value.toNat, graph := graph, clock := [], start := [], closing := 0 }

/-- The names of a launch's prefetch interests (R428). -/
def prefetchNames (l : Launch) : List W64 :=
  (List.range l.adapterTiles).map fun i =>
    BitVec.ofNat 64 (2 ^ 52 * nameSpace l.adapter + 2 ^ 16 * ((nameTile l.adapter + i) % 2 ^ 36) + nameIter l.adapter)

/-- Issue the prefetch interests of a launch within its tenant's quota (R428). -/
def prefetch (s : State) (l : Launch) : State :=
  match nameDesc s l.tenant (nameSpace l.adapter), routeOf s l.tenant (nameSpace l.adapter) with
  | some d, some (p, die) =>
    let held := if p = s.self then
        ((s.die die).tarns.filter fun t => t.tenant == l.tenant && t.holds != []).foldl (fun n t => n + tarnBytes t.bytes.length) 0
      else 0
    let key := s.launchKey l.uid
    ((prefetchNames l).take ((tarnQuota s l.tenant - held) / max 1 (tarnBytes d.bytes))).foldl (fun t n =>
      if p = s.self then t.push (.interestArrival
        { holder := .rendezvous die (rendezvousSlice n), tenant := l.tenant, name := n, face := .prefetch key
          until_ := s.ticks + unitTicks d.life })
      else t.send { Packet.blank with
        dst := p, tenant := l.tenant, op := pkInterest + 32, tag := key, name := n, until_ := unitTicks d.life }) s
  | _, _ => s

/-- LAUNCH (R414, R428): an accepted launch takes its number and waits; its prefetch interests go out. -/
def execLaunch (c : CmdRef) (s : State) : Result :=
  .next (match s.cmd? c with
    | none => s
    | some (e, m) =>
      if m.launches ≠ [] ∨ m.state != .waiting then s
      else
        let tenant := (s.fn e.fn).tenant
        let env := envOf s tenant fun u i => cmdBefore u i c
        let img := ((env.images.find? fun q => q.1 == recNat m.bits 12 2).map fun q => q.2).getD Image.blank
        let n := ((s.job? tenant m.job).map fun j => j.nextLaunch).getD 1
        let (u, s1) := s.fresh
        let l := newLaunch s c m tenant (s.queue e.fn e.queue).ctx u n 0 0 img m.bits
        let s2 : State := { s1 with launches := s1.launches ++ [l] }
        let s3 := s2.modJob tenant m.job fun j => { j with nextLaunch := j.nextLaunch + 1 }
        prefetch (s3.modCmd c fun y => { y with launches := [u] }) l)

/-- Apply the patches of a node to its parameter block, in entry order (R426). -/
def patchParams (ps : List (Nat × Nat × Nat × List Byte)) (node : Nat) (bs : List Byte) : List Byte :=
  (ps.filter fun p => p.1 == node).foldl (fun b p => patchBytes b p.2.2.1 p.2.2.2) bs

/-- The snapshot of one node (R426): its patched parameter block, or the code of the read that failed. -/
def snapshot (s : State) (tenant node : Nat) (r : BitVec 512) (ps : List (Nat × Nat × Nat × List Byte)) :
    State × Option (List Byte) × Nat :=
  match bringRange s tenant (recNat r 28 8) (recNat r 36 2) false with
  | .fault code => (s, none, code.toNat)
  | .ok t => (t, some (patchParams ps node (virtBytes t tenant (recNat r 28 8) (recNat r 36 2))), 0)

/-- What the acceptance of a replay has made so far. -/
structure ReplayAcc where
  s : State
  ls : List Launch
  params : List (List Byte)
deriving DecidableEq, Repr

/-- Make the launch of one node of a replay. -/
def addNode (c : CmdRef) (m : JCmd) (tenant ctx first graph : Nat) (env : Env) (ps : List (Nat × Nat × Nat × List Byte))
    (a : ReplayAcc) (q : Nat × BitVec 512 × BitVec 64) : ReplayAcc :=
  let img := ((env.images.find? fun i => i.1 == recNat q.2.1 12 2).map fun i => i.2).getD Image.blank
  let r := snapshot a.s tenant q.1 q.2.1 ps
  let (u, s1) := r.1.fresh
  let l := newLaunch s1 c m tenant ctx u (first + q.1) (q.1 + 1) graph img q.2.1
  let preds := ((List.range a.ls.length).zip a.ls).filterMap fun (p : Nat × Launch) => if q.2.2.getLsbD p.1 then some p.2.uid else none
  let l1 : Launch := { l with
    preds := preds, paramBytes := r.2.1.getD []
    outcome := if r.2.1.isSome then none else some .failed, code := r.2.2 }
  { s := s1, ls := a.ls ++ [l1], params := a.params ++ [r.2.1.getD []] }

/-- GRAPH_REPLAY (R414, R426): an accepted replay takes one launch number per node and its snapshot. -/
def execGraphReplay (c : CmdRef) (s : State) : Result :=
  .next (match s.cmd? c with
    | none => s
    | some (e, m) =>
      if m.launches ≠ [] ∨ m.state != .waiting then s
      else
        let tenant := (s.fn e.fn).tenant
        let env := envOf s tenant fun u i => cmdBefore u i c
        match env.graphs.find? fun g => g.1 == recNat m.bits 12 2 with
        | none => s
        | some (_, id, ns) =>
          let va := recNat m.bits 16 8
          let k := recNat m.bits 24 2
          let first := ((s.job? tenant m.job).map fun j => j.nextLaunch).getD 1
          let r := bringRange s tenant va (16 * k) false
          let s0 := match r with | .ok t => t | .fault _ => s
          let ps := match r with | .ok t => patchesAt t tenant va k | .fault _ => []
          let a := ((List.range ns.length).zip ns).foldl (addNode c m tenant (s.queue e.fn e.queue).ctx first id env ps)
            { s := s0, ls := [], params := [] }
          let ls := match r with
            | .ok _ => a.ls
            | .fault code => a.ls.map fun l => { l with outcome := some .failed, code := code.toNat }
          let s1 : State := { a.s with launches := a.s.launches ++ ls }
          let s2 := s1.modJob tenant m.job fun j => { j with nextLaunch := j.nextLaunch + ns.length }
          let s3 := s2.modCmd c fun y => { y with launches := ls.map (fun l => l.uid), params := a.params }
          ls.foldl (fun t l => tryComplete (prefetch t l) l.uid) s3)

/-! ### The start of a launch (R411, R414, R422, R437, R490) -/

/-- The flags of the command that made a launch (log entry 69). -/
def launchFlags (s : State) (l : Launch) : Nat :=
  match s.cmd? { entry := l.entry, index := l.index } with | some (_, m) => recNat m.bits 2 2 | none => 0

/-- Whether a launch's command waits for every earlier command of its job (R411). -/
def serialWait (s : State) (l : Launch) : Bool :=
  launchFlags s l != 0 && !earlierDecided s { entry := l.entry, index := l.index } l.tenant l.job

/-- Whether a launch completes DEPFAIL (R411, R419). -/
def depFails (s : State) (l : Launch) : Bool :=
  ((launchFlags s l).testBit 1 && earlierBad s { entry := l.entry, index := l.index } l.tenant l.job)
    || l.preds.any fun u => match s.launch? u with
      | some p => (match p.outcome with | some t => p.state == .done && t.isBad | none => false)
      | none => false

/-- Whether another launch is of an earlier replay of the same graph (R426). -/
def earlierReplay (l p : Launch) : Bool :=
  l.graph != 0 && p.graph == l.graph && cmdBefore p.entry p.index { entry := l.entry, index := l.index }

/-- Whether a launch's turn has come: its command's place in the queue, flags, predecessors and earlier replays (R411, R414,
R426). -/
def launchTurn (s : State) (l : Launch) : Bool :=
  let c : CmdRef := { entry := l.entry, index := l.index }
  let ordered : Bool := match s.cmd? c with
    | some (e, m) => m.state != .waiting || inOrder s c e
    | none => true
  l.state == .waiting && ordered && !serialWait s l
    && l.preds.all (fun u => match s.launch? u with | some p => p.state == .done | none => true)
    && s.launches.all fun p => !earlierReplay l p || p.state == .done

/-- The launches that a launch depends on (R376). -/
def dependsOn (s : State) (l p : Launch) : Bool :=
  l.preds.contains p.uid || earlierReplay l p
    || (launchFlags s l != 0 && p.tenant == l.tenant && p.job == l.job && cmdBefore p.entry p.index { entry := l.entry, index := l.index })

/-- The place in hb of a launch's first instructions (R376). -/
def startClock (s : State) (l : Launch) : TMap Nat :=
  s.launches.foldl (fun k p => if dependsOn s l p then clockJoin k p.clock else k) (((s.job? l.tenant l.job).map fun j => j.clock).getD [])

/-- The addresses that service cores give to launch pages alone (R490; log entry 19). -/
def launchVa (uid which : Nat) : Nat := 0xFD * 2 ^ 48 + 2 ^ 16 * ((2 * uid + which) % 2 ^ 31)

/-- Put bytes into a launch page and map it (R490): its physical page, and the state. -/
def mapLaunchPage (s : State) (tenant va : Nat) (w : Bool) (bs : List Byte) : Nat × State :=
  let t := takeTable s 0
  let s1 : State := { t.2 with mem := memWrite (memClear t.2.mem t.1 (2 ^ 16)) t.1 bs }
  (t.1, putLeaf s1 tenant va (leafPte t.1 w false false 0 0 ||| 0x20))

/-- Read a launch's parameters, unless a replay's snapshot holds them, and its constants (R422): the blocks, or a code. -/
def readBlocks (s : State) (l : Launch) (k : Kernel) : Sum (BitVec 8) (State × List Byte × List Byte) :=
  let params : Sum (BitVec 8) (State × List Byte) :=
    if l.node ≠ 0 then .inr (s, l.paramBytes)
    else match bringRange s l.tenant l.paramVa.toNat k.params false with
      | .fault c => .inl c
      | .ok t => .inr (t, virtBytes t l.tenant l.paramVa.toNat k.params)
  match params with
  | .inl c => .inl c
  | .inr (t, ps) =>
    match bringRange t l.tenant l.constVa.toNat (8 * k.consts) false with
    | .fault c => .inl c
    | .ok u => .inr (u, ps, virtBytes u l.tenant l.constVa.toNat (8 * k.consts))

/-- Map a launch's copies of its blocks (R422, R490). -/
def placeBlocks (s : State) (l : Launch) (ps cs : List Byte) : State :=
  let p := mapLaunchPage s l.tenant (launchVa l.uid 0) true ps
  let c := if cs = [] then (0, p.2) else mapLaunchPage p.2 l.tenant (launchVa l.uid 1) false cs
  c.2.modLaunch l.uid fun x => { x with
    paramVa := BitVec.ofNat 64 (launchVa l.uid 0), paramBytes := ps, paramPage := BitVec.ofNat 64 p.1
    constVa := if cs = [] then 0 else BitVec.ofNat 64 (launchVa l.uid 1), constBytes := cs, constPage := BitVec.ofNat 64 c.1
    consts := (List.range (cs.length / 8)).map fun i => BitVec.ofNat 64 (leAt cs (8 * i) 8) }

/-- The image that a launch's handle names now, else the one that it named at acceptance. -/
def currentImage (s : State) (l : Launch) : Image :=
  (s.images.find? fun m => m.tenant == l.tenant && m.handle == l.image.handle).getD l.image

/-- The kiln's choice for a launch whose blocks stand (R437). -/
def chooseFor (s : State) (uid : Nat) : State :=
  match s.launch? uid with
  | some l => chooseEntry s l
  | none => s

/-- LAUNCH_START (R411, R419, R422, R437): DEPFAIL, a failure of the reads or of the image, or the choice of a translation. -/
def execLaunchStart (launch : Nat) (s : State) : Result :=
  .next (match s.launch? launch with
    | none => s
    | some l0 =>
      if !launchTurn s l0 then s
      else
        let c : CmdRef := { entry := l0.entry, index := l0.index }
        let s0 := s.modCmd c fun y => if y.state == .waiting then { y with state := .running } else y
        if depFails s l0 then endLaunch s0 launch .depfail 0 0
        else
          let l := { l0 with image := currentImage s l0, start := startClock s l0, clock := clockJoin l0.clock (startClock s l0) }
          let s1 := s0.modLaunch launch fun _ => l
          match l.kern with
          | none => failLaunch s1 launch tcXLAT.toNat 1 none
          | some k =>
            if l.paramPage ≠ 0 then chooseFor s1 launch
            else match readBlocks s1 l k with
            | .inl code => failLaunch s1 launch code.toNat 0 none
            | .inr (t, ps, cs) => chooseFor (placeBlocks t l ps cs) launch)

/-! ### Placement (R420 to R422) -/

/-- The gangs that a block of a kernel takes. -/
def Kernel.gangs (k : Kernel) : Nat := (k.fibres + 31) / 32

/-- Whether a core has rows, slots, accumulators and barrier slots for a block (R420), when some rows are set aside (R326). -/
def seatFits (k : Core) (aside : Nat) (b : Block) : Bool :=
  let x := k.seat b
  x.rowBase + x.rows + aside ≤ 16384 && x.oBase + x.oCount ≤ 32 && x.accBase + x.accCount ≤ 4
    && k.blocks.foldl (fun n y => if y.linear = 2 ^ 32 then n else n + y.barCount) 0 + b.barCount ≤ 64

/-- A block of a launch by its place in index order (R420). -/
def blockAt (l : Launch) (k : Kernel) (uid i : Nat) (gangs : List Nat) : Block :=
  { uid := uid, launch := l.uid, ctx := l.ctx, x := i % l.gx, y := i / l.gx % l.gy, z := i / (l.gx * l.gy), linear := i, gangs := gangs
    bars := [], barCount := k.bars, counters := [], queues := [], queueClock := [], rowBase := 0, rows := k.scratch / 64, oBase := 0
    oCount := k.slots, accBase := 0, accCount := k.acc, claims := [], exited := false }

/-- Whether the dispatcher awaits a context on a core (R420, R494). -/
def awaited (s : State) (c ctx : Nat) : Bool := (s.ctx ctx).places.any fun p => p.1 == c

/-- A slot of a core into which a context can be loaded: empty, and not one that another is awaited in (R420, R494). -/
def emptySlotOf (s : State) (c : Nat) : Option Nat :=
  let k := s.core c
  if k.failed ∨ k.halted ∨ 16 ≤ k.mbox.length then none
  else [0, 1].find? fun n => !(k.slotOf n).occupied && !(k.mbox.any fun q => q.2.2.1.toNat == n)
    && !s.ctxs.any fun (x : Nat × Ctx) => x.2.places.any fun p => (p.1, p.2.1) == (c, n)

/-- Whether a block of a launch may be placed on a core (R420): its context is resident there or can be loaded, and there is room. -/
def coreFits (s : State) (l : Launch) (k : Kernel) (resident c : Nat) : Bool :=
  (residentOn s c l.ctx || awaited s c l.ctx || (emptySlotOf s c).isSome)
    && !(s.core c).failed && hasRoom s c k.gangs resident && seatFits (s.core c) (rowsAside s c) (blockAt l k 0 0 [])

/-- The better of a core so far and another, by a measure to be smallest; ties go to the lower index (R421). -/
def lowestBy (f : Nat → Nat) (cs : List Nat) : Option Nat :=
  cs.foldl (fun o c => match o with
    | some b => if f c < f b then some c else some b
    | none => some c) none

/-- The core on which a launch's block goes (R421; log entry 66). -/
def coreFor (s : State) (l : Launch) (k : Kernel) (resident block : Nat) : Option Nat :=
  let fit := (List.range 1024).filter fun c => coreFits s l k resident c
  let free (c : Nat) : Nat := 32 - (freeSlots s c).length
  match nameDesc s l.tenant k.affinity, routeOf s l.tenant k.affinity with
  | some d, some (p, die) =>
    let near := if p = s.self ∧ k.affinity ≠ 0xFFFF then fit.filter fun c => c / 256 == die else []
    let name : W64 := BitVec.ofNat 64 (2 ^ 52 * k.affinity + 2 ^ 16 * (block % max 1 d.tiles))
    if near = [] then lowestBy free fit
    else lowestBy (fun c => hops (die * 256 + 4 * (rendezvousSlice name / 2)) c) near
  | _, _ => lowestBy free fit

/-- A launch fibre (R86 to R88). -/
def launchFibre (l : Launch) (k : Kernel) (b : Block) (uid i : Nat) : Fibre :=
  let entry := l.image.base + BitVec.ofNat 64 k.entry
  { Fibre.absent with
    uid := uid, status := .ready, pc := entry, x := [(8, stackTop k.stack)], fn := entry, stackSize := k.stack, job := l.job
    launchNo := l.number, name := .launched b.x b.y b.z i, entry := entry, home := b.uid, launch := l.uid
    clock := mset l.start uid 1 }

/-- The active halves that a kernel preloads (R251). -/
def preloads (l : Launch) (k : Kernel) : TMap Shape :=
  ((List.range 4).zip k.shapes).filterMap fun q =>
    if q.2 = 0xFFFF then none else (l.image.shapes[q.2]?).map fun h => (q.1, { h with base := 0 })

/-- Fresh uids. -/
def takeUids (s : State) (n : Nat) : List Nat × State := ((List.range n).map fun i => s.uids + i, { s with uids := s.uids + n })

/-- Form gang `i` of a block (R13, R88, R162). -/
def formBlockGang (l : Launch) (k : Kernel) (c : Nat) (b : Block) (s : State) (i : Nat) : State :=
  let slot := (freeSlots s c).headD 0
  let us := takeUids s (min 32 (k.fibres - 32 * i))
  let fs := ((List.range us.1.length).zip us.1).map fun (q : Nat × Nat) => launchFibre l k b q.2 (32 * i + q.1)
  let s1 := formGang us.2 c l.ctx l.tenant l.uid b.uid (some b.uid) i fs
  s1.modGang c slot fun g => { g with arch := { g.arch with hAct := preloads l k }, base := { g.base with hAct := preloads l k } }

/-- Place block `i` of a launch on a core (R420, R422, R440). -/
def placeOn (s : State) (l : Launch) (k : Kernel) (i c : Nat) : State :=
  let (u, s1) := s.fresh
  let slots := (freeSlots s c).take k.gangs
  let b := (s.core c).seat (blockAt l k u i slots)
  let s2 := (s1.modCore c fun x => { x.clearFor b with blocks := x.blocks ++ [b] }).dropScratchHeads c (64 * b.rowBase) (64 * b.rows)
  let s3 := (List.range k.gangs).foldl (formBlockGang l k c b) s2
  if i = 0 then s3.modDie (c / 256) fun d => { d with launchSk := sketchAdd d.launchSk (kernelId (launchKey l) l.kernel) } else s3

/-- A launch whose next block is placed, or is not to be (R415, R417, R420). -/
def blockPlaced (s : State) (uid : Nat) (skipped : Bool) : State :=
  tryComplete (s.modLaunch uid fun x => { x with
    nextBlock := x.nextBlock + 1, blocksDone := x.blocksDone + (if skipped then 1 else 0)
    state := if x.nextBlock + 1 = x.blocks then .running else x.state }) uid

/-- BLOCK_PLACE (R420): the next block of a launch goes to the core that R421 chooses; a cancelled one is passed over. -/
def execBlockPlace (launch : Nat) (s : State) : Result :=
  .next (match s.launch? launch with
    | none => s
    | some l =>
      match l.kern with
      | none => s
      | some k =>
        if l.state != .placing || l.outcome.isSome || l.blocks ≤ l.nextBlock then s
        else if l.blockCancel.contains l.nextBlock then blockPlaced s launch true
        else match coreFor s l k (launchResident s launch) l.nextBlock with
        | some c => if residentOn s c l.ctx then blockPlaced (placeOn s l k l.nextBlock c) launch false else s
        | none => s)

/-! ### Tenant scheduling (R427) -/

/-- Whether a command that is no launch can start now (R414, R416). -/
def cmdStarts (s : State) (e : JEntry) (i : Nat) (m : JCmd) : Bool :=
  let op := recOp m.bits
  m.state == .waiting && inOrder s { entry := e.uid, index := i } e && op != opLaunch && op != opGraphReplay
    && (op != opCheckpoint || phaseDone s (s.fn e.fn).tenant m.job m.value.toNat) && (op != opHcopy || fnOpen s e.fn)

/-- Whether a tenant is runnable: some accepted command of it can start and has not. -/
def runnableTenant (s : State) (t : Nat) : Bool :=
  s.launches.any (fun l => l.tenant == t && launchTurn s l)
    || (allCmds s).any fun q => (s.fn q.1.fn).tenant == t && cmdStarts s q.1 q.2.1 q.2.2

/-- The pass of a tenant at the start of a quantum (R427): one that has become runnable catches up with the lowest pass among those
that were runnable. -/
def caughtUp (s : State) (ts : List Nat) (t : Nat) : Nat :=
  match (s.tenant t).runnable, lowestBy (fun r => (s.tenant r).pass) (ts.filter fun r => (s.tenant r).runnable) with
  | false, some r => max (s.tenant t).pass (s.tenant r).pass
  | _, _ => (s.tenant t).pass

/-- DISPATCH_QUANTUM (R427): the quantum goes to the runnable tenant of lowest pass. -/
def execDispatchQuantum (s : State) : Result :=
  .next (
    let ts := (s.tenants.map fun (p : Nat × Tenant) => p.1).filter fun t => runnableTenant s t
    let upd (p : Nat × Tenant) : Nat × Tenant :=
      (p.1, { p.2 with pass := if ts.contains p.1 then caughtUp s ts p.1 else p.2.pass, runnable := ts.contains p.1 })
    let s1 : State := { s with quantumEnd := max (s.quantumEnd + 100) (s.ticks + 1), quantum := none, tenants := s.tenants.map upd }
    match lowestBy (caughtUp s ts) ts with
    | some t => ({ s1 with quantum := some t } : State).modTenant t fun x => { x with pass := x.pass + 2 ^ 20 / x.tickets }
    | none => s1)

/-! ### Context loads (R420, R494) -/

/-- What the part of a context in a save area holds. -/
def partIn (s : State) (ctx : Nat) (addr : W64) : Option Saved :=
  s.saved.find? fun v => v.current && v.ctx == ctx && v.uid == s.rd (fwPhys addr + 64) 8

/-- Whether a core has room for a part of a context. -/
def partFits (s : State) (c : Nat) (v : Saved) : Bool :=
  let k := (seatAll (s.core c) v.blocks).1
  v.gangs.length ≤ (freeSlots s c).length && k.blocks.all fun b =>
    b.rowBase + b.rows + rowsAside s c ≤ 16384 && b.oBase + b.oCount ≤ 32 && b.accBase + b.accCount ≤ 4

/-- The save areas of a context from which no load is under way. -/
def Ctx.idleAreas (x : Ctx) : List W64 := x.areas.filter fun a => !x.places.any fun p => p.2.2 == a

/-- The area from which a context is loaded onto a core: one that holds a part of it which fits there, else a new one (R420). -/
def areaFor (s : State) (c ctx : Nat) : Option W64 :=
  ((s.ctx ctx).idleAreas.find? fun a => match partIn s ctx a with | some v => partFits s c v | none => false).or
    (if s.nextArea < 6144 then some (areaAt s s.nextArea) else none)

/-- The load of a context onto a core (R494). -/
def loadAt (s : State) (c ctx : Nat) : Option MboxMsg :=
  match emptySlotOf s c, areaFor s c ctx with
  | some n, some a => some { core := c, ctx := ctx, slot := n, addr := a }
  | _, _ => none

/-- What the dispatcher does for a block that goes to a core: it is placed, or its context is loaded there first (R420). -/
def placeOrLoad (s : State) (l : Launch) (c : Nat) (e : Event) : Option Event :=
  if residentOn s c l.ctx then some e
  else if awaited s c l.ctx then none
  else (loadAt s c l.ctx).map fun m => .mboxLoad m

/-- A saved part of a context of a tenant with work left goes back to a core that has a free slot and room (R427; log entry 11). -/
def reloadDue (s : State) (tenant : Nat) : Option Event :=
  (s.ctxs.filter fun (x : Nat × Ctx) => x.2.tenant == tenant).findSome? fun (x : Nat × Ctx) => x.2.idleAreas.findSome? fun a =>
    match partIn s x.1 a with
    | some v =>
      if v.gangs = [] ∧ v.bins = [] then none
      else (List.range 1024).findSome? fun c =>
        if awaited s c x.1 || !partFits s c v then none
        else (emptySlotOf s c).map fun n => Event.mboxLoad { core := c, ctx := x.1, slot := n, addr := a }
    | none => none

/-! ### Cancelling (R417, R418) -/

/-- Cancel launches and decide the CANCEL (R417, R418): NOEFFECT when every one of them has its outcome. -/
def cancelLaunches (s : State) (c : CmdRef) (ls : List Launch) : State :=
  let open_ := ls.filter fun l => l.state != .done && l.outcome.isNone
  if open_ = [] then s.decide c.entry c.index .noeffect 0
  else (open_.foldl (fun t l => endLaunch t l.uid .cancelled 0 0) s).decide c.entry c.index .ok 0

/-- The block of a launch with a linear index, on a core or in a save area, until it has completed. -/
def liveBlock (s : State) (l : Launch) (i : Nat) : Option Block :=
  let find (bs : List Block) : Option Block := bs.find? fun b => b.launch == l.uid && b.linear == i && !b.exited
  (s.cores.findSome? fun (k : Nat × Core) => find k.2.blocks).or (s.saved.findSome? fun v => if v.current then find v.blocks else none)

/-- Cancel one block of a launch (R417): it is not placed, or its gangs are stopped, wherever they are, and its contributions discarded
(log entry 39). -/
def cancelBlock (s : State) (l : Launch) (i : Nat) : State :=
  let s0 := s.modLaunch l.uid fun x => { x with blockCancel := i :: x.blockCancel }
  match liveBlock s l i with
  | none => dropContributions s0 l.uid [i]
  | some b =>
    let mine (g : Gang) : Bool := g.home == b.uid
    let keys := i :: (s0.allGangs.filter mine).flatMap fun g => g.arch.fibres.map fun (p : Nat × Fibre) => (fatomKey s p.2).1
    cancelGangs (dropQueuedBy (dropContributions s0 l.uid keys) l.uid (fun f => f.home == b.uid) fun t => t.home == b.uid) mine

/-- Whether a block of a launch has completed. -/
def blockEnded (s : State) (l : Launch) (i : Nat) : Bool := i < l.nextBlock && (liveBlock s l i).isNone

/-- CANCEL (R417, R418). -/
def execCancel (c : CmdRef) (s : State) : Result :=
  .next (runCmd s c fun s tenant m =>
    let n := recNat m.bits 16 4
    let mine := s.launches.filter fun l => l.tenant == tenant && l.job == m.job
    match recNat m.bits 8 1 with
    | 0 =>
      match mine.find? fun l => l.number == n with
      | none => s.decide c.entry c.index .noeffect 0
      | some l =>
        let i := recNat m.bits 20 4 + l.gx * (recNat m.bits 24 4 + l.gy * recNat m.bits 28 4)
        if l.state == .done || l.outcome.isSome || l.blockCancel.contains i || blockEnded s l i then s.decide c.entry c.index .noeffect 0
        else (cancelBlock s l i).decide c.entry c.index .ok 0
    | 1 => cancelLaunches s c (mine.filter fun l => l.number == n)
    | 2 =>
      match mine.find? fun l => l.number == n with
      | none => s.decide c.entry c.index .noeffect 0
      | some f => cancelLaunches s c (mine.filter fun l => l.entry == f.entry && l.index == f.index)
    | 3 => cancelLaunches s c (mine.filter fun l => l.phase == m.value.toNat && cmdBefore l.entry l.index c)
    | _ => cancelLaunches s c mine)

/-! ### Pages and copies (R357, R358, R411) -/

/-- The new stack and home that a PAGE_MIGRATE names. -/
def moveTarget (r : BitVec 512) : Option Nat × Option (Nat × Nat) :=
  (if recNat r 16 1 = 1 then some (recNat r 22 1) else none, if recNat r 17 1 = 1 then some (recNat r 18 2, recNat r 20 2) else none)

/-- PAGE_MIGRATE (R357): the page moves and its old translations are invalidated; without memory or room for a pin it fails. -/
def execPageMigrate (c : CmdRef) (s : State) : Result :=
  .next (runCmd s c fun s tenant m =>
    let va := recNat m.bits 8 8
    let s0 := match bringPage s tenant va false with | .ok t => t | .fault _ => s
    match leafAt s0 tenant va with
    | none => endFailed s c tcPF.toNat
    | some l =>
      match pageTarget s0 tenant l (moveTarget m.bits).1 (moveTarget m.bits).2 with
      | none => endFailed s0 c 0
      | some t =>
        let s1 := migrateLeaf (s0.modCmd c fun y => { y with state := .running }) tenant l t none (some c)
        if s1.awaits.any fun a => a.cmd == some c then s1 else s1.push (.pageMigrateComplete c))

/-- PAGE_MIGRATE_COMPLETE (R358): the invalidation is complete; a late command counts as a slip. -/
def execPageMigrateComplete (c : CmdRef) (s : State) : Result :=
  .next (match s.cmd? c with
    | none => s
    | some (e, m) =>
      if m.state != .running || recOp m.bits != opPageMigrate || s.awaits.any (fun a => a.cmd == some c && a.acks != 0) then s
      else
        let s1 : State := { s with awaits := s.awaits.filter fun a => a.cmd != some c }
        endOk (countSlip s1 (s.fn e.fn).tenant (recNat m.bits 32 8)) c 0)

/-- HCOPY (R411): bytes go between host memory and the tenant's (log entry 73). -/
def execHcopy (c : CmdRef) (s : State) : Result :=
  .next (runCmd s c fun s tenant m =>
    let host := hostAt (((s.cmd? c).map fun q => q.1.fn).getD 0) (recNat m.bits 8 8)
    let va := recNat m.bits 16 8
    let n := recNat m.bits 24 8
    let toHost := recNat m.bits 2 2 == 1
    match bringRange s tenant va n (!toHost) with
    | .fault code => endFailed s c code.toNat
    | .ok t =>
      if toHost then endOk { t with hostMem := memWrite t.hostMem host (virtBytes t tenant va n) } c 0
      else endOk (writeRange t tenant va (memRead t.hostMem host n)) c 0)

/-! ### Resetting a function (R431) -/

/-- Cancel one undecided command of a function being reset. -/
def resetCmd (s : State) (q : JEntry × Nat × JCmd) : State :=
  if q.2.2.isDecided then s
  else if q.2.2.launches = [] then s.decide q.1.uid q.2.1 .cancelled 0
  else q.2.2.launches.foldl (fun t u => endLaunch t u .cancelled 0 0) s

/-- FUNCTION_RESET (R431): every undecided command is cancelled; the reset is complete when each has its record. -/
def execFunctionReset (fn : Nat) (s : State) : Result :=
  .next (
    let clear (q : Queue) : Queue := { Queue.reset with ctx := q.ctx, recs := q.recs }
    let s1 := s.modFn fn fun f =>
      if f.resetting then f else { f with resetting := true, queues := f.queues.map fun (q : Nat × Queue) => (q.1, clear q.2) }
    let s2 := ((allCmds s1).filter fun q => q.1.fn == fn).foldl resetCmd s1
    if (allCmds s2).any fun q => q.1.fn == fn && !q.2.2.isDecided then s2
    else
      let s3 := s2.modFn fn fun f => { f with resetting := false, status := 0, features := 0 }
      { s3 with journal := s3.journal.filter fun e => !(e.cmds.all fun m => m.state == .recorded) })

/-! ### What is due at the hub -/

/-- The event of a command that starts or completes now. -/
def cmdDue (s : State) (e : JEntry) (i : Nat) (m : JCmd) : Option Event :=
  let c : CmdRef := { entry := e.uid, index := i }
  let op := recOp m.bits
  if m.state == .running && op == opJobClose then
    (if earlierDecided s c (s.fn e.fn).tenant m.job && phaseDone s (s.fn e.fn).tenant m.job m.value.toNat then some (.jobClose c) else none)
  else if cmdStarts s e i m then
    (if op = opJobOpen then some (.jobOpen c)
    else if op = opJobClose then some (.jobClose c)
    else if op = opCheckpoint then some (.checkpoint c)
    else if op = opImageLoad then some (.imageLoad c)
    else if op = opImageDrop then some (.imageDrop c)
    else if op = opGraphCreate then some (.graphCreate c)
    else if op = opGraphDrop then some (.graphDrop c)
    else if op = opCancel then some (.cancel c)
    else if op = opPageMigrate then some (.pageMigrate c)
    else if op = opHcopy then some (.hcopy c) else none)
  else none

/-- The start of a launch, once its block 0 may be placed or it fails (R414), or the load that this needs. -/
def startDue (s : State) (l : Launch) : Option Event :=
  let m := currentImage s l
  let start := Event.launchStart l.uid
  match m.kernels[l.kernel]? with
  | none => some start
  | some k =>
    let resident := ((newestEntry s (launchKey { l with image := m }) l.tenant).bind fun i => s.kiln[i]?.map fun t => t.resident).getD 128
    if depFails s l || m.malformed || !fitsEmpty k resident then some start
    else (coreFor s l k resident 0).bind fun c => placeOrLoad s l c start

/-- The event of a launch that starts, places a block, has its context loaded or gets its bisque. -/
def launchDue (s : State) (l : Launch) : Option Event :=
  if launchTurn s l then startDue s l
  else if bisqueOwed s l then
    (if (newestEntry s (launchKey l) l.tenant).isSome || (installEntry s (plainBisque l)).isSome then some (.bisqueComplete (plainBisque l))
    else none)
  else if l.state == .placing && l.outcome.isNone && l.nextBlock < l.blocks then
    match l.kern with
    | none => none
    | some k =>
      if l.blockCancel.contains l.nextBlock then some (.blockPlace l.uid)
      else (coreFor s l k (launchResident s l.uid) l.nextBlock).bind fun c => placeOrLoad s l c (.blockPlace l.uid)
  else none

/-- The tenants in the order of R427: the quantum's holder first, then by pass and number. -/
def tenantOrder (s : State) : List Nat :=
  let rank (t : Nat) : Nat × Nat := (if s.quantum = some t then 0 else 1, (s.tenant t).pass)
  let le (a b : Nat) : Bool :=
    let x := rank a
    let y := rank b
    x.1 < y.1 || (x.1 == y.1 && (x.2 < y.2 || (x.2 == y.2 && a ≤ b)))
  sortBy le (s.tenants.map fun (q : Nat × Tenant) => q.1)

/-- What is due at the hub beside placements: resets that can end, quanta, a journal copy to rebuild (R432), queues and commands. -/
def hubDue (s : State) : Option Event :=
  let resets := s.fns.findSome? fun (f : Nat × Fn) =>
    if f.2.resetting && (allCmds s).all (fun q => q.1.fn != f.1 || q.2.2.isDecided) then some (Event.functionReset f.1) else none
  let quantum := if s.launches.any (fun l => l.state != .done) && s.quantumEnd ≤ s.ticks then some Event.dispatchQuantum else none
  let queues := s.fns.findSome? fun (f : Nat × Fn) => f.2.queues.findSome? fun (q : Nat × Queue) => queueDue s f.1 q.1
  let cmds := (allCmds s).findSome? fun q => cmdDue s q.1 q.2.1 q.2.2
  resets.or <| quantum.or <| (if s.journalOk then none else some Event.journalRebuild).or <| queues.or cmds

end Sys2Proof.Machine
end

