-- ==== Sys2Proof/Machine/Security.lean ====
section
/-! DEFINITION. Boot and measurement, the SPDM responder, IDE streams and fabric key slots, clocks and the thermal trip
(R447 to R452, R456, R458; log entries 8 and 24). -/

namespace Sys2Proof.Machine

/-! ### Boot (R447 to R449) -/

/-- Extend a measurement register by a stage's image, and the log with stage, SVN and digest (R449; log entry 71). -/
def measure (s : State) (stage : Nat) (g : StageImage) : State :=
  let d := sha3 g.bytes
  let old := mget 0 s.measures stage
  { s with measures := mset s.measures stage (sha3 (leBytes 32 old.toNat ++ leBytes 32 d.toNat))
           measureLog := s.measureLog ++ [(stage, g.svn, d)] }

/-- Whether a stage image passes its signature, chain and minimum SVN (R448). -/
def stageOk (s : State) (stage : Nat) (g : StageImage) : Bool :=
  Config.chainOk Config.rootDigest g.chain && Config.mldsaVerify (Config.chainKey g.chain) g.sig g.bytes
    && mget 0 s.minSvn stage ≤ g.svn && g.svn < 2 ^ 16

/-- Verify, measure and run stages from one on; a failure stops the boot there, with a report (R442, R448). The service cores, of stage 2,
write their slices' SLICECFG (R345). -/
def bootFrom (stage : Nat) (gs : List StageImage) (s : State) : State :=
  match gs with
  | [] => { s with bootFailed := s.bootStage < 4 }
  | g :: r =>
    let s1 := measure s stage g
    if stageOk s stage g then
      let s2 : State := { s1 with bootStage := stage + 1 }
      bootFrom (stage + 1) r (if stage = 2 then writeSlices s2 else s2)
    else ({ s1 with bootFailed := true } : State).report 8 0 [stage]

/-- The package at the release of PERST# (R447): nothing is retained but what lies outside it, its fuses and its straps, and the
inputs that wait. -/
def powerUp (s : State) : State :=
  { State.reset with
    self := s.self, npkg := s.npkg, live := BitVec.ofNat 16 (2 ^ s.npkg - 1), hostMem := s.hostMem, minSvn := s.minSvn
    cores := (List.range 1024).map fun c => (c, Core.reset)
    agenda := s.agenda, sched := s.sched, free := s.free, pager := s.pager, cur := { Issue.none with core := s.cur.core } }

/-- BOOT (R447): stages 1 to 3 are verified, measured and run in order. -/
def execBoot (stages : List StageImage) (s : State) : Result := .next (bootFrom 1 (stages.take 3) (powerUp s))

/-! ### SPDM (R450) -/

/-- The responder of a port. -/
def State.responder (s : State) (p : Nat) : Spdm := mget Spdm.reset s.spdm p

/-- The kinds of SPDM message whose fields the SPDM standard fixes. -/
def spdmError : Nat := 0x7F

/-- What a reply's fixed fields may depend on. -/
def Spdm.view (r : Spdm) : List Nat :=
  let b (c : Bool) : Nat := if c then 1 else 0
  [b r.versioned, b r.capable, b r.negotiated, b r.session.isSome, b r.established]

/-- Answer a request when the connection's state allows it, else with an ERROR; the transcript grows by both. -/
def answer (s : State) (m : SpdmMsg) (kind : Nat) (ok : Spdm → Bool) (body : Spdm → List Byte) (upd : Spdm → Spdm) : State :=
  let r := s.responder m.port
  let fine := ok r
  let head := Config.spdmBytes (if fine then kind else spdmError) m.bytes r.view
  let reply := if fine then head ++ body r else head
  let r1 := if fine then upd r else r
  { s with spdm := mset s.spdm m.port { r1 with transcript := r1.transcript ++ m.bytes ++ reply, replies := r1.replies ++ [reply] } }

/-- The certificate chain of a slot, whose alias follows M0 to M3. -/
def State.chain (s : State) (slot : Nat) : List Byte :=
  let m (i : Nat) : BitVec 256 := mget 0 s.measures i
  Config.certChain slot (m 0) (m 1) (m 2) (m 3)

/-- Measurement block `i` from 1 (R450). -/
def State.measureBlock (s : State) (i : Nat) : List Byte :=
  if i = 9 then Config.measureLogBytes s.measureLog else leBytes 32 (mget 0 s.measures (i - 1)).toNat

/-- SPDM_GET_VERSION (R450): the connection begins anew. -/
def execSpdmGetVersion (m : SpdmMsg) (s : State) : Result :=
  .next (answer s m 0x04 (fun _ => true) (fun _ => []) fun r =>
    { Spdm.reset with versioned := true, replies := r.replies })

/-- SPDM_GET_CAPABILITIES (R450). -/
def execSpdmGetCapabilities (m : SpdmMsg) (s : State) : Result :=
  .next (answer s m 0x61 (fun r => r.versioned) (fun _ => []) fun r => { r with capable := true })

/-- SPDM_NEGOTIATE_ALGORITHMS (R450): ML-DSA-44, SHA3-256, AES-256-GCM and ML-KEM-768. -/
def execSpdmNegotiateAlgorithms (m : SpdmMsg) (s : State) : Result :=
  .next (answer s m 0x63 (fun r => r.capable) (fun _ => []) fun r => { r with negotiated := true })

/-- SPDM_GET_DIGESTS (R450): the digests of the chains of slots 0 and 1. -/
def execSpdmGetDigests (m : SpdmMsg) (s : State) : Result :=
  .next (answer s m 0x01 (fun r => r.negotiated)
    (fun _ => leBytes 32 (sha3 (s.chain 0)).toNat ++ leBytes 32 (sha3 (s.chain 1)).toNat) id)

/-- SPDM_GET_CERTIFICATE (R450): the asked part of a slot's chain. -/
def execSpdmGetCertificate (m : SpdmMsg) (s : State) : Result :=
  .next (answer s m 0x02 (fun r => r.negotiated && leAt m.bytes 0 1 % 16 ≤ 1)
    (fun _ => ((s.chain (leAt m.bytes 0 1 % 16)).drop (leAt m.bytes 2 2)).take (leAt m.bytes 4 2)) id)

/-- SPDM_CHALLENGE (R450): a signature over the transcript with the key of the slot. -/
def execSpdmChallenge (m : SpdmMsg) (s : State) : Result :=
  .next (answer s m 0x03 (fun r => r.negotiated && leAt m.bytes 0 1 % 16 ≤ 1)
    (fun r => Config.mldsaSign (leAt m.bytes 0 1 % 16) (r.transcript ++ m.bytes)) id)

/-- SPDM_GET_MEASUREMENTS (R450): the count of blocks, all of them, or the one that the request numbers. -/
def execSpdmGetMeasurements (m : SpdmMsg) (s : State) : Result :=
  .next (
    let n := leAt m.bytes 1 1
    answer s m 0x60 (fun r => r.negotiated && (n ≤ 9 || n == 0xFF))
      (fun _ => if n = 0 then [9] else if n = 0xFF then ((List.range 9).map fun i => s.measureBlock (i + 1)).flatten else s.measureBlock n) id)

/-- SPDM_KEY_EXCHANGE (R450): an ML-KEM-768 encapsulation to the requester's key opens a session. -/
def execSpdmKeyExchange (m : SpdmMsg) (s : State) : Result :=
  .next (
    let k := Config.mlkemEncaps (m.bytes.drop 2) s.free
    answer { s with free := s.free + 1 } m 0x64 (fun r => r.negotiated) (fun _ => k.1) fun r =>
      { r with session := some k.2, established := false })

/-- SPDM_FINISH (R450): a session whose FINISH holds is established. -/
def execSpdmFinish (m : SpdmMsg) (s : State) : Result :=
  .next (answer s m 0x65 (fun r => match r.session with | some k => !r.established && Config.spdmFinishOk k m.bytes | none => false)
    (fun _ => []) fun r => { r with established := true })

/-- SPDM_KEY_UPDATE (R450): the session's secret moves on. -/
def execSpdmKeyUpdate (m : SpdmMsg) (s : State) : Result :=
  .next (answer s m 0x69 (fun r => r.established) (fun _ => []) fun r =>
    { r with session := r.session.map fun k => sha3 (leBytes 32 k.toNat) })

/-- SPDM_END_SESSION (R450). -/
def execSpdmEndSession (m : SpdmMsg) (s : State) : Result :=
  .next (answer s m 0x6C (fun r => r.established) (fun _ => []) fun r => { r with session := none, established := false })

/-! ### Host streams (R451) -/

/-- Whether both directions of a stream run under a programmed key. -/
def IdeStream.keyed (x : IdeStream) : Bool :=
  ((x.rxGo0 && x.rxKey0.isSome) || (x.rxGo1 && x.rxKey1.isSome))
    && match x.txSet with
      | some n => if n = 0 then x.txKey0.isSome else x.txKey1.isSome
      | none => false

/-- Apply an IDE_KM message to a stream inside an established SPDM session of its port (R451). -/
def ideOp (s : State) (m : IdeMsg) (f : IdeStream → IdeStream) : State :=
  if (s.responder m.port).established then
    s.modFn m.fn fun x => { x with ide := mmod IdeStream.insecure x.ide m.port fun y =>
      let z := f y
      { z with secure := z.keyed } }
  else s

/-- KEY_PROG (R451). -/
def execKeyProg (m : IdeMsg) (s : State) : Result :=
  .next (ideOp s m fun x =>
    match m.tx, m.keySet with
    | true, 0 => { x with txKey0 := some m.key }
    | true, _ => { x with txKey1 := some m.key }
    | false, 0 => { x with rxKey0 := some m.key }
    | false, _ => { x with rxKey1 := some m.key })

/-- K_SET_GO (R451): the set is accepted, or sent under from now on, which ends a refresh. -/
def execKSetGo (m : IdeMsg) (s : State) : Result :=
  .next (ideOp s m fun x =>
    match m.tx, m.keySet with
    | true, n => { x with txSet := some (min n 1), refreshing := if x.txSet = some (min n 1) then x.refreshing else false }
    | false, 0 => { x with rxGo0 := true }
    | false, _ => { x with rxGo1 := true })

/-- K_SET_STOP (R451): the set is no longer accepted or sent under, and its key is gone. -/
def execKSetStop (m : IdeMsg) (s : State) : Result :=
  .next (ideOp s m fun x =>
    let tx (n : Nat) : Option Nat := if x.txSet = some n then none else x.txSet
    match m.tx, m.keySet with
    | true, 0 => { x with txKey0 := none, txSet := tx 0 }
    | true, _ => { x with txKey1 := none, txSet := tx 1 }
    | false, 0 => { x with rxKey0 := none, rxGo0 := false }
    | false, _ => { x with rxKey1 := none, rxGo1 := false })

/-- IDE_INTEGRITY_FAILURE (R451): the stream is Insecure, the VF is reset, and the operator is told. -/
def execIdeIntegrityFailure (m : IdeMsg) (s : State) : Result :=
  let s1 := (s.modFn m.fn fun x => { x with ide := mset x.ide m.port IdeStream.insecure }).report 8 (s.fn m.fn).tenant [m.fn, m.port]
  execFunctionReset m.fn s1

/-! ### Fabric key slots (R452) -/

/-- OLD_KEY_SLOT_EXPIRY (R452): 200 µs after the first flit under the new slot, the receiver invalidates the old one. -/
def execOldKeySlotExpiry (r : StreamRef) (s : State) : Result :=
  .next (match s.keySlots r with
    | none => s
    | some k =>
      match k.oldUntil with
      | none => s
      | some t =>
        if s.ticks < t then s
        else s.modKeys r fun x => if x.cur = 0 then { x with key1 := none, oldUntil := none } else { x with key0 := none, oldUntil := none })

/-- KEY_REFRESH_REQUEST (R452): at 2^38 flits under one key. -/
def execKeyRefreshRequest (r : StreamRef) (s : State) : Result :=
  .next (match s.keySlots r with
    | some k => if 2 ^ 38 ≤ k.flits then startRefresh s r else s
    | none => s)

/-- FLIT_LIMIT_HOLD (R452): at 2^40 flits under one key the stream is held until the refresh completes. -/
def execFlitLimitHold (r : StreamRef) (s : State) : Result :=
  .next (match s.keySlots r with
    | some k => if 2 ^ 40 ≤ k.flits then s.modKeys r fun x => { x with held := true } else s
    | none => s)

/-! ### Clocks and the trip (R15, R456, R458) -/

/-- The next lower clock state. -/
def Clock.down (c : Clock) : Clock := match c with | .ghz1_1 => .ghz0_9 | .ghz0_9 => .ghz0_7 | _ => .ghz0_5
/-- The next higher clock state. -/
def Clock.up (c : Clock) : Clock := match c with | .ghz0_5 => .ghz0_7 | .ghz0_7 => .ghz0_9 | _ => .ghz1_1

/-- A die's power budget in W (R456). -/
def dieBudget (s : State) : Nat := s.powerCap * 21 / 104

/-- THROTTLE_WINDOW (R456). -/
def execThrottleWindow (r : WindowRead) (s : State) : Result :=
  .next (s.modDie r.die fun d =>
    let budget := 1000 * dieBudget s
    if budget < r.power ∨ 1050 < r.hottest then { d with clock := d.clock.down, coolWindows := 0 }
    else if 100 * r.power ≤ 85 * budget ∧ r.hottest ≤ 950 then
      (if d.coolWindows + 1 = 10 then { d with clock := d.clock.up, coolWindows := 0 } else { d with coolWindows := d.coolWindows + 1 })
    else { d with coolWindows := 0 })

/-- THERMAL_TRIP (R458): issue stops, every peer is told, and power goes; the state is lost until a boot. -/
def execThermalTrip (s : State) : Result :=
  let s1 := s.peers.foldl (fun t p => t.sendMgmt p (.lossNotice s.self)) s
  .next { s1 with tripped := true }

end Sys2Proof.Machine
end

