-- ==== Sys2Proof/Machine/Links.lean ====
section
/-! DEFINITION. The fabric's links and streams: groups and their CRC, acknowledgement and replay, training and failure, relays,
packet headers, keys, and delivery exactly once and in order (R452, R469 to R476; log entries 9, 23 and 24). -/

namespace Sys2Proof.Machine

/-! ### CRCs (R470, R473; log entry 9) -/

/-- One byte of a CRC of `w` bits, most significant bit first. -/
def crcByte {w : Nat} (poly : BitVec w) (c : BitVec w) (b : Byte) : BitVec w :=
  (List.range 8).foldl (fun c _ => if c.msb then (c <<< 1) ^^^ poly else c <<< 1) (c ^^^ ((b.setWidth w) <<< (w - 8)))

/-- The CRC-64 of a group (R470). -/
def crc64 (bs : List Byte) : BitVec 64 := bs.foldl (crcByte 0x42F0E1EBA9EA3693#64) Config.crc64Start ^^^ Config.crc64Final
/-- The CRC-16 of a packet's header (R473). -/
def crc16 (bs : List Byte) : BitVec 16 := bs.foldl (crcByte 0x1021#16) Config.crc16Start ^^^ Config.crc16Final

/-! ### Group headers (R470) -/

/-- Byte `n` of a group header. -/
def headByte (h : BitVec 512) (n : Nat) : Nat := bitsOf h (8 * n) 8
/-- The kind of body flit `i`, from 1. -/
def flitKind (h : BitVec 512) (i : Nat) : Nat := headByte h (i - 1) % 4
/-- The group's sequence number. -/
def groupSeq (h : BitVec 512) : BitVec 12 := BitVec.ofNat 12 (bitsOf h 120 12)
/-- The last group that the sender received in order. -/
def groupAck (h : BitVec 512) : BitVec 12 := BitVec.ofNat 12 (bitsOf h 136 12)
/-- Whether the sender asks for what follows its ack again. -/
def groupNack (h : BitVec 512) : Bool := h.getLsbD 151
/-- The packages to which the sender's direct link is Up. -/
def groupUpmask (h : BitVec 512) : BitVec 16 := BitVec.ofNat 16 (bitsOf h 152 16)

/-- The bytes that a group's CRC covers. -/
def groupBytes (g : GroupMsg) : List Byte := (leBytes 64 g.header.toNat).take 56 ++ g.body.flatMap fun f => leBytes 64 f.toNat

/-- Whether a group keeps the rules of R470: no reserved kind, every zero field zero, and its CRC. -/
def groupOk (g : GroupMsg) : Bool :=
  let h := g.header
  g.body.length == 15 && (List.range 15).all (fun i => headByte h i / 32 == 0 && headByte h i % 4 != 3)
    && headByte h 16 / 16 == 0 && headByte h 18 / 16 % 8 == 0 && headByte h 21 / 16 == 0 && bitsOf h 176 272 == 0
    && BitVec.ofNat 64 (bitsOf h 448 64) == crc64 (groupBytes g)

/-! ### Packet headers (R473) -/

/-- Whether a header's CRC-16 holds. -/
def hcrcOk (h : BitVec 128) : Bool := BitVec.ofNat 16 (bitsOf h 112 16) == crc16 ((leBytes 16 h.toNat).take 14)

/-- A packet with the fields of its base header. -/
def readHeader (h : BitVec 128) (p : Packet) : Packet :=
  { p with
    op := p.op / 16 * 16 + bitsOf h 0 4, dst := bitsOf h 8 4, src := bitsOf h 12 4, relay := bitsOf h 16 4
    detoured := h.getLsbD 20, response := h.getLsbD 21, tenant := bitsOf h 32 12, mgmt := h.getLsbD 44
    seq := BitVec.ofNat 32 (bitsOf h 48 32), eack := BitVec.ofNat 32 (bitsOf h 80 32) }

/-- The flits of a packet: header, payload and tag (R473). -/
def packetFlits (p : Packet) : Nat := 2 + (p.data.length + p.data2.length + 63) / 64

/-! ### Streams (R475, R476) -/

/-- What a delivered packet does, by its type (R473). -/
def packetEvent (p : Packet) : Option Event :=
  match p.op % 16 with
  | 1 => some (.readRequest p)
  | 2 => some (.readData p)
  | 3 => some (.write p)
  | 4 => some (.writeAck p)
  | 5 => some (.atomicRequest p)
  | 6 => some (.atomicResult p)
  | 7 => some (.bulkGetRequest p)
  | 8 => some (.bulkData p)
  | 9 => some (.namedInterest p)
  | 10 => some (.namedTile p)
  | 11 => some (.endToEndAck p)
  | 12 => some (.management p)
  | _ => none

/-- Hand a packet to the hub. -/
def State.deliver (s : State) (p : Packet) : State := match packetEvent p with | some e => s.push e | none => s

/-- Stop holding what a cumulative ack covers (R475). -/
def ackStream (s : State) (p : Packet) : State :=
  s.modStream p.src p.streamKey p.response fun t =>
    { t with unacked := t.unacked.filter fun u => decide (2 ^ 31 ≤ (p.eack - u.1.seq).toNat) }

/-- Send a cumulative ack by itself, in a packet of type 11, which takes no number (R475; log entry 23). -/
def sendAck (s : State) (peer tenant : Nat) (response : Bool) : State :=
  match s.routeTo peer (tenant == 4096) with
  | none => s
  | some (port, relay, det) =>
    let q : Packet := { Packet.blank with
      dst := peer, src := s.self, relay := relay, detoured := det, response := response, mgmt := tenant == 4096
      tenant := if tenant = 4096 then 0 else tenant, eack := (s.stream peer tenant response).expect - 1, op := pkAck }
    s.modLink port fun l => { l with outQ := l.outQ ++ [(q, false)] }

/-- Deliver the packet with the expected number and every held packet that is then next (R475). -/
def drainStream (fuel : Nat) (s : State) (p : Packet) : State :=
  match fuel with
  | 0 => s
  | n + 1 =>
    let s1 := (s.deliver p).modStream p.src p.streamKey p.response fun t =>
      { t with expect := t.expect + 1, reorder := t.reorder.filter fun q => q.seq != p.seq }
    let t := s1.stream p.src p.streamKey p.response
    match t.reorder.find? fun q => q.seq == t.expect with
    | some q => drainStream n s1 q
    | none => s1

/-- The packets that the package holds in reorder windows (R475). -/
def reorderHeld (s : State) : Nat := s.streams.foldl (fun n t => n + t.reorder.length) 0

/-- A packet reaches the end of its stream (R475). -/
def streamReceive (s0 : State) (p : Packet) : State :=
  let s := ackStream s0 p
  let t := s.stream p.src p.streamKey p.response
  let d := (p.seq - t.expect).toNat
  let ack (u : State) : State := sendAck u p.src p.streamKey p.response
  if p.op % 16 = pkAck then s.deliver p
  else if d = 0 then ack (drainStream 256 s p)
  else if d ≤ 255 then
    if reorderHeld s < 65536 && !t.reorder.any fun q => q.seq == p.seq then
      s.modStream p.src p.streamKey p.response fun x => { x with reorder := x.reorder ++ [p] }
    else s
  else if 2 ^ 31 ≤ d then ack s
  else s

/-! ### Packets at a port (R452, R469, R473, R474) -/

/-- The direct link to a package is Up. -/
def State.upTo (s : State) (j : Nat) : Bool := (s.link (s.portTo j)).isUp

/-- A relay passes a packet on over its link to the destination, or drops it (R469, R474). -/
def relayOn (s : State) (p : Packet) (cut : Bool) : State :=
  if p.detoured && p.relay == s.self && s.upTo p.dst then s.modLink (s.portTo p.dst) fun l => { l with outQ := l.outQ ++ [(p, cut)] }
  else s

/-- The operator learns that a link has failed (R442, R472). -/
def linkFailed (s : State) (port : Nat) : State := (failLink s port).report 3 0 [6, port]

/-- A tag fails (R452): the third in a row on one link fails it and is a security event. -/
def tagFailure (s : State) (port : Nat) : State :=
  if 3 ≤ (s.link port).tagFails + 1 then (linkFailed s port).report 8 0 [port]
  else s.modLink port fun l => { l with tagFails := l.tagFails + 1 }

/-- The key that a slot of a stream's end holds. -/
def KeySlots.key? (k : KeySlots) (slot : Nat) : Option (BitVec 256) := if slot = 0 then k.key0 else k.key1

/-- A packet for this package: its slot must be valid and its tag hold (R452). The first under a new slot starts the last 200 µs of
the old one. Management may travel without keys before they are agreed (R472). -/
def openPacket (s : State) (port : Nat) (x : RxPacket) (p : Packet) : State :=
  let r : StreamRef := { peer := p.src, tenant := p.streamKey, tx := false }
  match s.keySlots r with
  | none => if p.mgmt then streamReceive s p else s
  | some k =>
    match k.key? x.slot with
    | none => s
    | some key =>
      if Config.gcmTagOk key x.header x.cipher x.tag then
        let s1 := s.modLink port fun l => { l with tagFails := 0 }
        let s2 := if x.slot = k.cur then s1 else s1.modKeys r fun y => { y with cur := x.slot, oldUntil := some (s.ticks + 200) }
        streamReceive s2 p
      else tagFailure s port

/-- One packet of an accepted group. -/
def portPacket (s : State) (port : Nat) (x : RxPacket) : State :=
  let p := readHeader x.header x.packet
  if x.cut || !hcrcOk x.header then s
  else if p.dst = s.self then openPacket s port x p
  else relayOn s p false

/-! ### Groups (R470 to R472, R474) -/

/-- Whether a number is at or before another in a window of 2,048 groups. -/
def seqLe (a b : BitVec 12) : Bool := decide ((b - a).toNat < 2048)

/-- A link whose replay episode has ended is Up again (R471, R472). -/
def Link.endEpisode (l : Link) : Link :=
  match l.episode with
  | some (_, last) =>
    if l.unacked.all fun u => !seqLe u.1 last then
      let st : LinkState := if l.state == .replay then .up else l.state
      { l with episode := none, state := st }
    else l
  | none => l

/-- An ack, and the nack that may come with it (R471). -/
def Link.acked (l : Link) (ticks : Nat) (ack : BitVec 12) (nack : Bool) : Link :=
  let rest := l.unacked.filter fun u => !seqLe u.1 ack
  let l1 := { l with unacked := rest, lastAdvance := if rest.length < l.unacked.length then ticks else l.lastAdvance }
  match nack, rest with
  | true, u :: _ =>
    let st : LinkState := if l1.state == .up then .replay else l1.state
    ({ l1 with resendFrom := some u.1, episode := some (l1.episode.getD (ticks, l1.nextSeq - 1)), state := st } : Link).endEpisode
  | _, _ => l1.endEpisode

/-- Whether a link carries groups (R472). -/
def Link.isOn (l : Link) : Bool := l.state == .training || l.state == .up || l.state == .replay

/-- The truncated copies of what a relay has forwarded from a group that then failed (R474). -/
def truncateRelayed (s : State) (g : GroupMsg) : State :=
  g.packets.foldl (fun t x =>
    let p := readHeader x.header x.packet
    if hcrcOk x.header && p.dst != t.self then relayOn t p true else t) s

/-- GROUP_RECEIVE (R470 to R476): a group is checked, its ack taken, and its packets handled when it is the next in order. -/
def execGroupReceive (g : GroupMsg) (s : State) : Result :=
  .next (
    if !(s.link g.port).isOn || s.npkg ≤ s.peerOf g.port then s
    else if !groupOk g then (truncateRelayed s g).modLink g.port fun l => { l with owesNack := true }
    else
      let s1 := s.modLink g.port fun l =>
        ({ l with lastHeader := s.ticks, upmask := groupUpmask g.header } : Link).acked s.ticks (groupAck g.header) (groupNack g.header)
      let s2 : State := { s1 with lastHeard := mset s1.lastHeard (s.peerOf g.port) s.ticks }
      if groupSeq g.header = (s2.link g.port).expect then
        g.packets.foldl (fun t x => portPacket t g.port x) (s2.modLink g.port fun l => { l with expect := l.expect + 1 })
      else s2.modLink g.port fun l => { l with owesNack := true })

/-- What fits into the body flits of a group, from the packets that wait: those that end in it, the rest, and the flits of the
rest's first packet that have then been sent. -/
def fillGroup (room sent : Nat) (q : List (Packet × Bool)) : List (Packet × Bool) × List (Packet × Bool) × Nat :=
  match q with
  | [] => ([], [], 0)
  | p :: r =>
    let left := packetFlits p.1 - sent
    if left ≤ room then
      let f := fillGroup (room - left) 0 r
      (p :: f.1, f.2.1, f.2.2)
    else ([], p :: r, sent + room)

/-- Flits sent under a stream's key count against it (R452). -/
def countFlits (s : State) (ps : List (Packet × Bool)) : State :=
  ps.foldl (fun t p =>
    let r : StreamRef := { peer := p.1.dst, tenant := p.1.streamKey, tx := true }
    if p.1.src = t.self ∧ (t.keySlots r).isSome then t.modKeys r fun k => { k with flits := k.flits + packetFlits p.1 } else t) s

/-- IDLE_GROUP (R470, R471): the link sends its next group: one to be resent, else one with the packets that wait, else an idle one;
with 2,048 groups unacknowledged, an idle one that takes no number (log entry 23). -/
def execIdleGroup (port : Nat) (s : State) : Result :=
  .next (
    let l := s.link port
    let sent (x : Link) : Link := { x with lastSent := s.ticks, owesNack := false }
    if !l.isOn then s
    else
      match l.resendFrom with
      | some q =>
        let again := l.unacked.filter fun u => seqLe q u.1
        let s1 := s.modLink port fun x => sent { x with resendFrom := (again.drop 1).head?.map fun u => u.1 }
        countFlits s1 ((again.head?.map fun u => u.2).getD [])
      | none =>
        if 2048 ≤ l.unacked.length then s.modLink port sent
        else
          let f := fillGroup 15 l.partSent l.outQ
          let s1 := s.modLink port fun x => sent { x with
            nextSeq := x.nextSeq + 1, unacked := x.unacked ++ [(x.nextSeq, f.1)], outQ := f.2.1, partSent := f.2.2
            lastAdvance := if x.unacked = [] then s.ticks else x.lastAdvance }
          countFlits s1 f.1)

/-- REPLAY_LIMIT (R471): an episode of 20 µs, or 20 µs without an advancing ack, fails the link. -/
def execReplayLimit (port : Nat) (s : State) : Result :=
  .next (
    let l := s.link port
    let long := match l.episode with | some e => decide (e.1 + 20 ≤ s.ticks) | none => false
    let stuck := l.unacked != [] && decide (l.lastAdvance + 20 ≤ s.ticks)
    if l.isOn && (long || stuck) then linkFailed s port else s)

/-- LINK_HEADER_TIMEOUT (R472): no group header for 100 µs fails the link. -/
def execLinkHeaderTimeout (port : Nat) (s : State) : Result :=
  .next (
    let l := s.link port
    if (l.state == .up || l.state == .replay) && decide (l.lastHeader + 100 ≤ s.ticks) then linkFailed s port else s)

/-- LINK_TRAINING (R472): firmware enables training of a link that is Down or Failed; keys agreed within 100 ms bring it Up. -/
def execLinkTraining (m : TrainMsg) (s : State) : Result :=
  .next (
    let l := s.link m.port
    let peer := s.peerOf m.port
    if 14 < m.port ∨ s.npkg ≤ peer then s
    else if !m.agreed then
      if l.state == .down || l.state == .failed then
        s.modLink m.port fun _ => { Link.reset with state := .training, trainedAt := s.ticks, lastHeader := s.ticks, lastAdvance := s.ticks }
      else s
    else if l.state == .training && decide (s.ticks < l.trainedAt + 100000) then
      let s1 := s.modLink m.port fun x => { x with state := .up, lastHeader := s.ticks }
      let s2 : State := { s1 with live := s1.live ||| BitVec.ofNat 16 (2 ^ peer), lastHeard := mset s1.lastHeard peer s.ticks }
      (4096 :: s2.tenants.map fun (q : Nat × Tenant) => q.1).foldl (fun t n => agreeKeys t peer n) s2
    else s)

/-- TRAINING_TIMEOUT (R472): a link in Training without agreed keys after 100 ms fails. -/
def execTrainingTimeout (port : Nat) (s : State) : Result :=
  .next (
    let l := s.link port
    if l.state == .training && decide (l.trainedAt + 100000 ≤ s.ticks) then linkFailed s port else s)

/-! ### End-to-end timers (R475) -/

/-- END_TO_END_ACK (R475): a cumulative ack releases the packets that it covers. -/
def execEndToEndAck (p : Packet) (s : State) : Result := .next (ackStream s p)

/-- Whether a held packet is sent again now: 200 µs after its last transmission, or as soon as one that waits has a route. -/
def resendDue (s : State) (u : Packet × Nat × Nat) : Bool :=
  decide (u.2.1 + 200 ≤ s.ticks)
    || (u.2.2 == noPort && !s.isHeld u.1.dst u.1.streamKey && (s.routeTo u.1.dst u.1.mgmt).isSome)

/-- END_TO_END_RESEND (R475, R476): an unacknowledged packet is sent again, by the route of the moment. -/
def execEndToEndResend (r : ResendRef) (s : State) : Result :=
  .next (match (s.stream r.peer r.tenant r.response).unacked.find? fun u => u.1.seq == r.seq with
    | some u => if resendDue s u then s.transmit u.1 else s
    | none => s)

end Sys2Proof.Machine
end

