-- ==== Sys2Proof/Machine/Znv.lean ====
section
/-! DEFINITION. Issuing a parked instruction again: every ZN-V instruction by its meaning, and the wakes of parked accesses,
joins and fences (R161, R187, R198, R199, R269, R380). -/

namespace Sys2Proof.Machine

/-- The state that a meaning answers. -/
def Result.state (r : Result) (s : State) : State := match r with | .next t => t | _ => s

/-- A ZN-V instruction's meaning by the instruction; none for a step that is none. -/
def znv (i : Instr) (s : State) : Option State :=
  match i with
  | .add f => some (Result.state (execAdd f s) s)
  | .addI f => some (Result.state (execAddI f s) s)
  | .sub f => some (Result.state (execSub f s) s)
  | .subI f => some (Result.state (execSubI f s) s)
  | .mul f => some (Result.state (execMul f s) s)
  | .mulI f => some (Result.state (execMulI f s) s)
  | .mulh f => some (Result.state (execMulh f s) s)
  | .madd f => some (Result.state (execMadd f s) s)
  | .div f => some (Result.state (execDiv f s) s)
  | .rem f => some (Result.state (execRem f s) s)
  | .abs f => some (Result.state (execAbs f s) s)
  | .neg f => some (Result.state (execNeg f s) s)
  | .min f => some (Result.state (execMin f s) s)
  | .minI f => some (Result.state (execMinI f s) s)
  | .max f => some (Result.state (execMax f s) s)
  | .maxI f => some (Result.state (execMaxI f s) s)
  | .and f => some (Result.state (execAnd f s) s)
  | .andI f => some (Result.state (execAndI f s) s)
  | .or f => some (Result.state (execOr f s) s)
  | .orI f => some (Result.state (execOrI f s) s)
  | .xor f => some (Result.state (execXor f s) s)
  | .xorI f => some (Result.state (execXorI f s) s)
  | .andn f => some (Result.state (execAndn f s) s)
  | .not f => some (Result.state (execNot f s) s)
  | .shl f => some (Result.state (execShl f s) s)
  | .shlI f => some (Result.state (execShlI f s) s)
  | .shr f => some (Result.state (execShr f s) s)
  | .shrI f => some (Result.state (execShrI f s) s)
  | .sar f => some (Result.state (execSar f s) s)
  | .sarI f => some (Result.state (execSarI f s) s)
  | .rotl f => some (Result.state (execRotl f s) s)
  | .rotlI f => some (Result.state (execRotlI f s) s)
  | .funnel f => some (Result.state (execFunnel f s) s)
  | .bfx f => some (Result.state (execBfx f s) s)
  | .bfxI f => some (Result.state (execBfxI f s) s)
  | .bfi f => some (Result.state (execBfi f s) s)
  | .popc f => some (Result.state (execPopc f s) s)
  | .clz f => some (Result.state (execClz f s) s)
  | .ctz f => some (Result.state (execCtz f s) s)
  | .brev f => some (Result.state (execBrev f s) s)
  | .prmt f => some (Result.state (execPrmt f s) s)
  | .sel f => some (Result.state (execSel f s) s)
  | .mov f => some (Result.state (execMov f s) s)
  | .movi f => some (Result.state (execMovi f s) s)
  | .lea f => some (Result.state (execLea f s) s)
  | .leaI f => some (Result.state (execLeaI f s) s)
  | .addsat f => some (Result.state (execAddsat f s) s)
  | .subsat f => some (Result.state (execSubsat f s) s)
  | .cmp f => some (Result.state (execCmp f s) s)
  | .cmpI f => some (Result.state (execCmpI f s) s)
  | .fcmp f => some (Result.state (execFcmp f s) s)
  | .pand f => some (Result.state (execPand f s) s)
  | .por f => some (Result.state (execPor f s) s)
  | .pxor f => some (Result.state (execPxor f s) s)
  | .pnot f => some (Result.state (execPnot f s) s)
  | .pmov f => some (Result.state (execPmov f s) s)
  | .psel f => some (Result.state (execPsel f s) s)
  | .fadd f => some (Result.state (execFadd f s) s)
  | .fsub f => some (Result.state (execFsub f s) s)
  | .fmul f => some (Result.state (execFmul f s) s)
  | .ffma f => some (Result.state (execFfma f s) s)
  | .fmin f => some (Result.state (execFmin f s) s)
  | .fmax f => some (Result.state (execFmax f s) s)
  | .fdiv f => some (Result.state (execFdiv f s) s)
  | .fsqrt f => some (Result.state (execFsqrt f s) s)
  | .frcp f => some (Result.state (execFrcp f s) s)
  | .frsq f => some (Result.state (execFrsq f s) s)
  | .fexp2 f => some (Result.state (execFexp2 f s) s)
  | .flog2 f => some (Result.state (execFlog2 f s) s)
  | .fsin f => some (Result.state (execFsin f s) s)
  | .fcos f => some (Result.state (execFcos f s) s)
  | .ftanh f => some (Result.state (execFtanh f s) s)
  | .fclass f => some (Result.state (execFclass f s) s)
  | .fscale f => some (Result.state (execFscale f s) s)
  | .frnd f => some (Result.state (execFrnd f s) s)
  | .cvt f => some (Result.state (execCvt f s) s)
  | .fcopysign f => some (Result.state (execFcopysign f s) s)
  | .faddL f => some (Result.state (execFaddL f s) s)
  | .fmulL f => some (Result.state (execFmulL f s) s)
  | .dot8 f => some (Result.state (execDot8 f s) s)
  | .dot4 f => some (Result.state (execDot4 f s) s)
  | .dot2 f => some (Result.state (execDot2 f s) s)
  | .pack f => some (Result.state (execPack f s) s)
  | .unpack f => some (Result.state (execUnpack f s) s)
  | .scl f => some (Result.state (execScl f s) s)
  | .qnt f => some (Result.state (execQnt f s) s)
  | .qntsr f => some (Result.state (execQntsr f s) s)
  | .hist f => some (Result.state (execHist f s) s)
  | .hclip f => some (Result.state (execHclip f s) s)
  | .ldI f => some (Result.state (execLdI f s) s)
  | .ldC f => some (Result.state (execLdC f s) s)
  | .stI f => some (Result.state (execStI f s) s)
  | .stC f => some (Result.state (execStC f s) s)
  | .ldrow f => some (Result.state (execLdrow f s) s)
  | .strow f => some (Result.state (execStrow f s) s)
  | .rotm f => some (Result.state (execRotm f s) s)
  | .pres f => some (Result.state (execPres f s) s)
  | .atom f => some (Result.state (execAtom f s) s)
  | .cas f => some (Result.state (execCas f s) s)
  | .cas128 f => some (Result.state (execCas128 f s) s)
  | .fatom f => some (Result.state (execFatom f s) s)
  | .fence f => some (Result.state (execFence f s) s)
  | .fencex f => some (Result.state (execFencex f s) s)
  | .pref f => some (Result.state (execPref f s) s)
  | .shw f => some (Result.state (execShw f s) s)
  | .ldq f => some (Result.state (execLdq f s) s)
  | .stq f => some (Result.state (execStq f s) s)
  | .bra f => some (Result.state (execBra f s) s)
  | .brx f => some (Result.state (execBrx f s) s)
  | .call f => some (Result.state (execCall f s) s)
  | .callx f => some (Result.state (execCallx f s) s)
  | .ret f => some (Result.state (execRet f s) s)
  | .exit f => some (Result.state (execExit f s) s)
  | .spawn f => some (Result.state (execSpawn f s) s)
  | .fork f => some (Result.state (execFork f s) s)
  | .join f => some (Result.state (execJoin f s) s)
  | .jenter f => some (Result.state (execJenter f s) s)
  | .jquit f => some (Result.state (execJquit f s) s)
  | .jwait f => some (Result.state (execJwait f s) s)
  | .jread f => some (Result.state (execJread f s) s)
  | .jinit f => some (Result.state (execJinit f s) s)
  | .jclr f => some (Result.state (execJclr f s) s)
  | .bar f => some (Result.state (execBar f s) s)
  | .barn f => some (Result.state (execBarn f s) s)
  | .syscall f => some (Result.state (execSyscall f s) s)
  | .getid f => some (Result.state (execGetid f s) s)
  | .nop f => some (Result.state (execNop f s) s)
  | .trap f => some (Result.state (execTrap f s) s)
  | .bkpt f => some (Result.state (execBkpt f s) s)
  | .shfl f => some (Result.state (execShfl f s) s)
  | .vote f => some (Result.state (execVote f s) s)
  | .ballot f => some (Result.state (execBallot f s) s)
  | .greduce f => some (Result.state (execGreduce f s) s)
  | .gscan f => some (Result.state (execGscan f s) s)
  | .elect f => some (Result.state (execElect f s) s)
  | .oclaim f => some (Result.state (execOclaim f s) s)
  | .orelease f => some (Result.state (execOrelease f s) s)
  | .oload f => some (Result.state (execOload f s) s)
  | .mma f => some (Result.state (execMma f s) s)
  | .mmas f => some (Result.state (execMmas f s) s)
  | .mmag f => some (Result.state (execMmag f s) s)
  | .accrd f => some (Result.state (execAccrd f s) s)
  | .accwr f => some (Result.state (execAccwr f s) s)
  | .accz f => some (Result.state (execAccz f s) s)
  | .actlut f => some (Result.state (execActlut f s) s)
  | .seqrun f => some (Result.state (execSeqrun f s) s)
  | .copy f => some (Result.state (execCopy f s) s)
  | .copyg f => some (Result.state (execCopyg f s) s)
  | .nreg f => some (Result.state (execNreg f s) s)
  | .nwant f => some (Result.state (execNwant f s) s)
  | .npub f => some (Result.state (execNpub f s) s)
  | .ndrop f => some (Result.state (execNdrop f s) s)
  | .nwait f => some (Result.state (execNwait f s) s)
  | .bulk f => some (Result.state (execBulk f s) s)
  | .armt f => some (Result.state (execArmt f s) s)
  | .arwait f => some (Result.state (execArwait f s) s)
  | .yoke f => some (Result.state (execYoke f s) s)
  | .unyoke f => some (Result.state (execUnyoke f s) s)
  | .migrate f => some (Result.state (execMigrate f s) s)
  | .cbar f => some (Result.state (execCbar f s) s)
  | .srd f => some (Result.state (execSrd f s) s)
  | .swr f => some (Result.state (execSwr f s) s)
  | .eret f => some (Result.state (execEret f s) s)
  | .tlbinv f => some (Result.state (execTlbinv f s) s)
  | .ctxsv f => some (Result.state (execCtxsv f s) s)
  | .ctxld f => some (Result.state (execCtxld f s) s)
  | .eclr f => some (Result.state (execEclr f s) s)
  | .halt f => some (Result.state (execHalt f s) s)
  | .wfi f => some (Result.state (execWfi f s) s)
  | .kcall f => some (Result.state (execKcall f s) s)
  | _ => none

/-! ### Accesses (R187, R269) -/

/-- Whether a fibre that waits for a page of its code may go on (R37): the page's translation is there, or it cannot be had. -/
def fetchReady (s : State) (it : AtItem) (w : Wait) : Bool :=
  w.pf.contains (w.va.toNat / 2 ^ 16) || match s.gang? it.core it.gang with
    | some g => ((s.core it.core).tlbFind g.tenant g.ctx w.va).isSome
    | none => false

/-- Lanes that waited for a page of their code go on (R37): they fetch again, or raise PF at the virtual PC. -/
def wakeFetch (s : State) (it : AtItem) (w : Wait) : State :=
  if !fetchReady s it w then s
  else
    let s1 := s.reissue it.core it.gang w false
    if w.pf.contains (w.va.toNat / 2 ^ 16) then takeTrap s1 tcPF (lowLane w.mask) [w.va, 0] else s1

/-- GLOBAL_ACCESS_COMPLETE (R187): a miss, a walk or a fill that an access waited for is over, and the access is performed
for its lanes. -/
def execGlobalAccessComplete (it : AtItem) (s : State) : Result :=
  .next (match waitOf s it with
    | none => s
    | some w =>
      match w.cause with
      | .l2miss => wake s it true znv
      | .tlb | .page | .presence => wake s it false znv
      | .fetch => wakeFetch s it w
      | _ => s)

/-- The index of a gang's first access that waits for a presence bit. -/
def presenceWait (g : Gang) : Option Nat := g.waits.findIdx? fun w => w.cause == .presence

/-- Wake the waits of a gang for presence bits, each once. -/
def wakePresence (n : Nat) (s : State) (c slot : Nat) : State :=
  match n with
  | 0 => s
  | k + 1 =>
    match (s.gang? c slot).bind presenceWait with
    | none => s
    | some i => wakePresence k (wake s { core := c, gang := slot, item := i } false znv) c slot

/-- Whether a gang may run its waits again. -/
def mayWake (s : State) (c slot : Nat) : Bool :=
  match mfind (s.core c).gangs slot with
  | some g => wakeable s c slot g && (g.region.isEmpty || (g.inNative && !g.replay))
  | none => false

/-- FILL_COMPLETE (R269, R270): the row's fill is over; with its last one its presence bit is set, and the accesses that wait
for presence bits are tried again. -/
def execFillComplete (it : AtCore) (s : State) : Result :=
  .next (
    let s1 := s.modCore it.core fun k => { k with fills := k.fills.filter fun f => !(f.row == it.item && f.done) }
    if (s1.core it.core).present it.item then
      (s1.core it.core).gangs.foldl (fun t (q : Nat × Gang) =>
        if mayWake t it.core q.1 then wakePresence (q.2.waits.filter fun w => w.cause == .presence).length t it.core q.1 else t) s1
    else s1)

/-! ### Joins (R161) -/

/-- JOIN_WAKE (R161): parked lanes read their counters again, and those that read zero go on. -/
def execJoinWake (it : AtItem) (s : State) : Result :=
  .next (match waitOf s it with
    | some w => if w.cause = .join then wake s it false znv else s
    | none => s)

/-! ### Fences and tickets (R198, R199, R380, R381) -/

/-- The ticket field of a wait that has asked for a ticket, with the tag of its request. -/
def askedTicket (tag : Nat) : Nat := 2 ^ 64 + tag
/-- The ticket field of a wait whose ticket has been released for performance. -/
def freeTicket (t : Nat) : Nat := 2 ^ 65 + t

/-- Change the ticket field of the waits that hold a value. -/
def setTickets (s : State) (old new : Nat) : State :=
  let upd (w : Wait) : Wait := if w.cause == .fence && w.ticket == old then { w with ticket := new } else w
  s.mapCores fun k => { k with
    fwWait := k.fwWait.map upd
    gangs := k.gangs.map fun (q : Nat × Gang) => (q.1, { q.2 with waits := q.2.waits.map upd }) }

/-- The sequencer releases the next ticket when the one before it has been performed (R380); a lost package's tickets are never
performed and are passed over (R381). -/
def releaseFrom (fuel : Nat) (s : State) : State :=
  match fuel with
  | 0 => s
  | n + 1 =>
    match s.ticketWaits.find? fun q => q.1 == s.doneTicket + 1 with
    | some (t, p) =>
      if p = s.self then setTickets s t (freeTicket t)
      else if s.live.getLsbD p then s.sendMgmt p (.ticketRelease t)
      else releaseFrom n { s with doneTicket := t, ticketWaits := s.ticketWaits.filter fun q => q.1 != t }
    | none => s

/-- Release the next ticket that a live package holds. -/
def releaseTicket (s : State) : State := releaseFrom (s.ticketWaits.length + 1) s

/-- The sequencer gives a package a ticket (R380). -/
def giveTicket (s : State) (p tag : Nat) : State :=
  let t := s.nextTicket + 1
  let s1 : State := { s with nextTicket := t, ticketWaits := s.ticketWaits ++ [(t, p)] }
  let s2 := if p = s.self then setTickets s1 (askedTicket tag) t else s1.sendMgmt p (.ticketGive tag t)
  if t = s.doneTicket + 1 then releaseTicket s2 else s2

/-- A ticket's operation has been performed (R380). -/
def ticketPerformed (s : State) (t : Nat) : State :=
  if s.hostPkg = s.self then
    releaseTicket { s with doneTicket := max t s.doneTicket, ticketWaits := s.ticketWaits.filter fun q => q.1 != t }
  else ({ s with doneTicket := max t s.doneTicket } : State).sendMgmt s.hostPkg (.ticketDone t)

/-- Apply `f` to a parked instruction. -/
def modWait (s : State) (it : AtItem) (f : Wait → Wait) : State :=
  s.modGang it.core it.gang fun g => { g with waits := g.waits.modify it.item f }

/-- Whether an instruction is an SC operation at fabric scope (R380). -/
def fabricSC (i : Instr) : Bool :=
  let sc (e : BitVec 18) : Bool := extOrder e == 5 && extScope e == 5
  match i with
  | .ldC f | .stC f | .atom f | .cas f | .cas128 f | .fence f | .fencex f => sc f.ext
  | _ => false

/-- TICKET_REQUEST (R380): a fabric-scope SC operation asks the sequencer for its ticket. -/
def execTicketRequest (it : AtItem) (s : State) : Result :=
  .next (match waitOf s it with
    | some w =>
      if w.cause = .fence ∧ w.ticket = 0 ∧ fabricSC w.instr ∧ s.highsOwed = 0 then
        let (tag, s1) := s.fresh
        let s2 := modWait s1 it fun x => { x with ticket := askedTicket tag }
        if s.hostPkg = s.self then giveTicket s2 s.self tag else s2.sendMgmt s.hostPkg (.ticketAsk tag)
      else s
    | none => s)

/-- FENCE_COMPLETE (R198, R199, R380): what a fence, a release or a released ticket waited for is done. -/
def execFenceComplete (it : AtItem) (s : State) : Result :=
  .next (match waitOf s it with
    | none => s
    | some w =>
      if w.cause ≠ .fence then s
      else if w.ticket = 0 then (if fabricSC w.instr then s else wake s it false znv)
      else if 2 ^ 65 ≤ w.ticket then ticketPerformed (wake s it true znv) (w.ticket - 2 ^ 65)
      else s)

end Sys2Proof.Machine
end

