-- ==== Sys2Proof/Machine/LongWord.lean ====
section
/-! DEFINITION. Native long words: their issue, results in flight, the hold latch, speculation, alias detection, commit and
rollback (R208 to R240). An operation of a slot runs as its ZN-V instruction over a view of the native registers; what would
park or trap inside a region rolls it back and is met again in the in-order replay (log entry 12). -/

namespace Sys2Proof.Machine

/-! ### Results in flight (R217) -/

/-- Write a native destination of a lane. -/
def Fibre.putDest (f : Fibre) (d : NDest) (w : W32) : Fibre :=
  match d with
  | .reg n => f.wn n w
  | .pred p => f.wp p (w != 0)
  | .latch _ => f

/-- Whether two results are for one register of a lane. -/
def PendWrite.sameDest (p q : PendWrite) : Bool := p.lane == q.lane && p.dest == q.dest

/-- The results that `now` selects, in issue order, and those that stay in flight: an earlier result for the register of one that is
written takes effect before it, and never after (R217). -/
def landing (now : PendWrite → Bool) (ps : List PendWrite) : List PendWrite × List PendWrite :=
  match ps with
  | [] => ([], [])
  | p :: r =>
    let q := landing now r
    if now p then (p :: q.1, q.2) else if q.1.any p.sameDest then q else (q.1, p :: q.2)

/-- Write the results of a gang that `now` selects (R217). -/
def Gang.arriveResults (g : Gang) (now : PendWrite → Bool) : Gang :=
  let q := landing now g.pend
  let g1 := q.1.foldl (fun (x : Gang) p => x.mapLanes (laneBit p.lane) fun _ f => f.putDest p.dest p.value) g
  { g1 with pend := q.2 }

/-! ### The way back to optimised code (R237) -/

/-- What a gang does once its region has committed in order: it resumes native code where its translation has it. -/
def resumeNative (s : State) (c slot : Nat) : State :=
  match s.gang? c slot with
  | none => s
  | some g =>
    match translOf s g with
    | none => s
    | some t =>
      if g.region.isEmpty && g.stop.isNone && (g.replay || !g.inNative) && mayEnter t g then s.setGang c slot (g.goNative t)
      else s

/-! ### Running the operation of a slot (R212, R216, R217, R219) -/

/-- The view of a fibre in which a slot's operation finds its operands under their native numbers. -/
def viewFibre (start : Fibre) (us : List OperandUse) (f : Fibre) : Fibre :=
  us.foldl (fun x u =>
    match u.cls with
    | .v n =>
      if latchBase ≤ u.num then x.wv u.num ((start.held (u.num - latchBase)).setWidth 32)
      else (List.range n).foldl (fun y i => y.wv (u.num + i) (start.rn (u.num + i))) x
    | .x n =>
      if latchBase ≤ u.num then x.wx u.num (start.held (u.num - latchBase))
      else (List.range n).foldl (fun y i => y.wx (u.num + i) (start.rn64 (u.num + 2 * i))) x
    | _ => x) { f with v := [], x := [], preds := start.preds }

/-- The results that a slot's operation left in a lane's view, by native destination. -/
def viewResults (us : List OperandUse) (f : Fibre) : List (NDest × W32) :=
  (us.filter fun u => u.writes).flatMap fun u =>
    match u.cls with
    | .v n => (List.range n).map fun i => (NDest.reg (u.num + i), f.rv (u.num + i))
    | .x n => (List.range n).flatMap fun i =>
        [(NDest.reg (u.num + 2 * i), (f.rx (u.num + i)).setWidth 32),
         (NDest.reg (u.num + 2 * i + 1), (f.rx (u.num + i)).extractLsb' 32 32)]
    | .p => [(NDest.pred u.num, if f.rp u.num then 1 else 0)]
    | .other => []

/-- A word in the course of its issue: whether it ends its region, the state, the results to come, whether the region rolls back, and
whether a transfer was taken. -/
structure WordRun where
  commit : Bool
  s : State
  pend : List PendWrite
  aborted : Bool
  moved : Bool
deriving DecidableEq, Repr

/-- A region's end without commit: it rolls back and replays in order (R237). -/
def WordRun.abort (r : WordRun) (s0 : State) : WordRun :=
  { r with s := rollback s0 s0.cur.core s0.cur.gang, aborted := true }

/-- Whether the gang has a speculation open (R239). -/
def Gang.specOpen (g : Gang) : Bool := match g.spec with | some p => p.isOpen | none => false

/-- Fail the gang's speculation (R239). -/
def failSpec (s : State) (c slot : Nat) : State :=
  s.modGang c slot fun g => { g with spec := g.spec.map fun p => { p with failed := true } }

/-- The sectors that the lanes of a load read (R226). -/
def loadSectors (s : State) (g : Gang) (e : Mask) (n op : Nat) (ea : Fibre → W64) : List Sector :=
  ((checkLanes s g e ea n 0 op false fun _ x => x).filterMap fun q => match q.2.2 with
    | .here loc => some (loc.aliasSector g.tenant q.2.1)
    | .mem _ _ _ _ => some ((Loc.phys 0).aliasSector g.tenant q.2.1)
    | _ => none).eraseDups

/-- Find or make the entries of sectors under a tag; without room the tag overflows, or the speculation fails (R226,
R239). -/
def addAliases (s : State) (c slot tag : Nat) (secs : List Sector) : State :=
  secs.foldl (fun t sec =>
    let as := (t.core c).aliases
    if as.any fun a => a.gang == slot && a.sector == sec && a.tag == tag then t
    else if as.length < 256 then t.modCore c fun k => { k with aliases := k.aliases ++ [{ gang := slot, sector := sec, tag := tag }] }
    else if tag = 15 then failSpec t c slot
    else t.modGang c slot fun g => { g with overflow := g.overflow ||| BitVec.ofNat 16 (2 ^ tag) }) s

/-- Release a gang's entries of the tags that `p` selects. -/
def dropAliases (s : State) (c slot : Nat) (p : Nat → Bool) : State :=
  s.modCore c fun k => { k with aliases := k.aliases.filter fun a => !(a.gang == slot && p a.tag) }

/-- The address and size of a slot's load, for the alias entries of a speculation (R226, R239). -/
def loadShape (i : Instr) : Option (Nat × Nat × (Fibre → W64)) :=
  match i with
  | .ldI f => some (accessSize f.ty, 0x100, fun x => x.rx f.a + immS f.imm)
  | .ldC f => some (accessSize f.ty, 0x101, fun x => x.rx f.a + offC f)
  | .ldrow f => some (64, 0x104, fun x => x.rx f.a + 64 * immS f.imm)
  | _ => none

/-- Whether a lane of a mask is parked, other than by its EXIT. -/
def Gang.anyParked (g : Gang) (m : Mask) : Bool :=
  (lanesOf m).any fun l => match (g.lane l).status with | .parked .exiting => false | .parked _ => true | _ => false

/-- What the operation of a slot stands for (log entry 12). -/
def slotOrigin (s : State) (start : Gang) (npc : Nat) (x : LSlot) : Option Origin := (translOf s start).bind fun t => originOf t npc x.k

/-- The state in which a slot's operation runs for the lanes of its leaf (R216): each lane's operands stand under their native numbers,
and the PC is that of the virtual instruction that the operation stands for. `start` is the gang at the word's issue. -/
def slotState (s : State) (start : Gang) (npc : Nat) (x : LSlot) (lanes : Mask) : State :=
  let s1 := s.modGang s.cur.core s.cur.gang fun g => g.mapLanes g.live fun l f => viewFibre (start.lane l) x.uses f
  let pc := ((slotOrigin s start npc x).bind fun o => o.pc).getD s.cur.pc
  { s1 with cur := { s1.cur with lanes := lanes, pc := pc } }

/-- Whether a slot's operation stands for no virtual instruction, and so is neither charged for nor sampled (R19, R302, R441). -/
def isSilent (o : Option Origin) : Bool := match o with | some q => q.pc.isNone | none => false

/-- The samples of a gang's region with that of a slot's operation, when it is a memory instruction (R441). -/
def sampled (s2 : State) (op : Nat) (e : Mask) (g : Gang) : Gang :=
  if (op / 64 == 4 || op == 0x1E0) && e != 0 then
    let sectors := match g.region.energy with | (5, n) :: _ => n / 4 | _ => 0
    { g with region := { g.region with samples := (e, s2.cur.pc, sectors) :: g.region.samples } }
  else g

/-- Whether an operation must be met by its virtual instruction: MIGRATE leaves the core from its commit point (R238, R339). -/
def virtualOnly (i : Instr) : Bool := match i with | .migrate _ => true | _ => false

/-- Whether an operation is an ACCRD, whose group waits for the engine's words once its word has committed (R219, R260). -/
def isAccrd (i : Instr) : Bool := match i with | .accrd _ => true | _ => false

/-- Whether the run of an operation rolled its region back. -/
def Gang.rolled (before after : Gang) : Bool := after.replay || (after.inOrder && !before.inOrder)

/-- Run the operation `i` of a slot for the lanes of its leaf (R216). `start` is the gang at the word's issue and `s0` the
state then. An operation that a speculation cannot hold fails it (R239). -/
def runOp (s0 : State) (start : Gang) (npc : Nat) (x : LSlot) (i : Instr) (tag : Option Nat) (lanes : Mask) (r : WordRun) : WordRun :=
  let c := s0.cur.core
  let slot := s0.cur.gang
  match r.s.gang? c slot with
  | none => r
  | some before =>
    let s2 := slotState r.s start npc x lanes
    let seen := (s2.gang? c slot).getD before
    let e := execLanes s2 seen x.guard
    if before.specOpen && e != 0 && (virtualOnly i || x.op == 0x145) then { r with s := failSpec r.s c slot }
    else if virtualOnly i then r.abort s0
    else
    let t := (znv i s2).getD s2
    match t.gang? c slot with
    | none => { r with s := t }
    | some after =>
      let engines := after.region.cmds.length != before.region.cmds.length || after.region.pops.length != before.region.pops.length
      if before.specOpen && (before.rolled after || after.stop.isSome || after.anyParked lanes || engines) then
        { r with s := failSpec r.s c slot }
      else if before.rolled after then { r with s := t, aborted := true }
      else if after.stop.isSome || (after.anyParked lanes && !(r.commit && isAccrd i)) then r.abort s0
      else
        let secs : List Sector := match loadShape i with
          | some (k, op, ea) => loadSectors s2 seen e k op ea
          | none => []
        let t1 := match (if before.specOpen then some 15 else tag) with | some q => addAliases t c slot q secs | none => t
        let lat := x.latency
        let results := (lanesOf e).flatMap fun l => (viewResults x.uses (after.lane l)).map fun q =>
          { due := start.words + lat.getD 1, interlocked := lat.isNone, lane := l, dest := q.1, value := q.2 : PendWrite }
        let t2 := t1.modGang c slot fun g =>
          let g1 := g.mapLanes before.live fun l f =>
            let o := before.lane l
            { f with v := o.v, x := o.x, preds := o.preds, pc := o.pc }
          if isSilent (slotOrigin s0 start npc x) then { g1 with region := { g1.region with energy := before.region.energy } }
          else sampled s2 x.op e g1
        { r with s := { t2 with cur := s0.cur }, pend := r.pend ++ results }

/-! ### Waits at a word (R187, R222; log entry 12) -/

/-- Whether an operation that must wait holds its PC group at its word: plain loads and stores, and LDQ. The others stand alone in their
regions (R20), and their virtual instructions wait. -/
def waitsInPlace (i : Instr) : Bool :=
  match i with
  | .ldI _ | .stI _ | .ldrow _ | .strow _ | .ldq _ => true
  | .ldC f | .stC f => extOrder f.ext == 0 || extOrder f.ext == 1
  | _ => false

/-- What a wait of an LDQ at a native word holds as its address: the queue, and how many entries the word needs (R273). -/
def Wait.wants (w : Wait) : W64 := match w.instr with | .ldq f => BitVec.ofNat 64 (16 * countLanes w.mask + f.a) | _ => w.va

/-- A PC group held at a word (R187, R222): an operation `x` of the word must wait, and nothing of the word has an effect but what the
wait itself began. `g` is the gang before the word. -/
def holdAt (s0 : State) (start : Gang) (w : LWord) (npc : Nat) (g : Gang) (m : Mask) (x : LSlot) : Option State :=
  let c := s0.cur.core
  let slot := s0.cur.gang
  match x.performs with
  | none => none
  | some i =>
    if !waitsInPlace i then none
    else
      let s2 := slotState s0 start npc x m
      let t := (znv i s2).getD s2
      match t.gang? c slot with
      | none => none
      | some after =>
        match (after.waits.drop start.waits.length).find? fun v => [Cause.tlb, .l2miss, .presence, .qempty].contains v.cause with
        | none => none
        | some v =>
          let hold : Wait := { v with mask := s0.cur.lanes, instr := .longWord w, va := v.wants }
          let back := g.mapLanes s0.cur.lanes fun _ f => { f with status := .parked v.cause }
          let t1 := (t.unrecord (after.region.reads.drop start.region.reads.length)).setGang c slot { back with waits := g.waits ++ [hold] }
          some { t1 with cur := s0.cur
                         remotes := (s0.remotes.filter fun q => !t1.remotes.any fun p => p.tag == q.tag) ++ t1.remotes }

/-! ### The native-only operations (R225 to R232, R239, R240) -/

/-- A trap that native code alone can raise (R224, R228): the region rolls back, without a replay, and the gang stops at its commit
point; a pending speculation stays (R239). -/
def nativeStop (s0 : State) (code : BitVec 8) (lane : Nat) (infos : W64 → List W64) : State :=
  let c := s0.cur.core
  let slot := s0.cur.gang
  let s1 := undoRegion s0 c slot Gang.undone
  match s1.gang? c slot with
  | none => s0
  | some g =>
    let f := g.lane lane
    stopGang s1 c slot (trapRecord s1 g f code false false f.pc (infos f.pc)) 0 f.pc

/-- XTRAP (R231): with its region empty it reports what the side table stores; otherwise the replay meets the instruction
that it stands for. In an open speculation it fails that (R239). -/
def runXtrap (s0 : State) (x : LSlot) (npc : Nat) (e : Mask) (r : WordRun) : WordRun :=
  let c := s0.cur.core
  let slot := s0.cur.gang
  match s0.gang? c slot with
  | none => r
  | some g =>
    if g.specOpen then { r with s := failSpec r.s c slot }
    else match (translOf s0 g).bind fun t => (sideAt t npc).map fun q => (t, q) with
    | none => r.abort s0
    | some (t, q) =>
      if g.region.instrs ≠ 0 then r.abort s0
      else
        let fill : W64 := s0.cur.lanes.setWidth 64
        let infos := (t.infos.getD q.trapinfo []).map fun w => if w.fill then 2 ^ 32 * (w.value / 2 ^ 32) + fill else w.value
        let back := g.rolledBack.mapBoth s0.cur.lanes fun _ f => { f with pc := q.virt }
        let f := back.lane (lowLane e)
        let s1 := s0.setGang c slot back
        { r with s := stopGang s1 c slot (trapRecord s1 back f (BitVec.ofNat 8 x.bc) false false q.virt infos) s0.cur.lanes
                        (nextAfter s0 f.launch q.virt)
                 aborted := true }

/-- SPECEND's decision (R240): whether the speculation is confirmed. -/
def specConfirmed (s : State) (g : Gang) (p : Nat) (e : Mask) : Bool :=
  match g.spec with
  | some q => !q.isOpen && !q.failed && g.region.isEmpty && (lanesOf e).all (fun l => (g.lane l).rp p)
      && (q.held.stores.findSome? fun st => storeRace s (g.lane (g.laneOf st.acc.party.uid)).clock st).isNone
  | none => false

/-- Two regions' effects together, the first's before the second's. -/
def Region.after (a b : Region) : Region :=
  { b with stores := a.stores ++ b.stores, reads := a.reads ++ b.reads, hist := a.hist ++ b.hist, energy := b.energy ++ a.energy
           samples := b.samples ++ a.samples }

/-- SPECEND (R240): a confirmed speculation's effects are published with the region of the SPECEND; otherwise they go, and the group
continues at the fallback, also when none is pending. -/
def runSpecend (s0 : State) (start : Gang) (x : LSlot) (npc : Nat) (e : Mask) (r : WordRun) : WordRun × Option Nat :=
  let s := r.s
  let c := s.cur.core
  let slot := s.cur.gang
  match start.spec.filter fun q => !q.confirmed with
  | some q =>
    let s1 := dropAliases s c slot fun t => t == 15
    if specConfirmed s start x.a e then
      ({ r with s := s1.modGang c slot fun g =>
          { g with region := q.held.after g.region, spec := some { q with confirmed := true } } }, none)
    else
      let s2 := (s1.unrecord q.held.reads).modGang c slot fun g => { g with spec := none }
      ({ r with s := s2.modCore c fun k => k.addStall start.ctx 0 6 1 }, some q.fallback)
  | none =>
    match (translOf s start).bind fun t => t.fallbacks.find? fun q => q.1 == npc with
    | some q => (r, some q.2)
    | none => (r.abort s0, none)

/-- The native-only operations other than XTRAP, SPECEND and YIELD, each for the lanes that execute it. -/
def runNative (s0 : State) (start : Gang) (npc : Nat) (x : LSlot) (lanes : Mask) (r : WordRun) : WordRun :=
  let s := r.s
  let c := s.cur.core
  let slot := s.cur.gang
  match x.op with
  | 0x1E0 => runOp s0 start npc x (.ldI x.specLoad) (some (x.bc / 2 ^ 14)) lanes r
  | 0x1E1 =>
    if start.overflow.getLsbD x.bc then { r with s := rollback (countAlias s0 start) c slot, aborted := true }
    else { r with s := dropAliases s c slot fun q => q == x.bc }
  | 0x1E2 =>
    let m := x.bc
    { r with s := (dropAliases s c slot fun q => q < 15 && m.testBit q).modGang c slot fun g =>
        { g with overflow := g.overflow &&& ~~~(BitVec.ofNat 16 m) } }
  | 0x1E3 => { r with s := s.modGang c slot fun g => { g with seqBody := some x.bc } }
  | 0x1E4 =>
    match start.seqBody with
    | none =>
      if start.specOpen then { r with s := failSpec s c slot }
      else { r with s := nativeStop s0 tcSEQE (lowLane lanes) fun pc => [pc], aborted := true }
    | some b =>
      let run : IForm := { mod := 0, ty := .s32, g := x.guard, d := 0, a := x.a, imm := BitVec.ofNat 14 b }
      runOp s0 start npc x (.seqrun run) none lanes r
  | 0x1E5 =>
    if start.member4.isSome then
      { r with s := (s.modGang c slot fun g => { g with decoupled := true }).modCluster (c / 4) fun k =>
          { k with shared := false, regather := 0 } }
    else r
  | 0x1E9 =>
    let q : Spec := { isOpen := true, failed := false, confirmed := false, fallback := ((npc : Int) + x.third.toInt).toNat, lanes := lanes
                      held := Region.empty }
    { r with s := s.modGang c slot fun g => { g with spec := some q } }
  | 0x1EB => { r with s := s.modGang c slot fun g => { g with arch := { g.arch with mdpc := x.third } } }
  | _ => r

/-- REGATHER (R229, R335): the member parks until all four have arrived. -/
def regather (s : State) : State :=
  let c := s.cur.core
  match s.curGang? with
  | none => s
  | some g =>
    match g.member4 with
    | none => s
    | some i =>
      let k := s.cluster (c / 4)
      let line := k.regather ||| BitVec.ofNat 4 (2 ^ i)
      let s1 := s.putCur (g.mapLanes g.ready fun _ f => { f with status := .parked .regather })
      if line = BitVec.allOnes 4 then
        let s2 := k.members.foldl (fun t m => t.modGang (c / 4 * 4 + m.1) m.2 fun x =>
          ({ x with decoupled := false } : Gang).release (x.lanesWhere fun f => f.status == .parked .regather)) s1
        s2.modCluster (c / 4) fun k => { k with shared := true, regather := 0 }
      else s1.modCluster (c / 4) fun k => { k with regather := line }

/-! ### Control transfers (R210, R216, R219) -/

/-- Where a lane's transfer leads: a fibre and its next word, a check that failed, or a target without an entry. -/
inductive Leads where
  | goes (f : Fibre)
  | fault
  | untranslated (target : W64)
deriving DecidableEq, Repr

/-- A fibre in a callee's window (R209). -/
def callNative (t : Transl) (f : Fibre) (npc target : Nat) (pc : W64) : Fibre :=
  let f0 := match sideAt t (npc + 1) with | some r => syncVirtual t r f | none => f
  { (({ f0 with npc := npc + 1 }.call f0.pc pc).slide (some t) f.fn) with npc := target }

/-- The transfer of one lane (R153 to R156, R210). -/
def leadOf (s : State) (start : Gang) (x : LSlot) (npc : Nat) (outer : Bool) (l : Nat) (f : Fibre) : Leads :=
  match translOf s start with
  | none => .fault
  | some t =>
    let o := start.lane l
    let rel : Nat := ((npc : Int) + x.third.toInt).toNat
    let ptr : W64 := if latchBase ≤ x.a then o.held (x.a - latchBase) else o.rn64 x.a
    let via (pc : W64) (k : Nat → Fibre) : Leads :=
      match entryOf t pc with | some n => .goes (k n) | none => .untranslated pc
    match x.op with
    | 0x140 => .goes { f with npc := rel }
    | 0x141 => if (branchCheck s (fun _ => ptr) o).isSome then .fault else via ptr fun n => { f with npc := n }
    | 0x142 =>
      let pc := ((t.entries.find? fun e => e.2 == 64 * rel).map fun e => e.1).getD f.pc
      if f.callers.length ≥ 255 then .fault else .goes (callNative t f npc rel pc)
    | 0x143 => if (callCheck s (fun _ => ptr) o).isSome then .fault else via ptr fun n => callNative t f npc n ptr
    | _ =>
      match f.callers with
      | [] => .fault
      | a :: _ => if (retCheck s outer o).isSome then .fault else via a.ret fun n => { f.return with npc := n }

/-- Park the PC group until the kiln has translated a target (R210, R314). -/
def parkKiln (s0 : State) (target : W64) : State :=
  match s0.curGang? with
  | none => s0
  | some g =>
    let s1 := s0.putCur (g.mapLanes s0.cur.lanes fun _ f => { f with status := .parked .kiln })
    if s1.kilnWaiting.contains (g.transl, target) then s1 else { s1 with kilnWaiting := s1.kilnWaiting ++ [(g.transl, target)] }

/-- The charge for a word's transfers (R302): class 4, once for each that stands for a virtual instruction. -/
def chargeTransfers (s : State) (start : Gang) (npc : Nat) (xs : List LSlot) (g : Gang) : Gang :=
  (xs.filter fun x => isTransfer x.op && x.op != 0x145 && !isSilent (slotOrigin s start npc x)).foldl (fun (y : Gang) _ => y.charge 4 1) g

/-- The transfers of a word: every lane that takes one goes there, the others to the next word. One that fails or lacks a translation
fails an open speculation (R239). -/
def runTransfers (s0 : State) (start : Gang) (npc : Nat) (leafOf : Nat → Nat) (xs : List LSlot) (past : Option Nat) (r : WordRun) : WordRun :=
  let s := r.s
  let c := s.cur.core
  let slot := s.cur.gang
  let taking (l : Nat) : Option LSlot := xs.find? fun x =>
    isTransfer x.op && x.op != 0x145 && (x.leaf == 7 || x.leaf == leafOf l) && guardPasses x.guard (start.lane l)
  match s.gang? c slot with
  | none => r
  | some g =>
    let outer := (lanesOf s0.cur.lanes).any fun l => (match taking l with | some x => x.op == 0x144 | none => false)
      && (start.lane l).callers == []
    let leads := (lanesOf s0.cur.lanes).filterMap fun l => (taking l).map fun x => (l, leadOf s start x npc outer l (g.lane l))
    let untranslated := leads.findSome? fun q => match q.2 with | .untranslated t => some t | _ => none
    let failed := leads.any fun q => q.2 == .fault
    if failed && !start.specOpen then r.abort s0
    else
      match untranslated.filter fun _ => !start.specOpen with
      | some t => { r with s := parkKiln s0 t, aborted := true }
      | none =>
        let g1 := g.mapLanes s0.cur.lanes fun l f =>
          match leads.find? fun q => q.1 == l with
          | some (_, .goes x) => x
          | _ => { f with npc := past.getD (npc + 1) }
        let s1 := s.setGang c slot (chargeTransfers s0 start npc xs g1)
        { r with s := if failed || untranslated.isSome then failSpec s1 c slot else s1, moved := leads != [] || past.isSome }

/-! ### Faults at issue (R218, R221, R223) -/

/-- The lanes of the PC group in which a slot executes (R216). -/
def slotLanes (lanes : Mask) (leafOf : Nat → Nat) (x : LSlot) : Mask :=
  maskOf fun l => lanes.getLsbD l && (x.leaf == 7 || x.leaf == leafOf l)

/-- The dependences of a word within its groups, for one lane: the slots at fault and the destinations still open after the word (R218).
A slot whose leaf the lane selects reads its guard there, whether the guard passes or not. -/
def dependences (w : LWord) (reaches exec : LSlot → Bool) (opened : List NDest) : List Nat × List NDest :=
  (List.range 7).foldl (fun (acc : List Nat × List NDest) k =>
    let acc1 := match w.ops.find? fun x => x.k == k with
      | some x =>
        let reads := (if exec x then x.operands else []) ++ (if reaches x then guardSources x.guard else [])
        (if reads.any fun d => acc.2.contains d then acc.1 ++ [k] else acc.1, if exec x then acc.2 ++ x.writes else acc.2)
      | none => acc
    (acc1.1, if w.stop k then [] else acc1.2)) ([], opened)

/-- Whether a slot reads a latch entry that is not valid in a lane (R221). -/
def badLatch (f : Fibre) (x : LSlot) : Bool :=
  (x.uses.filter fun u => u.reads && u.cls != .p && latchBase ≤ u.num).any fun u =>
    match mfind f.latch (u.num - latchBase) with
    | some e => decide (2 < e.age)
    | none => true

/-- The faults of a word at issue (R223 reasons 0x03, 0x08, 0x09). -/
def issueFaults (w : LWord) (start : Gang) (lanes : Mask) (leafOf : Nat → Nat) : List (Nat × Nat) :=
  let reaches (l : Nat) (x : LSlot) : Bool := (slotLanes lanes leafOf x).getLsbD l
  let execs (l : Nat) (x : LSlot) : Bool := reaches l x && guardPasses x.guard (start.lane l)
  let dep := (lanesOf lanes).flatMap fun l => (dependences w (reaches l) (execs l) (mget [] start.group l)).1
  let lat := w.ops.filter fun x => (lanesOf lanes).any fun l => execs l x && badLatch (start.lane l) x
  let spec := w.ops.filter fun x => x.op == 0x1E9 && start.spec.any fun q => !q.confirmed
  let one (r : Nat) (ks : List Nat) : List (Nat × Nat) := if ks = [] then [] else [(r, slotMask ks)]
  one 3 dep ++ one 8 (lat.map fun x => x.k) ++ one 9 (spec.map fun x => x.k)

/-- The lowest reason of a list of faults with its slot mask (R223). -/
def lowestReason (fs : List (Nat × Nat)) : Option (Nat × Nat) :=
  fs.foldl (fun (o : Option (Nat × Nat)) f => match o with
    | some q => if f.1 < q.1 then some f else if f.1 = q.1 then some (q.1, q.2 ||| f.2) else some q
    | none => some f) none

/-- An illegal word (R224): its region rolls back and ILLB is reported at the commit point. -/
def illegalWord (s0 : State) (npc reason mask : Nat) : State :=
  nativeStop s0 tcILLB (lowLane s0.cur.lanes) fun _ =>
    [BitVec.ofNat 64 (64 * npc), BitVec.ofNat 64 (mask + reason * 256), s0.cur.lanes.setWidth 64]

/-! ### The commit of native code (R217, R221, R227, R235, R236, R239) -/

/-- A gang whose results are all written, its latches invalid and its virtual state as the side table gives it; a replay ends when no
lane is in a replay translation any more (R237). -/
def Gang.atCommit (g : Gang) (t : Option Transl) : Gang :=
  let g1 := g.arriveResults fun _ => true
  let g2 := g1.mapLanes g1.live fun _ f =>
    let f1 := { f with latch := [] }
    match t.bind fun q => (sideAt q f.npc).map fun r => (q, r) with
    | some (q, r) => syncVirtual q r f1
    | none => f1
  let still := g.inOrder && (lanesOf g2.ready).any fun l => (t.map fun q => inReplay q (g2.lane l).npc).getD false
  { g2 with group := [], overflow := 0, spec := g2.spec.map (fun p => { p with isOpen := false }), inOrder := still
            replayFor := if g.inOrder && !still then none else g2.replayFor }

/-- A commit word's commit (R235). -/
def nativeCommit (s : State) : State :=
  let c := s.cur.core
  let slot := s.cur.gang
  match s.gang? c slot with
  | none => s
  | some g => commitRegion (dropAliases (s.setGang c slot (g.atCommit (translOf s g))) c slot fun q => q != 15) c slot

/-- A yield word: a decision point when the gang's context runs, which lets the gang go on to its next yield word if another
context then runs; a gang whose context does not run parks here (R230, R296 to R298). -/
def yieldWord (s : State) (decl : Nat) : State :=
  let c := s.cur.core
  let slot := s.cur.gang
  let s1 := s.modGang c slot fun g => { g with yieldCtr := decl, declared := decl, overran := false }
  match s1.gang? c slot with
  | none => s1
  | some g =>
    if (s1.core c).running = (s1.core c).slotFor g.ctx then arbitrate s1 c fun k => k.decide (some decl)
    else s1.modGang c slot Gang.parkYield

/-! ### Busy units (R219) -/

/-- The native long word at which a lane of a gang stands (R208, R210). -/
def nativeWord (s : State) (g : Gang) (l : Nat) : Option LWord :=
  (translOf s g).bind fun t => t.words[(g.lane l).npc]?

/-- The first Ready lane from the turn pointer upward, wrapping (R151). -/
def Gang.nextLane (g : Gang) : Option Nat :=
  ((List.range 32).map fun i => (g.tp.toNat + i) % 32).find? fun l => (g.lane l).status == .ready

/-- The ck until which busy units hold the word that a gang would issue next (R219); 0 when none does. -/
def heldUntil (s : State) (k : Core) (g : Gang) : Nat :=
  if !g.inNative || g.replay then 0
  else match g.nextLane.bind fun l => nativeWord s g l with
    | some w => w.ops.foldl (fun n x => max n (mget 0 k.slotBusy x.k)) 0
    | none => 0

/-- The units that an issued word leaves busy (R219). -/
def occupy (s : State) (w : LWord) : State :=
  s.modCore s.cur.core fun k =>
    let busy := w.ops.foldl (fun m x => if x.occupancy = 0 then m else mset m x.k (s.ck + x.occupancy)) k.slotBusy
    { k with slotBusy := busy }

/-! ### The word (R208 to R240) -/

/-- Whether a word reads, in a lane of the group, a result that is still in flight (R217), its tests' predicates among them. -/
def waitsForResult (w : LWord) (g : Gang) (lanes : Mask) (leafOf : Nat → Nat) : Bool :=
  g.pend.any fun p => p.interlocked && lanes.getLsbD p.lane && (w.tests.contains p.dest || w.ops.any fun x =>
    (x.leaf == 7 || x.leaf == leafOf p.lane) && x.sources.contains p.dest)

/-- The gang as a word finds it at issue (R217, R221): due results written, latch entries a word older. -/
def Gang.atIssue (g : Gang) (lanes : Mask) : Gang :=
  (g.arriveResults fun p => !p.interlocked && decide (p.due ≤ g.words)).mapLanes lanes fun _ f =>
    { f with latch := f.latch.map fun e => (e.1, { e.2 with age := e.2.age + 1 }) }

/-- The operations of a legal word in slot order; transfers come last, since all operations of a word issue together. -/
def runSlots (s0 : State) (start : Gang) (w : LWord) (npc : Nat) (leafOf : Nat → Nat) : WordRun :=
  let lanes := s0.cur.lanes
  let r0 : WordRun := { commit := w.commit, s := s0, pend := [], aborted := false, moved := false }
  let others := w.ops.filter fun x => !isTransfer x.op && !(0x1E6 ≤ x.op && x.op ≤ 0x1E8) && x.op != 0x1EA
  let r1 := others.foldl (fun r x =>
    if r.aborted then r
    else
      let m := slotLanes lanes leafOf x
      match x.instr with
      | some i => runOp s0 start npc x i none m r
      | none => runNative s0 start npc x m r) r0
  let r2 := (w.ops.filter fun x => x.op == 0x145).foldl (fun r x =>
    match r.aborted, x.instr with
    | false, some i => runOp s0 start npc x i none (slotLanes lanes leafOf x) r
    | _, _ => r) r1
  let e (x : LSlot) : Mask := maskOf fun l => (slotLanes lanes leafOf x).getLsbD l && guardPasses x.guard (start.lane l)
  let r3 := match w.ops.find? fun x => x.op == 0x1E8 with
    | some x => if r2.aborted || e x == 0 then r2 else runXtrap s0 x npc (e x) r2
    | none => r2
  let se := match w.ops.find? fun x => x.op == 0x1EA with
    | some x => if r3.aborted then (r3, none) else runSpecend s0 start x npc (e x) r3
    | none => (r3, none)
  if se.1.aborted then se.1 else runTransfers s0 start npc leafOf w.ops se.2 se.1

/-- The latch entries that a word captures: lane, entry and value (R221). -/
def captures (w : LWord) (start : Gang) (exec : Nat → LSlot → Bool) (lanes : Mask) : List (Nat × Nat × W64) :=
  (w.ops.filter fun x => x.hold != 0).flatMap fun x =>
    ((lanesOf lanes).filter fun l => exec l x).map fun l => (l, x.hold - 1, x.captured (start.lane l))

/-- The effects that a word has added to a gang's region belong to its open speculation, and wait with it (R239). `before` is the
region at the word's issue. -/
def Gang.holdBack (before : Region) (g : Gang) : Gang :=
  let r := g.region
  let new : Region := { Region.empty with
    reads := r.reads.drop before.reads.length, hist := r.hist.drop before.hist.length
    energy := r.energy.take (r.energy.length - before.energy.length), samples := r.samples.take (r.samples.length - before.samples.length) }
  { g with region := { r with reads := before.reads, hist := before.hist, energy := before.energy, samples := before.samples }
           spec := g.spec.map fun p => { p with held := p.held.after new } }

/-- What stands in a gang after a legal word, besides what its slots did (R217, R218, R221, R232, R239). -/
def Gang.afterWord (w : LWord) (start : Gang) (lanes : Mask) (leafOf : Nat → Nat) (r : WordRun) (x : Gang) : Gang :=
  let reaches (l : Nat) (y : LSlot) : Bool := (slotLanes lanes leafOf y).getLsbD l
  let exec (l : Nat) (y : LSlot) : Bool := reaches l y && guardPasses y.guard (start.lane l)
  let mOp := w.ops.any fun y => y.k == 4 && y.op < 0x1E0 && (lanesOf lanes).any fun l => exec l y
  let opened := (lanesOf lanes).map fun l =>
    (l, if r.moved then [] else (dependences w (reaches l) (exec l) (mget [] start.group l)).2)
  let x0 := if start.specOpen then x.holdBack start.region else x
  let x1 := (captures w start exec lanes).foldl (fun (y : Gang) q =>
    y.mapLanes (laneBit q.1) fun _ f => { f with latch := mset f.latch q.2.1 { value := q.2.2, age := 0 } }) x0
  { x1 with
    words := start.words + 1, pend := x1.pend ++ r.pend
    group := opened.foldl (fun (m : TMap (List NDest)) q => mset m q.1 q.2) start.group
    arch := { x1.arch with mdpc := if w.mdadv && mOp then x1.arch.mdpc + 4 else x1.arch.mdpc }
    region := { x1.region with instrs := x1.region.instrs + 1
                               start := if x1.region.instrs = 0 then (start.lane (lowLane lanes)).pc else x1.region.start } }

/-- Issue of one long word for a PC group (R208, R216 to R218, R223, R230, R235). -/
def issueWord (w : LWord) (s : State) : State :=
  match s.curGang? with
  | none => s
  | some g =>
    let lanes := groupLanes s g
    let npc := (g.lane (lowLane lanes)).npc
    let start := g.atIssue lanes
    let leafOf (l : Nat) : Nat := w.tree.pick (fun i => guardPasses (w.sel i) (start.lane l)) 0 0
    if lanes = 0 then s
    else if waitsForResult w g lanes leafOf then
      s.putCur (g.mapLanes lanes fun _ f => { f with status := .parked .result })
    else
      let s0 : State := { s.putCur start with cur := { s.cur with lanes := lanes, inNative := true } }
      match lowestReason (w.staticFaults ++ issueFaults w start lanes leafOf) with
      | some (reason, mask) => illegalWord s0 npc reason mask
      | none =>
        match if start.specOpen then none else w.ops.findSome? fun x => holdAt s0 start w npc g (slotLanes lanes leafOf x) x with
        | some t => t
        | none =>
          let r := runSlots (occupy s0 w) start w npc leafOf
          if r.aborted then r.s
          else
            let s1 := r.s.modGang s.cur.core s.cur.gang (Gang.afterWord w start lanes leafOf r)
            let s2 := if w.commit then nativeCommit s1 else s1
            let s3 := if w.ops.any fun x => x.op == 0x1E6 then regather s2 else s2
            if w.isYield then yieldWord s3 w.yieldCk else s3

/-- LONG_WORD (R216): one native long word for the PC group that issues. -/
def execLongWord (w : LWord) (s : State) : Result := .next (issueWord w s)

/-- INTERLOCKED_RESULT (R217): the oldest interlocked result of a gang arrives, and the fibres that wait for results are Ready
again. -/
def execInterlockedResult (at_ : AtGang) (s : State) : Result :=
  .next (s.modGang at_.core at_.gang fun g =>
    match g.pend.find? fun p => p.interlocked with
    | none => g
    | some o =>
      let g1 := g.arriveResults fun p => p.interlocked && p.due == o.due
      g1.mapLanes (g1.lanesWhere fun f => f.status == .parked .result) fun l f =>
        if g1.waits.any fun w => w.mask.getLsbD l then f else { f with status := .ready })

end Sys2Proof.Machine
end

