-- ==== Sys2Proof/Machine/Packets.lean ====
section
/-! DEFINITION. What delivered packets do: remote reads, writes and atomics at their homes and their answers, bulk runs, interests and
tiles between packages, and management traffic (R356, R361, R368, R380, R381, R434 to R437, R477, R478, R481, R486, R487). -/

namespace Sys2Proof.Machine

/-! ### Answers (R475, R477) -/

/-- Answer a request with a packet of the response class. -/
def State.reply (s : State) (p : Packet) (op : Nat) (data : List Byte) : State :=
  s.send { Packet.blank with
    dst := p.src, response := true, tenant := p.tenant, op := op, tag := p.tag, addr := p.addr, size := p.size, name := p.name, data := data }

/-- The request that an answer's tag names. -/
def State.remote? (s : State) (tag : Nat) : Option Remote := s.remotes.find? fun r => r.tag == tag

/-- Forget a request. -/
def State.dropTag (s : State) (tag : Nat) : State := { s with remotes := s.remotes.filter fun r => r.tag != tag }

/-- Whether the lane that a request was made for is gone (R91). -/
def State.laneGone (s : State) (r : Remote) : Bool :=
  !r.engine && match s.gang? r.core r.gang with | some g => (g.lane r.lane).status == .absent | none => true

/-- The data of a request's answer, kept until the access is tried again; a fibre that has exited needs none, and its gang's slot may
now be free (R91). -/
def State.answered (s : State) (tag : Nat) (bs : List Byte) : State :=
  match s.remote? tag with
  | some r =>
    if s.laneGone r then reapGang (s.dropTag tag) r.core r.gang
    else { s with remotes := updFirst (fun r => r.tag == tag) (fun r => { r with data := some bs }) s.remotes }
  | none => s

/-! ### Invalidations (R356, R444) -/

/-- Run again what awaited the invalidation with a tag, once all that it awaits is acknowledged. -/
def settleAwait (s : State) (tag : Nat) : State :=
  match s.awaits.find? fun a => a.tag == tag with
  | none => s
  | some a =>
    let mine := s.awaits.filter fun b => b.req == a.req && b.cmd == a.cmd
    if mine.any fun b => b.acks != 0 then s
    else if a.req.isNone && a.cmd.isNone then { s with awaits := s.awaits.filter fun b => !mine.contains b }
    else
      let s1 := match a.req with
        | some r => match syscallEvent r.service r with | some e => s.push e | none => s
        | none => s
      match a.cmd with
      | some c => s1.push (.pageMigrateComplete c)
      | none => s1

/-- A package has acknowledged an invalidation. -/
def takeAck (s : State) (tag src : Nat) : State := settleAwait (ackInvalidate s tag src) tag

/-- Give the acknowledgements that no older access of this package holds back any more, after dropping what those accesses brought
of their ranges (R356). -/
def flushAcks (s : State) : State :=
  let held (o : OwedAck) : Bool := s.unperformed o.last o.range
  let free := s.owedAcks.filter fun o => !held o
  let s1 := free.foldl (fun t o => invalidateHere t o.range) { s with owedAcks := s.owedAcks.filter held }
  free.foldl (fun t o => if o.pkg = t.self then takeAck t o.tag t.self else t.sendMgmt o.pkg (.invalidateAck o.tag)) s1

/-- Where an access that comes for a physical address is performed: an access translated before a migration of its page has completed
goes to the page's new place (R357). -/
def State.homeOf (s : State) (pa : Nat) : Nat :=
  (s.awaits.findSome? fun a => if a.acks = 0 then none else a.moved.bind fun m =>
    if m.1 ≤ pa ∧ pa < m.1 + m.2.2 then some (pa - m.1 + m.2.1) else none).getD pa

/-! ### Reads and writes (R346, R370, R477, R478) -/

/-- The home (`homeCode`) of a physical page of this package, as its tables map it; a page that they do not map is cached normally
(R346). -/
def pageHome (s : State) (pa : Nat) : Nat :=
  (((allTables s).1.find? fun l => ptePa l.pte ≤ pa && pa < ptePa l.pte + l.size).map fun l => homeCode l.pte).getD 0

/-- READ_REQUEST (R477): the read is performed at its home slice, and its data returns. -/
def execReadRequest (p : Packet) (s : State) : Result :=
  .next (
    if pkgOf p.addr ≠ s.self then s
    else
      let pa := s.homeOf p.addr
      (s.l2Fill pa (pageHome s pa) false).reply p pkReadData (memRead s.mem pa p.size))

/-- READ_DATA (R477, R486): the data of a lane's or an engine's read, or a table entry of a walk, which goes on. -/
def execReadData (p : Packet) (s : State) : Result :=
  .next (match s.remote? p.tag with
    | none => s
    | some r =>
      flushAcks (
        if r.gang = walkerGang then
          ({ s.dropTag p.tag with farPtes := mset s.farPtes p.addr (BitVec.ofNat 64 (ofLe p.data)) } : State).push
            (.pageWalk { core := r.core, tenant := p.tenant, va := p.name })
        else s.answered p.tag p.data))

/-- WRITE (R477): the write is performed at its home slice and acknowledged. -/
def execWrite (p : Packet) (s : State) : Result :=
  .next (
    if pkgOf p.addr ≠ s.self then s
    else
      let pa := s.homeOf p.addr
      let key := locKey 0 0 (.phys pa)
      let s1 := ({ s with mem := memWrite s.mem pa (p.data.take p.size) } : State).l2Fill pa (pageHome s pa) true
      (s1.endSequences key.1 p.size key.2).reply p pkWriteAck [])

/-- WRITE_ACK (R478): the write has been performed at its home. -/
def execWriteAck (p : Packet) (s : State) : Result :=
  .next (match s.remote? p.tag with
    | some r => flushAcks (reapGang (s.dropTag p.tag) r.core r.gang)
    | none => s)

/-! ### Atomics (R192 to R195, R477) -/

/-- The bytes that a remote atomic leaves at its home: those of ATOM, CAS or CAS128; none when a comparison fails. -/
def remoteAtomic (p : Packet) (old : List Byte) : Option (List Byte) :=
  let sub := p.op / 16
  if sub < 7 then some (leBytes p.size (atomNew p.ty sub (BitVec.ofNat 64 (ofLe old)) (BitVec.ofNat 64 (ofLe p.data))).toNat)
  else if old = p.data then some p.data2 else none

/-- ATOMIC_REQUEST (R477): the memory-side unit of the home slice performs the atomic, or takes a FATOM contribution. -/
def execAtomicRequest (p : Packet) (s : State) : Result :=
  .next (
    if pkgOf p.addr ≠ s.self then s
    else match p.contribution with
    | some m => addContribution { m with pa := s.homeOf m.pa } s
    | none =>
      let pa := s.homeOf p.addr
      let old := memRead s.mem pa p.size
      let s1 := match remoteAtomic p old with
        | some bs => ({ s with mem := memWrite s.mem pa bs } : State).l2Fill pa (pageHome s pa) true
        | none => s.l2Fill pa (pageHome s pa) false
      s1.reply p pkAtomicResult old)

/-- ATOMIC_RESULT (R477): the old value returns to the lane. -/
def execAtomicResult (p : Packet) (s : State) : Result :=
  .next (match s.remote? p.tag with
    | some _ => flushAcks (s.answered p.tag p.data)
    | none => s)

/-! ### Bulk runs (R481) -/

/-- The bytes of an element of a run: half a byte stands in the low bits of one. -/
def runElem (s : State) (w at_ : Nat) : List Byte :=
  let pa := s.homeOf (at_ / 2)
  if w = 4 then [BitVec.ofNat 8 ((memByte s.mem pa).toNat / (if at_ % 2 = 1 then 16 else 1) % 16)] else memRead s.mem pa (w / 8)

/-- The elements that a bulk request names. -/
def runWords (bs : List Byte) : List Nat := (List.range (bs.length / 8)).map fun i => leAt bs (8 * i) 8

/-- BULK_GET_REQUEST (R481): the elements of a run are read at their home and travel as bulk data. -/
def execBulkGetRequest (p : Packet) (s : State) : Result :=
  .next (s.reply p pkBulkData ((runWords p.data).flatMap (runElem s p.size)))

/-- BULK_DATA (R481): a run's elements are on their way to the window. -/
def execBulkData (p : Packet) (s : State) : Result :=
  .next (match s.remote? p.tag with
    | some r => flushAcks (bulkAnswer (s.dropTag p.tag) r p.data)
    | none => s)

/-! ### Named data (R364, R365, R367, R486) -/

/-- NAMED_INTEREST (R364, R428, R486): an interest of another package's relay, or a prefetch, reaches the rendezvous, or this package's
relay when the route has moved on; a refusal comes back to this package's relay. -/
def execNamedInterest (p : Packet) (s : State) : Result :=
  .next (
    if p.op / 16 = 1 then refuseFace 4 s p.tenant p.name (.relay (.pkgRelay s.self))
    else
    let face : Face := if p.op / 16 = 2 then .prefetch p.tag else .relay (.pkgRelay p.src)
    let holder : Holder := match routeOf s p.tenant (nameSpace p.name) with
      | some (k, d) => if k = s.self then .rendezvous d (rendezvousSlice p.name) else .pkgRelay s.self
      | none => .pkgRelay s.self
    s.push (.interestArrival { holder := holder, tenant := p.tenant, name := p.name, face := face, until_ := s.ticks + p.until_ }))

/-- The number of a publish in another package, as this package keeps it. -/
def farPublish (src seq : Nat) : Nat := seq + 2 ^ 40 * (src + 1)

/-- A tile published from another package reaches its rendezvous (R287, R360): a name that is not new is answered with NDUP. -/
def publishHere (s : State) (p : Packet) : State :=
  match nameDesc s p.tenant (nameSpace p.name), routeOf s p.tenant (nameSpace p.name) with
  | some d, some (_, die) =>
    if isNew s d p.name then publish s d die p.tenant p.name p.data []
    else s.send { Packet.blank with
      dst := p.src, response := true, tenant := p.tenant, op := pkTile + 32, name := p.name, addr := p.addr, consumer := p.consumer }
  | _, _ => s

/-- The publisher of a name that was not new takes NDUP (R287). -/
def refusedPublish (s : State) (p : Packet) : State :=
  match p.consumer with
  | none => s
  | some k =>
    match s.allGangs.find? fun g => BitVec.ofNat 32 g.uid == k.serial with
    | some g => deferNamed s g.uid tcNDUP [BitVec.ofNat 64 p.addr, p.name]
    | none => s

/-- NAMED_TILE (R365, R367, R486): a copy for this package's relay, a publish for its rendezvous, or the answer to one. -/
def execNamedTile (p : Packet) (s : State) : Result :=
  .next (match p.op / 16 with
    | 0 => s.push (.tileForward { holder := .pkgRelay s.self, tenant := p.tenant, name := p.name, pubseq := farPublish p.src p.tag
                                  bytes := p.data, clock := [] })
    | 1 => publishHere s p
    | _ => refusedPublish s p)

/-! ### The fabric sequencer (R380, R381) -/

/-- Void every ticket that an operation here holds and has not used: it asks for a new one (R381; log entry 30). -/
def voidTickets (s : State) : State :=
  let upd (w : Wait) : Wait := if w.cause == .fence then { w with ticket := 0 } else w
  s.mapCores fun k => { k with
    fwWait := k.fwWait.map upd
    gangs := k.gangs.map fun (q : Nat × Gang) => (q.1, { q.2 with waits := q.2.waits.map upd }) }

/-- The mark of an entry of `ticketWaits` that is a request not yet answered. -/
def heldAsk : Nat := 2 ^ 64

/-- Answer the requests that were held while the sequencer failed over. -/
def serveAsks (s : State) : State :=
  let asks := s.ticketWaits.filter fun q => heldAsk ≤ q.1
  let s1 : State := { s with ticketWaits := s.ticketWaits.filter fun q => q.1 < heldAsk }
  asks.foldl (fun t q => giveTicket t q.2 (q.1 - heldAsk)) s1

/-- A package asks for a ticket: the sequencer gives it, or holds the request until it has taken over (R380, R381). -/
def askTicket (s : State) (src tag : Nat) : State :=
  if s.hostPkg = s.self ∧ s.highsOwed = 0 then giveTicket s src tag
  else { s with ticketWaits := s.ticketWaits ++ [(heldAsk + tag, src)] }

/-- The new host resumes after the highest ticket that any live package has performed (R381). -/
def resumeSequencer (s : State) : State :=
  if s.highsOwed = 0 then
    serveAsks { s with nextTicket := s.doneTicket, ticketWaits := s.ticketWaits.filter fun q => heldAsk ≤ q.1 }
  else s

/-- A package's highest performed ticket reaches the new host (R381). -/
def takeHigh (s : State) (src t : Nat) : State :=
  if s.highsOwed.getLsbD src then
    resumeSequencer { s with doneTicket := max s.doneTicket t, highsOwed := s.highsOwed &&& ~~~(BitVec.ofNat 16 (2 ^ src)) }
  else s

/-! ### Kiln entries (R436, R437) -/

/-- A peer's kiln asks for an entry: the answer is one that R436 lets serve the asker. -/
def answerEntry (s : State) (src : Nat) (key : BitVec 256) (tenant launch : Nat) : State :=
  s.sendMgmt src (.entryAnswer launch ((newestEntry s key tenant).bind fun i => s.kiln[i]?))

/-- A peer's kiln has answered for a launch (R437). -/
def takeEntry (s : State) (src launch : Nat) (t : Option Transl) : State :=
  let s1 : State := { s with kilnAsks := mmod 0 s.kilnAsks launch fun m => m &&& ~~~(BitVec.ofNat 16 (2 ^ src)) }
  match t, s1.launch? launch with
  | some e, some l =>
    if l.state == .kilnWait && launchKey l == e.key then
      match newestEntry s1 e.key l.tenant with
      | some _ => serveWaiting s1 e.key
      | none => match installEntry s1 e with | some u => serveWaiting u e.key | none => s1
    else s1
  | _, _ => s1

/-! ### Witness entries (R434) -/

/-- A package's batch is accepted: its commands stand until each is recorded complete. -/
def witnessAccepted (s : State) (src fn queue seq count : Nat) : State :=
  { s with witness := s.witness ++ (List.range count).map fun i => (src, fn, queue, seq, i + 1) }

/-- A package's command is recorded complete. -/
def witnessCompleted (s : State) (src fn queue seq index : Nat) : State :=
  { s with witness := s.witness.filter fun w => w != (src, fn, queue, seq, index) }

/-! ### Management (R452, R486) -/

/-- The package that confirms a suspicion: the lowest-numbered live one, or the next when that is the suspect (R487). -/
def State.confirmer (s : State) (suspect : Nat) : Nat :=
  ((List.range s.npkg).find? fun j => s.live.getLsbD j && j != suspect).getD s.self

/-- A suspicion that this package must confirm is broadcast and takes effect; another package is told of any other (R487). -/
def raiseSuspicion (s : State) (pkg : Nat) : State :=
  let c := s.confirmer pkg
  if !s.live.getLsbD pkg ∨ pkg = s.self then s
  else if c = s.self then
    ((List.range s.npkg).foldl (fun t j => if j ≠ t.self ∧ t.live.getLsbD j then t.sendMgmt j (.lossConfirm pkg) else t) s).push
      (.lossConfirmation pkg)
  else s.sendMgmt c (.suspicion pkg)

/-- MANAGEMENT (R486): what the hub does with each kind of management packet. -/
def execManagement (p : Packet) (s : State) : Result :=
  .next (match p.body with
    | .none => s
    | .entryAsk key tenant launch => answerEntry s p.src key tenant launch
    | .entryAnswer launch t => takeEntry s p.src launch t
    | .ticketAsk tag => askTicket s p.src tag
    | .ticketGive tag t => setTickets s (askedTicket tag) t
    | .ticketRelease t => setTickets s t (freeTicket t)
    | .ticketDone t =>
      if s.highsOwed = 0 then
        releaseTicket { s with doneTicket := max t s.doneTicket, ticketWaits := s.ticketWaits.filter fun q => q.1 != t }
      else { s with doneTicket := max t s.doneTicket }
    | .ticketHighAsk => (voidTickets s).sendMgmt p.src (.ticketHigh s.doneTicket)
    | .ticketHigh t => takeHigh s p.src t
    | .witnessAccept fn queue seq count => witnessAccepted s p.src fn queue seq count
    | .witnessDone fn queue seq index => witnessCompleted s p.src fn queue seq index
    | .heartbeat => { s with lastHeard := mset s.lastHeard p.src s.ticks }
    | .lossNotice pkg => s.push (.lossNotice pkg)
    | .suspicion pkg => raiseSuspicion s pkg
    | .lossConfirm pkg => s.push (.lossConfirmation pkg)
    | .routeChange tenant space entry => setRoute s tenant space entry false
    | .invalidate tenant base len all tag =>
      let v : Invalidation := { tenant := tenant, base := base, len := len, all := all, acks := 0 }
      flushAcks { invalidateHere s v with owedAcks := s.owedAcks ++ [{ pkg := p.src, tag := tag, last := s.nextTag, range := v }] }
    | .invalidateAck tag => takeAck s tag p.src
    | .keyAgree tenant slot key =>
      (s.modKeys { peer := p.src, tenant := tenant, tx := false } fun k => k.put slot key).sendMgmt p.src (.keyAck tenant slot)
    | .keyAck tenant slot =>
      s.modKeys { peer := p.src, tenant := tenant, tx := true } fun k => { k with cur := slot, flits := 0, refreshing := false, held := false }
    | .rebind m => s.push (.rebind m)
    | .windowsClose launch keep =>
      (closeKey s launch keep).send { Packet.blank with dst := p.src, response := true, tenant := p.tenant, op := pkMgmt, body := .windowsClosed launch }
    | .windowsClosed launch =>
      match s.launches.find? fun l => s.launchKey l.uid == launch with
      | some l => windowsClosed s l.uid p.src
      | none => s
    | .windowsDrop launch keys => dropKeys s launch keys
    | .holdsEnd launch => endHolds s launch
    | .svcCall r => acceptRequest s (syscallEvent r.service r) r
    | .lostWork pkg fn queue seq index => s.report 5 0 [pkg, fn, queue, seq, index])

end Sys2Proof.Machine
end

