-- ==== Sys2Proof/Machine/Loss.lean ====
section
/-! DEFINITION. The loss of packages and the failure of units (R381, R432 to R434, R442, R487, R488). -/

namespace Sys2Proof.Machine

/-! ### Watching the peers (R487) -/

/-- HEARTBEAT (R487): a peer to which no link is Up gets a heartbeat through a relay. -/
def execHeartbeat (pkg : Nat) (s : State) : Result :=
  .next (if s.peers.contains pkg && !s.upTo pkg then s.sendMgmt pkg .heartbeat else s)

/-- Whether a peer that has been heard of has been silent for 1 ms (R487; log entry 28). -/
def State.silent (s : State) (pkg : Nat) : Bool :=
  match mfind s.lastHeard pkg with
  | some t => Nat.ble (t + 1000) s.ticks
  | none => false

/-- Suspect a package. -/
def suspect (s : State) (pkg : Nat) : State :=
  if s.peers.contains pkg then raiseSuspicion { s with suspects := s.suspects ||| BitVec.ofNat 16 (2 ^ pkg) } pkg else s

/-- SUSPICION_TIMEOUT (R487): a silent peer is suspected; a package that hears no peer at all stops. -/
def execSuspicionTimeout (pkg : Nat) (s : State) : Result :=
  .next (
    let heard := s.peers.filter fun j => (mfind s.lastHeard j).isSome
    if heard != [] && heard.all s.silent then { s with tripped := true }
    else if s.silent pkg then suspect s pkg else s)

/-- LOSS_NOTICE (R458, R487): a tripping package's notice makes it suspect. -/
def execLossNotice (pkg : Nat) (s : State) : Result := .next (suspect s pkg)

/-! ### After a loss (R434, R488) -/

/-- The sequencer after the loss of a package (R380, R381): when it was the host, every unused ticket is void and the next host
collects the highest performed tickets. -/
def failoverSequencer (s : State) (wasHost : Bool) : State :=
  if wasHost then
    let s1 := voidTickets s
    if s1.hostPkg = s1.self then
      let others : BitVec 16 := s1.peers.foldl (fun m j => m ||| BitVec.ofNat 16 (2 ^ j)) 0
      s1.peers.foldl (fun t j => t.sendMgmt j .ticketHighAsk) (resumeSequencer { s1 with highsOwed := others })
    else s1
  else if s.hostPkg = s.self then releaseTicket s else s

/-- The witness of a lost package reports its unfinished commands to its own host and to every peer (R434). -/
def reportLost (s : State) (pkg : Nat) : State :=
  let mine := s.witness.filter fun w => w.1 == pkg
  let s1 : State := { s with witness := s.witness.filter fun w => w.1 != pkg }
  mine.foldl (fun t w =>
    t.peers.foldl (fun u j => u.sendMgmt j (.lostWork pkg w.2.1 w.2.2.1 w.2.2.2.1 w.2.2.2.2))
      (t.report 5 0 [pkg, w.2.1, w.2.2.1, w.2.2.2.1, w.2.2.2.2])) s1

/-- A package whose witness is lost writes what is unfinished to the next (R434; log entry 34). -/
def renewWitness (s : State) (lost : Bool) : State :=
  if lost && s.witnessPkg.isSome then
    s.journal.foldl (fun t e =>
      ((List.range e.cmds.length).zip e.cmds).foldl (fun u q =>
        if q.2.state == .recorded then u.tellWitness e.fn e.queue e.seq (q.1 + 1) 0 else u)
        (t.tellWitness e.fn e.queue e.seq 0 e.cmds.length)) s
  else s

/-- Requests to a lost package are over: the accesses are tried again and fault, as do walks through its tables (R488). -/
def dropRequests (s : State) (pkg : Nat) : State :=
  let gone := s.remotes.filter fun r => r.pkg == pkg
  let walks := (s.dies.flatMap fun (d : Nat × Die) => d.2.walks.map fun w =>
      Event.pageWalk { core := w.waiters.headD 0, tenant := w.tenant, va := BitVec.ofNat 64 (2 ^ 16 * w.page) })
    ++ (s.tasks.filter fun (q : Nat × JoinRef) => q.2.owed).map fun q => Event.pageWalk { core := 0, tenant := q.2.tenant, va := q.2.addr }
  let back (t : State) (r : Remote) : State :=
    if r.engine && decide (65536 ≤ r.lane) then
      let upd (m : EngCmd) : EngCmd := { m with imm := min m.imm (r.lane - 65536), vals := mdel m.vals (r.lane - 65536) }
      t.modCore r.core fun k => { k with fabricQ := updFirst (fun (m : EngCmd) => m.gang == r.gang) upd k.fabricQ }
    else t
  let s1 := gone.foldl back { s with remotes := s.remotes.filter fun r => r.pkg != pkg }
  let s2 := if gone.any fun r => r.gang == walkerGang then s1.pushAll walks else s1
  flushAcks (gone.foldl (fun t r => reapGang t r.core r.gang) s2)

/-- Nothing waits for a lost package's acknowledgements or answers any more. -/
def dropAnswers (s : State) (pkg : Nat) : State :=
  let bit : BitVec 16 := BitVec.ofNat 16 (2 ^ pkg)
  let tags := (s.awaits.filter fun a => a.acks.getLsbD pkg).map fun a => a.tag
  let s1 : State := { s with
    owedAcks := s.owedAcks.filter fun o => o.pkg != pkg
    kilnAsks := s.kilnAsks.map fun (q : Nat × BitVec 16) => (q.1, q.2 &&& ~~~bit) }
  let s2 := s1.mapCores fun k => { k with inval := k.inval.map fun v => { v with acks := v.acks &&& ~~~bit } }
  let s3 := (s2.launches.filter fun l => l.closing.getLsbD pkg).foldl (fun t l => windowsClosed t l.uid pkg)
    (tags.foldl (fun t tag => takeAck t tag pkg) s2)
  if s3.highsOwed.getLsbD pkg then resumeSequencer { s3 with highsOwed := s3.highsOwed &&& ~~~bit } else s3

/-- LOSS_CONFIRMATION (R487, R488): the package named stops; every other one goes on without it. -/
def execLossConfirmation (pkg : Nat) (s : State) : Result :=
  .next (
    if pkg = s.self then { s with tripped := true }
    else if !s.peers.contains pkg then s
    else
      let wasHost := decide (s.hostPkg = pkg)
      let wasWitness := decide (s.witnessPkg = some pkg)
      let bit : BitVec 16 := BitVec.ofNat 16 (2 ^ pkg)
      let s1 : State := { s with
        live := s.live &&& ~~~bit, suspects := s.suspects &&& ~~~bit, lastHeard := mdel s.lastHeard pkg
        streams := s.streams.filter fun t => t.peer != pkg }
      renewWitness (reportLost (failoverSequencer (dropAnswers (dropRequests s1 pkg) pkg) wasHost) pkg) wasWitness)

/-! ### Failed units (R432, R433) -/

/-- A failed core: it issues nothing more. -/
def Core.dead : Core := { Core.reset with failed := true, halted := true }

/-- Lose several cores. -/
def loseCores (s : State) (class_ : Nat) (cs : List Nat) : State := cs.foldl (fun t c => loseCore t class_ c Core.dead) s

/-- The stack on which a journal copy stands after the loss of stack `k` (R429, R432): where it stood, else the first live stack of a
die that neither failed with it nor holds the other copy (log entry 75). -/
def journalMove (s : State) (k at_ other : Nat) : Nat :=
  if at_ = k then
    ((List.range 16).find? fun j => j / 4 != k / 4 && j / 4 != other / 4 && !s.stackDown.getLsbD j && !(s.die (j / 4)).failed).getD at_
  else at_

/-- A failed stack (R432): every leaf that maps it loses V, its range is invalidated, and a journal copy on it must be rebuilt
(log entry 75). -/
def loseStack (s : State) (k : Nat) : State :=
  let hit := s.tenants.flatMap fun (t : Nat × Tenant) =>
    ((tableTree s.mem 4 0 (s.root t.1) 0).1.filter fun l => pkgOf (ptePa l.pte) == s.self && stackOf (ptePa l.pte) == k).map fun l => (t.1, l)
  let s1 : State := { s with
    stackDown := s.stackDown ||| BitVec.ofNat 16 (2 ^ k)
    journalOk := s.journalOk && k != s.journalAt.1 && k != s.journalAt.2
    journalAt := (journalMove s k s.journalAt.1 s.journalAt.2, journalMove s k s.journalAt.2 s.journalAt.1)
    journal := s.journal.map fun e => { e with copy0 := e.copy0 && k != s.journalAt.1, copy1 := e.copy1 && k != s.journalAt.2 } }
  hit.foldl (fun t q => invalidateFor (t.wrPte q.2.at_ (q.2.pte &&& ~~~1)) q.1 q.2.va q.2.size none none none) s1

/-- The service core that serves a stack's requests (R432): its own, else the first of its die that stands in. -/
def serverOf (s : State) (k : Nat) : Nat := ([k, k ^^^ 1, k ^^^ 2, k ^^^ 3].find? fun j => !s.serviceDown.getLsbD j).getD k

/-- A failed service core (R432, R444): the requests that it had accepted end with the status of a lost one. -/
def loseService (s : State) (k : Nat) : State :=
  let mine := s.requests.filter fun r => r.stk < 16 && serverOf s r.stk == k
  mine.foldl (fun t r => finishRequest t r stLOST []) { s with serviceDown := s.serviceDown ||| BitVec.ofNat 16 (2 ^ k) }

/-- UNIT_FAILURE (R432, R433): each class of unit as the table of R432 gives, with a report to the operator (log entry 76). -/
def execUnitFailure (u : FailUnit) (s : State) : Result :=
  .next (match u with
    | .core c => (loseCores s 0 [c]).report 3 0 [0, c]
    | .cluster c => (loseCores s 1 ((List.range 4).map fun i => 4 * c + i)).report 3 0 [1, c]
    | .die d =>
      let s1 := loseCores s 2 ((List.range 256).map fun i => 256 * d + i)
      let s2 := (List.range 4).foldl (fun t i => loseStack t (4 * d + i)) (s1.modDie d fun x => { x with failed := true })
      s2.report 3 0 [2, d]
    | .stack k => (loseStack s k).report 3 0 [3, k]
    | .service k => (loseService s k).report 3 0 [4, k]
    | .kiln k => ({ s with kilnDown := s.kilnDown ||| BitVec.ofNat 16 (2 ^ k) } : State).report 3 0 [5, k]
    | .link p => linkFailed s p)

end Sys2Proof.Machine
end

