-- ==== Sys2Proof/Machine/Dispatch.lean ====
section
/-! DEFINITION. One arm per instruction and step of the opcode table: its meaning, or its refusal by name. -/

namespace Sys2Proof.Machine

/-- What an instruction or step does to the state. -/
def exec (i : Instr) (s : State) : Host.Outcome State Fault Refusal :=
  match i with
  | .add f => Sys2Proof.Machine.execAdd f s
  | .addI f => Sys2Proof.Machine.execAddI f s
  | .sub f => Sys2Proof.Machine.execSub f s
  | .subI f => Sys2Proof.Machine.execSubI f s
  | .mul f => Sys2Proof.Machine.execMul f s
  | .mulI f => Sys2Proof.Machine.execMulI f s
  | .mulh f => Sys2Proof.Machine.execMulh f s
  | .madd f => Sys2Proof.Machine.execMadd f s
  | .div f => Sys2Proof.Machine.execDiv f s
  | .rem f => Sys2Proof.Machine.execRem f s
  | .abs f => Sys2Proof.Machine.execAbs f s
  | .neg f => Sys2Proof.Machine.execNeg f s
  | .min f => Sys2Proof.Machine.execMin f s
  | .minI f => Sys2Proof.Machine.execMinI f s
  | .max f => Sys2Proof.Machine.execMax f s
  | .maxI f => Sys2Proof.Machine.execMaxI f s
  | .and f => Sys2Proof.Machine.execAnd f s
  | .andI f => Sys2Proof.Machine.execAndI f s
  | .or f => Sys2Proof.Machine.execOr f s
  | .orI f => Sys2Proof.Machine.execOrI f s
  | .xor f => Sys2Proof.Machine.execXor f s
  | .xorI f => Sys2Proof.Machine.execXorI f s
  | .andn f => Sys2Proof.Machine.execAndn f s
  | .not f => Sys2Proof.Machine.execNot f s
  | .shl f => Sys2Proof.Machine.execShl f s
  | .shlI f => Sys2Proof.Machine.execShlI f s
  | .shr f => Sys2Proof.Machine.execShr f s
  | .shrI f => Sys2Proof.Machine.execShrI f s
  | .sar f => Sys2Proof.Machine.execSar f s
  | .sarI f => Sys2Proof.Machine.execSarI f s
  | .rotl f => Sys2Proof.Machine.execRotl f s
  | .rotlI f => Sys2Proof.Machine.execRotlI f s
  | .funnel f => Sys2Proof.Machine.execFunnel f s
  | .bfx f => Sys2Proof.Machine.execBfx f s
  | .bfxI f => Sys2Proof.Machine.execBfxI f s
  | .bfi f => Sys2Proof.Machine.execBfi f s
  | .popc f => Sys2Proof.Machine.execPopc f s
  | .clz f => Sys2Proof.Machine.execClz f s
  | .ctz f => Sys2Proof.Machine.execCtz f s
  | .brev f => Sys2Proof.Machine.execBrev f s
  | .prmt f => Sys2Proof.Machine.execPrmt f s
  | .sel f => Sys2Proof.Machine.execSel f s
  | .mov f => Sys2Proof.Machine.execMov f s
  | .movi f => Sys2Proof.Machine.execMovi f s
  | .lea f => Sys2Proof.Machine.execLea f s
  | .leaI f => Sys2Proof.Machine.execLeaI f s
  | .addsat f => Sys2Proof.Machine.execAddsat f s
  | .subsat f => Sys2Proof.Machine.execSubsat f s
  | .cmp f => Sys2Proof.Machine.execCmp f s
  | .cmpI f => Sys2Proof.Machine.execCmpI f s
  | .fcmp f => Sys2Proof.Machine.execFcmp f s
  | .pand f => Sys2Proof.Machine.execPand f s
  | .por f => Sys2Proof.Machine.execPor f s
  | .pxor f => Sys2Proof.Machine.execPxor f s
  | .pnot f => Sys2Proof.Machine.execPnot f s
  | .pmov f => Sys2Proof.Machine.execPmov f s
  | .psel f => Sys2Proof.Machine.execPsel f s
  | .fadd f => Sys2Proof.Machine.execFadd f s
  | .fsub f => Sys2Proof.Machine.execFsub f s
  | .fmul f => Sys2Proof.Machine.execFmul f s
  | .ffma f => Sys2Proof.Machine.execFfma f s
  | .fmin f => Sys2Proof.Machine.execFmin f s
  | .fmax f => Sys2Proof.Machine.execFmax f s
  | .fdiv f => Sys2Proof.Machine.execFdiv f s
  | .fsqrt f => Sys2Proof.Machine.execFsqrt f s
  | .frcp f => Sys2Proof.Machine.execFrcp f s
  | .frsq f => Sys2Proof.Machine.execFrsq f s
  | .fexp2 f => Sys2Proof.Machine.execFexp2 f s
  | .flog2 f => Sys2Proof.Machine.execFlog2 f s
  | .fsin f => Sys2Proof.Machine.execFsin f s
  | .fcos f => Sys2Proof.Machine.execFcos f s
  | .ftanh f => Sys2Proof.Machine.execFtanh f s
  | .fclass f => Sys2Proof.Machine.execFclass f s
  | .fscale f => Sys2Proof.Machine.execFscale f s
  | .frnd f => Sys2Proof.Machine.execFrnd f s
  | .cvt f => Sys2Proof.Machine.execCvt f s
  | .fcopysign f => Sys2Proof.Machine.execFcopysign f s
  | .faddL f => Sys2Proof.Machine.execFaddL f s
  | .fmulL f => Sys2Proof.Machine.execFmulL f s
  | .dot8 f => Sys2Proof.Machine.execDot8 f s
  | .dot4 f => Sys2Proof.Machine.execDot4 f s
  | .dot2 f => Sys2Proof.Machine.execDot2 f s
  | .pack f => Sys2Proof.Machine.execPack f s
  | .unpack f => Sys2Proof.Machine.execUnpack f s
  | .scl f => Sys2Proof.Machine.execScl f s
  | .qnt f => Sys2Proof.Machine.execQnt f s
  | .qntsr f => Sys2Proof.Machine.execQntsr f s
  | .hist f => Sys2Proof.Machine.execHist f s
  | .hclip f => Sys2Proof.Machine.execHclip f s
  | .ldI f => Sys2Proof.Machine.execLdI f s
  | .ldC f => Sys2Proof.Machine.execLdC f s
  | .stI f => Sys2Proof.Machine.execStI f s
  | .stC f => Sys2Proof.Machine.execStC f s
  | .ldrow f => Sys2Proof.Machine.execLdrow f s
  | .strow f => Sys2Proof.Machine.execStrow f s
  | .rotm f => Sys2Proof.Machine.execRotm f s
  | .pres f => Sys2Proof.Machine.execPres f s
  | .atom f => Sys2Proof.Machine.execAtom f s
  | .cas f => Sys2Proof.Machine.execCas f s
  | .cas128 f => Sys2Proof.Machine.execCas128 f s
  | .fatom f => Sys2Proof.Machine.execFatom f s
  | .fence f => Sys2Proof.Machine.execFence f s
  | .fencex f => Sys2Proof.Machine.execFencex f s
  | .pref f => Sys2Proof.Machine.execPref f s
  | .shw f => Sys2Proof.Machine.execShw f s
  | .ldq f => Sys2Proof.Machine.execLdq f s
  | .stq f => Sys2Proof.Machine.execStq f s
  | .bra f => Sys2Proof.Machine.execBra f s
  | .brx f => Sys2Proof.Machine.execBrx f s
  | .call f => Sys2Proof.Machine.execCall f s
  | .callx f => Sys2Proof.Machine.execCallx f s
  | .ret f => Sys2Proof.Machine.execRet f s
  | .exit f => Sys2Proof.Machine.execExit f s
  | .spawn f => Sys2Proof.Machine.execSpawn f s
  | .fork f => Sys2Proof.Machine.execFork f s
  | .join f => Sys2Proof.Machine.execJoin f s
  | .jenter f => Sys2Proof.Machine.execJenter f s
  | .jquit f => Sys2Proof.Machine.execJquit f s
  | .jwait f => Sys2Proof.Machine.execJwait f s
  | .jread f => Sys2Proof.Machine.execJread f s
  | .jinit f => Sys2Proof.Machine.execJinit f s
  | .jclr f => Sys2Proof.Machine.execJclr f s
  | .bar f => Sys2Proof.Machine.execBar f s
  | .barn f => Sys2Proof.Machine.execBarn f s
  | .syscall f => Sys2Proof.Machine.execSyscall f s
  | .getid f => Sys2Proof.Machine.execGetid f s
  | .nop f => Sys2Proof.Machine.execNop f s
  | .trap f => Sys2Proof.Machine.execTrap f s
  | .bkpt f => Sys2Proof.Machine.execBkpt f s
  | .shfl f => Sys2Proof.Machine.execShfl f s
  | .vote f => Sys2Proof.Machine.execVote f s
  | .ballot f => Sys2Proof.Machine.execBallot f s
  | .greduce f => Sys2Proof.Machine.execGreduce f s
  | .gscan f => Sys2Proof.Machine.execGscan f s
  | .elect f => Sys2Proof.Machine.execElect f s
  | .oclaim f => Sys2Proof.Machine.execOclaim f s
  | .orelease f => Sys2Proof.Machine.execOrelease f s
  | .oload f => Sys2Proof.Machine.execOload f s
  | .mma f => Sys2Proof.Machine.execMma f s
  | .mmas f => Sys2Proof.Machine.execMmas f s
  | .mmag f => Sys2Proof.Machine.execMmag f s
  | .accrd f => Sys2Proof.Machine.execAccrd f s
  | .accwr f => Sys2Proof.Machine.execAccwr f s
  | .accz f => Sys2Proof.Machine.execAccz f s
  | .actlut f => Sys2Proof.Machine.execActlut f s
  | .seqrun f => Sys2Proof.Machine.execSeqrun f s
  | .copy f => Sys2Proof.Machine.execCopy f s
  | .copyg f => Sys2Proof.Machine.execCopyg f s
  | .nreg f => Sys2Proof.Machine.execNreg f s
  | .nwant f => Sys2Proof.Machine.execNwant f s
  | .npub f => Sys2Proof.Machine.execNpub f s
  | .ndrop f => Sys2Proof.Machine.execNdrop f s
  | .nwait f => Sys2Proof.Machine.execNwait f s
  | .bulk f => Sys2Proof.Machine.execBulk f s
  | .armt f => Sys2Proof.Machine.execArmt f s
  | .arwait f => Sys2Proof.Machine.execArwait f s
  | .yoke f => Sys2Proof.Machine.execYoke f s
  | .unyoke f => Sys2Proof.Machine.execUnyoke f s
  | .migrate f => Sys2Proof.Machine.execMigrate f s
  | .cbar f => Sys2Proof.Machine.execCbar f s
  | .srd f => Sys2Proof.Machine.execSrd f s
  | .swr f => Sys2Proof.Machine.execSwr f s
  | .eret f => Sys2Proof.Machine.execEret f s
  | .tlbinv f => Sys2Proof.Machine.execTlbinv f s
  | .ctxsv f => Sys2Proof.Machine.execCtxsv f s
  | .ctxld f => Sys2Proof.Machine.execCtxld f s
  | .eclr f => Sys2Proof.Machine.execEclr f s
  | .halt f => Sys2Proof.Machine.execHalt f s
  | .wfi f => Sys2Proof.Machine.execWfi f s
  | .kcall f => Sys2Proof.Machine.execKcall f s
  | .longWord w => Sys2Proof.Machine.execLongWord w s
  | .regionCommit at_ => Sys2Proof.Machine.execRegionCommit at_ s
  | .interlockedResult at_ => Sys2Proof.Machine.execInterlockedResult at_ s
  | .globalAccessComplete it => Sys2Proof.Machine.execGlobalAccessComplete it s
  | .pageResident r => Sys2Proof.Machine.execPageResident r s
  | .pageWalk r => Sys2Proof.Machine.execPageWalk r s
  | .walkRetry r => Sys2Proof.Machine.execWalkRetry r s
  | .tlbinvComplete core => Sys2Proof.Machine.execTlbinvComplete core s
  | .fillComplete it => Sys2Proof.Machine.execFillComplete it s
  | .pendingRecordWrite at_ => Sys2Proof.Machine.execPendingRecordWrite at_ s
  | .deferredFaultTake at_ => Sys2Proof.Machine.execDeferredFaultTake at_ s
  | .oloadCmd at_ => Sys2Proof.Machine.execOloadCmd at_ s
  | .productStep at_ => Sys2Proof.Machine.execProductStep at_ s
  | .accrdCmd at_ => Sys2Proof.Machine.execAccrdCmd at_ s
  | .accwrCmd at_ => Sys2Proof.Machine.execAccwrCmd at_ s
  | .acczCmd at_ => Sys2Proof.Machine.execAcczCmd at_ s
  | .actlutCmd at_ => Sys2Proof.Machine.execActlutCmd at_ s
  | .oreleaseCmd at_ => Sys2Proof.Machine.execOreleaseCmd at_ s
  | .oclaimGrant it => Sys2Proof.Machine.execOclaimGrant it s
  | .sequencerRun at_ => Sys2Proof.Machine.execSequencerRun at_ s
  | .copyCmd at_ => Sys2Proof.Machine.execCopyCmd at_ s
  | .copygCmd at_ => Sys2Proof.Machine.execCopygCmd at_ s
  | .nregCmd at_ => Sys2Proof.Machine.execNregCmd at_ s
  | .nwantCmd at_ => Sys2Proof.Machine.execNwantCmd at_ s
  | .npubCmd at_ => Sys2Proof.Machine.execNpubCmd at_ s
  | .ndropCmd at_ => Sys2Proof.Machine.execNdropCmd at_ s
  | .bulkGet at_ => Sys2Proof.Machine.execBulkGet at_ s
  | .bulkPut at_ => Sys2Proof.Machine.execBulkPut at_ s
  | .bulkUnitArrival it => Sys2Proof.Machine.execBulkUnitArrival it s
  | .ldqWake it => Sys2Proof.Machine.execLdqWake it s
  | .stqWake it => Sys2Proof.Machine.execStqWake it s
  | .nwaitWake it => Sys2Proof.Machine.execNwaitWake it s
  | .arwaitWake it => Sys2Proof.Machine.execArwaitWake it s
  | .joinWake it => Sys2Proof.Machine.execJoinWake it s
  | .fenceComplete it => Sys2Proof.Machine.execFenceComplete it s
  | .wfiWake core => Sys2Proof.Machine.execWfiWake core s
  | .namedArrival m => Sys2Proof.Machine.execNamedArrival m s
  | .interestExpiry it => Sys2Proof.Machine.execInterestExpiry it s
  | .interestArrival m => Sys2Proof.Machine.execInterestArrival m s
  | .interestResend it => Sys2Proof.Machine.execInterestResend it s
  | .tileForward m => Sys2Proof.Machine.execTileForward m s
  | .faceDrop r => Sys2Proof.Machine.execFaceDrop r s
  | .rebind m => Sys2Proof.Machine.execRebind m s
  | .fatomContribution m => Sys2Proof.Machine.execFatomContribution m s
  | .binTimeout it => Sys2Proof.Machine.execBinTimeout it s
  | .taskTake core => Sys2Proof.Machine.execTaskTake core s
  | .migrationArrival index => Sys2Proof.Machine.execMigrationArrival index s
  | .yokeFormation cluster key => Sys2Proof.Machine.execYokeFormation cluster key s
  | .yokeTimeout at_ => Sys2Proof.Machine.execYokeTimeout at_ s
  | .sliceEnd core => Sys2Proof.Machine.execSliceEnd core s
  | .yieldOverrun at_ => Sys2Proof.Machine.execYieldOverrun at_ s
  | .energyInterval core => Sys2Proof.Machine.execEnergyInterval core s
  | .saveComplete it => Sys2Proof.Machine.execSaveComplete it s
  | .loadComplete it => Sys2Proof.Machine.execLoadComplete it s
  | .mboxLoad m => Sys2Proof.Machine.execMboxLoad m s
  | .mboxSave m => Sys2Proof.Machine.execMboxSave m s
  | .syscallReply r => Sys2Proof.Machine.execSyscallReply r s
  | .pageMap r => Sys2Proof.Machine.execPageMap r s
  | .pageUnmap r => Sys2Proof.Machine.execPageUnmap r s
  | .pageAttr r => Sys2Proof.Machine.execPageAttr r s
  | .nspaceSet r => Sys2Proof.Machine.execNspaceSet r s
  | .sampleCfg r => Sys2Proof.Machine.execSampleCfg r s
  | .failedQuery r => Sys2Proof.Machine.execFailedQuery r s
  | .cacheDrop r => Sys2Proof.Machine.execCacheDrop r s
  | .kilnCfg r => Sys2Proof.Machine.execKilnCfg r s
  | .sketchRead r => Sys2Proof.Machine.execSketchRead r s
  | .measureRead r => Sys2Proof.Machine.execMeasureRead r s
  | .keyRefresh r => Sys2Proof.Machine.execKeyRefresh r s
  | .coreReset r => Sys2Proof.Machine.execCoreReset r s
  | .powerCap r => Sys2Proof.Machine.execPowerCap r s
  | .kick k => Sys2Proof.Machine.execKick k s
  | .descriptorReread q => Sys2Proof.Machine.execDescriptorReread q s
  | .functionReset fn => Sys2Proof.Machine.execFunctionReset fn s
  | .batchBegin r => Sys2Proof.Machine.execBatchBegin r s
  | .batchCommit r => Sys2Proof.Machine.execBatchCommit r s
  | .batchAccept q => Sys2Proof.Machine.execBatchAccept q s
  | .jobOpen c => Sys2Proof.Machine.execJobOpen c s
  | .jobClose c => Sys2Proof.Machine.execJobClose c s
  | .checkpoint c => Sys2Proof.Machine.execCheckpoint c s
  | .imageLoad c => Sys2Proof.Machine.execImageLoad c s
  | .imageDrop c => Sys2Proof.Machine.execImageDrop c s
  | .launch c => Sys2Proof.Machine.execLaunch c s
  | .graphCreate c => Sys2Proof.Machine.execGraphCreate c s
  | .graphReplay c => Sys2Proof.Machine.execGraphReplay c s
  | .graphDrop c => Sys2Proof.Machine.execGraphDrop c s
  | .cancel c => Sys2Proof.Machine.execCancel c s
  | .pageMigrate c => Sys2Proof.Machine.execPageMigrate c s
  | .hcopy c => Sys2Proof.Machine.execHcopy c s
  | .pageMigrateComplete c => Sys2Proof.Machine.execPageMigrateComplete c s
  | .launchStart launch => Sys2Proof.Machine.execLaunchStart launch s
  | .blockPlace launch => Sys2Proof.Machine.execBlockPlace launch s
  | .completionRecordWrite q => Sys2Proof.Machine.execCompletionRecordWrite q s
  | .dispatchQuantum => Sys2Proof.Machine.execDispatchQuantum s
  | .bisqueComplete t => Sys2Proof.Machine.execBisqueComplete t s
  | .glazeComplete t => Sys2Proof.Machine.execGlazeComplete t s
  | .kilnTranslateTarget it => Sys2Proof.Machine.execKilnTranslateTarget it s
  | .sketchDecay => Sys2Proof.Machine.execSketchDecay s
  | .errorCountReport => Sys2Proof.Machine.execErrorCountReport s
  | .refreshInterval r => Sys2Proof.Machine.execRefreshInterval r s
  | .patrolScrub r => Sys2Proof.Machine.execPatrolScrub r s
  | .unitFailure u => Sys2Proof.Machine.execUnitFailure u s
  | .boot stages => Sys2Proof.Machine.execBoot stages s
  | .throttleWindow r => Sys2Proof.Machine.execThrottleWindow r s
  | .thermalTrip => Sys2Proof.Machine.execThermalTrip s
  | .spdmGetVersion m => Sys2Proof.Machine.execSpdmGetVersion m s
  | .spdmGetCapabilities m => Sys2Proof.Machine.execSpdmGetCapabilities m s
  | .spdmNegotiateAlgorithms m => Sys2Proof.Machine.execSpdmNegotiateAlgorithms m s
  | .spdmGetDigests m => Sys2Proof.Machine.execSpdmGetDigests m s
  | .spdmGetCertificate m => Sys2Proof.Machine.execSpdmGetCertificate m s
  | .spdmChallenge m => Sys2Proof.Machine.execSpdmChallenge m s
  | .spdmGetMeasurements m => Sys2Proof.Machine.execSpdmGetMeasurements m s
  | .spdmKeyExchange m => Sys2Proof.Machine.execSpdmKeyExchange m s
  | .spdmFinish m => Sys2Proof.Machine.execSpdmFinish m s
  | .spdmKeyUpdate m => Sys2Proof.Machine.execSpdmKeyUpdate m s
  | .spdmEndSession m => Sys2Proof.Machine.execSpdmEndSession m s
  | .keyProg m => Sys2Proof.Machine.execKeyProg m s
  | .kSetGo m => Sys2Proof.Machine.execKSetGo m s
  | .kSetStop m => Sys2Proof.Machine.execKSetStop m s
  | .ideIntegrityFailure m => Sys2Proof.Machine.execIdeIntegrityFailure m s
  | .oldKeySlotExpiry r => Sys2Proof.Machine.execOldKeySlotExpiry r s
  | .keyRefreshRequest r => Sys2Proof.Machine.execKeyRefreshRequest r s
  | .groupReceive g => Sys2Proof.Machine.execGroupReceive g s
  | .idleGroup port => Sys2Proof.Machine.execIdleGroup port s
  | .replayLimit port => Sys2Proof.Machine.execReplayLimit port s
  | .linkHeaderTimeout port => Sys2Proof.Machine.execLinkHeaderTimeout port s
  | .linkTraining m => Sys2Proof.Machine.execLinkTraining m s
  | .readRequest p => Sys2Proof.Machine.execReadRequest p s
  | .readData p => Sys2Proof.Machine.execReadData p s
  | .write p => Sys2Proof.Machine.execWrite p s
  | .writeAck p => Sys2Proof.Machine.execWriteAck p s
  | .atomicRequest p => Sys2Proof.Machine.execAtomicRequest p s
  | .atomicResult p => Sys2Proof.Machine.execAtomicResult p s
  | .bulkGetRequest p => Sys2Proof.Machine.execBulkGetRequest p s
  | .bulkData p => Sys2Proof.Machine.execBulkData p s
  | .namedInterest p => Sys2Proof.Machine.execNamedInterest p s
  | .namedTile p => Sys2Proof.Machine.execNamedTile p s
  | .endToEndAck p => Sys2Proof.Machine.execEndToEndAck p s
  | .management p => Sys2Proof.Machine.execManagement p s
  | .endToEndResend r => Sys2Proof.Machine.execEndToEndResend r s
  | .heartbeat pkg => Sys2Proof.Machine.execHeartbeat pkg s
  | .suspicionTimeout pkg => Sys2Proof.Machine.execSuspicionTimeout pkg s
  | .lossNotice pkg => Sys2Proof.Machine.execLossNotice pkg s
  | .lossConfirmation pkg => Sys2Proof.Machine.execLossConfirmation pkg s
  | .ticketRequest it => Sys2Proof.Machine.execTicketRequest it s
  | .managementQueueRequest r => Sys2Proof.Machine.execManagementQueueRequest r s
  | .featuresOk m => Sys2Proof.Machine.execFeaturesOk m s
  | .driverOk fn => Sys2Proof.Machine.execDriverOk fn s
  | .hubRecovery => Sys2Proof.Machine.execHubRecovery s
  | .journalRebuild => Sys2Proof.Machine.execJournalRebuild s
  | .trainingTimeout port => Sys2Proof.Machine.execTrainingTimeout port s
  | .flitLimitHold r => Sys2Proof.Machine.execFlitLimitHold r s

end Sys2Proof.Machine
end

