-- ==== Sys2Proof/Machine/Happen.lean ====
section
/-! DEFINITION. What an event does: the meaning of the step with its name. -/

namespace Sys2Proof.Machine

/-- Run an event. -/
def runEvent (e : Event) (s : State) : Result :=
  match e with
  | .regionCommit at_ => execRegionCommit at_ s
  | .interlockedResult at_ => execInterlockedResult at_ s
  | .globalAccessComplete it => execGlobalAccessComplete it s
  | .pageResident r => execPageResident r s
  | .pageWalk r => execPageWalk r s
  | .walkRetry r => execWalkRetry r s
  | .tlbinvComplete core => execTlbinvComplete core s
  | .fillComplete it => execFillComplete it s
  | .pendingRecordWrite at_ => execPendingRecordWrite at_ s
  | .deferredFaultTake at_ => execDeferredFaultTake at_ s
  | .oloadCmd at_ => execOloadCmd at_ s
  | .productStep at_ => execProductStep at_ s
  | .accrdCmd at_ => execAccrdCmd at_ s
  | .accwrCmd at_ => execAccwrCmd at_ s
  | .acczCmd at_ => execAcczCmd at_ s
  | .actlutCmd at_ => execActlutCmd at_ s
  | .oreleaseCmd at_ => execOreleaseCmd at_ s
  | .oclaimGrant it => execOclaimGrant it s
  | .sequencerRun at_ => execSequencerRun at_ s
  | .copyCmd at_ => execCopyCmd at_ s
  | .copygCmd at_ => execCopygCmd at_ s
  | .nregCmd at_ => execNregCmd at_ s
  | .nwantCmd at_ => execNwantCmd at_ s
  | .npubCmd at_ => execNpubCmd at_ s
  | .ndropCmd at_ => execNdropCmd at_ s
  | .bulkGet at_ => execBulkGet at_ s
  | .bulkPut at_ => execBulkPut at_ s
  | .bulkUnitArrival it => execBulkUnitArrival it s
  | .ldqWake it => execLdqWake it s
  | .stqWake it => execStqWake it s
  | .nwaitWake it => execNwaitWake it s
  | .arwaitWake it => execArwaitWake it s
  | .joinWake it => execJoinWake it s
  | .fenceComplete it => execFenceComplete it s
  | .wfiWake core => execWfiWake core s
  | .namedArrival m => execNamedArrival m s
  | .interestExpiry it => execInterestExpiry it s
  | .interestArrival m => execInterestArrival m s
  | .interestResend it => execInterestResend it s
  | .tileForward m => execTileForward m s
  | .faceDrop r => execFaceDrop r s
  | .rebind m => execRebind m s
  | .fatomContribution m => execFatomContribution m s
  | .binTimeout it => execBinTimeout it s
  | .taskTake core => execTaskTake core s
  | .migrationArrival index => execMigrationArrival index s
  | .yokeFormation cluster key => execYokeFormation cluster key s
  | .yokeTimeout at_ => execYokeTimeout at_ s
  | .sliceEnd core => execSliceEnd core s
  | .yieldOverrun at_ => execYieldOverrun at_ s
  | .energyInterval core => execEnergyInterval core s
  | .saveComplete it => execSaveComplete it s
  | .loadComplete it => execLoadComplete it s
  | .mboxLoad m => execMboxLoad m s
  | .mboxSave m => execMboxSave m s
  | .syscallReply r => execSyscallReply r s
  | .pageMap r => execPageMap r s
  | .pageUnmap r => execPageUnmap r s
  | .pageAttr r => execPageAttr r s
  | .nspaceSet r => execNspaceSet r s
  | .sampleCfg r => execSampleCfg r s
  | .failedQuery r => execFailedQuery r s
  | .cacheDrop r => execCacheDrop r s
  | .kilnCfg r => execKilnCfg r s
  | .sketchRead r => execSketchRead r s
  | .measureRead r => execMeasureRead r s
  | .keyRefresh r => execKeyRefresh r s
  | .coreReset r => execCoreReset r s
  | .powerCap r => execPowerCap r s
  | .kick k => execKick k s
  | .descriptorReread q => execDescriptorReread q s
  | .functionReset fn => execFunctionReset fn s
  | .batchBegin r => execBatchBegin r s
  | .batchCommit r => execBatchCommit r s
  | .batchAccept q => execBatchAccept q s
  | .jobOpen c => execJobOpen c s
  | .jobClose c => execJobClose c s
  | .checkpoint c => execCheckpoint c s
  | .imageLoad c => execImageLoad c s
  | .imageDrop c => execImageDrop c s
  | .launch c => execLaunch c s
  | .graphCreate c => execGraphCreate c s
  | .graphReplay c => execGraphReplay c s
  | .graphDrop c => execGraphDrop c s
  | .cancel c => execCancel c s
  | .pageMigrate c => execPageMigrate c s
  | .hcopy c => execHcopy c s
  | .pageMigrateComplete c => execPageMigrateComplete c s
  | .launchStart launch => execLaunchStart launch s
  | .blockPlace launch => execBlockPlace launch s
  | .completionRecordWrite q => execCompletionRecordWrite q s
  | .dispatchQuantum => execDispatchQuantum s
  | .bisqueComplete t => execBisqueComplete t s
  | .glazeComplete t => execGlazeComplete t s
  | .kilnTranslateTarget it => execKilnTranslateTarget it s
  | .sketchDecay => execSketchDecay s
  | .errorCountReport => execErrorCountReport s
  | .refreshInterval r => execRefreshInterval r s
  | .patrolScrub r => execPatrolScrub r s
  | .unitFailure u => execUnitFailure u s
  | .boot stages => execBoot stages s
  | .throttleWindow r => execThrottleWindow r s
  | .thermalTrip => execThermalTrip s
  | .spdmGetVersion m => execSpdmGetVersion m s
  | .spdmGetCapabilities m => execSpdmGetCapabilities m s
  | .spdmNegotiateAlgorithms m => execSpdmNegotiateAlgorithms m s
  | .spdmGetDigests m => execSpdmGetDigests m s
  | .spdmGetCertificate m => execSpdmGetCertificate m s
  | .spdmChallenge m => execSpdmChallenge m s
  | .spdmGetMeasurements m => execSpdmGetMeasurements m s
  | .spdmKeyExchange m => execSpdmKeyExchange m s
  | .spdmFinish m => execSpdmFinish m s
  | .spdmKeyUpdate m => execSpdmKeyUpdate m s
  | .spdmEndSession m => execSpdmEndSession m s
  | .keyProg m => execKeyProg m s
  | .kSetGo m => execKSetGo m s
  | .kSetStop m => execKSetStop m s
  | .ideIntegrityFailure m => execIdeIntegrityFailure m s
  | .oldKeySlotExpiry r => execOldKeySlotExpiry r s
  | .keyRefreshRequest r => execKeyRefreshRequest r s
  | .groupReceive g => execGroupReceive g s
  | .idleGroup port => execIdleGroup port s
  | .replayLimit port => execReplayLimit port s
  | .linkHeaderTimeout port => execLinkHeaderTimeout port s
  | .linkTraining m => execLinkTraining m s
  | .readRequest p => execReadRequest p s
  | .readData p => execReadData p s
  | .write p => execWrite p s
  | .writeAck p => execWriteAck p s
  | .atomicRequest p => execAtomicRequest p s
  | .atomicResult p => execAtomicResult p s
  | .bulkGetRequest p => execBulkGetRequest p s
  | .bulkData p => execBulkData p s
  | .namedInterest p => execNamedInterest p s
  | .namedTile p => execNamedTile p s
  | .endToEndAck p => execEndToEndAck p s
  | .management p => execManagement p s
  | .endToEndResend r => execEndToEndResend r s
  | .heartbeat pkg => execHeartbeat pkg s
  | .suspicionTimeout pkg => execSuspicionTimeout pkg s
  | .lossNotice pkg => execLossNotice pkg s
  | .lossConfirmation pkg => execLossConfirmation pkg s
  | .ticketRequest it => execTicketRequest it s
  | .managementQueueRequest r => execManagementQueueRequest r s
  | .featuresOk m => execFeaturesOk m s
  | .driverOk fn => execDriverOk fn s
  | .hubRecovery => execHubRecovery s
  | .journalRebuild => execJournalRebuild s
  | .trainingTimeout port => execTrainingTimeout port s
  | .flitLimitHold r => execFlitLimitHold r s

end Sys2Proof.Machine
end

