-- ==== Sys2Proof/Machine/Due.lean ====
section
/-! DEFINITION. The internal events that are due: what in the state has come to its turn, on a core, its cluster and die, and in the
hub (log entry 4). -/

namespace Sys2Proof.Machine

/-! ### Parked instructions (R91, R187, R200) -/

/-- The event that issues a parked instruction again, and the state that it gives. -/
def retryWait (s : State) (it : AtItem) (w : Wait) : Option (Event × State) :=
  match w.cause with
  | .l2miss => some (.globalAccessComplete it, wake s it true znv)
  | .tlb | .page | .presence => some (.globalAccessComplete it, wake s it false znv)
  | .fetch => if fetchReady s it w then some (.globalAccessComplete it, wakeFetch s it w) else none
  | .qempty => some (.ldqWake it, wake s it false znv)
  | .qfull => some (.stqWake it, wake s it false znv)
  | .named => some (.nwaitWake it, wake s it false znv)
  | .arrive => some (.arwaitWake it, wake s it false znv)
  | .join => some (.joinWake it, wake s it false znv)
  | .fence => some (.fenceComplete it, wake s it false znv)
  | _ => none

/-- Whether lanes of a parked instruction are held by the same cause at the same place in another state. -/
def stillHeld (w : Wait) (it : AtItem) (t : State) : Bool :=
  match t.gang? it.core it.gang with
  | some g => g.waits.any fun x => x.mask == w.mask && x.pc == w.pc && x.cause == w.cause && x.va == w.va
  | none => false

/-- Whether a retried JOIN only asks another package for its word again (R161): it does so every 64 ck. -/
def polls (s : State) (w : Wait) (it : AtItem) (t : State) : Bool :=
  w.cause == .join && decide (s.ck < w.since + 64) && match t.gang? it.core it.gang with
    | some g => g.waits.any fun x => x.pc == w.pc && x.mask &&& w.mask != 0
    | none => false

/-- The event of a parked instruction whose cause is released: issued again, it would not only park as before. -/
def waitDue (s : State) (it : AtItem) (w : Wait) : Option Event :=
  if w.cause == .fence && w.ticket != 0 then
    (if 2 ^ 65 ≤ w.ticket then some (.fenceComplete it) else none)
  else if w.cause == .fence && fabricSC w.instr then
    (if s.highsOwed = 0 then some (.ticketRequest it) else none)
  else
    match retryWait s it w with
    | some (e, t) => if w.cause == .l2miss && w.ticket != 0 then some e else if stillHeld w it t || polls s w it t then none else some e
    | none => none

/-- The event of the first of a gang's parked instructions that may go on. -/
def waitsDue (s : State) (c slot : Nat) (ws : List Wait) : Option Event :=
  ((List.range ws.length).zip ws).findSome? fun q => waitDue s { core := c, gang := slot, item := q.1 } q.2

/-! ### Engines (R245, R263, R277, R481) -/

/-- The walk that an engine's address needs, unless a walk waits for another package (R355). -/
def walkDue (s : State) (c tenant : Nat) (va : W64) : Option Event :=
  if s.remotes.any fun r => r.gang == walkerGang && r.core == c then none
  else some (.pageWalk { core := c, tenant := tenant, va := va })

/-- The event of a matrix command (R245). -/
def matrixEvent (at_ : AtGang) (k : CmdKind) : Option Event :=
  match k with
  | .oload => some (.oloadCmd at_)
  | .mma | .mmas | .mmag => some (.productStep at_)
  | .accrd => some (.accrdCmd at_)
  | .accwr => some (.accwrCmd at_)
  | .accz => some (.acczCmd at_)
  | .actlut => some (.actlutCmd at_)
  | .orelease => some (.oreleaseCmd at_)
  | _ => none

/-- The event of a named-data command. -/
def namedEvent (at_ : AtGang) (k : CmdKind) : Option Event :=
  match k with
  | .nreg => some (.nregCmd at_)
  | .nwant => some (.nwantCmd at_)
  | .npub => some (.npubCmd at_)
  | .ndrop => some (.ndropCmd at_)
  | _ => none

/-- What the matrix engine can do with a gang's head. -/
def matrixDue (s : State) (c slot : Nat) (g : Gang) : Option Event :=
  let at_ : AtGang := { core := c, gang := slot }
  match matrixReady s c slot with
  | some m => matrixEvent at_ m.kind
  | none =>
    match seqHead s c slot with
    | some (m, q) =>
      match seqStep s c slot m q with
      | .wait _ => none
      | .walk va => walkDue s c g.tenant va
      | _ => some (.sequencerRun at_)
    | none => none

/-- What the copy engine can do with a gang's head. -/
def copyDue (s : State) (c slot : Nat) (g : Gang) : Option Event :=
  match copyHead s c slot with
  | none => none
  | some m =>
    match copyStep s c slot m with
    | .wait _ => none
    | .walk va => walkDue s c g.tenant va
    | _ => some (if m.kind == .copy then .copyCmd { core := c, gang := slot } else .copygCmd { core := c, gang := slot })

/-- What the fabric engine can do with its head when a gang holds it. -/
def bulkDue (s : State) (c slot : Nat) (g : Gang) : Option Event :=
  match fabricHead s c slot with
  | none => none
  | some m =>
    let run : Event := if m.put then .bulkPut { core := c, gang := slot } else .bulkGet { core := c, gang := slot }
    match bulkStep s c slot m with
    | .wait _ => none
    | .walk va => walkDue s c g.tenant va
    | .fault _ _ => if bulkPending s c slot then none else some run
    | _ => some run

/-! ### A gang (R235, R247, R284, R299, R305) -/

/-- The interest slot of a gang whose lifetime has ended. -/
def expiryDue (s : State) (c slot : Nat) (g : Gang) : Option Event :=
  g.interests.findSome? fun (q : Nat × Interest) =>
    if q.2.state == .pending && decide (q.2.until_ ≤ s.ticks) then some (.interestExpiry { core := c, gang := slot, item := q.1 }) else none

/-- The interest slot of a gang that a holder has refused and that is to be sent again (R364). -/
def resendDueAt (s : State) (c slot : Nat) (g : Gang) : Option Event :=
  g.interests.findSome? fun (q : Nat × Interest) =>
    match q.2.refused with
    | some t => if q.2.state == .pending && decide (t ≤ s.ticks) then some (.interestResend { core := c, gang := slot, item := q.1 }) else none
    | none => none

/-- Whether a record of a gang can be written now (R305). -/
def recordDue (s : State) (c : Nat) (g : Gang) : Bool :=
  recordWaits g && match (s.core c).slotFor g.ctx with
    | some n => (freeEntry ((s.core c).slotOf n).trapvalid).isSome
    | none => false

/-- What is due for a gang. -/
def gangDue (s : State) (c slot : Nat) (g : Gang) : Option Event :=
  let at_ : AtGang := { core := c, gang := slot }
  let live := residentOn s c g.ctx
  let pick (b : Bool) (e : Event) : Option Event := if b then some e else none
  (pick (live && commitReady s c slot g) (.regionCommit at_)).or <|
  (pick (live && deferredReady g) (.deferredFaultTake at_)).or <|
  (pick (recordDue s c g) (.pendingRecordWrite at_)).or <|
  (pick (g.pend.any fun p => p.interlocked) (.interlockedResult at_)).or <|
  (expiryDue s c slot g).or <|
  (resendDueAt s c slot g).or <|
  (pick (live && overrun g) (.yieldOverrun at_)).or <|
  (pick (live && (g.lanesWhere fun f => f.status == .parked .kiln) != 0) (.kilnTranslateTarget { core := c, gang := slot, item := 0 })).or <|
  (matrixDue s c slot g).or <|
  (copyDue s c slot g).or <|
  (bulkDue s c slot g).or <|
  if mayWake s c slot then waitsDue s c slot g.waits else none

/-! ### A core (R249, R269, R297, R303, R309, R312, R316, R424, R481) -/

/-- A save or load that has ended (R309, R312). -/
def moveDue (s : State) (c : Nat) : Option Event :=
  (s.core c).moves.findSome? fun m =>
    if s.ck < m.until_ then none
    else if m.saving then
      (if saveBlocked s c ((s.core c).slotOf m.slot).ctx.toNat then none else some (.saveComplete { core := c, item := m.slot }))
    else some (.loadComplete { core := c, item := m.slot })

/-- A bin of a tenant that launches or closes (R424). -/
def binsDue (s : State) (c tenant : Nat) : Option Event :=
  let bs := (s.core c).bins
  ((List.range bs.length).zip bs).findSome? fun q =>
    let launch := (q.2.fibres.head?.map fun f => f.launch).getD 0
    if (s.ctx q.2.ctx).tenant == tenant && binDue s q.2
        && (!q.2.closed || (residentOn s c q.2.ctx && hasRoom s c 1 (launchResident s launch))) then
      some (.binTimeout { core := c, item := q.1 })
    else none

/-- What the named-data engine can do with its head. -/
def namedDue (s : State) (c : Nat) : Option Event :=
  (namedFirst s c).bind fun m => (namedReady s c m.gang).bind fun x => namedEvent { core := c, gang := x.gang } x.kind

/-- What is due on a core besides its gangs. -/
def coreDue (s : State) (c : Nat) : Option Event :=
  let k := s.core c
  let pick (b : Bool) (e : Event) : Option Event := if b then some e else none
  let fill := (k.fills.find? fun f => f.done).map fun f => Event.fillComplete { core := c, item := f.row }
  let claim := ((List.range k.blocks.length).zip k.blocks).findSome? fun q =>
    if claimReady s c q.2 then some (Event.oclaimGrant { core := c, item := q.1 }) else none
  fill.or <| claim.or <| (namedDue s c).or <|
  (pick (k.units != []) (.bulkUnitArrival { core := c, item := 0 })).or <|
  (pick (invalDone k) (.tlbinvComplete c)).or <|
  (pick (wfiReady k) (.wfiWake c)).or <|
  (match k.fwWait with
    | some w => waitDue s { core := c, gang := fwSlot, item := 0 } w
    | none => none).or <|
  ((k.retries.find? fun (q : WalkReq × Nat) => decide (q.2 ≤ s.ck)).map fun (q : WalkReq × Nat) => Event.walkRetry q.1).or <|
  (moveDue s c).or <|
  (pick ((k.slot0.occupied || k.slot1.occupied) && k.rem == 0) (.sliceEnd c)).or <|
  pick (nextTask s c).isSome (.taskTake c)

/-! ### The cluster, the die and the fen (R333, R339, R367, R425) -/

/-- A yoke that can form, or a YOKE that has waited too long (R333). -/
def clusterDue (s : State) (cl : Nat) : Option Event :=
  (s.cluster cl).waiting.findSome? fun w =>
    if (yokeReady s cl w.2.2.1).isSome then some (.yokeFormation cl w.2.2.1)
    else if w.2.2.2 + 65536 ≤ s.ck then some (.yokeTimeout { core := w.1, gang := w.2.1 })
    else none

/-- A gang of a tenant's pool fibres that can form (R425). -/
def poolDue (s : State) (die tenant : Nat) : Option Event :=
  (List.range (s.die die).pool.length).findSome? fun i =>
    let ps := poolGroup (s.die die) i
    match ps with
    | [] => none
    | p :: _ =>
      match p.fibre with
      | none => none
      | some f =>
        if (s.ctx p.ctx).tenant == tenant && (32 ≤ ps.length || ps.any fun q => decide (q.opened + (s.ctx p.ctx).bintime ≤ s.ck))
            && (poolCore s die ps p.ctx f.home (launchResident s f.launch)).isSome then
          some (.binTimeout { core := die * 256, item := poolItem + i })
        else none

/-- A migration that has arrived (R339). -/
def migrationDue (s : State) : Option Event :=
  ((List.range s.migrations.length).zip s.migrations).findSome? fun q =>
    if q.2.arrives ≤ s.ck then some (.migrationArrival q.1) else none

/-- A face that goes 64 µs after its lifetime (R367). -/
def faceDue (s : State) : Option Event :=
  s.fen.findSome? fun e => e.faces.findSome? fun f =>
    if f.2.1 + 64 ≤ s.ticks && !f.2.2 then
      some (.faceDrop { holder := e.holder, tenant := e.tenant, name := e.name, face := f.1 })
    else none

/-! ### The fabric (R452, R470 to R472, R475, R487) -/

/-- What is due on a link. -/
def linkDue (s : State) (p : Nat) : Option Event :=
  let l := s.link p
  let pick (b : Bool) (e : Event) : Option Event := if b then some e else none
  if !l.isOn then none
  else
    (pick (l.state == .training && decide (l.trainedAt + 100000 ≤ s.ticks)) (.trainingTimeout p)).or <|
    (pick ((match l.episode with | some e => decide (e.1 + 20 ≤ s.ticks) | none => false)
      || (l.unacked != [] && decide (l.lastAdvance + 20 ≤ s.ticks))) (.replayLimit p)).or <|
    (pick ((l.state == .up || l.state == .replay) && decide (l.lastHeader + 100 ≤ s.ticks)) (.linkHeaderTimeout p)).or <|
    pick (l.resendFrom.isSome || l.owesNack || (l.outQ != [] && decide (l.unacked.length < 2048)) || decide (l.lastSent + 1 ≤ s.ticks))
      (.idleGroup p)

/-- What is due for the keys of a stream (R452). -/
def keyDue (s : State) (q : StreamRef × KeySlots) : Option Event :=
  let old := match q.2.oldUntil with | some t => decide (t ≤ s.ticks) | none => false
  if old then some (.oldKeySlotExpiry q.1)
  else if !q.1.tx then none
  else if 2 ^ 40 ≤ q.2.flits && !q.2.held then some (.flitLimitHold q.1)
  else if 2 ^ 38 ≤ q.2.flits && !q.2.refreshing then some (.keyRefreshRequest q.1)
  else none

/-- A packet that is sent again (R475). -/
def resendsDue (s : State) : Option Event :=
  s.streams.findSome? fun t => t.unacked.findSome? fun u =>
    if resendDue s u then some (.endToEndResend { peer := t.peer, tenant := t.tenant, response := t.response, seq := u.1.seq }) else none

/-- A peer that has become suspect (R487). -/
def suspicionDue (s : State) : Option Event :=
  (s.peers.find? fun j => s.silent j && !s.suspects.getLsbD j).map fun j => .suspicionTimeout j

/-- What is due in the fabric's units. -/
def fabricDue (s : State) : Option Event :=
  if s.npkg ≤ 1 then none
  else
    ((List.range 15).findSome? (linkDue s)).or <|
    (s.keys.findSome? (keyDue s)).or <| (resendsDue s).or <| suspicionDue s

/-! ### All of it -/

/-- The placements of each tenant in turn, the quantum's holder first (R427): its launches, its bins on a core, its pooled fibres on the
core's die, and the loads of its saved contexts. -/
def workDue (s : State) (c : Nat) : Option Event :=
  (tenantOrder s).findSome? fun t =>
    ((s.launches.filter fun l => l.tenant == t && l.state != .done).findSome? (launchDue s)).or <|
    (binsDue s c t).or <| (poolDue s (c / 256) t).or (reloadDue s t)

/-- The internal event that a core's turn runs before it issues, if one is due. -/
def due (s : State) (c : Nat) : Option Event :=
  (migrationDue s).or <|
  ((s.core c).gangs.findSome? fun (q : Nat × Gang) => gangDue s c q.1 q.2).or <|
  (coreDue s c).or <| (clusterDue s (c / 4)).or <| (faceDue s).or <| (fabricDue s).or <| (hubDue s).or <| workDue s c

/-! ### What engines wait for (R313, R314) -/

/-- The cause for which the head of each of a core's engines waits, with the head's context: engine number and cause. -/
def engineStalls (s : State) (c : Nat) : List (Nat × Nat × Nat) :=
  (match namedFirst s c with
    | some m => if (namedReady s c m.gang).isNone then [(m.ctx, 3, Cause.presence.code)] else []
    | none => [])
  ++ (((s.core c).gangs.filter fun (q : Nat × Gang) => q.2.interests.any fun (x : Nat × Interest) =>
      x.2.state == .pending && x.2.refused.isSome).map fun (q : Nat × Gang) => (q.2.ctx, 3, Cause.named.code)).eraseDups
  ++ (s.core c).gangs.flatMap fun (q : Nat × Gang) =>
    let one (e : Nat) (o : Option Cause) : List (Nat × Nat × Nat) :=
      match o with | some cause => [(q.2.ctx, e, cause.code)] | none => []
    let matrix : Option Cause := match matrixHead s c q.1 with
      | none => none
      | some m =>
        match m.seq with
        | some x => match seqStep s c q.1 m x with | .wait k => some k | .walk _ => some .tlb | _ => none
        | none => matrixWait s c q.2 m
    let copy : Option Cause := match copyHead s c q.1 with
      | none => none
      | some m => match copyStep s c q.1 m with | .wait k => some k | .walk _ => some .tlb | _ => none
    let fabric : Option Cause := match fabricHead s c q.1 with
      | none => none
      | some m => match bulkStep s c q.1 m with | .wait k => some k | .walk _ => some .tlb | _ => none
    one 1 matrix ++ one 2 copy ++ one 4 fabric

/-- Whether a gang has a command at the head of an engine: 1 matrix, 2 copy, 3 named, 4 fabric. -/
def engineBusy (s : State) (c slot eng : Nat) : Bool :=
  match eng with
  | 1 => (matrixHead s c slot).isSome
  | 2 => (copyHead s c slot).isSome
  | 3 => match namedFirst s c with | some m => m.gang == slot | none => false
  | _ => (fabricHead s c slot).isSome

/-- The engines of a core that wait in a turn for a scratchpad bank or a refresh (R314; log entry 87): context, engine and cause. -/
def busyStalls (s : State) (ws : List BusyWait) (c : Nat) : List (Nat × Nat × Nat) :=
  (ws.filter fun w => w.core == c && 1 ≤ w.engine && w.engine ≤ 4 && (w.cause == 4 || w.cause == 9) && engineBusy s c w.gang w.engine).filterMap
    fun w => (s.gang? c w.gang).map fun g => (g.ctx, w.engine, w.cause)

/-- Charge a core's waiting engines for `n` ck (R314). -/
def chargeEngines (s : State) (n : Nat) (ws : List BusyWait) (c : Nat) : State :=
  s.modCore c fun k => (engineStalls s c ++ busyStalls s ws c).foldl (fun k q => k.addStall q.1 q.2.1 q.2.2 n) k

end Sys2Proof.Machine
end

