-- ==== Sys2Proof/Machine/Errors.lean ====
section
/-! DEFINITION. Uncorrectable errors that no access of a gang meets: in a kiln cache entry, a journal copy, or a save area that is being
loaded (R454; log entry 86). -/

namespace Sys2Proof.Machine

/-- A gang whose translation was discarded: back at its commit point in virtual code, waiting under KILN for the new one. -/
def Gang.retranslate (g : Gang) : Gang :=
  let x := { g.rolledBack with inNative := false }
  x.mapBoth x.ready fun _ f => { f with status := .parked .kiln }

/-- An entry of the kiln cache with an error is discarded and translated again while its launches wait (R454). -/
def dropEntry (s : State) (i : Nat) : State :=
  match s.kiln[i]?, s.launches.find? fun l => l.transl == i && l.state != .done && l.state != .waiting && l.state != .kilnWait with
  | some e, some l =>
    let new := { plainBisque l with resident := e.resident, lastUse := e.lastUse, generation := e.generation, glaze := e.glaze }
    let upd (g : Gang) : Gang := if g.transl = i ∧ g.stop.isNone then g.retranslate else g
    let undone := s.allGangs.flatMap fun g => if g.transl = i ∧ g.stop.isNone then g.region.reads else []
    ({ s.unrecord undone with kiln := s.kiln.modify i fun _ => new } : State).mapGangs upd
  | some _, none => { s with kiln := s.kiln.modify i fun t => { t with resident := 0 } }
  | none, _ => s

/-- A part of a context whose save area has an error is lost: its load ends with the slot empty, and its launches are handled (R433, R454). -/
def loseSaved (s : State) (c : Nat) (m : Move) : State :=
  let ctx := ((s.core c).slotOf m.slot).ctx.toNat
  let held := s.rd (fwPhys m.addr + 64) 8
  let mine := s.saved.filter fun v => v.current && v.ctx == ctx && v.uid == held
  let launches := (mine.flatMap fun v => (v.blocks.map fun b => b.launch) ++ v.gangs.map fun (g : Nat × Gang) => g.2.launch).eraseDups
  let s1 := launches.foldl (fun t u => handleLost t 3 u) s
  let s2 : State := { s1 with saved := s1.saved.map fun v => if v.ctx == ctx && v.uid == held then { v with current := false } else v }
  let s3 := s2.modCore c fun k =>
    let k1 := k.modSlot m.slot fun _ => UserSlot.empty
    { k1 with moves := k1.moves.filter fun x => x.slot != m.slot, event := k1.event ||| BitVec.ofNat 5 (2 ^ (2 + m.slot)) }
  s3.modCtx ctx fun x => { x.leave c m.slot with areas := x.areas.erase m.addr }

/-- The load that an error in a sector of memory spoils. -/
def spoiledLoad (s : State) : Option (Nat × Move) :=
  s.cores.findSome? fun (k : Nat × Core) => (k.2.moves.find? fun m =>
    !m.saving && s.flawed false (fwPhys m.addr) (max 64 (memNat s.mem (fwPhys m.addr + 8) 8))).map fun m => (k.1, m)

/-- An error that a unit of the package meets by itself (R454): one found in a journal copy has it rebuilt before a further batch is
accepted. -/
def meetFlaw (s : State) (f : Flaw) : State :=
  match f with
  | .kiln i => dropEntry s i
  | .journal n => { s with journalOk := false, journal := s.journal.map fun e =>
      if n = 0 then { e with copy0 := false } else { e with copy1 := false } }
  | _ => s

/-- The errors of a turn that units of the package meet by themselves (R454). -/
def meetFlaws (s : State) : State :=
  let s1 := s.flaws.foldl meetFlaw s
  match spoiledLoad s1 with
  | some (c, m) => loseSaved s1 c m
  | none => s1

end Sys2Proof.Machine
end

