-- ==== Sys2Proof/Machine/Pools.lean ====
section
/-! DEFINITION. What a die's reserved memory holds beyond its slices: spilled FATOM contributions, pooled fibres and tasks, and race
records, with the pages that extend each pool (R347, R348, R384, R425; log entry 88). -/

namespace Sys2Proof.Machine

/-! ### What has spilled (R348, R384, R425) -/

/-- The contributions that a die's slices hold beyond their 256 entries each (R348). -/
def spilledItems (d : Die) : Nat :=
  let held (sl : Nat) : Nat := d.windows.foldl (fun n w => if sliceOf w.pa = sl then n + w.items.length else n) 0
  if d.windows = [] then 0 else (List.range 128).foldl (fun n sl => n + (held sl - 256)) 0

/-- The number of pages that hold `n` bytes. -/
def pagesFor (n : Nat) : Nat := (n + 65535) / 65536

/-- The pages that a die's FATOM pool needs beyond its four shares of 1 GiB: for contributions and for pooled fibres and tasks. -/
def poolNeed (d : Die) : Nat := pagesFor (32 * spilledItems d + Config.poolItemBytes * d.pool.length - 2 ^ 32)

/-- The pages that a die's record pool needs. -/
def recordNeed (d : Die) : Nat := if d.records = [] then 0 else pagesFor (Config.recordBytes * (spilledRecords d).length)

/-! ### Extending a pool (R348, R384, R425) -/

/-- A free page of the package's HBM for a die's pool: of its own stacks first. -/
def poolPage (s : State) (die : Nat) : Option Nat :=
  let taken := takenRanges s
  let own := (List.range 4).map fun i => 4 * die + i
  ((own ++ (List.range 16).filter fun k => !own.contains k).filter fun k => !s.stackDown.getLsbD k).findSome? fun k =>
    let base := fitAt (taken.length + 1) taken (2 ^ 16) (s.stackAddr k)
    if base + 2 ^ 16 ≤ s.stackAddr k + serviceArea then some base else none

/-- The launch, of those that can still be cancelled, with the most entries by a count. -/
def mostBy (s : State) (count : Launch → Nat) : Option Launch :=
  (s.launches.filter fun l => l.outcome.isNone && l.state != .done && decide (0 < count l)).foldl (fun (o : Option Launch) l =>
    match o with
    | some b => if count b < count l then some l else some b
    | none => some l) none

/-- The contributions of a launch that queue on a die. -/
def itemsOf (d : Die) (l : Launch) : Nat := d.windows.foldl (fun n w => if w.launch = l.uid then n + w.items.length else n) 0
/-- The records of a launch on a die. -/
def recordsOf (d : Die) (l : Launch) : Nat := (d.records.filter fun r => r.party.launch == l.uid).length
/-- The pooled fibres of a launch on a die. -/
def pooledOf (d : Die) (l : Launch) : Nat :=
  (d.pool.filter fun p => match p.fibre with | some f => f.launch == l.uid | none => false).length

/-- No page is free: the launch that holds the most is cancelled and reported failed with CANC (R348, R384, R425). -/
def poolFull (s : State) (count : Launch → Nat) : State :=
  match mostBy s count with
  | some l => failLaunch s l.uid tcCANC.toNat 0 none
  | none => s

/-- Bring a die's FATOM pool to the pages that it needs. -/
def growPool (fuel : Nat) (s : State) (die : Nat) : State :=
  let d := s.die die
  let need := poolNeed d
  if need ≤ d.poolPages.length then s.modDie die fun k => { k with poolPages := k.poolPages.take need }
  else
    match fuel, poolPage s die with
    | n + 1, some p => growPool n (s.modDie die fun k => { k with poolPages := k.poolPages ++ [p] }) die
    | _, _ => poolFull s (if spilledItems d = 0 then pooledOf d else itemsOf d)

/-- Bring a die's record pool to the pages that it needs; the records of a launch that is cancelled for want of one go with it. -/
def growRecords (fuel : Nat) (s : State) (die : Nat) : State :=
  let d := s.die die
  let need := recordNeed d
  if need ≤ d.recordPages.length then s.modDie die fun k => { k with recordPages := k.recordPages.take need }
  else
    match fuel, poolPage s die with
    | n + 1, some p => growRecords n (s.modDie die fun k => { k with recordPages := k.recordPages ++ [p] }) die
    | _, _ =>
      match mostBy s (recordsOf d) with
      | some l => (poolFull s (recordsOf d)).modDie die fun k => { k with records := k.records.filter fun r => r.party.launch != l.uid }
      | none => s

/-- Whether a die's pools must change. -/
def poolsOff (d : Die) : Bool := poolNeed d != d.poolPages.length || recordNeed d != d.recordPages.length

/-- The service cores bring every die's pools to the pages that they need (R348, R384, R425). -/
def growPools (s : State) : State :=
  (s.dies.filter fun (q : Nat × Die) => poolsOff q.2).foldl (fun t (q : Nat × Die) =>
    growRecords (recordNeed q.2) (growPool (poolNeed q.2) t q.1) q.1) s

end Sys2Proof.Machine
end

