-- ==== Sys2Proof/Machine/Turn.lean ====
section
/-! DEFINITION. One turn: what a step runs when no message waits, fetch and decode, and what follows an instruction (R61,
R63, R150, R151, R233 to R235, R293, R295, R441). -/

namespace Sys2Proof.Machine

/-! ### Regions of virtual instructions (R20, R233) -/

/-- The opcode of a ZN-V instruction. -/
def opOf (i : Instr) : Option Nat := (partsOf i).map fun p => p.op

/-- The order field of an ordered load or store, 0 for the others. -/
def orderOf (i : Instr) : Nat :=
  match i with
  | .ldC f => bitsOf f.ext 15 3
  | .stC f => bitsOf f.ext 15 3
  | _ => 0

/-- The opcodes of the instructions that stand alone as a commit region (R20, R161, R166, R167, R176, R177, R198, R199,
R265, R273, R289, R290, R329). -/
def aloneOps : List Nat :=
  [0x108, 0x109, 0x10A, 0x10B, 0x10C, 0x10D, 0x110, 0x111, 0x146, 0x147, 0x148, 0x149, 0x14A, 0x14B, 0x14D, 0x14E, 0x14F,
   0x150, 0x151, 0x180, 0x181, 0x186, 0x18A, 0x190, 0x192, 0x194, 0x19C, 0x19D, 0x19E, 0x19F]

/-- Whether an instruction stands alone as a commit region; HCLIP, ARMT and ARWAIT too (R144, R482). -/
def standAlone (i : Instr) : Bool :=
  match i with
  | .hclip _ | .armt _ | .arwait _ => true
  | _ => decide (1 < orderOf i) || (match opOf i with | some o => aloneOps.contains o | none => false)

/-- The guard of a ZN-V instruction. -/
def guardOf (i : Instr) : Guard := ((partsOf i).map fun p => p.g).getD { neg := false, pred := 15 }

/-- Whether a translation ends a region where a gang's lanes of a mask now stand (log entry 12). -/
def atCut (s : State) (g : Gang) (m : Mask) : Bool :=
  match (translOf s g).bind fun t => t.cuts with
  | none => true
  | some cs => (lanesOf m).all fun l => cs.contains (g.lane l).pc

/-- Count an issue of a gang against its yield counter (R296). -/
def countIssue (s : State) (c slot : Nat) : State := s.modGang c slot fun g => { g with yieldCtr := g.yieldCtr - 1 }

/-- What follows a native word: it counts against the yield counter, also where it trapped or rolled its region back, unless it has
just loaded the counter or waits for a result (R217, R296). -/
def settleWord (pre : State) (w : LWord) (s : State) : State :=
  match pre.curGang?, s.gang? pre.cur.core pre.cur.gang with
  | some g0, some g =>
    if g.uid = g0.uid ∧ ¬(w.isYield ∧ g.words ≠ g0.words)
        ∧ ¬(g.words = g0.words ∧ (lanesOf pre.cur.lanes).any fun l => (g.lane l).status == .parked .result) then
      countIssue s pre.cur.core pre.cur.gang
    else s
  | _, _ => s

/-- The metadata PC after a virtual instruction of a gang whose translation has native code (R232): an MMAS leaves it at the word after
its own, as the native word that stands for it does (log entry 12). -/
def followMeta (s : State) (i : Instr) (g : Gang) : Gang :=
  match i with
  | .mmas f =>
    if (translOf s g).any fun t => t.words != [] then
      { g with arch := { g.arch with mdpc := BitVec.ofNat 32 (4 * f.ext.toNat + 4) } }
    else g
  | _ => g

/-- What follows a virtual instruction of a gang: it counts in its region and against the yield counter, a committed memory
instruction may be sampled, and the region commits where it ends (R20, R233, R235, R296, R441), also where an examination has just
stopped the gang (R171, R177). `pre` is the state in which the instruction issued. -/
def settleInstr (pre : State) (i : Instr) (s : State) : State :=
  if pre.inFirmware then s
  else
    match pre.curGang?, s.gang? pre.cur.core pre.cur.gang with
    | some g0, some g =>
      if g.uid ≠ g0.uid then s
      else if (g.replay ∧ ¬ g0.replay) ∨ (g.stop.isSome ∧ g.region = g0.region) then countIssue s pre.cur.core pre.cur.gang
      else
        let e := execLanes pre g0 (guardOf i)
        let mem := (match opOf i with | some o => o / 64 == 4 | none => false) && e != 0
        let sectors := match g.region.energy with | (5, n) :: _ => n / 4 | _ => 0
        let r := { g.region with
          instrs := g.region.instrs + 1, start := if g.region.instrs = 0 then pre.cur.pc else g.region.start
          samples := if mem then (e, pre.cur.pc, sectors) :: g.region.samples else g.region.samples }
        let s1 := s.setGang pre.cur.core pre.cur.gang (followMeta s i { g with region := r, yieldCtr := g.yieldCtr - 1 })
        let parked := (lanesOf pre.cur.lanes).any fun l => (g.lane l).status != .ready
        if parked || g.stop.isSome || standAlone i || g.replay || atCut s g pre.cur.lanes then
          let s2 := commitRegion s1 pre.cur.core pre.cur.gang
          resumeNative (s2.modGang pre.cur.core pre.cur.gang fun x =>
            if x.replay && !x.inNative && x.region.isEmpty && atCut s g pre.cur.lanes then { x with replay := false, replayFor := none } else x)
            pre.cur.core pre.cur.gang
        else s1
    | _, _ => s

/-- The members of a gang's yoke that fetch together with it (R334, R335): those in native code, as core and gang slot. -/
def yokeTeam (s : State) (c : Nat) (g : Gang) : List (Nat × Nat) :=
  let k := s.cluster (c / 4)
  if g.member4.isSome && k.shared then
    (k.members.map fun m => (c / 4 * 4 + m.1, m.2)).filter fun q => match s.gang? q.1 q.2 with
      | some x => x.inNative && !x.replay && x.stop.isNone
      | none => false
  else []

/-- The lanes of a member that stand with the yoke's PC group: at its native PC, which is a place in one translation (R210, R334). -/
def yokeLanes (g : Gang) (transl npc : Nat) : Mask :=
  if g.transl = transl then g.lanesWhere fun f => f.status == .ready && f.npc == npc else 0

/-- Whether a member core other than the one whose turn it is keeps a yoke from issuing (R334): it is the firmware's ck there, it
halts, a starving gang issues first, or a busy unit holds the member. -/
def yokeHeld (s : State) (team : List (Nat × Nat)) (c : Nat) : Bool :=
  team.any fun q =>
    let k := s.core q.1
    let held (g : Gang) : Bool := decide (s.ck < heldUntil s k g)
    (match s.gang? q.1 q.2 with | some g => held g | none => false)
      || (q.1 != c && (k.halted || k.failed || (k.fw.status == .ready && decide (64 ≤ k.credit))
            || (k.issuers held).any fun p => p.2.starving))

/-- The issue of a PC group (R151): what the step hands to the instruction. -/
def issueAt (c slot : Nat) (lanes : Mask) (pc : W64) (parcels headAt : Nat) (bits : W64) (inNative : Bool) : Issue :=
  { core := c, gang := slot, lanes := lanes, pc := pc, head := pc + BitVec.ofNat 64 (4 * headAt),
    next := pc + BitVec.ofNat 64 (4 * parcels), bits := bits, granted := false, inNative := inNative, pf := [], charged := false }

/-- The issue of a native word for lanes of a gang (R208, R210): lanes whose access has waited go on with it (R187). -/
def nativeIssue (s : State) (c slot : Nat) (g : Gang) (lanes : Mask) : State :=
  { s.modGang c slot fun x => { x with granted := x.granted &&& ~~~lanes } with
    cur := { issueAt c slot lanes (g.lane (lowLane lanes)).pc 0 0 0 true with granted := lanes &&& ~~~g.granted == 0 } }

/-- The issue of a yoke's word on one more member core, in the same ck (R334). `pre` is the state in which the word issued. -/
def followWord (pre : State) (w : LWord) (transl npc : Nat) (s : State) (q : Nat × Nat) : State :=
  match pre.gang? q.1 q.2 with
  | none => s
  | some g =>
    let m := yokeLanes g transl npc
    if m = 0 then s
    else
      let s1 := s.modGang q.1 q.2 fun x => { x with starve := 0 }
      let s2 := nativeIssue s1 q.1 q.2 g m
      { settleWord s2 w (issueWord w s2) with cur := s.cur }

/-- What follows a word of a yoke: its other members issue it too (R334). -/
def settleYoke (pre : State) (w : LWord) (s : State) : State :=
  match pre.curGang? with
  | none => s
  | some g =>
    let npc := (g.lane (lowLane pre.cur.lanes)).npc
    ((yokeTeam pre pre.cur.core g).filter fun q => q.1 != pre.cur.core).foldl (followWord pre w g.transl npc) s

/-- What follows the issue of an instruction or a long word. -/
def settle (pre : State) (i : Instr) (s : State) : State :=
  match i with
  | .longWord w => settleYoke pre w (settleWord pre w s)
  | _ => if (opOf i).isSome then settleInstr pre i s else s

/-! ### Fetch (R29, R63, R83, R493) -/

/-- The bytes of a fibre's image from its PC to the end of the code section, at most seven parcels. -/
def fetchBytes (s : State) (f : Fibre) : List Byte := codeBytes s f.launch f.pc

/-- Fetch and decode for a PC group: the instruction to run, or the state after its ILL (R60 to R63). -/
def issueBytes (s : State) (c slot : Nat) (lanes : Mask) (pc : W64) (bs : List Byte) : State × Option Instr :=
  match decodeBytes bs with
  | .ok i parcels headAt bits => ({ s with cur := issueAt c slot lanes pc parcels headAt bits false }, some i)
  | .bad reason field parcels bits =>
    let s1 := { s with cur := issueAt c slot lanes pc parcels 0 bits false }
    (takeTrap s1 tcILL (lowLane lanes) [bits, BitVec.ofNat 64 (reason + field * 256), lanes.setWidth 64], none)

/-- What stands for the instruction of a fibre that waits for its fetch. -/
def idleInstr : Instr := .nop { mod := 0, ty := .s32, g := { neg := false, pred := 15 }, d := 0, a := 0, b := 0 }

/-- How many parcels the instruction at the head of some bytes has. -/
def parcelCount (bs : List Byte) : Nat := match decodeBytes bs with | .ok _ n _ _ => n | .bad _ _ n _ => n

/-- A PC group whose instruction cannot be fetched (R37; log entry 83): it parks until the page's translation is there, or takes the
page's fault at its virtual PC. An open region commits first. -/
def fetchFault (s : State) (c slot : Nat) (g : Gang) (lanes : Mask) (f : Fibre) (n : Nat) (x : Found) : State :=
  let s1 : State := { s with cur := issueAt c slot lanes f.pc n 0 0 false }
  match x with
  | .missing va =>
    if !g.region.isEmpty then commitRegion s c slot
    else startWalk (commitRegion (s1.putCur (g.park s1 idleInstr lanes .fetch va)) c slot) c g.tenant va
  | .fault code infos => takeTrap { s1 with free := s1.free + 1 } code (lowLane lanes) infos
  | _ => s

/-- The firmware fibre's issue (R292, R293): its code lies at physical addresses. -/
def issueFirmware (s : State) (c : Nat) : State × Option Instr :=
  let s1 := s.modCore c fun k => { k with credit := k.credit - 64, userCk := k.userCk - 1 }
  let pc := (s.core c).fw.pc
  issueBytes s1 c fwSlot 1 pc (memRead s.mem (fwPhys pc) 28)

/-- A gang that has just been formed begins its translation's native code, if it has any (R233). -/
def beginNative (s : State) (g : Gang) : Gang :=
  match translOf s g with
  | some t => if !g.inNative && !g.replay && g.region.isEmpty && mayEnter t g then g.goNative t else g
  | none => g

/-- A gang's issue (R150, R151). -/
def issueGang (s : State) (c slot : Nat) (g0 : Gang) : State × Option Instr :=
  let g := beginNative s g0
  match g.nextLane with
  | none => (s, none)
  | some l =>
    let lanes := g.groupOf l
    let f := g.lane l
    let s1 := s.setGang c slot { g with tp := BitVec.ofNat 5 (l + 1) }
    if g.inNative && !g.replay then
      match nativeWord s g l with
      | some w => (nativeIssue s1 c slot g lanes, some (.longWord w))
      | none => (rollback s1 c slot, none)
    else
      let s2 := reachPc s1 f.launch f.pc f.fn
      if ((s2.launch? f.launch).map fun l => l.outcome) ≠ ((s1.launch? f.launch).map fun l => l.outcome) then (s2, none)
      else
        match fetchStop s2 c g f (4 * parcelCount (fetchBytes s f)) with
        | some x => (fetchFault s2 c slot g lanes f (parcelCount (fetchBytes s f)) x, none)
        | none =>
        let r := issueBytes s2 c slot lanes f.pc (fetchBytes s f)
        match r.2 with
        | none => (countIssue r.1 c slot, none)
        | some i => if standAlone i ∧ g.region.instrs ≠ 0 then (commitRegion s c slot, none) else r

/-- The first Ready lane of a yoke's members from its turn pointer upward, wrapping over the 128 lanes: its number, and the
member's core and gang slot (R151, R334). -/
def yokeLane (s : State) (team : List (Nat × Nat)) (tp : Nat) : Option (Nat × Nat × Nat) :=
  ((List.range 128).map fun i => (tp + i) % 128).findSome? fun n =>
    (team.find? fun q => q.1 % 4 == n / 32 && (match s.gang? q.1 q.2 with
      | some g => (g.lane (n % 32)).status == .ready
      | none => false)).map fun q => (n, q)

/-- A yoke's issue (R334): one long word for the Ready lanes of its members at one native PC; `settleYoke` issues it on the other
member cores. -/
def issueYoke (s : State) (team : List (Nat × Nat)) (cl : Nat) : State × Option Instr :=
  match yokeLane s team (s.cluster cl).tp.toNat with
  | none => (s, none)
  | some (n, q) =>
    let s1 := (s.modCluster cl fun k => { k with tp := BitVec.ofNat 7 (n + 1) }).modGang q.1 q.2 fun g => { g with starve := 0 }
    match s.gang? q.1 q.2 with
    | none => (s, none)
    | some g =>
      let f := g.lane (n % 32)
      match nativeWord s g (n % 32) with
      | some w => (nativeIssue s1 q.1 q.2 g (yokeLanes g g.transl f.npc), some (.longWord w))
      | none => (rollback s1 q.1 q.2, none)

/-! ### Turns (R293, R295, R297; log entries 4 and 21) -/

/-- The turn that the schedule gives, or one ck of the core that moved last. -/
def nextTurn (s : State) : Turn × State :=
  match s.sched with
  | t :: r => (t, { s with sched := r })
  | [] => ({ core := s.cur.core, ck := 1, ticks := 0, skipDue := false, flaws := [], busy := [] }, s)

/-- The events that come at fixed times (R440, R442, R487), for the multiples of their intervals in a span of package time: a heartbeat
goes out once for a span. -/
def periodic (s : State) (t0 t1 : Nat) : List Event :=
  List.replicate (t1 / 2 ^ 20 - t0 / 2 ^ 20) .sketchDecay ++ List.replicate (t1 / 2 ^ 30 - t0 / 2 ^ 30) .errorCountReport
    ++ if t0 / 10 < t1 / 10 then (s.peers.filter fun j => !s.upTo j).map .heartbeat else []

/-- Time passes (R4, R314, R413): in it, waiting engines are charged, errors stand in memory (R453), and what comes at fixed times is
raised. -/
def passTime (s : State) (t : Turn) : State :=
  let s1 := if t.ck = 0 then s else s.cores.foldl (fun u (q : Nat × Core) => chargeEngines u t.ck t.busy q.1) s
  { s1 with
    ck := s.ck + t.ck, ticks := s.ticks + t.ticks, flaws := t.flaws
    agenda := s1.agenda ++ if s.bootStage < 4 then [] else periodic s1 s.ticks (s.ticks + t.ticks)
    cores := s1.cores.map fun (q : Nat × Core) => (q.1, q.2.pass t.ck fun g => min t.ck (heldUntil s q.2 g - s.ck)) }

/-- Whether the access of a lane waits for a refresh of its pseudo-channel (R314, R349; log entry 87). -/
def lateLane (s : State) (c : Nat) (g : Gang) (l : Nat) : Bool :=
  match g.waits.find? fun w => w.mask.getLsbD l && w.cause == .l2miss with
  | none => false
  | some w =>
    match (s.core c).tlbFind g.tenant g.ctx w.va with
    | none => false
    | some e =>
      let pa := ptePa e.pte + (w.va.toNat - e.va)
      decide (s.ck < mget 0 (s.die (dieOf pa)).refreshing (65536 * stackOf pa + Config.channelOf pa))

/-- What a turn runs. -/
inductive Todo where
  | event (e : Event)
  | instr (i : Instr)
deriving DecidableEq, Repr

/-- The user's issue on a core, after the arbiter decided if it had to (R295, R297, R314); a gang that overran and whose context no
longer runs parks at its commit point (R299), and a member of a yoke that fetches together issues with the others (R334). -/
def issueUser (s : State) (t : Turn) : State × Option Instr :=
  let k0 := s.core t.core
  let late := lateLane s t.core
  let held (g : Gang) : Bool := decide (s.ck < heldUntil s k0 g)
  let n := k0.userCk
  let pay (m : Nat) (s : State) : State := s.modCore t.core fun k => { k.chargeIdle held late m with userCk := 0 }
  let idle := match k0.running with
    | some m => !(k0.gangsOf m).any fun q => q.2.eligible
    | none => k0.slotRunnable 0 || k0.slotRunnable 1
  if idle then
    let s1 := arbitrate (pay n s) t.core fun k => k.decide none
    issueOf s1 0 held pay
  else issueOf s n held pay
where
  /-- The issue of the gang that the core picks, when `n` ck have passed since the user's last issue. -/
  issueOf (s : State) (n : Nat) (held : Gang → Bool) (pay : Nat → State → State) : State × Option Instr :=
    let k := s.core t.core
    match k.pick held (s.cluster (t.core / 4)).shared with
    | none => (pay n s, none)
    | some (slot, g) =>
      let runs := k.running == k.slotFor g.ctx
      if g.yieldDue && g.region.isEmpty && !runs then ((pay n s).setGang t.core slot g.parkYield, none)
      else
        let s1 := (pay (if runs then n - 1 else n) s).modCore t.core fun k => k.chargeReplay g 1
        let team := yokeTeam s1 t.core g
        if 1 < team.length && team.contains (t.core, slot) then
          if yokeHeld s1 team t.core then (s1, none) else issueYoke s1 team (t.core / 4)
        else issueGang s1 t.core slot { g with starve := 0 }

/-- What a turn runs (log entry 4): an event that is due, the firmware's instruction when its credit is full, or a gang's;
none when the turn passes without an instruction. -/
def nextIssue (s : State) : State × Option Todo :=
  let t := (nextTurn s).1
  let s1 := flushAcks (meetFlaws (growPools (passTime (nextTurn s).2 t)))
  let s2 := { s1 with cur := { s1.cur with core := t.core } }
  match (if t.skipDue then none else due s2 t.core) with
  | some e => (s2, some (.event e))
  | none =>
    let k := s2.core t.core
    let r := if s2.bootStage < 4 ∨ k.halted ∨ k.failed then (s2, none)
      else if k.fw.status = .ready ∧ 64 ≤ k.credit then issueFirmware s2 t.core
      else issueUser s2 t
    (r.1, r.2.map .instr)

/-- The state with an instruction's bytes at the firmware fibre's PC on core 0, whose ck comes next (R293, R493; log
entry 1). -/
def placeWord (s : State) (bs : List Byte) : State :=
  let k := s.core 0
  let s1 : State := { s with
    powered := true, tripped := false, bootStage := 4, agenda := []
    sched := [{ core := 0, ck := 1, ticks := 0, skipDue := true, flaws := [], busy := [] }]
    mem := memWrite s.mem (fwPhys k.fw.pc) bs }
  s1.setCore 0 { k with credit := 64, halted := false, failed := false, fw := { k.fw with status := .ready } }

end Sys2Proof.Machine
end

