-- ==== Sys2Proof/Machine/Step.lean ====
section
/-! DEFINITION. The step: the message at the head of the agenda, else a core's turn. -/

namespace Sys2Proof.Machine

/-- Whether the next message releases PERST# (R447), which brings the package up. -/
def bootNext (s : State) : Bool := match s.agenda with | .boot _ :: _ => true | _ => false

/-- One step of the machine (log entry 4). -/
def step (s : State) : Host.Outcome State Fault Refusal :=
  if (!s.powered || s.tripped) && !bootNext s then .fault .powerLost
  else
    match s.agenda with
    | e :: r => runEvent e { s with agenda := r }
    | [] =>
      match nextIssue s with
      | (t, none) => .next t
      | (t, some (.event e)) => runEvent e t
      | (t, some (.instr i)) =>
        match exec i t with
        | .next u => .next (settle t i u)
        | o => o

/-- The state in which the next step fetches and runs the instruction that the opcode table numbers `w` (log entry 1). -/
def State.withFetchWord (s : State) (nbits w : Nat) : State := placeWord s (tableBytes nbits w)

end Sys2Proof.Machine
end

