-- ==== Sys2Proof/Safety.lean ====
section
/-! DEFINITION. What counts as a safe state, what a run is, and the terms in which claims speak of an instruction's lanes. -/

namespace Sys2Proof.Machine

/-- The invariant that every step keeps: both memories in canonical form (log entry 2). -/
def Inv (s : State) : Prop := Memory.wf s.mem = true ∧ Memory.wf s.hostMem = true

/-- The state after `n` steps, while every step answers a next state. -/
def runs (n : Nat) (s : State) : Option State :=
  match n with
  | 0 => some s
  | k + 1 =>
    match step s with
    | .next t => runs k t
    | _ => none

/-! ### Lanes (R7, R90, R102) -/

/-- `s` issues for gang `g`. -/
def Issues (s : State) (g : Gang) : Prop := s.curGang? = some g

/-- Every lane from `g` to `h`: a lane of EXEC has the fibre that `go` makes of it; another lane of the PC group has moved to
the next instruction only; every other lane is unchanged (R7, R38). -/
def LanesGo (s : State) (g h : Gang) (gd : Guard) (go : Nat → Fibre → Fibre) : Prop :=
  ∀ l, h.lane l =
    if (execLanes s g gd).getLsbD l then go l (g.lane l)
    else if (groupLanes s g).getLsbD l then { g.lane l with pc := s.cur.next }
    else g.lane l

/-- `LanesGo` where each lane of EXEC too stands at the next instruction. -/
def LanesMove (s : State) (g h : Gang) (gd : Guard) (upd : Nat → Fibre → Fibre) : Prop :=
  LanesGo s g h gd fun l x => { upd l x with pc := s.cur.next }

/-- A sticky flag is set after exactly if it was set before or a lane of EXEC raised it (R102). -/
def FlagsRise (s : State) (g h : Gang) (gd : Guard) (flags : Nat → Fibre → W32) : Prop :=
  ∀ b, h.arch.fflags.getLsbD b =
    (g.arch.fflags.getLsbD b || (lanesOf (execLanes s g gd)).any fun l => (flags l (g.lane l)).getLsbD b)

/-- Nothing of the gang changes but its fibres, its sticky flags and the energy it is charged. -/
def GangRestKept (g h : Gang) : Prop :=
  h = { g with arch := { g.arch with fibres := h.arch.fibres, fflags := h.arch.fflags }
               region := { g.region with energy := h.region.energy } }

/-- The instruction completes: its answer is the state with the issuing gang alone replaced, in which every lane of EXEC has the
fibre that `upd` gives and the flag word holds the flags raised. -/
def LaneResult (i : Instr) (s : State) (g : Gang) (gd : Guard) (upd : Nat → Fibre → Fibre)
    (flags : Nat → Fibre → W32 := fun _ _ => 0) : Prop :=
  ∃ h, exec i s = .next (s.putCur h) ∧ LanesMove s g h gd upd ∧ FlagsRise s g h gd flags ∧ GangRestKept g h

/-- The instruction completes, changes the lanes as `go` says, and nothing else but the energy charged. -/
def LanesResult (i : Instr) (s : State) (g : Gang) (gd : Guard) (go : Nat → Fibre → Fibre) : Prop :=
  ∃ h, exec i s = .next (s.putCur h) ∧ LanesGo s g h gd go
    ∧ h = { g with arch := { g.arch with fibres := h.arch.fibres }, region := { g.region with energy := h.region.energy } }

/-- The gang `h` with the PC group moved to the next instruction, charged as one instruction (R302 class 4), once however often it
is issued again. -/
def movedOn (s : State) (g h : Gang) : Gang := (h.advance (groupLanes s g) s.cur.next).chargeOnce s

/-- A legal target of a branch or call (R153): no bits above 55 nor below 2, inside the code section of the fibre's image; the
firmware's code lies in no image. -/
def InCode (s : State) (f : Fibre) (t : W64) : Prop :=
  t.toNat < 2 ^ 56 ∧ t.toNat % 4 = 0 ∧
    (s.inFirmware = true ∨ ∃ k, s.launch? f.launch = some k ∧ k.image.base.toNat ≤ t.toNat
      ∧ t.toNat < k.image.base.toNat + k.image.code.length)

/-- Whether an address is the entry of a function, or with `kernels` of a kernel, of the fibre's image (R154). -/
def IsEntry (s : State) (f : Fibre) (t : W64) (kernels : Bool) : Prop :=
  match s.launch? f.launch with
  | some k => ∃ q, q ∈ k.image.funcs ∧ q.entry = t ∧ (kernels = true ∨ q.isKernel = false)
  | none => s.inFirmware = true

/-- The lowest lane of EXEC that meets a condition. -/
def LowestOf (e : Mask) (p : Nat → Prop) (l : Nat) : Prop := e.getLsbD l = true ∧ p l ∧ ∀ k, k < l → e.getLsbD k = true → ¬ p k

/-- The firmware fibre of the issuing core issues and passes the guard (R38, R292). -/
def FirmwareRuns (s : State) (gd : Guard) : Prop :=
  s.cur.gang = 32 ∧ execLanes s s.curCore.fwGang gd ≠ 0

/-- The state with the firmware fibre at the next instruction (R316: a privileged instruction moves on as any other). -/
def fwMoved (s : State) : State :=
  s.modCore s.cur.core fun k => { k with fw := { k.fw with pc := s.cur.next } }

/-- An address that firmware may name: this package's own memory, within a stack (R493). -/
def OwnAddr (s : State) (x : W64) : Prop := x.toNat < 2 ^ 52 ∧ x.toNat / 2 ^ 48 = s.self ∧ x.toNat / 2 ^ 40 % 2 ^ 8 = 0

/-- The instructions that the firmware fibre does not have (R492). -/
def firmwareLacks (i : Instr) : Bool :=
  match i with
  | .exit _ | .spawn _ | .fork _ | .bar _ | .barn _ | .jenter _ | .jquit _ | .jwait _ | .jread _ | .jinit _ | .jclr _
  | .fatom _ | .shw _ | .ldq _ | .stq _
  | .oclaim _ | .orelease _ | .oload _ | .mma _ | .mmas _ | .mmag _ | .accrd _ | .accwr _ | .accz _ | .actlut _ | .seqrun _
  | .copy _ | .copyg _ | .nreg _ | .nwant _ | .npub _ | .ndrop _ | .nwait _ | .bulk _ | .armt _ | .arwait _
  | .yoke _ | .unyoke _ | .migrate _ | .cbar _ => true
  | _ => false

/-- Two states differ in the cores alone, and there in core `c` alone. -/
def OnlyCore (c : Nat) (s t : State) : Prop :=
  t = { s with cores := t.cores } ∧ ∀ n, n ≠ c → t.core n = s.core n

/-! ### Accesses to memory (R178 to R187) -/

/-- What the checks make of the access of `n` bytes of lane `l` at `ea` (R179, R187), aperture rules included. -/
def laneFound (s : State) (g : Gang) (l : Nat) (ea : W64) (n kind op : Nat) (fatom : Bool) (ap : W64 → Found → Found) : Found :=
  namedFault s s.cur.core ea n (ap ea (checkAccess s s.cur.core g l ea n kind op fatom))

/-- The address that an access of `n` bytes uses: the firmware's is not aligned for it (R182, R183). -/
def lowEa (s : State) (n : Nat) (ea : W64) : W64 := if s.inFirmware then ea else BitVec.ofNat 64 (ea.toNat / n * n)

/-- A checked access has a place and need not wait for a row, a translation or a miss (R179, R187). -/
def Performs (s : State) (g : Gang) (l : Nat) (ea : W64) (n policy : Nat) (loads : Bool) (f : Found) : Prop :=
  ((∃ loc, f = .here loc) ∨ ∃ pas t h a, f = .mem pas t h a)
    ∧ accessWait s s.cur.core g l (lowEa s n ea) n policy loads f = none

/-- What an access found lies on no page that race detection tracks (R369, R384). -/
def Untracked (f : Found) : Prop := ∀ pas h a, f ≠ .mem pas true h a

/-- Two fibres that differ at most in the contents of the stack slice and in their place in happens-before. -/
def SameRegs (x y : Fibre) : Prop :=
  x = { y with stack := x.stack, clock := x.clock, readHeads := x.readHeads, relFences := x.relFences }

/-- From `g` to `h` set `d` gets a membership and an arrival mask, and is then evaluated by R163: it releases exactly if arrival is not 0
and holds every member. The fibres of `out`, and with a release those that have arrived, are Ready after their own JWAIT; every other
set, fibre and field of the gang is unchanged. -/
def SetBecomes (g h : Gang) (d : Nat) (member arrive out : Mask) : Prop :=
  let rel := arrive ≠ 0 ∧ member &&& ~~~arrive = 0
  let freed (l : Nat) : Prop := out.getLsbD l = true ∨ (rel ∧ arrive.getLsbD l = true)
  h = { g with arch := { g.arch with fibres := h.arch.fibres }, base := { g.base with fibres := h.base.fibres }
               member := h.member, arrive := h.arrive, waits := h.waits }
  ∧ mget 0 h.member d = member ∧ (rel → h.arriveOf d = 0) ∧ (¬ rel → h.arriveOf d = arrive)
  ∧ (∀ j, j ≠ d → mget 0 h.member j = mget 0 g.member j ∧ h.arriveOf j = g.arriveOf j)
  ∧ ∀ l, l < 32 → (freed l → (g.lane l).status ≠ .absent → SameRegs (h.lane l) { g.lane l with status := .ready, pc := g.nextOf l })
      ∧ (¬ freed l → h.lane l = g.lane l)

/-- The place of a load of lane `l`. -/
def LoadArgs.found (a : LoadArgs) (s : State) (g : Gang) (l : Nat) : Found :=
  laneFound s g l (a.ea (g.lane l)) a.n 0 a.op false (apertureRule true a.n 0 a.order)

/-- The place of a store of lane `l`. -/
def StoreArgs.found (a : StoreArgs) (s : State) (g : Gang) (l : Nat) : Found :=
  laneFound s g l (a.ea (g.lane l)) a.n 1 a.op false (apertureRule false a.n 1 a.order)

/-- The stores that a store instruction makes, in ascending lane order (R185). -/
def StoreArgs.stores (a : StoreArgs) (s : State) (g : Gang) : List GStore :=
  (lanesOf (execLanes s g a.g)).flatMap fun l =>
    storesOf s g l (lowEa s a.n (a.ea (g.lane l))) (a.found s g l) (a.data (g.lane l)) .write a.order a.scope

/-- The place of an atomic of lane `l`. -/
def AtomicArgs.found (a : AtomicArgs) (s : State) (g : Gang) (l : Nat) : Found :=
  laneFound s g l (a.ea (g.lane l)) a.n 2 a.op false apertureAtomic

/-- The memory of this package after stores, in order: those to its own physical addresses outside the race metadata write their
bytes. -/
def memAfter (self : Nat) (m : List Host.Cell) (sts : List GStore) : List Host.Cell :=
  sts.foldl (fun m st => match st.loc with
    | .phys pa => if pkgOf pa = self ∧ pa % 2 ^ 36 < 62 * 2 ^ 30 then memWrite m pa st.bytes else m
    | _ => m) m

/-- The bytes of memory that the atomics of lanes leave, one lane after another, at the places `pa` (R192). -/
def atomicMem (a : AtomicArgs) (g : Gang) (pa : Nat → Nat) (ls : List Nat) (m : List Host.Cell) : List Host.Cell :=
  match ls with
  | [] => m
  | l :: r =>
    atomicMem a g pa r (match a.next (g.lane l) (memRead m (pa l) a.n) with
      | some bs => memWrite m (pa l) bs
      | none => m)

/-- The bytes that lane `l` reads when the atomics of lanes run one after another (R192). -/
def atomicOld (a : AtomicArgs) (g : Gang) (pa : Nat → Nat) (ls : List Nat) (m : List Host.Cell) (l : Nat) : List Byte :=
  match ls with
  | [] => []
  | k :: r =>
    if k = l then memRead m (pa l) a.n
    else atomicOld a g pa r (match a.next (g.lane k) (memRead m (pa k) a.n) with
      | some bs => memWrite m (pa k) bs
      | none => m) l

/-- From `s` to `t` the issuing gang becomes `h`. Otherwise no core changes but the issuing one's lane cache; the dies (caches and race
records), answers kept from other packages and reports of failed sectors may change, and nothing else does. -/
def OnlyCaches (s t : State) (h : Gang) : Prop :=
  t = { s with cores := t.cores, dies := t.dies, remotes := t.remotes, agenda := t.agenda } ∧ (s.flaws = [] → t.agenda = s.agenda)
  ∧ ∀ c, t.core c = if c = s.cur.core then { (s.putCur h).core c with laneCache := (t.core c).laneCache } else s.core c

/-- A load completes when every lane of EXEC performs: each gets its bytes, and but for caches nothing else changes. -/
def LoadCompletes (i : Instr) (s : State) (g : Gang) (a : LoadArgs) : Prop :=
  let e := execLanes s g a.g
  (∀ l, e.getLsbD l = true → Performs s g l (a.ea (g.lane l)) a.n a.policy true (a.found s g l)) →
  (e ≠ 0 → needsTicket s a.order a.scope = false) →
  (∀ l, e.getLsbD l = true → ∀ r, r ∈ readsOf s g l (lowEa s a.n (a.ea (g.lane l))) a.n (a.found s g l) a.order a.scope →
    s.findRace (g.lane l).clock r = none) →
  ∃ t h, exec i s = .next t ∧ Issues t h
    ∧ LanesMove s g h a.g (fun l x =>
        afterRead (a.write x (readFound s s.cur.core g l a.n (a.found s g l))) (partyOf g s.cur.core s.cur.gang x)
          (headsRead s s.cur.core g l a.n (a.found s g l)) a.order a.scope)
    ∧ h = { g with arch := { g.arch with fibres := h.arch.fibres }
                   region := { g.region with energy := h.region.energy, reads := h.region.reads } }
    ∧ OnlyCaches s t h

/-- A store of a user gang without release role completes gated: its bytes join the gang's region, and no byte of memory, of a
scratchpad or of a stack changes. A store of the firmware fibre or with a release role completes at once: this package's memory
holds its bytes, no other byte of memory changes, and every fibre keeps its registers. -/
def StoreCompletes (i : Instr) (s : State) (g : Gang) (a : StoreArgs) : Prop :=
  let e := execLanes s g a.g
  let sts := a.stores s g
  (∀ l, e.getLsbD l = true → Performs s g l (a.ea (g.lane l)) a.n 0 false (a.found s g l)) →
  (s.inFirmware = false → isRelease a.order = false → (∀ q, q ∈ s.curCore.aliases → q.gang ≠ s.cur.gang) →
    (∀ p, g.spec = some p → p.isOpen = false) →
    (g.region.instrs = 0 ∨ (gatedSectors (g.region.stores ++ sts ++ g.specStores)).length ≤ 64) →
    ∃ h, exec i s = .next (s.putCur h)
      ∧ LanesMove s g h a.g (fun _ x => if a.order = 0 then x else x.tick)
      ∧ h = { g with arch := { g.arch with fibres := h.arch.fibres }
                     region := { g.region with energy := h.region.energy, stores := g.region.stores ++ sts } })
  ∧ (s.inFirmware = true ∨ isRelease a.order = true →
    (e ≠ 0 → needsTicket s a.order a.scope = false ∧ (a.scope.toNat < 4 ∨ s.awaitsAcks s.cur.core s.cur.gang = false)) →
    (∀ l, e.getLsbD l = true → Untracked (a.found s g l)) →
    ∃ t h, exec i s = .next t ∧ Issues t h ∧ t.mem = memAfter s.self s.mem sts ∧ t.hostMem = s.hostMem
      ∧ (∀ b, (∀ st pa, st ∈ sts → st.loc = .phys pa → b < pa ∨ pa + st.bytes.length ≤ b) → memByte t.mem b = memByte s.mem b)
      ∧ ∀ l, l < 32 → SameRegs (h.lane l) (if (groupLanes s g).getLsbD l then { g.lane l with pc := s.cur.next } else g.lane l))

/-- An atomic of lanes that all perform completes: each executing lane gets the bytes that it read; where every lane's place is
one address of this package, memory and those bytes are as the lanes' operations one after another leave them. -/
def AtomicCompletes (i : Instr) (s : State) (g : Gang) (a : AtomicArgs) : Prop :=
  let e := execLanes s g a.g
  (∀ l, e.getLsbD l = true → Performs s g l (a.ea (g.lane l)) a.n 2 true (a.found s g l) ∧ Untracked (a.found s g l)) →
  (e ≠ 0 → needsTicket s a.order a.scope = false
    ∧ (isRelease a.order = false ∨ a.scope.toNat < 4 ∨ s.awaitsAcks s.cur.core s.cur.gang = false)) →
  ∃ (t : State) (h : Gang) (old : Nat → List Byte), exec i s = .next t ∧ Issues t h
    ∧ (∀ l, l < 32 → SameRegs (h.lane l)
        (if e.getLsbD l then { a.write (g.lane l) (old l) with pc := s.cur.next }
         else if (groupLanes s g).getLsbD l then { g.lane l with pc := s.cur.next } else g.lane l))
    ∧ h.arch.fflags = g.arch.fflags ∧ t.hostMem = s.hostMem
    ∧ ∀ pa : Nat → Nat, g.buffered = [] →
        (∀ l, e.getLsbD l = true → pkgOf (pa l) = s.self ∧ (∀ i, i < a.n → s.inMeta (pa l + i) = false)
          ∧ ∃ home, a.found s g l = .mem [pa l] false home none) →
        t.mem = atomicMem a g pa (lanesOf e) s.mem ∧ (∀ l, e.getLsbD l = true → old l = atomicOld a g pa (lanesOf e) s.mem l)
        ∧ ∀ b, (∀ l, e.getLsbD l = true → b < pa l ∨ pa l + a.n ≤ b) → memByte t.mem b = memByte s.mem b

/-- The instruction completes by adding one command to the gang's region (R235, R245): the gang is otherwise `h`, moved on. -/
def CommandResult (i : Instr) (s : State) (g h : Gang) (p : EngCmd → Prop) : Prop :=
  ∃ m, exec i s = .next (s.putCur (movedOn s g (h.addCmd m))) ∧ m.gang = s.cur.gang ∧ m.pc = s.cur.pc ∧ p m

/-- The collective instructions (R173). -/
def collective (i : Instr) : Option Guard :=
  match i with
  | .oclaim f => some f.g | .accz f => some f.g | .seqrun f => some f.g | .cbar f => some f.g
  | .orelease f => some f.g
  | .oload f => some f.g | .mma f => some f.g | .mmas f => some f.g | .mmag f => some f.g
  | .accrd f => some f.g | .accwr f => some f.g
  | .actlut f => some f.g | .nreg f => some f.g | .ndrop f => some f.g | .yoke f => some f.g | .migrate f => some f.g
  | .copy f => some f.g | .copyg f => some f.g | .nwant f => some f.g | .npub f => some f.g
  | _ => none

/-- The matrix instructions, which a free gang does not have (R241). -/
def matrixInstr (i : Instr) : Bool :=
  match i with
  | .oclaim _ | .orelease _ | .oload _ | .mma _ | .mmas _ | .mmag _ | .accrd _ | .accwr _ | .accz _ | .actlut _ | .seqrun _ => true
  | _ => false

/-! ### Events (R187, R269) -/

/-- A parked instruction that an event may issue again now: the gang's region is empty (R187). -/
def Waiting (s : State) (it : AtItem) (w : Wait) : Prop :=
  waitOf s it = some w ∧ ∀ g, s.gang? it.core it.gang = some g → g.region.isEmpty = true

/-- The event issues the parked instruction again for its lanes, past its wait when `granted`, and commits it (R91, R187). -/
def Reissues (ev : Instr) (s : State) (it : AtItem) (w : Wait) (granted : Bool) : Prop :=
  ∃ t, exec w.instr (s.reissue it.core it.gang w granted) = .next t ∧ exec ev s = .next (commitRegion t it.core it.gang)

/-- No task waits to pay its join counter. -/
def NoJoinOwed (s : State) : Prop := ∀ q, q ∈ s.tasks → q.2.owed = false

/-! ### Engines (R245, R277 to R281, R481) -/

/-- The matrix command `m` is at the head of the engine order, need not wait, meets no Expired interest and no uncorrectable error, and
belongs to a live gang of a block (R245, R247). -/
def MatrixAt (s : State) (at_ : AtGang) (g : Gang) (b : Block) (m : EngCmd) : Prop :=
  at_.gang ≠ 32 ∧ s.gang? at_.core at_.gang = some g ∧ g.live ≠ 0 ∧ s.blockOf? at_.core g = some b
    ∧ matrixReady s at_.core at_.gang = some m
    ∧ (m.kind = .oload → s.expiredAt at_.core (oloadRows s at_.core g m) = none) ∧ matrixFlawed s at_.core g b m = false

/-- A matrix command has completed: it has left q0, its fills are done, its token is pushed, and no memory has changed. -/
def MatrixDone (s t : State) (at_ : AtGang) (g : Gang) (m : EngCmd) (h : Gang) : Prop :=
  t.gang? at_.core at_.gang = some h ∧ h.q0 = g.q0.drop 1
    ∧ mget [] h.queues 1 = mget [] g.queues 1 ++ (if wantsToken m then [BitVec.ofNat 32 (matrixToken m)] else [])
    ∧ (∀ f, f ∈ (t.core at_.core).fills → f.owner = m.stamp → f.done = true)
    ∧ t.mem = s.mem ∧ t.hostMem = s.hostMem

/-- A copy command moves its elements one after another, `n` of them, from `s` to `t`, and then has ended (R281). -/
def CopyMoves (c slot n : Nat) (s : State) (m : EngCmd) (t : State) : Prop :=
  match n with
  | 0 => copyStep s c slot m = .last ∧ t = s
  | k + 1 => ∃ u, copyStep s c slot m = .go u ∧ CopyMoves c slot k u { m with imm := m.imm + 1 } t

/-- A bulk command moves `n` elements within this package, one after another, and then has ended (R481). -/
def BulkMoves (c slot n : Nat) (s : State) (m : EngCmd) (t : State) : Prop :=
  match n with
  | 0 => bulkStep s c slot m = .last ∧ t = s
  | k + 1 => ∃ u g, bulkStep s c slot m = .go u ∧ s.gang? c slot = some g
      ∧ (let r := if m.put then (u, m) else countUnit u c g m (m.imm / unitElems m) 1
         BulkMoves c slot k r.1 { r.2 with imm := m.imm + 1 } t)

/-- A checked byte lies at a place of this package, on no tracked page. -/
def Found.At (f : Found) (s : State) (l : Loc) : Prop :=
  (f = .here l ∧ ∀ pa, l ≠ .phys pa) ∨ ∃ pa h, l = .phys pa ∧ pkgOf pa = s.self ∧ f = .mem [pa] false h none

/-- Byte `i` of the engine's access at `ea`, for every `i` below `n`, lies at `p i`. -/
def EngineAt (s : State) (c slot lane : Nat) (g : Gang) (m : EngCmd) (ea : W64) (n kind : Nat) (p : Nat → Loc) : Prop :=
  ∀ i, i < n → (engineRule kind (ea + BitVec.ofNat 64 i)
    (checkAccess (engView s c slot m) c g lane (ea + BitVec.ofNat 64 i) 1 kind 0 false)).At s (p i)

/-! ### Services and commands (R411 to R414, R444) -/

/-- A service request that is outstanding and waits for no invalidation (R444). -/
def Outstanding (s : State) (r : SvcReq) : Prop := r ∈ s.requests ∧ ∀ a, a ∈ s.awaits → a.req ≠ some r

/-- The service completes from `u` with a status and reply words (R444). -/
def Replies (ev : Instr) (s : State) (r : SvcReq) (u : State) (status : Nat) (ws : List (Nat × W64)) : Prop :=
  exec ev s = .next (finishRequest u r status ws)

/-- A command of the journal waits, and every earlier command of its queue has started (R414). -/
def CmdRuns (s : State) (c : CmdRef) (e : JEntry) (m : JCmd) : Prop :=
  s.cmd? c = some (e, m) ∧ m.state = .waiting ∧ inOrder s c e = true

/-- The command ends in `u` with an outcome and a value (R413). -/
def Ends (ev : Instr) (s : State) (c : CmdRef) (u : State) (st : Status) (v : Nat) : Prop :=
  exec ev s = .next (u.decide c.entry c.index st (BitVec.ofNat 64 v))

/-! ### Events -/

/-- The instruction of the opcode table that is an event: the one with its name and its operands. -/
def IsStep (e : Event) (i : Instr) : Prop :=
  match e with
  | .regionCommit at_ => i = .regionCommit at_
  | .interlockedResult at_ => i = .interlockedResult at_
  | .globalAccessComplete it => i = .globalAccessComplete it
  | .pageResident r => i = .pageResident r
  | .pageWalk r => i = .pageWalk r
  | .walkRetry r => i = .walkRetry r
  | .tlbinvComplete core => i = .tlbinvComplete core
  | .fillComplete it => i = .fillComplete it
  | .pendingRecordWrite at_ => i = .pendingRecordWrite at_
  | .deferredFaultTake at_ => i = .deferredFaultTake at_
  | .oloadCmd at_ => i = .oloadCmd at_
  | .productStep at_ => i = .productStep at_
  | .accrdCmd at_ => i = .accrdCmd at_
  | .accwrCmd at_ => i = .accwrCmd at_
  | .acczCmd at_ => i = .acczCmd at_
  | .actlutCmd at_ => i = .actlutCmd at_
  | .oreleaseCmd at_ => i = .oreleaseCmd at_
  | .oclaimGrant it => i = .oclaimGrant it
  | .sequencerRun at_ => i = .sequencerRun at_
  | .copyCmd at_ => i = .copyCmd at_
  | .copygCmd at_ => i = .copygCmd at_
  | .nregCmd at_ => i = .nregCmd at_
  | .nwantCmd at_ => i = .nwantCmd at_
  | .npubCmd at_ => i = .npubCmd at_
  | .ndropCmd at_ => i = .ndropCmd at_
  | .bulkGet at_ => i = .bulkGet at_
  | .bulkPut at_ => i = .bulkPut at_
  | .bulkUnitArrival it => i = .bulkUnitArrival it
  | .ldqWake it => i = .ldqWake it
  | .stqWake it => i = .stqWake it
  | .nwaitWake it => i = .nwaitWake it
  | .arwaitWake it => i = .arwaitWake it
  | .joinWake it => i = .joinWake it
  | .fenceComplete it => i = .fenceComplete it
  | .wfiWake core => i = .wfiWake core
  | .namedArrival m => i = .namedArrival m
  | .interestExpiry it => i = .interestExpiry it
  | .interestArrival m => i = .interestArrival m
  | .interestResend it => i = .interestResend it
  | .tileForward m => i = .tileForward m
  | .faceDrop r => i = .faceDrop r
  | .rebind m => i = .rebind m
  | .fatomContribution m => i = .fatomContribution m
  | .binTimeout it => i = .binTimeout it
  | .taskTake core => i = .taskTake core
  | .migrationArrival index => i = .migrationArrival index
  | .yokeFormation cluster key => i = .yokeFormation cluster key
  | .yokeTimeout at_ => i = .yokeTimeout at_
  | .sliceEnd core => i = .sliceEnd core
  | .yieldOverrun at_ => i = .yieldOverrun at_
  | .energyInterval core => i = .energyInterval core
  | .saveComplete it => i = .saveComplete it
  | .loadComplete it => i = .loadComplete it
  | .mboxLoad m => i = .mboxLoad m
  | .mboxSave m => i = .mboxSave m
  | .syscallReply r => i = .syscallReply r
  | .pageMap r => i = .pageMap r
  | .pageUnmap r => i = .pageUnmap r
  | .pageAttr r => i = .pageAttr r
  | .nspaceSet r => i = .nspaceSet r
  | .sampleCfg r => i = .sampleCfg r
  | .failedQuery r => i = .failedQuery r
  | .cacheDrop r => i = .cacheDrop r
  | .kilnCfg r => i = .kilnCfg r
  | .sketchRead r => i = .sketchRead r
  | .measureRead r => i = .measureRead r
  | .keyRefresh r => i = .keyRefresh r
  | .coreReset r => i = .coreReset r
  | .powerCap r => i = .powerCap r
  | .kick k => i = .kick k
  | .descriptorReread q => i = .descriptorReread q
  | .functionReset fn => i = .functionReset fn
  | .batchBegin r => i = .batchBegin r
  | .batchCommit r => i = .batchCommit r
  | .batchAccept q => i = .batchAccept q
  | .jobOpen c => i = .jobOpen c
  | .jobClose c => i = .jobClose c
  | .checkpoint c => i = .checkpoint c
  | .imageLoad c => i = .imageLoad c
  | .imageDrop c => i = .imageDrop c
  | .launch c => i = .launch c
  | .graphCreate c => i = .graphCreate c
  | .graphReplay c => i = .graphReplay c
  | .graphDrop c => i = .graphDrop c
  | .cancel c => i = .cancel c
  | .pageMigrate c => i = .pageMigrate c
  | .hcopy c => i = .hcopy c
  | .pageMigrateComplete c => i = .pageMigrateComplete c
  | .launchStart launch => i = .launchStart launch
  | .blockPlace launch => i = .blockPlace launch
  | .completionRecordWrite q => i = .completionRecordWrite q
  | .dispatchQuantum => i = .dispatchQuantum
  | .bisqueComplete t => i = .bisqueComplete t
  | .glazeComplete t => i = .glazeComplete t
  | .kilnTranslateTarget it => i = .kilnTranslateTarget it
  | .sketchDecay => i = .sketchDecay
  | .errorCountReport => i = .errorCountReport
  | .refreshInterval r => i = .refreshInterval r
  | .patrolScrub r => i = .patrolScrub r
  | .unitFailure u => i = .unitFailure u
  | .boot stages => i = .boot stages
  | .throttleWindow r => i = .throttleWindow r
  | .thermalTrip => i = .thermalTrip
  | .spdmGetVersion m => i = .spdmGetVersion m
  | .spdmGetCapabilities m => i = .spdmGetCapabilities m
  | .spdmNegotiateAlgorithms m => i = .spdmNegotiateAlgorithms m
  | .spdmGetDigests m => i = .spdmGetDigests m
  | .spdmGetCertificate m => i = .spdmGetCertificate m
  | .spdmChallenge m => i = .spdmChallenge m
  | .spdmGetMeasurements m => i = .spdmGetMeasurements m
  | .spdmKeyExchange m => i = .spdmKeyExchange m
  | .spdmFinish m => i = .spdmFinish m
  | .spdmKeyUpdate m => i = .spdmKeyUpdate m
  | .spdmEndSession m => i = .spdmEndSession m
  | .keyProg m => i = .keyProg m
  | .kSetGo m => i = .kSetGo m
  | .kSetStop m => i = .kSetStop m
  | .ideIntegrityFailure m => i = .ideIntegrityFailure m
  | .oldKeySlotExpiry r => i = .oldKeySlotExpiry r
  | .keyRefreshRequest r => i = .keyRefreshRequest r
  | .groupReceive g => i = .groupReceive g
  | .idleGroup port => i = .idleGroup port
  | .replayLimit port => i = .replayLimit port
  | .linkHeaderTimeout port => i = .linkHeaderTimeout port
  | .linkTraining m => i = .linkTraining m
  | .readRequest p => i = .readRequest p
  | .readData p => i = .readData p
  | .write p => i = .write p
  | .writeAck p => i = .writeAck p
  | .atomicRequest p => i = .atomicRequest p
  | .atomicResult p => i = .atomicResult p
  | .bulkGetRequest p => i = .bulkGetRequest p
  | .bulkData p => i = .bulkData p
  | .namedInterest p => i = .namedInterest p
  | .namedTile p => i = .namedTile p
  | .endToEndAck p => i = .endToEndAck p
  | .management p => i = .management p
  | .endToEndResend r => i = .endToEndResend r
  | .heartbeat pkg => i = .heartbeat pkg
  | .suspicionTimeout pkg => i = .suspicionTimeout pkg
  | .lossNotice pkg => i = .lossNotice pkg
  | .lossConfirmation pkg => i = .lossConfirmation pkg
  | .ticketRequest it => i = .ticketRequest it
  | .managementQueueRequest r => i = .managementQueueRequest r
  | .featuresOk m => i = .featuresOk m
  | .driverOk fn => i = .driverOk fn
  | .hubRecovery => i = .hubRecovery
  | .journalRebuild => i = .journalRebuild
  | .trainingTimeout port => i = .trainingTimeout port
  | .flitLimitHold r => i = .flitLimitHold r

end Sys2Proof.Machine
end

