-- ==== Sys2Proof/Certificates/Slice0/Obligations.lean ====
section
/-! DEFINITION. The statements about the Fovik 9, one obligation each; a docstring names the rules of spec/ that a statement
formalises, or the log entry of the model's choice that it rests on. -/

section
open Sys2Proof Sys2Proof.Machine

/-! ### Integer and predicate instructions (R104 to R123) -/

/-- R7, R105, R108, R110: the integer arithmetic instructions complete for every form. -/
def Obligations.IntegerArithmeticCompletes : Prop :=
  ∀ (s : State) (g : Gang), Issues s g →
    (∀ f, LaneResult (.add f) s g f.g fun _ x => x.wt f.ty f.d (addT f.ty (f.va x) (f.vb x)))
    ∧ (∀ f, LaneResult (.addI f) s g f.g fun _ x => x.wt f.ty f.d (addT f.ty (f.va x) (immS f.imm)))
    ∧ (∀ f, LaneResult (.sub f) s g f.g fun _ x => x.wt f.ty f.d (subT f.ty (f.va x) (f.vb x)))
    ∧ (∀ f, LaneResult (.subI f) s g f.g fun _ x => x.wt f.ty f.d (subT f.ty (f.va x) (immS f.imm)))
    ∧ (∀ f, LaneResult (.mul f) s g f.g fun _ x => x.wt f.ty f.d (mulT f.ty (f.va x) (f.vb x)))
    ∧ (∀ f, LaneResult (.mulI f) s g f.g fun _ x => x.wt f.ty f.d (mulT f.ty (f.va x) (immS f.imm)))
    ∧ (∀ f, LaneResult (.mulh f) s g f.g fun _ x => x.wt f.ty f.d (mulhT f.ty (f.va x) (f.vb x)))
    ∧ (∀ f, LaneResult (.madd f) s g f.g fun _ x =>
        x.wt f.ty f.d (addT f.ty (mulT f.ty (f.va x) (f.vb x)) (f.vc x)))
    ∧ (∀ f, LaneResult (.div f) s g f.g fun _ x => x.wt f.ty f.d (divT f.ty (f.va x) (f.vb x)))
    ∧ (∀ f, LaneResult (.rem f) s g f.g fun _ x => x.wt f.ty f.d (remT f.ty (f.va x) (f.vb x)))
    ∧ (∀ f, LaneResult (.abs f) s g f.g fun _ x =>
        x.wt f.ty f.d (intOp f.ty (fun a _ => if a < 0 then 0 - a else a) (f.va x) 0))
    ∧ (∀ f, LaneResult (.neg f) s g f.g fun _ x => x.wt f.ty f.d (intOp f.ty (fun a _ => 0 - a) (f.va x) 0))
    ∧ (∀ f, LaneResult (.min f) s g f.g fun _ x => x.wt f.ty f.d (minT f.ty (f.va x) (f.vb x)))
    ∧ (∀ f, LaneResult (.minI f) s g f.g fun _ x => x.wt f.ty f.d (minT f.ty (f.va x) (immT f.ty f.imm)))
    ∧ (∀ f, LaneResult (.max f) s g f.g fun _ x => x.wt f.ty f.d (maxT f.ty (f.va x) (f.vb x)))
    ∧ (∀ f, LaneResult (.maxI f) s g f.g fun _ x => x.wt f.ty f.d (maxT f.ty (f.va x) (immT f.ty f.imm)))

/-- R108: element i of D is e mod 2^w. -/
def Obligations.IntegerElements : Prop :=
  ∀ (t : Ty) (a b c : W64) (i : Nat), isFloat t = false → i < elemsOf t →
    let w := elemWidth t
    let el := fun v : W64 => intOf (isSigned t) w (elemAt w v i)
    elemAt w (addT t a b) i = ((el a + el b) % 2 ^ w).toNat
    ∧ elemAt w (subT t a b) i = ((el a - el b) % 2 ^ w).toNat
    ∧ elemAt w (mulT t a b) i = ((el a * el b) % 2 ^ w).toNat
    ∧ elemAt w (mulhT t a b) i = ((el a * el b / 2 ^ w) % 2 ^ w).toNat
    ∧ elemAt w (addT t (mulT t a b) c) i = ((el a * el b + el c) % 2 ^ w).toNat
    ∧ elemAt w (minT t a b) i = ((if el a < el b then el a else el b) % 2 ^ w).toNat
    ∧ elemAt w (maxT t a b) i = ((if el a > el b then el a else el b) % 2 ^ w).toNat
    ∧ elemAt w (intOp t (fun p _ => if p < 0 then 0 - p else p) a 0) i = ((if el a < 0 then 0 - el a else el a) % 2 ^ w).toNat
    ∧ elemAt w (intOp t (fun p _ => 0 - p) a 0) i = ((0 - el a) % 2 ^ w).toNat

/-- R109, R110: the values of DIV and REM in each case (neither raises a flag: their completion statement), and saturating addition and
subtraction with value, flag and frame. -/
def Obligations.DivisionAndSaturation : Prop :=
    (∀ (t : Ty) (a b : W64), isFloat t = false → elemsOf t = 1 →
      let w := elemWidth t
      let x := intOf (isSigned t) w a.toNat
      let y := intOf (isSigned t) w b.toNat
      (y = 0 → elemAt w (divT t a b) 0 = 2 ^ w - 1 ∧ elemAt w (remT t a b) 0 = elemAt w a 0)
      ∧ (isSigned t = true → x = -(2 ^ (w - 1)) → y = -1 →
          elemAt w (divT t a b) 0 = elemAt w a 0 ∧ elemAt w (remT t a b) 0 = 0)
      ∧ (y ≠ 0 → ¬ (isSigned t = true ∧ x = -(2 ^ (w - 1)) ∧ y = -1) →
          elemAt w (divT t a b) 0 = (Int.tdiv x y % 2 ^ w).toNat
          ∧ elemAt w (remT t a b) 0 = ((x - Int.tdiv x y * y) % 2 ^ w).toNat)
      ∧ (∀ (s : State) (g : Gang) (f : AForm), Issues s g →
          LaneResult (.div f) s g f.g (fun _ p => p.wt f.ty f.d (divT f.ty (f.va p) (f.vb p)))
          ∧ LaneResult (.rem f) s g f.g fun _ p => p.wt f.ty f.d (remT f.ty (f.va p) (f.vb p))))
  ∧ ((∀ (s : State) (g : Gang) (f : AForm), Issues s g →
      LaneResult (.addsat f) s g f.g (fun _ x => x.wt f.ty f.d (satT f.ty (· + ·) (f.va x) (f.vb x)))
        (fun _ x => satFlag f.ty (· + ·) (f.va x) (f.vb x))
      ∧ LaneResult (.subsat f) s g f.g (fun _ x => x.wt f.ty f.d (satT f.ty (· - ·) (f.va x) (f.vb x)))
        (fun _ x => satFlag f.ty (· - ·) (f.va x) (f.vb x)))
    ∧ ∀ (t : Ty) (a b : W64) (op : Int → Int → Int), isFloat t = false →
      let w := elemWidth t
      let lo : Int := if isSigned t then -(2 ^ (w - 1)) else 0
      let hi : Int := if isSigned t then 2 ^ (w - 1) - 1 else 2 ^ w - 1
      let e := fun i => op (intOf (isSigned t) w (elemAt w a i)) (intOf (isSigned t) w (elemAt w b i))
      (∀ i, i < elemsOf t → intOf (isSigned t) w (elemAt w (satT t op a b) i) = max lo (min hi (e i)))
      ∧ ((satFlag t op a b = flSAT ∧ ∃ i, i < elemsOf t ∧ (e i < lo ∨ hi < e i))
        ∨ (satFlag t op a b = 0 ∧ ∀ i, i < elemsOf t → lo ≤ e i ∧ e i ≤ hi)))

/-- R111, R112: the bitwise instructions and the shifts. The register file and width follow from ty alone. -/
def Obligations.BitwiseAndShifts : Prop :=
    (∀ (s : State) (g : Gang), Issues s g →
      (∀ f, LaneResult (.and f) s g f.g fun _ x => x.wt f.ty f.d (f.va x &&& f.vb x))
      ∧ (∀ f, LaneResult (.andI f) s g f.g fun _ x => x.wt f.ty f.d (f.va x &&& f.imm.setWidth 64))
      ∧ (∀ f, LaneResult (.or f) s g f.g fun _ x => x.wt f.ty f.d (f.va x ||| f.vb x))
      ∧ (∀ f, LaneResult (.orI f) s g f.g fun _ x => x.wt f.ty f.d (f.va x ||| f.imm.setWidth 64))
      ∧ (∀ f, LaneResult (.xor f) s g f.g fun _ x => x.wt f.ty f.d (f.va x ^^^ f.vb x))
      ∧ (∀ f, LaneResult (.xorI f) s g f.g fun _ x => x.wt f.ty f.d (f.va x ^^^ f.imm.setWidth 64))
      ∧ (∀ f, LaneResult (.andn f) s g f.g fun _ x => x.wt f.ty f.d (f.va x &&& ~~~(f.vb x)))
      ∧ (∀ f, LaneResult (.not f) s g f.g fun _ x => x.wt f.ty f.d (~~~(f.va x))))
  ∧ ((∀ (s : State) (g : Gang), Issues s g →
      (∀ f, LaneResult (.shl f) s g f.g fun _ x =>
          x.wt f.ty f.d (BitVec.ofNat 64 (shlW (elemWidth f.ty) (f.va x).toNat (x.rv f.b).toNat)))
      ∧ (∀ f, LaneResult (.shlI f) s g f.g fun _ x =>
          x.wt f.ty f.d (BitVec.ofNat 64 (shlW (elemWidth f.ty) (f.va x).toNat (f.imm.toNat % 64))))
      ∧ (∀ f, LaneResult (.shr f) s g f.g fun _ x =>
          x.wt f.ty f.d (BitVec.ofNat 64 (shrW (elemWidth f.ty) (f.va x).toNat (x.rv f.b).toNat)))
      ∧ (∀ f, LaneResult (.shrI f) s g f.g fun _ x =>
          x.wt f.ty f.d (BitVec.ofNat 64 (shrW (elemWidth f.ty) (f.va x).toNat (f.imm.toNat % 64))))
      ∧ (∀ f, LaneResult (.sar f) s g f.g fun _ x =>
          x.wt f.ty f.d (BitVec.ofNat 64 (sarW (elemWidth f.ty) (f.va x).toNat (x.rv f.b).toNat)))
      ∧ (∀ f, LaneResult (.sarI f) s g f.g fun _ x =>
          x.wt f.ty f.d (BitVec.ofNat 64 (sarW (elemWidth f.ty) (f.va x).toNat (f.imm.toNat % 64))))
      ∧ (∀ f, LaneResult (.rotl f) s g f.g fun _ x =>
          x.wt f.ty f.d (BitVec.ofNat 64 (rotlW (elemWidth f.ty) (f.va x).toNat (x.rv f.b).toNat)))
      ∧ (∀ f, LaneResult (.rotlI f) s g f.g fun _ x =>
          x.wt f.ty f.d (BitVec.ofNat 64 (rotlW (elemWidth f.ty) (f.va x).toNat (f.imm.toNat % 64)))))
    ∧ ∀ (w : Nat) (a : BitVec w) (n : Nat), 0 < w →
      shlW w a.toNat n = (a <<< n).toNat
      ∧ shrW w a.toNat n = (a >>> n).toNat
      ∧ sarW w a.toNat n = (a.sshiftRight n).toNat
      ∧ rotlW w a.toNat n = (a.rotateLeft n).toNat)

/-- R113, R114: FUNNEL, BFX and BFI. -/
def Obligations.FieldInstructions : Prop :=
  (∀ (s : State) (g : Gang), Issues s g →
    (∀ f, LaneResult (.funnel f) s g f.g fun _ x =>
        x.wt f.ty f.d (BitVec.ofNat 64 (funnelW (elemWidth f.ty) (f.mod.getLsbD 0) (f.mod.getLsbD 1) (f.va x).toNat
          (f.vb x).toNat (x.rv f.c).toNat)))
    ∧ (∀ f, LaneResult (.bfx f) s g f.g fun _ x =>
        x.wt f.ty f.d (BitVec.ofNat 64 (bfxW (elemWidth f.ty) (isSigned f.ty) ((x.rv f.b).toNat % 2 ^ 6)
          ((x.rv f.b).toNat / 2 ^ 6 % 2 ^ 7) (f.va x).toNat)))
    ∧ (∀ f, LaneResult (.bfxI f) s g f.g fun _ x =>
        x.wt f.ty f.d (BitVec.ofNat 64 (bfxW (elemWidth f.ty) (isSigned f.ty) (f.imm.toNat % 2 ^ 6)
          (f.imm.toNat / 2 ^ 6 % 2 ^ 7) (f.va x).toNat)))
    ∧ (∀ f, LaneResult (.bfi f) s g f.g fun _ x =>
        x.wt f.ty f.d (BitVec.ofNat 64 (bfiW (elemWidth f.ty) ((x.rv f.c).toNat % 2 ^ 6) ((x.rv f.c).toNat / 2 ^ 6 % 2 ^ 7)
          (f.va x).toNat (f.vb x).toNat))))
  ∧ (∀ (w : Nat) (hi modw : Bool) (a b n : Nat), 0 < w → a < 2 ^ w → b < 2 ^ w →
      let sh := if modw then n % w else min n w
      funnelW w hi modw a b n
        = if hi then (a * 2 ^ w + b) * 2 ^ sh / 2 ^ w % 2 ^ w else (a * 2 ^ w + b) / 2 ^ sh % 2 ^ w)
  ∧ (∀ (w pos wid a : Nat) (signed : Bool), 0 < w → a < 2 ^ w →
      let k := min wid (w - pos)
      (w ≤ pos ∨ wid = 0 → bfxW w signed pos wid a = 0)
      ∧ (pos < w → 0 < wid → bfxW w signed pos wid a < 2 ^ w ∧ ∀ j, j < w →
          (bfxW w signed pos wid a).testBit j = if j < k then a.testBit (pos + j) else (signed && a.testBit (pos + k - 1))))
  ∧ (∀ (w pos wid a b : Nat), 0 < w → a < 2 ^ w → b < 2 ^ w →
      let k := min wid (w - pos)
      (w ≤ pos ∨ wid = 0 → bfiW w pos wid a b = a)
      ∧ (pos < w → 0 < wid → bfiW w pos wid a b < 2 ^ w ∧ ∀ j, j < w →
          (bfiW w pos wid a b).testBit j = if pos ≤ j ∧ j < pos + k then b.testBit (j - pos) else a.testBit j))

/-- R115: bit counts and reversal. -/
def Obligations.BitCounts : Prop :=
  (∀ (s : State) (g : Gang), Issues s g →
    (∀ f, LaneResult (.popc f) s g f.g fun _ x => x.wv f.d (BitVec.ofNat 32 (popcW (elemWidth f.ty) (f.va x).toNat)))
    ∧ (∀ f, LaneResult (.clz f) s g f.g fun _ x => x.wv f.d (BitVec.ofNat 32 (clzW (elemWidth f.ty) (f.va x).toNat)))
    ∧ (∀ f, LaneResult (.ctz f) s g f.g fun _ x => x.wv f.d (BitVec.ofNat 32 (ctzW (elemWidth f.ty) (f.va x).toNat)))
    ∧ (∀ f, LaneResult (.brev f) s g f.g fun _ x =>
        x.wt f.ty f.d (BitVec.ofNat 64 (brevW (elemWidth f.ty) (f.va x).toNat))))
  ∧ ∀ w a : Nat, 0 < w → a < 2 ^ w →
      popcW w a = ((List.range w).filter fun i => a.testBit i).length
      ∧ (a = 0 → clzW w a = w ∧ ctzW w a = w)
      ∧ (a ≠ 0 → clzW w a < w ∧ a.testBit (w - 1 - clzW w a) = true ∧ ∀ i, w - 1 - clzW w a < i → a.testBit i = false)
      ∧ (a ≠ 0 → ctzW w a < w ∧ a.testBit (ctzW w a) = true ∧ ∀ i, i < ctzW w a → a.testBit i = false)
      ∧ brevW w a < 2 ^ w ∧ ∀ i, i < w → (brevW w a).testBit i = a.testBit (w - 1 - i)

/-- R116 to R118: permutes, moves and addresses. -/
def Obligations.MovesAndAddresses : Prop :=
  (∀ (s : State) (g : Gang), Issues s g →
    (∀ f, LaneResult (.prmt f) s g f.g fun _ x => x.wv f.d (prmt (x.rv f.a) (x.rv f.b) (x.rv f.c)))
    ∧ (∀ f, LaneResult (.sel f) s g f.g fun _ x =>
        x.wt f.ty f.d (if (x.rp f.c ^^ f.ext.getLsbD 0) = true then f.va x else f.vb x))
    ∧ (∀ f, LaneResult (.mov f) s g f.g fun _ x => x.wt f.ty f.d (f.va x))
    ∧ (∀ f, LaneResult (.movi f) s g f.g fun _ x =>
        x.wt f.ty f.d (if f.ty = .s64 then f.lit.signExtend 64 else f.lit.setWidth 64))
    ∧ (∀ f, LaneResult (.lea f) s g f.g fun _ x =>
        x.wx f.d (x.rx f.a
          + ((if f.ty = .s32 then (x.rv f.b).signExtend 64 else if f.ty = .n32 then (x.rv f.b).setWidth 64 else x.rx f.b : W64)
              <<< (f.ext.toNat % 2 ^ 4))
          + (f.ext.extractLsb' 4 14).signExtend 64))
    ∧ (∀ f, LaneResult (.leaI f) s g f.g fun _ x => x.wx f.d (x.rx f.a + f.imm.signExtend 64)))
  ∧ ∀ (a b c : W32) (k : Nat), k < 4 →
      let nib := c.toNat / 2 ^ (4 * k) % 16
      let pool := if nib % 8 < 4 then a.toNat / 2 ^ (8 * (nib % 8)) % 256 else b.toNat / 2 ^ (8 * (nib % 8 - 4)) % 256
      (prmt a b c).toNat / 2 ^ (8 * k) % 256 = if nib < 8 then pool else if 128 ≤ pool then 255 else 0

/-- R120 to R123: compares and predicates. -/
def Obligations.PredicateInstructions : Prop :=
  (∀ (s : State) (g : Gang), Issues s g →
    (∀ f, LaneResult (.cmp f) s g f.g fun _ x => x.wp f.d (cmpT f.mod f.ty (f.va x) (f.vb x)))
    ∧ (∀ f, LaneResult (.cmpI f) s g f.g fun _ x => x.wp f.d (cmpT f.mod f.ty (f.va x) (immT f.ty f.imm)))
    ∧ (∀ f, LaneResult (.fcmp f) s g f.g (fun _ x => x.wp f.d (fcmpT f.mod f.ty (f.va x) (f.vb x)).1)
        (fun _ x => (fcmpT f.mod f.ty (f.va x) (f.vb x)).2))
    ∧ (∀ f, LaneResult (.pand f) s g f.g fun _ x => x.wp f.d (x.rp f.a && x.rp f.b))
    ∧ (∀ f, LaneResult (.por f) s g f.g fun _ x => x.wp f.d (x.rp f.a || x.rp f.b))
    ∧ (∀ f, LaneResult (.pxor f) s g f.g fun _ x => x.wp f.d (x.rp f.a ^^ x.rp f.b))
    ∧ (∀ f, LaneResult (.pnot f) s g f.g fun _ x => x.wp f.d (!x.rp f.a))
    ∧ (∀ f, LaneResult (.psel f) s g f.g fun _ x => x.wp f.d (if x.rp f.c then x.rp f.a else x.rp f.b))
    ∧ (∀ f, LaneResult (.pmov f) s g f.g fun _ x =>
        if f.mod.getLsbD 0 then { x with preds := (x.rv f.a).setWidth 12 } else x.wv f.d (x.preds.setWidth 32)))
  ∧ (∀ (m : BitVec 4) (t : Ty) (a b : W64), m.toNat < 6 → isFloat t = false → elemsOf t = 1 →
      let x := intOf (isSigned t) (elemWidth t) a.toNat
      let y := intOf (isSigned t) (elemWidth t) b.toNat
      cmpT m t a b = true ↔
        (m = 0 ∧ x = y) ∨ (m = 1 ∧ x ≠ y) ∨ (m = 2 ∧ x < y) ∨ (m = 3 ∧ x ≤ y) ∨ (m = 4 ∧ x > y) ∨ (m = 5 ∧ x ≥ y))
  ∧ ∀ (x : Fibre) (d n : Nat) (b : Bool), d < 12 →
      (x.wp d b).rp n = (if n = d then b else x.rp n) ∧ (x.wp d b) = { x with preds := (x.wp d b).preds }

/-! ### Floating, packed and gang instructions (R124 to R149) -/

/-- R102, R124 to R134: the floating instructions complete for every form. -/
def Obligations.FloatingCompletes : Prop :=
  ∀ (s : State) (g : Gang), Issues s g →
    (∀ f, LaneResult (.fadd f) s g f.g (fun _ x => x.wt f.ty f.d (faddT f.ty f.mod (f.va x) (f.vb x)).1)
        (fun _ x => (faddT f.ty f.mod (f.va x) (f.vb x)).2))
    ∧ (∀ f, LaneResult (.fsub f) s g f.g (fun _ x => x.wt f.ty f.d (fsubT f.ty f.mod (f.va x) (f.vb x)).1)
        (fun _ x => (fsubT f.ty f.mod (f.va x) (f.vb x)).2))
    ∧ (∀ f, LaneResult (.fmul f) s g f.g (fun _ x => x.wt f.ty f.d (fmulT f.ty f.mod (f.va x) (f.vb x)).1)
        (fun _ x => (fmulT f.ty f.mod (f.va x) (f.vb x)).2))
    ∧ (∀ f, LaneResult (.fdiv f) s g f.g (fun _ x => x.wt f.ty f.d (fdivT f.ty f.mod (f.va x) (f.vb x)).1)
        (fun _ x => (fdivT f.ty f.mod (f.va x) (f.vb x)).2))
    ∧ (∀ f, LaneResult (.fmin f) s g f.g (fun _ x => x.wt f.ty f.d (fminmaxT false f.ty (f.va x) (f.vb x)).1)
        (fun _ x => (fminmaxT false f.ty (f.va x) (f.vb x)).2))
    ∧ (∀ f, LaneResult (.fmax f) s g f.g (fun _ x => x.wt f.ty f.d (fminmaxT true f.ty (f.va x) (f.vb x)).1)
        (fun _ x => (fminmaxT true f.ty (f.va x) (f.vb x)).2))
    ∧ (∀ f, LaneResult (.fsqrt f) s g f.g (fun _ x => x.wt f.ty f.d (fsqrtT f.ty f.mod (f.va x)).1)
        (fun _ x => (fsqrtT f.ty f.mod (f.va x)).2))
    ∧ (∀ f, LaneResult (.frcp f) s g f.g (fun _ x => x.wt f.ty f.d (frcpT f.ty f.mod (f.va x)).1)
        (fun _ x => (frcpT f.ty f.mod (f.va x)).2))
    ∧ (∀ f, LaneResult (.frsq f) s g f.g (fun _ x => x.wt f.ty f.d (frsqT f.ty f.mod (f.va x)).1)
        (fun _ x => (frsqT f.ty f.mod (f.va x)).2))
    ∧ (∀ f, LaneResult (.fexp2 f) s g f.g (fun _ x => x.wt f.ty f.d (fexp2T f.ty f.mod (f.va x)).1)
        (fun _ x => (fexp2T f.ty f.mod (f.va x)).2))
    ∧ (∀ f, LaneResult (.flog2 f) s g f.g (fun _ x => x.wt f.ty f.d (flog2T f.ty f.mod (f.va x)).1)
        (fun _ x => (flog2T f.ty f.mod (f.va x)).2))
    ∧ (∀ f, LaneResult (.fsin f) s g f.g (fun _ x => x.wt f.ty f.d (fsinT f.ty f.mod (f.va x)).1)
        (fun _ x => (fsinT f.ty f.mod (f.va x)).2))
    ∧ (∀ f, LaneResult (.fcos f) s g f.g (fun _ x => x.wt f.ty f.d (fcosT f.ty f.mod (f.va x)).1)
        (fun _ x => (fcosT f.ty f.mod (f.va x)).2))
    ∧ (∀ f, LaneResult (.ftanh f) s g f.g (fun _ x => x.wt f.ty f.d (ftanhT f.ty f.mod (f.va x)).1)
        (fun _ x => (ftanhT f.ty f.mod (f.va x)).2))
    ∧ (∀ f, LaneResult (.frnd f) s g f.g (fun _ x => x.wt f.ty f.d (frndT f.ty f.mod (f.va x)).1)
        (fun _ x => (frndT f.ty f.mod (f.va x)).2))
    ∧ (∀ f, LaneResult (.fcopysign f) s g f.g (fun _ x => x.wt f.ty f.d (fcopysignT f.ty (f.va x) (f.vb x)).1)
        (fun _ x => (fcopysignT f.ty (f.va x) (f.vb x)).2))
    ∧ (∀ f, LaneResult (.ffma f) s g f.g (fun _ x => x.wt f.ty f.d (ffmaT f.ty f.mod (f.va x) (f.vb x) (f.vc x)).1)
        (fun _ x => (ffmaT f.ty f.mod (f.va x) (f.vb x) (f.vc x)).2))
    ∧ (∀ f, LaneResult (.fscale f) s g f.g (fun _ x => x.wt f.ty f.d (fscaleT f.ty f.mod (f.va x) (x.rv f.b).toInt).1)
        (fun _ x => (fscaleT f.ty f.mod (f.va x) (x.rv f.b).toInt).2))
    ∧ (∀ f, LaneResult (.fclass f) s g f.g fun _ x => x.wv f.d (fclassT f.ty (f.va x)))
    ∧ (∀ f, LaneResult (.cvt f) s g f.g
        (fun _ x => x.wt f.ty f.d (cvtT (tyOf (f.ext.toNat % 16)) f.ty f.mod (x.rt (tyOf (f.ext.toNat % 16)) f.a)).1)
        (fun _ x => (cvtT (tyOf (f.ext.toNat % 16)) f.ty f.mod (x.rt (tyOf (f.ext.toNat % 16)) f.a)).2))
    ∧ (∀ f, LaneResult (.faddL f) s g f.g (fun _ x => x.wt f.ty f.d (faddT f.ty f.mod (f.va x) (f.lit.setWidth 64)).1)
        (fun _ x => (faddT f.ty f.mod (f.va x) (f.lit.setWidth 64)).2))
    ∧ (∀ f, LaneResult (.fmulL f) s g f.g (fun _ x => x.wt f.ty f.d (fmulT f.ty f.mod (f.va x) (f.lit.setWidth 64)).1)
        (fun _ x => (fmulT f.ty f.mod (f.va x) (f.lit.setWidth 64)).2))

/-- R94, R98, R128: NaN results, and FMIN and FMAX, with the order of values read from the bits. -/
def Obligations.NanResultsAndMinMax : Prop :=
  (
    ∀ (t : Ty) (m : BitVec 4) (a b : W64) (k : Int), (t, fmtOf t) ∈ [(.fp64, fp64), (.fp32, fp32), (.fp16, fp16), (.bf16, bf16)] →
      let w := elemWidth t
      let mag := fun v : W64 => v.toNat % 2 ^ (w - 1)
      let inf := (2 ^ (w - 1) - 2 ^ (fmtOf t).m)
      let canon : W64 := match t with
        | .fp64 => 0x7FF8000000000000 | .fp32 => 0x7FC00000 | .fp16 => 0x7E00 | _ => 0x7FC0
      let nan := fun v : W64 => inf < mag v
      let sig := fun v : W64 => inf < mag v ∧ (mag v).testBit ((fmtOf t).m - 1) = false
      (nan a ∨ nan b →
        (faddT t m a b).1 = canon ∧ (fsubT t m a b).1 = canon ∧ (fmulT t m a b).1 = canon ∧ (fdivT t m a b).1 = canon
        ∧ (sig a ∨ sig b → (faddT t m a b).2 = flNV ∧ (fsubT t m a b).2 = flNV ∧ (fmulT t m a b).2 = flNV ∧ (fdivT t m a b).2 = flNV)
        ∧ (¬ sig a → ¬ sig b → (faddT t m a b).2 = 0 ∧ (fsubT t m a b).2 = 0 ∧ (fmulT t m a b).2 = 0 ∧ (fdivT t m a b).2 = 0))
      ∧ (nan a →
        (fsqrtT t m a).1 = canon ∧ (frcpT t m a).1 = canon ∧ (frsqT t m a).1 = canon ∧ (fscaleT t m a k).1 = canon
        ∧ (frndT t m a).1 = canon
        ∧ (nan b → (fminmaxT false t a b).1 = canon ∧ (fminmaxT true t a b).1 = canon)
        ∧ (sig a → (fsqrtT t m a).2 = flNV ∧ (frcpT t m a).2 = flNV ∧ (frsqT t m a).2 = flNV ∧ (fscaleT t m a k).2 = flNV
            ∧ (frndT t m a).2 = flNV)
        ∧ (¬ sig a → (fsqrtT t m a).2 = 0 ∧ (frcpT t m a).2 = 0 ∧ (frsqT t m a).2 = 0 ∧ (fscaleT t m a k).2 = 0
            ∧ (frndT t m a).2 = 0))
      ∧ (mag a = inf → mag b = inf →
        fdivT t m a b = (canon, flNV)
        ∧ (a.toNat.testBit (w - 1) = b.toNat.testBit (w - 1) → fsubT t m a b = (canon, flNV))
        ∧ (a.toNat.testBit (w - 1) ≠ b.toNat.testBit (w - 1) → faddT t m a b = (canon, flNV)))
      ∧ (mag a = 0 → mag b = inf → fmulT t m a b = (canon, flNV) ∧ fmulT t m b a = (canon, flNV))
      ∧ (mag a = 0 → mag b = 0 → fdivT t m a b = (canon, flNV))
      ∧ (0 < mag a → mag a < inf → a.toNat.testBit (w - 1) = true → fsqrtT t m a = (canon, flNV)))
  ∧ (
    ∀ (t : Ty) (a b : W64), (t, fmtOf t) ∈ [(.fp64, fp64), (.fp32, fp32), (.fp16, fp16), (.bf16, bf16)] →
      a.toNat < 2 ^ elemWidth t → b.toNat < 2 ^ elemWidth t →
      let w := elemWidth t
      let mag := fun v : W64 => v.toNat % 2 ^ (w - 1)
      let inf := (2 ^ (w - 1) - 2 ^ (fmtOf t).m)
      let nan := fun v : W64 => inf < mag v
      let sig := fun v : W64 => inf < mag v ∧ (mag v).testBit ((fmtOf t).m - 1) = false
      let key : W64 → Int := fun v => if v.toNat.testBit (w - 1) then -(mag v : Int) - 1 else mag v
      (nan a → ¬ nan b → (fminmaxT false t a b).1 = b ∧ (fminmaxT true t a b).1 = b)
      ∧ (¬ nan a → nan b → (fminmaxT false t a b).1 = a ∧ (fminmaxT true t a b).1 = a)
      ∧ (¬ nan a → ¬ nan b →
          (fminmaxT false t a b).1 = (if key a ≤ key b then a else b)
          ∧ (fminmaxT true t a b).1 = (if key b ≤ key a then a else b))
      ∧ (∀ isMax : Bool, (sig a ∨ sig b → (fminmaxT isMax t a b).2 = flNV)
          ∧ (¬ (sig a ∨ sig b) → (fminmaxT isMax t a b).2 = 0)))

/-- R42, R121, R131, R133: the floating compare, sign copying and classification, read from the bits. -/
def Obligations.CompareCopysignClass : Prop :=
  (
    (∀ (s : State) (g : Gang) (f : AForm), Issues s g →
      LaneResult (.fcmp f) s g f.g (fun _ x => x.wp f.d (fcmpT f.mod f.ty (f.va x) (f.vb x)).1)
        (fun _ x => (fcmpT f.mod f.ty (f.va x) (f.vb x)).2))
    ∧ ∀ (c : BitVec 4) (t : Ty) (a b : W64), (t, fmtOf t) ∈ [(.fp64, fp64), (.fp32, fp32), (.fp16, fp16), (.bf16, bf16)] →
      let w := elemWidth t
      let mag := fun v : W64 => v.toNat % 2 ^ (w - 1)
      let inf := (2 ^ (w - 1) - 2 ^ (fmtOf t).m)
      let nan := fun v : W64 => inf < mag v
      let sig := fun v : W64 => inf < mag v ∧ (mag v).testBit ((fmtOf t).m - 1) = false
      let key : W64 → Int := fun v => if v.toNat.testBit (w - 1) then -(mag v : Int) else mag v
      let un := nan a ∨ nan b
      let p := (fcmpT c t a b).1 = true
      (c = 0 → (p ↔ ¬ un ∧ key a = key b)) ∧ (c = 1 → (p ↔ ¬ un ∧ key a ≠ key b)) ∧ (c = 2 → (p ↔ ¬ un ∧ key a < key b))
      ∧ (c = 3 → (p ↔ ¬ un ∧ key a ≤ key b)) ∧ (c = 4 → (p ↔ ¬ un ∧ key b < key a)) ∧ (c = 5 → (p ↔ ¬ un ∧ key b ≤ key a))
      ∧ (c = 6 → (p ↔ ¬ un)) ∧ (c = 8 → (p ↔ un ∨ key a = key b)) ∧ (c = 9 → (p ↔ un ∨ key a ≠ key b))
      ∧ (c = 10 → (p ↔ un ∨ key a < key b)) ∧ (c = 11 → (p ↔ un ∨ key a ≤ key b)) ∧ (c = 12 → (p ↔ un ∨ key b < key a))
      ∧ (c = 13 → (p ↔ un ∨ key b ≤ key a)) ∧ (c = 14 → (p ↔ un))
      ∧ ((fcmpT c t a b).2 = if (2 ≤ c.toNat ∧ c.toNat ≤ 5 ∧ un) ∨ sig a ∨ sig b then flNV else 0))
  ∧ (
    (∀ (t : Ty) (a b : W64), (t, fmtOf t) ∈ [(.fp64, fp64), (.fp32, fp32), (.fp16, fp16), (.bf16, bf16)] →
      a.toNat < 2 ^ elemWidth t →
      let w := elemWidth t
      let mag := a.toNat % 2 ^ (w - 1)
      let inf := (2 ^ (w - 1) - 2 ^ (fmtOf t).m)
      let neg := a.toNat.testBit (w - 1)
      let sig := inf < mag ∧ mag.testBit ((fmtOf t).m - 1) = false
      let canon : W64 := match t with
        | .fp64 => 0x7FF8000000000000 | .fp32 => 0x7FC00000 | .fp16 => 0x7E00 | _ => 0x7FC0
      (mag ≤ inf → fcopysignT t a b = (BitVec.ofNat 64 (mag + if b.toNat.testBit (w - 1) then 2 ^ (w - 1) else 0), 0))
      ∧ (inf < mag → (fcopysignT t a b).1 = canon ∧ (sig → (fcopysignT t a b).2 = flNV) ∧ (¬ sig → (fcopysignT t a b).2 = 0))
      ∧ fclassT t a = BitVec.ofNat 32 (2 ^ (
          if inf < mag then (if mag.testBit ((fmtOf t).m - 1) then 9 else 8)
          else if mag = inf then (if neg then 0 else 7)
          else if mag = 0 then (if neg then 3 else 4)
          else if mag < 2 ^ (fmtOf t).m then (if neg then 2 else 5)
          else (if neg then 1 else 6))))
    ∧ ∀ (s : State) (g : Gang) (f : AForm), Issues s g →
        LaneResult (.fcopysign f) s g f.g (fun _ x => x.wt f.ty f.d (fcopysignT f.ty (f.va x) (f.vb x)).1)
          (fun _ x => (fcopysignT f.ty (f.va x) (f.vb x)).2)
        ∧ LaneResult (.fclass f) s g f.g fun _ x => x.wv f.d (fclassT f.ty (f.va x)))

/-- R103, R136 to R141: the packed instructions complete for every form, and the values of the integer dot products. -/
def Obligations.PackedInstructions : Prop :=
    (∀ (s : State) (g : Gang), Issues s g →
      (∀ f, LaneResult (.dot8 f) s g f.g (fun _ x => x.wv f.d (dotT f (x.rv f.a) (x.rv f.b) (x.rv f.c)).1)
          (fun _ x => (dotT f (x.rv f.a) (x.rv f.b) (x.rv f.c)).2))
      ∧ (∀ f, LaneResult (.dot4 f) s g f.g (fun _ x => x.wv f.d (dotT f (x.rv f.a) (x.rv f.b) (x.rv f.c)).1)
          (fun _ x => (dotT f (x.rv f.a) (x.rv f.b) (x.rv f.c)).2))
      ∧ (∀ f, LaneResult (.dot2 f) s g f.g
          (fun _ x => x.wv f.d
            (dotFloatT f.ty 2 (rmodeOf f.mod) ((x.rv f.a).setWidth 64) ((x.rv f.b).setWidth 64) (x.rv f.c)).1)
          (fun _ x => (dotFloatT f.ty 2 (rmodeOf f.mod) ((x.rv f.a).setWidth 64) ((x.rv f.b).setWidth 64) (x.rv f.c)).2))
      ∧ (∀ f, LaneResult (.pack f) s g f.g
          (fun _ x => x.wv f.d (packT f.ty (f.mod.toNat % 4) (x.rv f.d) (x.rv f.a) (x.rv f.b)).1)
          (fun _ x => (packT f.ty (f.mod.toNat % 4) (x.rv f.d) (x.rv f.a) (x.rv f.b)).2))
      ∧ (∀ f, LaneResult (.unpack f) s g f.g (fun _ x => x.wv f.d (unpackT f.ty (f.mod.toNat % 8) (x.rv f.a)).1)
          (fun _ x => (unpackT f.ty (f.mod.toNat % 8) (x.rv f.a)).2))
      ∧ (∀ f, LaneResult (.scl f) s g f.g (fun l x => x.wv f.d (sclT f (laneScale f g l) (x.rv f.a)).1)
          (fun l x => (sclT f (laneScale f g l) (x.rv f.a)).2))
      ∧ (∀ f, LaneResult (.qnt f) s g f.g (fun l x => x.wv f.d (qntT f (laneScale f g l) (x.rv f.d) (x.rv f.a)).1)
          (fun l x => (qntT f (laneScale f g l) (x.rv f.d) (x.rv f.a)).2))
      ∧ (∀ f, LaneResult (.qntsr f) s g f.g (fun l x => x.wv f.d (qntsrT f (laneScale f g l) l x).1)
          (fun l x => (qntsrT f (laneScale f g l) l x).2)))
  ∧ (∀ (f : CForm) (a b c : W32), f.ty ∈ [.s8x4, .n8x4, .s4x8, .n4x8] →
      let w := elemWidth f.ty
      let n := if w = 8 then 4 else 8
      let el := fun (sg : Bool) (v : W32) (i : Nat) => intOf sg w (v.toNat / 2 ^ (w * i) % 2 ^ w)
      let sum : Int := c.toInt + ((List.range n).map fun i =>
        el (isSigned f.ty) a i * el (if f.ext.getLsbD 0 then !isSigned f.ty else isSigned f.ty) b i).sum
      (f.mod.getLsbD 0 = false → dotT f a b c = (BitVec.ofInt 32 sum, 0))
      ∧ (f.mod.getLsbD 0 = true → -(2 ^ 31) ≤ sum → sum < 2 ^ 31 → dotT f a b c = (BitVec.ofInt 32 sum, 0))
      ∧ (f.mod.getLsbD 0 = true → sum < -(2 ^ 31) → dotT f a b c = (0x80000000, flSAT))
      ∧ (f.mod.getLsbD 0 = true → 2 ^ 31 ≤ sum → dotT f a b c = (0x7FFFFFFF, flSAT))
      ∧ ∀ i, i < n → unpackT f.ty i a = (BitVec.ofInt 32 (el (isSigned f.ty) a i), 0))

/-- R103, R139, R142 to R145: where block scales live, and the exponent histogram. -/
def Obligations.ScalesAndHistogram : Prop :=
  (
    (∀ (f : CForm) (g : Gang) (l : Nat),
      let n := if f.ty = .fp32 then 1 else elemsOf f.ty
      let k := (l * n + f.ext.toNat / 4 % 8) / 32
      let r := 8 * k % 32
      ((g.lane r).status = .absent → laneScale f g l = 0xFF)
      ∧ ((g.lane r).status ≠ .absent →
          laneScale f g l = ((g.lane r).rv f.b).toNat / 2 ^ (8 * ((f.ext.toNat % 4 + k / 4) % 4)) % 256))
    ∧ ∀ (f : CForm) (a : W32), (sclT f 0xFF a).1 = 0x7FC00000 ∧ (sclT f 0xFF a).2 &&& flNV = flNV)
  ∧ (
    (∀ (s : State) (g : Gang) (f : AForm), Issues s g →
      ∃ h, exec (.hist f) s = .next (s.putCur h) ∧ LanesMove s g h f.g (fun _ x => x)
        ∧ h = { g with arch := { g.arch with fibres := h.arch.fibres }
                       region := { g.region with
                         energy := h.region.energy
                         hist := if s.inFirmware then []
                           else g.region.hist
                             ++ (lanesOf (execLanes s g f.g)).filterMap fun l => histBin (floatOf f.ty (f.va (g.lane l))) } })
    ∧ (∀ v, histBin v = match v with
        | .nan _ => none
        | .inf _ => some 63
        | .fin _ n e => if n = 0 then none else some (max 0 (min 63 ((Nat.log2 n : Int) + e + 32))).toNat)
    ∧ (∀ (s : State) (g : Gang) (f : IForm), Issues s g →
      let hist := if s.inFirmware then [] else mget [] s.curCore.hist g.ctx
      ∃ h, exec (.hclip f) s
          = .next (if f.imm.getLsbD 7 = true ∧ execLanes s g f.g ≠ 0 ∧ s.inFirmware = false then
                     (s.putCur h).modCore s.cur.core fun k => { k with hist := mset k.hist g.ctx [] }
                   else s.putCur h)
        ∧ LanesMove s g h f.g (fun _ x => x.wv f.d (hclipOf hist (f.imm.toNat % 128)))
        ∧ FlagsRise s g h f.g (fun _ _ => 0) ∧ GangRestKept g h)
    ∧ ∀ (h : TMap W32) (p : Nat), p ≤ 99 →
      let upto := fun j : Nat => ((List.range (j + 1)).map fun i => (mget 0 h i).toNat).sum
      let t := (upto 63 * (9900 + p) + 9999) / 10000
      (upto 63 = 0 → hclipOf h p = 0x80000000)
      ∧ (upto 63 ≠ 0 → ∃ j : Nat, j < 64 ∧ hclipOf h p = BitVec.ofInt 32 ((j : Int) - 32) ∧ t ≤ upto j ∧ ∀ i, i < j → upto i < t))

/-- R147, R148: the exchanges between lanes; R149: reductions and scans. -/
def Obligations.LaneExchangeAndReduction : Prop :=
    (∀ (s : State) (g : Gang), Issues s g →
      (∀ f, LaneResult (.shfl f) s g f.g fun l x =>
          let sz := 2 ^ (f.ext.toNat % 8)
          let b := (x.rv f.b).toNat
          let base := l - l % sz
          let m := f.mod.toNat % 4
          let src := if m = 0 then base + b % sz else if m = 1 then l - b else if m = 2 then l + b else l ^^^ (b % sz)
          let ok := (m = 1 → b ≤ l - base) ∧ (m = 2 → b < base + sz - l) ∧ (execLanes s g f.g).getLsbD src = true
          (x.wt f.ty f.d (f.va (if ok then g.lane src else x))).wp f.c (decide ok))
      ∧ (∀ f, LaneResult (.vote f) s g f.g fun _ x =>
          let every := (lanesOf (execLanes s g f.g)).all fun k => (g.lane k).rp f.a
          let none := (lanesOf (execLanes s g f.g)).all fun k => !(g.lane k).rp f.a
          x.wp f.d (if f.mod.toNat % 4 = 0 then every else if f.mod.toNat % 4 = 1 then !none else every || none))
      ∧ (∀ f, ∃ mask : Mask, LaneResult (.ballot f) s g f.g (fun _ x => x.wv f.d mask)
          ∧ ∀ k, k < 32 → mask.getLsbD k = ((execLanes s g f.g).getLsbD k && (g.lane k).rp f.a))
      ∧ (∀ f, LaneResult (.elect f) s g f.g fun l x =>
          x.wp f.d (decide (∀ k, k < l → (execLanes s g f.g).getLsbD k = false))))
  ∧ ((∀ (s : State) (g : Gang), Issues s g →
      (∀ f, LaneResult (.greduce f) s g f.g
          (fun _ x => x.wt f.ty f.d (combine f false g (lanesOf (execLanes s g f.g))).1)
          (fun _ _ => (combine f false g (lanesOf (execLanes s g f.g))).2))
      ∧ (∀ f, LaneResult (.gscan f) s g f.g
          (fun l x => x.wt f.ty f.d (combine f true g ((lanesOf (execLanes s g f.g)).filter fun k =>
            if f.mod.getLsbD 3 then k < l else k ≤ l)).1)
          (fun l _ => (combine f true g ((lanesOf (execLanes s g f.g)).filter fun k =>
            if f.mod.getLsbD 3 then k < l else k ≤ l)).2)))
    ∧ ∀ (f : AForm) (scan : Bool) (g : Gang) (ls : List Nat), f.ty ∈ [.s32, .n32, .s64, .n64] →
      (f.mod.toNat % 8 = 0 →
        combine f scan g ls = (BitVec.ofNat 64 ((ls.map fun l => (f.va (g.lane l)).toNat).sum % 2 ^ elemWidth f.ty), 0))
      ∧ (f.mod.toNat % 8 = 1 → (combine f scan g []).1 = BitVec.ofNat 64
          (if isSigned f.ty then 2 ^ (elemWidth f.ty - 1) - 1 else 2 ^ elemWidth f.ty - 1))
      ∧ (f.mod.toNat % 8 = 2 → (combine f scan g []).1 = BitVec.ofNat 64 (if isSigned f.ty then 2 ^ (elemWidth f.ty - 1) else 0))
      ∧ (f.mod.toNat % 8 = 3 → (combine f scan g []).1 = BitVec.ofNat 64 (2 ^ elemWidth f.ty - 1))
      ∧ (f.mod.toNat % 8 = 4 ∨ f.mod.toNat % 8 = 5 → (combine f scan g []).1 = 0))

/-! ### Control flow and rejoin sets (R150 to R177) -/

/-- R153, R154: branches. -/
def Obligations.Branches : Prop :=
  ∀ (s : State) (g : Gang), Issues s g →
    (∀ f, let t := s.cur.head + 4 * f.lit.signExtend 64
      ((∀ l, (execLanes s g f.g).getLsbD l = true → InCode s (g.lane l) t) →
        LanesResult (.bra f) s g f.g fun _ x => { x with pc := t })
      ∧ ∀ l, LowestOf (execLanes s g f.g) (fun k => ¬ InCode s (g.lane k) t) l →
        exec (.bra f) s = .next (takeTrap s tcPROT l [t, 0x83]))
    ∧ ∀ f, ((∀ l, (execLanes s g f.g).getLsbD l = true → InCode s (g.lane l) ((g.lane l).rx f.a)) →
        LanesResult (.brx f) s g f.g fun _ x => { x with pc := x.rx f.a })
      ∧ ∀ l, LowestOf (execLanes s g f.g) (fun k => ¬ InCode s (g.lane k) ((g.lane k).rx f.a)) l →
        exec (.brx f) s = .next (takeTrap s tcPROT l [(g.lane l).rx f.a, 0x83])

/-- R154 to R157: calls and returns. -/
def Obligations.CallsAndReturns : Prop :=
  (∀ (s : State) (g : Gang), Issues s g →
    (∀ f, let t := s.cur.head + 4 * f.lit.signExtend 64
      ((∀ l, (execLanes s g f.g).getLsbD l = true →
          InCode s (g.lane l) t ∧ IsEntry s (g.lane l) t false ∧ (g.lane l).callers.length < 255) →
        LanesResult (.call f) s g f.g fun _ x => callWithin s x t)
      ∧ ∀ l, LowestOf (execLanes s g f.g) (fun k => ¬ (InCode s (g.lane k) t ∧ IsEntry s (g.lane k) t false
              ∧ (g.lane k).callers.length < 255)) l →
        (¬ InCode s (g.lane l) t → exec (.call f) s = .next (takeTrap s tcPROT l [t, 0x83]))
        ∧ (InCode s (g.lane l) t → ¬ IsEntry s (g.lane l) t false → exec (.call f) s = .next (takeTrap s tcPROT l [t, 0x84]))
        ∧ (InCode s (g.lane l) t → IsEntry s (g.lane l) t false → exec (.call f) s = .next (takeTrap s tcPROT l [t, 0x81])))
    ∧ (∀ f, (∀ l, (execLanes s g f.g).getLsbD l = true →
          InCode s (g.lane l) ((g.lane l).rx f.a) ∧ IsEntry s (g.lane l) ((g.lane l).rx f.a) false
          ∧ (g.lane l).callers.length < 255) →
        LanesResult (.callx f) s g f.g fun _ x => callWithin s x (x.rx f.a))
    ∧ ∀ f, let e := execLanes s g f.g
      ((∀ l, e.getLsbD l = true → ∃ a r, (g.lane l).callers = a :: r ∧ InCode s (g.lane l) a.ret) →
        LanesResult (.ret f) s g f.g fun _ x => x.return)
      ∧ (∀ l, LowestOf e (fun k => (g.lane k).callers = []) l → exec (.ret f) s = .next (takeTrap s tcPROT l [0, 0x82]))
      ∧ ∀ l a r, (∀ k, e.getLsbD k = true → (g.lane k).callers ≠ []) → (g.lane l).callers = a :: r →
          LowestOf e (fun k => ∃ b q, (g.lane k).callers = b :: q ∧ ¬ InCode s (g.lane k) b.ret) l →
          exec (.ret f) s = .next (takeTrap s tcPROT l [a.ret, 0x83]))
  ∧ (∀ (s : State) (x : Fibre) (t : W64),
      callWithin s x t = { x.call s.cur.next t with nbase := (callWithin s x t).nbase }
      ∧ ((∀ q, s.curGang?.bind (translOf s) = some q → q.words = []) → callWithin s x t = x.call s.cur.next t))
  ∧ (∀ (x : Fibre) (r t : W64) (n : Nat),
      (x.call r t).rv n = (if n < 16 then x.rv n else 0) ∧ (x.call r t).rx n = (if n < 9 then x.rx n else 0)
      ∧ (x.call r t).pc = t ∧ (x.call r t).preds = x.preds
      ∧ ∃ a, (x.call r t).callers = a :: x.callers ∧ a.ret = r ∧ a.v = x.v ∧ a.x = x.x)
  ∧ ∀ (x : Fibre) (a : Activation) (q : List Activation) (n : Nat), x.callers = a :: q →
      x.return.pc = a.ret ∧ x.return.callers = q ∧ x.return.preds = x.preds
      ∧ x.return.rv n = (if n < 16 then x.rv n else mget 0 a.v n) ∧ x.return.rx n = (if n < 9 then x.rx n else mget 0 a.x n)

/-- R158, R159, R174: exit and new work. -/
def Obligations.ExitAndSpawn : Prop :=
  (∀ (s : State) (g : Gang), Issues s g →
    (∀ f, exec (.nop f) s = .next (s.putCur (movedOn s g g)))
    ∧ (s.inFirmware = false →
      (∀ f, ∃ h, exec (.exit f) s = .next (s.putCur h)
        ∧ LanesMove s g h f.g (fun _ x => { x with status := .parked .exiting })
        ∧ h = { g with arch := { g.arch with fibres := h.arch.fibres }
                       region := { g.region with energy := h.region.energy, exits := g.region.exits ||| execLanes s g f.g } })
      ∧ (∀ f, (∀ l, (execLanes s g f.g).getLsbD l = true →
            InCode s (g.lane l) ((g.lane l).rx f.a) ∧ IsEntry s (g.lane l) ((g.lane l).rx f.a) true) →
          exec (.spawn f) s = .next (retireWith ((lanesOf (execLanes s g f.g)).foldl (spawnLane f g) s) id))
      ∧ (∀ f, execLanes s g f.g = 0 → exec (.fork f) s = .next (s.putCur (movedOn s g g)))
      ∧ (∀ f l, LowestOf (execLanes s g f.g) (fun k => ¬ (InCode s (g.lane k) ((g.lane k).rx f.a)
            ∧ IsEntry s (g.lane k) ((g.lane k).rx f.a) true)) l → ¬ InCode s (g.lane l) ((g.lane l).rx f.a) →
          exec (.spawn f) s = .next (takeTrap s tcPROT l [(g.lane l).rx f.a, 0x83]))))
  ∧ (∀ (f : CForm) (g h : Gang) (s : State) (l : Nat), Issues s h → s.inFirmware = false → (h.lane l).status ≠ .absent → l < 32 →
      let x := g.lane l
      let t := spawnLane f g s l
      let serial := ((s.job? g.tenant x.job).map fun j => j.nextSerial).getD 1
      let child := newFibre x s.uids serial (x.rx f.a) (argRun x f.b (f.ext.toNat % 32)) (argRunX x f.c (f.ext.toNat / 32 % 16))
        g.home 0 x.clock
      t.uids = s.uids + 1 ∧ t.mem = s.mem ∧ t.hostMem = s.hostMem
      ∧ t.jobs = updFirst (fun j => j.tenant == g.tenant && j.number == x.job) (fun j => { j with nextSerial := j.nextSerial + 1 }) s.jobs
      ∧ t.launches = updFirst (fun k => k.uid == x.launch) (fun k => { k with spawned := k.spawned + 1 }) s.launches
      ∧ ((∃ b, b ∈ (t.core s.cur.core).bins ∧ child ∈ b.fibres)
          ∨ ∃ q, q ∈ (t.die (s.cur.core / 256)).pool ∧ q.fibre = some child)
      ∧ ∃ h', Issues t h' ∧ (h'.lane l).rx f.d = BitVec.ofNat 64 serial ∧ ∀ n, n ≠ l → h'.lane n = h.lane n)
  ∧ ∀ (parent : Fibre) (uid serial : Nat) (entry : W64) (v : TMap W32) (x : TMap W64) (home task : Nat) (clock : TMap Nat),
      let c := newFibre parent uid serial entry v x home task clock
      c.status = .ready ∧ c.pc = entry ∧ c.entry = entry ∧ c.name = .spawned serial ∧ c.job = parent.job
      ∧ c.launch = parent.launch ∧ c.home = home ∧ c.preds = 0 ∧ c.callers = [] ∧ c.stackSize = parent.stackSize
      ∧ (∀ n, c.rv n = mget 0 v n)
      ∧ (∀ n, n ≠ 8 → c.rx n = mget 0 x n) ∧ c.rx 8 = 0x00FE000000000000 + BitVec.ofNat 64 parent.stackSize

/-- R163, R164, R166: the set instructions. A destination j0 is an encoding fault (R46), so `f.d` is 1 to 7 in what decodes. -/
def Obligations.RejoinSets : Prop :=
  ∀ (s : State) (g : Gang) (f : AForm), Issues s g → s.inFirmware = false →
    let e := execLanes s g f.g
    let d := f.d
    let only (i : Instr) (h : Gang) : Prop := exec i s = .next (s.putCur (movedOn s g h))
    LanesResult (.jread f) s g f.g (fun _ x => { x.wv f.d (if f.a = 0 then g.live else mget 0 g.member f.a) with pc := s.cur.next })
    ∧ (e = 0 → only (.jenter f) g ∧ only (.jquit f) g ∧ only (.jinit f) g ∧ only (.jclr f) g)
    ∧ (e ≠ 0 → d ≠ 0 →
        only (.jenter f) { g with member := mset g.member d (mget 0 g.member d ||| e) }
        ∧ (∃ h, only (.jquit f) h ∧ SetBecomes g h d (mget 0 g.member d &&& ~~~e) (g.arriveOf d &&& ~~~e) 0)
        ∧ (let m := (g.lane (lowLane e)).rv f.a
           ∃ h, only (.jinit f) h ∧ SetBecomes g h d (m &&& g.live) (g.arriveOf d &&& m) (g.arriveOf d &&& ~~~m))
        ∧ (g.arriveOf d = 0 → only (.jclr f) { g with member := mset g.member d 0 })
        ∧ (g.arriveOf d ≠ 0 → exec (.jclr f) s = .next (takeTrap s tcORPH (lowLane e) (orphInfos g))))

/-- R163, R165, R170: waiting in a set. -/
def Obligations.JoinWait : Prop :=
  (∀ (s : State) (g : Gang) (f : AForm), Issues s g → s.inFirmware = false →
    let e := execLanes s g f.g
    let m := e &&& g.memberOf f.a
    let arr := g.arriveOf f.a ||| m
    let rel := e ≠ 0 ∧ arr ≠ 0 ∧ g.memberOf f.a &&& ~~~arr = 0
    ∃ h, exec (.jwait f) s = .next (if m = 0 then s.putCur h else examine (s.putCur h) s.cur.core s.cur.gang)
      ∧ h = { g with arch := { g.arch with fibres := h.arch.fibres }, base := { g.base with fibres := h.base.fibres }
                     arrive := h.arrive, waits := h.waits, region := { g.region with energy := h.region.energy } }
      ∧ (∀ j, j ≠ f.a → h.arriveOf j = g.arriveOf j)
      ∧ (¬ rel → h.arriveOf f.a = arr ∧ h.base = g.base
          ∧ (∀ l, h.lane l =
              if m.getLsbD l then { g.lane l with status := .parked (.jwait f.a) }
              else if (groupLanes s g).getLsbD l then { g.lane l with pc := s.cur.next } else g.lane l)
          ∧ ∃ w, h.waits = g.waits ++ (if m = 0 then [] else [w]) ∧ w.mask = m ∧ w.instr = .jwait f ∧ w.next = s.cur.next
              ∧ w.cause = .jwait f.a)
      ∧ (rel → h.arriveOf f.a = 0
          ∧ (∀ l, l < 32 → arr.getLsbD l = true → (g.lane l).status ≠ .absent →
              SameRegs (h.lane l) { g.lane l with
                status := .ready
                pc := match g.waits.find? fun w => w.mask.getLsbD l with
                  | some w => w.next
                  | none => if (groupLanes s g).getLsbD l then s.cur.next else (g.lane l).pc })
          ∧ (∀ l, arr.getLsbD l = false →
              h.lane l = if (groupLanes s g).getLsbD l then { g.lane l with pc := s.cur.next } else g.lane l)
          ∧ h.waits = dropWaits arr g.waits))
  ∧ ∀ (t : State) (c k : Nat),
      (∀ h, mfind (t.core c).gangs k = some h → (∀ l, (h.lane l).jwaitSet = none)
        ∨ ∃ l, l < 32 ∧ (h.lane l).status ≠ .absent ∧ (h.lane l).jwaitSet = none ∧ (h.lane l).atBarrier = false) →
      examine t c k = t
/-- R167 to R169: block barriers. -/
def Obligations.BlockBarriers : Prop :=
  (∀ (s : State) (g : Gang) (b : Block), Issues s g → s.inFirmware = false → s.blockOf? s.cur.core g = some b →
    (∀ (f : IForm), let e := execLanes s g f.g
      let slot := f.imm.toNat % 16
      let p := (mfind b.bars slot).getD (BarPhase.fresh false 0)
      (e = 0 → exec (.bar f) s = .next (s.putCur (movedOn s g g)))
      ∧ (e ≠ 0 → p.barn = true → exec (.bar f) s = .next (takeTrap s tcBARX (lowLane e) (barxInfos slot true)))
      ∧ (e ≠ 0 → p.barn = false →
          ∃ t h q, exec (.bar f) s = .next (examine (evalPhase t s.cur.core b.uid slot) s.cur.core s.cur.gang)
            ∧ Issues t h ∧ t = { s with cores := t.cores }
            ∧ (∀ l, e.getLsbD l = true → (h.lane l).status = .parked (.bar slot) ∧ (h.lane l).pc = (g.lane l).pc)
            ∧ (∀ l, e.getLsbD l = false →
                h.lane l = if (groupLanes s g).getLsbD l then { g.lane l with pc := s.cur.next } else g.lane l)
            ∧ q.parked = mmod 0 p.parked s.cur.gang (fun x => x ||| e) ∧ q.barn = false ∧ q.total = p.total
            ∧ (t.core s.cur.core).block? b.uid = some { b with bars := mset b.bars slot q }))
    ∧ ∀ (f : CForm), let e := execLanes s g f.g
      let slot := f.ext.toNat % 16
      let p := (mfind b.bars slot).getD (BarPhase.fresh true ((g.lane (lowLane e)).rv f.a).toNat)
      (e = 0 → exec (.barn f) s = .next (s.putCur (movedOn s g g)))
      ∧ (e ≠ 0 → p.barn = false → exec (.barn f) s = .next (takeTrap s tcBARX (lowLane e) (barxInfos slot false)))
      ∧ (e ≠ 0 → p.barn = true → p.count ≠ 0 → countLanes e ≤ p.count - p.arrivals →
          ∃ t h q, exec (.barn f) s = .next (examine (evalPhase t s.cur.core b.uid slot) s.cur.core s.cur.gang)
            ∧ Issues t h ∧ t = { s with cores := t.cores }
            ∧ (∀ l, e.getLsbD l = true →
                if f.mod.getLsbD 0 then (h.lane l).status = (g.lane l).status ∧ (h.lane l).pc = s.cur.next
                else (h.lane l).status = .parked (.bar slot) ∧ (h.lane l).pc = (g.lane l).pc)
            ∧ (∀ l, e.getLsbD l = false →
                h.lane l = if (groupLanes s g).getLsbD l then { g.lane l with pc := s.cur.next } else g.lane l)
            ∧ q.count = p.count ∧ q.barn = true
            ∧ q.parked = (if f.mod.getLsbD 0 then p.parked else mmod 0 p.parked s.cur.gang fun x => x ||| e)
            ∧ q.total = (if f.mod.getLsbD 0 then p.total + countLanes e else p.total)
            ∧ (t.core s.cur.core).block? b.uid = some { b with bars := mset b.bars slot q }))
  ∧ (∀ (t : State) (c u slot : Nat) (b : Block) (p : BarPhase), (t.core c).block? u = some b → mfind b.bars slot = some p →
      (p.barn = false → p.arrivals ≠ liveOf t c b → evalPhase t c u slot = t)
      ∧ (p.barn = false → p.arrivals = liveOf t c b → p.arrivals ≠ 0 → evalPhase t c u slot = releasePhase t c b slot p)
      ∧ (p.barn = true → p.arrivals ≠ 0 → p.count ≤ p.arrivals → evalPhase t c u slot = releasePhase t c b slot p)
      ∧ (p.barn = true → p.arrivals < p.count → p.count - p.arrivals ≤ liveOf t c b - p.parkedCount → evalPhase t c u slot = t))
  ∧ ∀ (t : State) (c slot i : Nat) (b : Block) (p : BarPhase) (g : Gang), b.gangs.Nodup → i ∈ b.gangs → i ≠ fwSlot →
      (t.core c).block? b.uid = some b → t.gang? c i = some g → fwSlot ∉ b.gangs →
      ∃ h, (releasePhase t c b slot p).gang? c i = some h
        ∧ (∀ l, l < 32 → (mget 0 p.parked i).getLsbD l = true → (g.lane l).status ≠ .absent →
            (h.lane l).status = .ready ∧ (h.lane l).pc = g.nextOf l)
        ∧ ((releasePhase t c b slot p).core c).block? b.uid = some { b with bars := mdel b.bars slot }

/-- R88, R102, R174, R175: the small control instructions. -/
def Obligations.IdentityAndTraps : Prop :=
  (∀ (s : State) (g : Gang) (f : IForm), Issues s g →
    let e := execLanes s g f.g
    (∃ h, exec (.getid f) s = .next (s.putCur h)
      ∧ LanesMove s g h f.g (fun l x =>
          if specialWide f.imm.toNat then x.wx f.d (special s g e l f.imm.toNat)
          else x.wv f.d ((special s g e l f.imm.toNat).setWidth 32))
      ∧ h = { g with arch := { g.arch with fibres := h.arch.fibres
                                           fflags := if f.imm = 21 ∧ e ≠ 0 then 0 else g.arch.fflags }
                     region := { g.region with energy := h.region.energy } })
    ∧ (e = 0 → exec (.trap f) s = .next (s.putCur (movedOn s g g)) ∧ exec (.bkpt f) s = .next (s.putCur (movedOn s g g)))
    ∧ (e ≠ 0 →
        exec (.trap f) s = .next (takeTrap s 0x12 (lowLane e) [f.imm.setWidth 64, e.setWidth 64])
        ∧ exec (.bkpt f) s = .next (takeTrap s 0x11 (lowLane e) [f.imm.setWidth 64, e.setWidth 64])))
  ∧ ∀ (s : State) (g : Gang) (e : Mask) (l : Nat), l < 32 →
      special s g e l 0 = BitVec.ofNat 64 l ∧ special s g e l 10 = BitVec.ofNat 64 (g.lane l).job
      ∧ special s g e l 11 = BitVec.ofNat 64 (g.lane l).launchNo ∧ special s g e l 14 = 0x00FE000000000000
      ∧ special s g e l 16 = 0x00FF000000000000 ∧ special s g e l 18 = e.setWidth 64
      ∧ special s g e l 19 = BitVec.ofNat 64 (2 ^ l - 1) ∧ special s g e l 20 = g.arch.fflags.setWidth 64

/-! ### Traps, privilege and the firmware's instructions (R57, R292 to R316, R491 to R494) -/

/-- R19, R21, R305, R306: trap entry, and the layout of a trap record. -/
def Obligations.TrapEntryAndRecord : Prop :=
  (
    ∀ (s : State) (g : Gang) (code : BitVec 8) (lane n : Nat) (infos : List W64), Issues s g → s.inFirmware = false → code ≠ tcECC →
      g.member4 = none → s.curCore.slotFor g.ctx = some n →
      let u := s.curCore.slotOf n
      let rec_ : TrapRec := trapRecord s g (g.lane lane) code false false s.cur.pc infos
      let t := takeTrap s code lane infos
      (g.region.instrs = 0 → (g.inNative = true → g.replay = true) →
        (∀ i, i < 64 → u.trapvalid.getLsbD i = false → (∀ j, j < i → u.trapvalid.getLsbD j = true) →
          let at_ := u.trapbase.toNat % 2 ^ 52 + 128 * i
          t = { s with cores := t.cores, mem := memWrite s.mem at_ (recordBytes rec_) }
          ∧ (recordBytes rec_).length = 128
          ∧ (∀ a, a < at_ ∨ at_ + 128 ≤ a → memByte t.mem a = memByte s.mem a)
          ∧ Issues t { g with stop := some { record := rec_, entry := some i, lanes := groupLanes s g, resume := s.cur.next } }
          ∧ (t.curCore.slotOf n) = { u with trapvalid := u.trapvalid ||| BitVec.ofNat 64 (2 ^ i) }
          ∧ t.curCore.event = s.curCore.event ||| BitVec.ofNat 5 (2 ^ n)
          ∧ ∀ c, c ≠ s.cur.core → t.core c = s.core c)
        ∧ (u.trapvalid = BitVec.allOnes 64 →
            t = s.putCur { g with stop := some { record := rec_, entry := none, lanes := groupLanes s g, resume := s.cur.next } }))
      ∧ (g.region.instrs ≠ 0 ∨ (g.inNative = true ∧ g.replay = false) → t = rollback s s.cur.core s.cur.gang
          ∧ takeTrap s tcECC lane infos = abortRegion (eccFound s infos) g lane))
  ∧ (
    ∀ (r : TrapRec),
      let b := recordBytes r
      b.length = 128 ∧ leAt b 0 1 = r.code.toNat
      ∧ leAt b 1 1 = (if r.notice then 1 else 0) + (if r.deferred then 2 else 0) ∧ leAt b 2 6 = 0 ∧ leAt b 8 8 = r.pc.toNat
      ∧ leAt b 16 4 = r.job % 2 ^ 32 ∧ leAt b 40 8 = r.time.toNat ∧ leAt b 48 8 = 0
      ∧ (∀ k, k < 9 → leAt b (56 + 8 * k) 8 = (r.infos.getD k 0).toNat)
      ∧ (∀ x y z f, r.name = .launched x y z f →
          leAt b 20 4 = r.launchNo % 2 ^ 32 ∧ leAt b 24 4 = x % 2 ^ 32 ∧ leAt b 28 4 = y % 2 ^ 32 ∧ leAt b 32 4 = z % 2 ^ 32
          ∧ leAt b 36 4 = f % 2 ^ 32)
      ∧ ∀ n, r.name = .spawned n → leAt b 20 4 = 0xFFFFFFFF ∧ leAt b 24 8 = n % 2 ^ 48 ∧ leAt b 32 8 = 0)

/-- R57, R491: privilege, whatever the guard. R492: what the firmware context lacks; that the fibre then waits for its supervisor is log
entry 13. -/
def Obligations.PrivilegeChecks : Prop :=
    (∀ (s : State) (g : Gang), Issues s g → s.inFirmware = false →
      let lane (gd : Guard) : Nat := lowLane (if execLanes s g gd = 0 then groupLanes s g else execLanes s g gd)
      let trap (gd : Guard) : Host.Outcome State Fault Refusal := .next (takeTrap s 0x08 (lane gd) [s.cur.bits, 0x80])
      (∀ f, exec (.srd f) s = trap f.g ∧ exec (.swr f) s = trap f.g ∧ exec (.kcall f) s = trap f.g)
      ∧ (∀ f, exec (.eret f) s = trap f.g ∧ exec (.ctxsv f) s = trap f.g ∧ exec (.ctxld f) s = trap f.g ∧ exec (.eclr f) s = trap f.g
          ∧ exec (.halt f) s = trap f.g ∧ exec (.wfi f) s = trap f.g)
      ∧ (∀ f, exec (.tlbinv f) s = trap f.g))
  ∧ (∀ (s : State) (i : Instr), s.inFirmware = true → firmwareLacks i = true →
      exec i s = .next (s.modCore s.cur.core fun k =>
        { k with fwTraps := k.fwTraps ++ [{ code := 0x08, pc := s.cur.pc, infos := [s.cur.bits, 0x8F] }]
                 fw := { k.fw with pc := s.cur.pc, status := .parked .supervisor } }))

/-- R9, R294, R316: SRD and SWR. -/
def Obligations.SystemRegisters : Prop :=
  (∀ (s : State) (f : IForm), FirmwareRuns s f.g →
    exec (.srd f) s = .next ((fwMoved s).modCore s.cur.core fun k => { k with fw := k.fw.wx f.d (BitVec.ofNat 64 (sysReg s.curCore f.imm.toNat)) })
    ∧ exec (.swr f) s = .next ((fwMoved s).modCore s.cur.core fun k => setSysReg k f.imm.toNat (s.curCore.fw.rx f.a)))
  ∧ (∀ (k : Core) (v : W64),
      sysReg (setSysReg k 1 v) 1 = v.toNat % 2 ^ 16 ∧ sysReg (setSysReg k 2 v) 2 = v.toNat % 2 ^ 5
      ∧ sysReg (setSysReg k 3 v) 3 = v.toNat ∧ sysReg (setSysReg k 4 v) 4 = v.toNat % 2 ^ 16
      ∧ (∀ b, b < 5 → (setSysReg k 5 v).event.getLsbD b = (k.event.getLsbD b && !v.getLsbD b))
      ∧ setSysReg k 6 v = k ∧ setSysReg k 7 v = k ∧ setSysReg k 8 v = k
      ∧ sysReg k 6 = k.ckcount.toNat ∧ sysReg k 9 = 0
      ∧ (k.mbox = [] → sysReg k 7 = 0 ∧ sysReg k 8 = 0)
      ∧ (v.getLsbD 0 = true → setSysReg k 9 v = { k with mbox := k.mbox.drop 1 }) ∧ (v.getLsbD 0 = false → setSysReg k 9 v = k))
  ∧ ∀ (k : Core) (n : Nat) (v : W64), n < 2 →
      let base := 0x2000 + 0x1000 * n
      let u := k.slotOf n
      sysReg k base = u.ctx.toNat + (if u.state = .empty then 0 else 4096)
      ∧ sysReg k (base + 4) % 8 = (match u.state with | .empty => 0 | .running => 1 | .resident => 2 | .loading => 3 | .saving => 4)
      ∧ (∀ o, 1 ≤ o → o < 0x1A5 → o ≠ 4 → u.state = .empty ∨ u.state = .loading → sysReg k (base + o) = 0)
      ∧ (u.state ≠ .running → u.state ≠ .resident → ∀ o, o < 0x1000 → (setSysReg k (base + o) v).slotOf n = u)
      ∧ (∀ o, o < 0x1000 → (setSysReg k (base + o) v).slotOf (1 - n) = k.slotOf (1 - n))
      ∧ (u.state = .running ∨ u.state = .resident →
          sysReg (setSysReg k (base + 1) v) (base + 1) = v.toNat % 2 ^ 2 ∧ sysReg (setSysReg k (base + 2) v) (base + 2) = v.toNat % 2 ^ 8
          ∧ sysReg (setSysReg k (base + 3) v) (base + 3) = v.toNat % 2 ^ 32
          ∧ sysReg (setSysReg k (base + 5) v) (base + 5) = v.toNat / 2 ^ 13 * 2 ^ 13
          ∧ sysReg (setSysReg k (base + 7) v) (base + 7) = v.toNat % 2 ^ 32
          ∧ (setSysReg k (base + 6) v).slotOf n = u ∧ (setSysReg k (base + 8) v).slotOf n = u)

/-- R308: return from a trap. Mode 2 is stated as the meaning's own kill operation. -/
def Obligations.TrapReturn : Prop :=
  (∀ (s : State) (f : AForm), FirmwareRuns s f.g →
    let c := s.cur.core
    let v := s.curCore.fw.rv f.a
    let n := v.toNat / 2 ^ 8 % 2
    let i := v.toNat % 2 ^ 6
    let u := s.curCore.slotOf n
    let t := (fwMoved s).modCore c fun k => k.modSlot n fun w => { w with trapvalid := w.trapvalid &&& ~~~(BitVec.ofNat 64 (2 ^ i)) }
    (u.state = .empty ∨ u.trapvalid.getLsbD i = false → exec (.eret f) s = .next (fwTrap s 0x08 [v.setWidth 64, 0x90]))
    ∧ (u.state ≠ .empty → u.trapvalid.getLsbD i = true →
        (stoppedAt s.curCore u.ctx.toNat i = none → exec (.eret f) s = .next t)
        ∧ ∀ slot g st, stoppedAt s.curCore u.ctx.toNat i = some (slot, g) → g.stop = some st →
            mfind s.curCore.gangs slot = some g → slot ≠ 32 →
            let back (after : Bool) : State := t.setGang c slot (resumeGang g st after)
            let seen (after : Bool) : State := match g.block with | some b => evalPhases (back after) c b | none => back after
            (f.mod.toNat % 4 < 2 → g.deferred = [] → exec (.eret f) s = .next (examine (seen (f.mod.toNat % 4 == 0)) c slot))
            ∧ (f.mod.toNat % 4 < 2 → g.deferred ≠ [] → exec (.eret f) s = .next (takeDeferred (back (f.mod.toNat % 4 == 0)) c slot))
            ∧ (f.mod.toNat % 4 = 2 → exec (.eret f) s = .next (killGang t c slot g st.record))
            ∧ (f.mod.toNat % 4 = 3 → exec (.eret f) s = .next (t.setGang c slot { g with stop := some { st with entry := some 64 } }))))
  ∧ ∀ (g : Gang) (st : Stop) (l : Nat), l < 32 → (g.lane l).status ≠ .absent →
      resumeGang g st false = { g with stop := none }
      ∧ (resumeGang g st true).stop = none
      ∧ (st.record.deferred = true → (resumeGang g st true).lane l = g.lane l)
      ∧ (st.record.deferred = false → st.lanes.getLsbD l = true →
          ((resumeGang g st true).lane l).pc = st.resume ∧ ((resumeGang g st true).lane l).status = .ready
          ∧ ((g.base.lane l).status ≠ .absent → ((resumeGang g st true).base.lane l).pc = st.resume))
      ∧ (st.record.deferred = false → st.lanes.getLsbD l = false → (resumeGang g st true).lane l = g.lane l)

/-- R304, R309, R312, R316: the other privileged instructions. -/
def Obligations.FirmwareInstructions : Prop :=
  ∀ (s : State),
    (∀ f : AForm, FirmwareRuns s f.g →
      let fw := s.curCore.fw
      let n := (fw.rv f.a).toNat % 2
      let u := s.curCore.slotOf n
      exec (.eclr f) s = .next ((fwMoved s).modCore s.cur.core fun k =>
          let k1 := { k with fw := k.fw.wx f.d (BitVec.ofNat 64 (if u.state = .empty then 0 else u.energy.toNat)) }
          if f.mod.getLsbD 0 = true ∨ u.state = .empty then k1 else k1.modSlot n fun w => { w with energy := 0 })
      ∧ exec (.halt f) s = .next ((fwMoved s).modCore s.cur.core fun k => { k with halted := true })
      ∧ (s.curCore.event &&& (fw.rv f.a).setWidth 5 ≠ 0 → exec (.wfi f) s = .next (fwMoved s))
      ∧ (s.curCore.event &&& (fw.rv f.a).setWidth 5 = 0 →
          ∃ w, exec (.wfi f) s = .next (s.modCore s.cur.core fun k =>
              { k with fw := { k.fw with status := .parked .result }, fwWait := k.fwWait.or (some w) })
            ∧ w.mask = 1 ∧ w.instr = .wfi f ∧ w.next = s.cur.next))
    ∧ (∀ f : AForm, FirmwareRuns s f.g →
      let fw := s.curCore.fw
      let n := (fw.rv f.b).toNat % 2
      let u := s.curCore.slotOf n
      let o := s.curCore.slotOf (1 - n)
      let at_ := (fw.rx f.a).toNat % 2 ^ 52
      (u.state ≠ .running → u.state ≠ .resident →
        exec (.ctxsv f) s = .next (fwTrap s 0x08 [fw.rx f.a, 0x91, (fw.rv f.b).setWidth 64]))
      ∧ (u.state = .running ∨ u.state = .resident → (fw.rx f.a).toNat % 2 ^ 16 ≠ 0 →
        exec (.ctxsv f) s = .next (fwTrap s 0x08 [fw.rx f.a, 0x92, (fw.rv f.b).setWidth 64]))
      ∧ (u.state = .running ∨ u.state = .resident → (fw.rx f.a).toNat % 2 ^ 16 = 0 → ¬ OwnAddr s (fw.rx f.a) →
        exec (.ctxsv f) s = .next (fwTrap s 0x08 (protInfos (fw.rx f.a) 1 0x01)))
      ∧ (u.state = .running ∨ u.state = .resident → (fw.rx f.a).toNat % 2 ^ 16 = 0 → OwnAddr s (fw.rx f.a) →
        ∃ t m, exec (.ctxsv f) s = .next t ∧ (t.curCore.slotOf n).state = .saving ∧ t.curCore.running ≠ some n
          ∧ m ∈ t.curCore.moves ∧ m.slot = n ∧ m.saving = true ∧ m.addr = fw.rx f.a ∧ t.mem = s.mem)
      ∧ (¬ OwnAddr s (fw.rx f.a) → exec (.ctxld f) s = .next (fwTrap s 0x08 (protInfos (fw.rx f.a) 0 0x01)))
      ∧ (OwnAddr s (fw.rx f.a) → u.state ≠ .empty ∨ s.rd at_ 4 ≠ 0x46545843 ∨ s.rd (at_ + 6) 1 ≠ Config.stepping.toNat →
        exec (.ctxld f) s = .next (fwTrap s 0x08 [fw.rx f.a, 0x93, (fw.rv f.b).setWidth 64]))
      ∧ (OwnAddr s (fw.rx f.a) → u.state = .empty → s.rd at_ 4 = 0x46545843 → s.rd (at_ + 6) 1 = Config.stepping.toNat → s.rd (at_ + 7) 1 = 0 →
          s.rd (at_ + 4) 2 < 4096 → (∀ b, b < 40 → memByte s.mem (at_ + 24 + b) = 0) →
          (o.state = .empty ∨ o.ctx.toNat ≠ s.rd (at_ + 4) 2) →
          ∃ m, exec (.ctxld f) s = .next ((fwMoved s).modCore s.cur.core fun k =>
              { k.modSlot n fun v => { v with state := .loading, ctx := BitVec.ofNat 12 (s.rd (at_ + 4) 2) } with moves := k.moves ++ [m] })
            ∧ m.slot = n ∧ m.saving = false ∧ m.addr = fw.rx f.a))
    ∧ ∀ f : CForm, FirmwareRuns s f.g →
      let fw := s.curCore.fw
      (f.mod.getLsbD 0 = false → fw.rx f.b = 0 → exec (.tlbinv f) s = .next (fwMoved s))
      ∧ (f.mod.getLsbD 0 = true ∨ fw.rx f.b ≠ 0 → ∃ t v, exec (.tlbinv f) s = .next t
          ∧ t.curCore.fw.status = .parked .tlb ∧ t.curCore.inval = some v ∧ v.tenant = (fw.rv f.c).toNat % 4096
          ∧ v.base = fw.rx f.a ∧ v.len = fw.rx f.b ∧ v.all = f.mod.getLsbD 0 ∧ t.mem = s.mem
          ∧ ∀ c e, e ∈ (t.core c).tlb → e.tenant = v.tenant → v.all = false ∧ overlaps e.va e.size v.base.toNat v.len.toNat = false)

/-! ### Memory: loads, stores, atomics, fences, queues (R178 to R200, R272 to R276) -/

/-- R178, R179, R180, R352, R493: the checks of one lane's access. An uncorrectable place is one of a failed page or an event's flaw. -/
def Obligations.AccessChecks : Prop :=
  ∀ (s : State) (c : Nat) (g : Gang) (l n kind op : Nat) (fatom : Bool), 0 < n →
    let prot (ea : W64) (sub : Nat) : Found := .fault 0x08 [ea, BitVec.ofNat 64 (kind * 256 + sub)]
    let at_ (ea : W64) : Found := checkAccess s c g l ea n kind op fatom
    (∀ ea : W64, ea.toNat / 2 ^ 56 ≠ 0 → at_ ea = prot ea 0x01)
    ∧ (∀ o, o < 2 ^ 48 →
        let stk : W64 := 0x00FE000000000000 + BitVec.ofNat 64 o
        let pad : W64 := 0x00FF000000000000 + BitVec.ofNat 64 o
        let low := o / n * n
        let w := windowOf s c g
        (s.inFirmware = true → at_ stk = prot stk 0x04 ∧ at_ pad = prot pad 0x03)
        ∧ (s.inFirmware = false →
            (at_ stk = if (g.lane l).stackSize < low + n then prot stk 0x04
              else if fatom = true then prot stk 0x07 else .here (.stack l low))
            ∧ (w.2 < low + n → at_ pad = prot pad 0x03)
            ∧ (low + n ≤ w.2 → fatom = true → at_ pad = prot pad 0x07)
            ∧ (low + n ≤ w.2 → fatom = false → (∀ r, (w.1 + low) / 64 ≤ r → r ≤ (w.1 + low + n - 1) / 64 → Flaw.row c r ∉ s.flaws) →
                at_ pad = .here (.scratch (w.1 + low)))))
    ∧ (∀ (ea : W64), ea.toNat < 0x00FE000000000000 → s.inFirmware = false →
        let va : W64 := BitVec.ofNat 64 (ea.toNat / n * n)
        let fault (code : BitVec 8) : Found := .fault code [ea, BitVec.ofNat 64 (kind * 256)]
        ((s.core c).tlbFind g.tenant g.ctx va = none →
          at_ ea = if va.toNat / 2 ^ 16 ∈ s.cur.pf then fault 0x07 else .missing va)
        ∧ ∀ e, (s.core c).tlbFind g.tenant g.ctx va = some e →
        let pa := ptePa e.pte + (va.toNat - e.va)
        (kind ≠ 1 → pteR e.pte = false → at_ ea = prot ea 0x05)
        ∧ ((kind = 1 ∨ pteR e.pte = true) → kind ≠ 0 → pteW e.pte = false → at_ ea = prot ea 0x06)
        ∧ ((kind = 1 ∨ pteR e.pte = true) → (kind = 0 ∨ pteW e.pte = true) → apertureAt s g.tenant va = none →
            (s.live.getLsbD (pkgOf pa) = false → at_ ea = fault 0x07)
            ∧ (s.live.getLsbD (pkgOf pa) = true →
            (windowPass s g.tenant (g.lane l).launch pa = false → at_ ea = fault 0x09)
            ∧ (windowPass s g.tenant (g.lane l).launch pa = true →
                at_ ea = if fatom = true ∧ pteHome e.pte = 2 then prot ea 0x07
                  else if s.uncorrectable (pteT e.pte) pa n = true then .fault tcECC [BitVec.ofNat 64 pa]
                  else .mem [pa] (pteT e.pte) (homeCode e.pte) none))))
    ∧ (∀ o, s.inFirmware = true → o < 2 ^ 40 → (2 ^ 48 * s.self + o) % n = 0 → s.self < 16 →
        let ea : W64 := BitVec.ofNat 64 (2 ^ 48 * s.self + o)
        s.uncorrectable false ea.toNat n = false → at_ ea = .mem [2 ^ 48 * s.self + o] false 0 none)
    ∧ (∀ ea : W64, s.inFirmware = true → ea.toNat < 0x00FE000000000000 →
        (ea.toNat % n ≠ 0 → at_ ea = .fault tcALGN [ea, BitVec.ofNat 64 op])
        ∧ (ea.toNat % n = 0 → ¬ OwnAddr s ea → at_ ea = prot ea 0x01))
    ∧ tcECC = 0x0D ∧ tcALGN = 0x0A

/-- R181, R185, R186, R188, R189, R190, R191. -/
def Obligations.Loads : Prop :=
  (∀ (s : State) (g : Gang), Issues s g →
    (∀ f : IForm,
      LoadCompletes (.ldI f) s g
        { g := f.g, n := accessSize f.ty, op := 0x100, order := 0, scope := 0, policy := f.mod.toNat % 4
          ea := fun x => x.rx f.a + f.imm.signExtend 64, write := fun x bs => x.wt f.ty f.d (loadExtend f.ty (ofLe bs)) }
      ∧ LoadCompletes (.ldrow f) s g
        { g := f.g, n := 64, op := 0x104, order := 0, scope := 0, policy := f.mod.toNat % 4
          ea := fun x => lowEa s 64 (x.rx f.a + 64 * f.imm.signExtend 64), write := fun x bs => x.putRow f.d bs })
    ∧ (∀ f : CForm,
      LoadCompletes (.ldC f) s g
        { g := f.g, n := accessSize f.ty, op := 0x101, order := f.ext.extractLsb' 15 3, scope := f.ext.extractLsb' 12 3
          policy := f.mod.toNat % 4, ea := fun x => x.rx f.a + (f.ext.extractLsb' 0 12).signExtend 64
          write := fun x bs => x.wt f.ty f.d (loadExtend f.ty (ofLe bs)) }
      ∧ LanesResult (.rotm f) s g f.g (fun _ x =>
          { x.putRow f.d (((x.row f.a ++ x.row f.b).drop ((x.rv f.c).toNat % 64)).take 64) with pc := s.cur.next }))
    ∧ (∀ f : AForm, (∀ l, (execLanes s g f.g).getLsbD l = true → ∀ code infos,
          presCheck s g l ((g.lane l).rx f.a) ≠ .fault code infos) →
        LanesResult (.pres f) s g f.g (fun l x =>
          { x.wp f.d (presBit s (presCheck s g l (x.rx f.a))) with pc := s.cur.next }))
    ∧ (∀ f : IForm, ∃ t h, exec (.pref f) s = .next t ∧ Issues t h ∧ LanesMove s g h f.g (fun _ x => x)
        ∧ GangRestKept g h ∧ h.arch.fflags = g.arch.fflags ∧ OnlyCaches s t h))
  ∧ (∀ (s : State) (c : Nat) (g : Gang) (l pa n home : Nat) (tr : Bool), pkgOf pa = s.self → g.buffered = [] →
      (∀ i, i < n → s.inMeta (pa + i) = false) → readFound s c g l n (.mem [pa] tr home none) = memRead s.mem pa n)
  ∧ (∀ (s : State) (c : Nat) (g : Gang) (l n off i : Nat), i < n →
      (readFound s c g l n (.here (.scratch off))).getD i 0 =
        (bufferedByte g.buffered (.scratch (off + i))).getD (mget 0 (s.core c).scratch (off + i))
      ∧ (readFound s c g l n (.here (.stack l off))).getD i 0 =
        (bufferedByte g.buffered (.stack l (off + i))).getD (mget 0 (g.lane l).stack (off + i)))
  ∧ (∀ (t : Ty) (n : Nat),
      accessSize t = (match t with | .s32 | .n32 | .fp32 | .b32 => 4 | .s64 | .n64 | .fp64 => 8 | .fp16 | .bf16 => 2 | _ => 1)
      ∧ (t ≠ .s8x4 → loadExtend t n = BitVec.ofNat 64 n) ∧ (loadExtend .s8x4 n).setWidth 32 = (BitVec.ofNat 8 n).signExtend 32)
  ∧ (∀ (s : State) (g : Gang) (l : Nat) (ea : W64),
      (ea.toNat < 0x00FF000000000000 → presBit s (presCheck s g l ea) = true)
      ∧ ∀ off, presCheck s g l ea = .here (.scratch off) →
          presBit s (presCheck s g l ea) = !(s.curCore.fills.any fun q => q.row == off / 64))
  ∧ ∀ (x : Fibre) (n i : Nat) (bs : List Byte), bs.length = 64 →
      (x.putRow n bs).rv i = (if n ≤ i ∧ i < n + 16 then BitVec.ofNat 32 (leAt bs (4 * (i - n)) 4) else x.rv i)
      ∧ (x.putRow n bs).x = x.x ∧ (x.putRow n bs).preds = x.preds

/-- R181, R185, R186, R188, R493: stores. -/
def Obligations.Stores : Prop :=
  (∀ (s : State) (g : Gang), Issues s g →
    (∀ f : IForm,
      StoreCompletes (.stI f) s g
        { g := f.g, n := accessSize f.ty, op := 0x102, order := 0, scope := 0
          ea := fun x => x.rx f.a + f.imm.signExtend 64, data := fun x => leBytes (accessSize f.ty) (x.rt f.ty f.d).toNat }
      ∧ StoreCompletes (.strow f) s g
        { g := f.g, n := 64, op := 0x105, order := 0, scope := 0
          ea := fun x => lowEa s 64 (x.rx f.a + 64 * f.imm.signExtend 64), data := fun x => x.row f.d })
    ∧ (∀ f : CForm,
      StoreCompletes (.stC f) s g
        { g := f.g, n := accessSize f.ty, op := 0x103, order := f.ext.extractLsb' 15 3, scope := f.ext.extractLsb' 12 3
          ea := fun x => x.rx f.a + (f.ext.extractLsb' 0 12).signExtend 64
          data := fun x => leBytes (accessSize f.ty) (x.rt f.ty f.d).toNat }))
  ∧ (∀ (m : List Host.Cell) (a b : Nat) (bs : List Byte), Memory.wf m = true →
      Memory.wf (memWrite m a bs) = true ∧ memRead (memWrite m a bs) a bs.length = bs
      ∧ (b < a ∨ a + bs.length ≤ b → memByte (memWrite m a bs) b = memByte m b))
  ∧ ∀ (x : Fibre) (n j : Nat), j < 64 → (x.row n).length = 64 ∧ (x.row n).getD j 0 = (x.rv (n + j / 4)).extractLsb' (8 * (j % 4)) 8

/-- R192, R193, R194. -/
def Obligations.Atomics : Prop :=
  (∀ (s : State) (g : Gang) (f : CForm), Issues s g →
    let n := accessSize f.ty
    AtomicCompletes (.atom f) s g
      { g := f.g, n := n, op := 0x108, order := f.ext.extractLsb' 15 3, failOrder := 1, scope := f.ext.extractLsb' 12 3
        ea := fun x => x.rx f.a
        next := fun x old => some (leBytes n
          (atomNew f.ty (f.ext.toNat % 16) (BitVec.ofNat 64 (ofLe old)) (x.rt f.ty f.b)).toNat)
        write := fun x old => x.wt f.ty f.d (BitVec.ofNat 64 (ofLe old)), sub := f.ext.toNat % 16, ty := f.ty
        send1 := fun x => leBytes n (x.rt f.ty f.b).toNat, send2 := fun _ => [] }
    ∧ AtomicCompletes (.cas f) s g
      { g := f.g, n := n, op := 0x109, order := f.ext.extractLsb' 15 3, failOrder := f.ext.extractLsb' 0 3
        scope := f.ext.extractLsb' 12 3, ea := fun x => x.rx f.a
        next := fun x old => if old = leBytes n (x.rt f.ty f.b).toNat then some (leBytes n (x.rt f.ty f.c).toNat) else none
        write := fun x old => x.wt f.ty f.d (BitVec.ofNat 64 (ofLe old)), sub := 7, ty := f.ty
        send1 := fun x => leBytes n (x.rt f.ty f.b).toNat, send2 := fun x => leBytes n (x.rt f.ty f.c).toNat }
    ∧ AtomicCompletes (.cas128 f) s g
      { g := f.g, n := 16, op := 0x10A, order := f.ext.extractLsb' 15 3, failOrder := f.ext.extractLsb' 0 3
        scope := f.ext.extractLsb' 12 3, ea := fun x => x.rx f.a
        next := fun x old => if old = pairBytes x f.b then some (pairBytes x f.c) else none
        write := fun x old => (x.wx f.d (BitVec.ofNat 64 (leAt old 0 8))).wx (f.d + 1) (BitVec.ofNat 64 (leAt old 8 8))
        sub := 8, ty := f.ty, send1 := fun x => pairBytes x f.b, send2 := fun x => pairBytes x f.c })
  ∧ (∀ (t : Ty) (a b : W64), (t = .s32 ∨ t = .n32 ∨ t = .s64 ∨ t = .n64) →
      let w := elemWidth t
      let x := a.setWidth w
      let y := b.setWidth w
      let less (p q : BitVec w) : Bool := if t = .s32 ∨ t = .s64 then p.slt q else p.ult q
      (atomNew t 0 a b).setWidth w = x + y ∧ (atomNew t 1 a b).setWidth w = (if less x y then x else y)
      ∧ (atomNew t 2 a b).setWidth w = (if less x y then y else x) ∧ (atomNew t 3 a b).setWidth w = (x &&& y)
      ∧ (atomNew t 4 a b).setWidth w = (x ||| y) ∧ (atomNew t 5 a b).setWidth w = (x ^^^ y) ∧ atomNew t 6 a b = b)

/-- R195, R198, R199. -/
def Obligations.FatomAndFences : Prop :=
  ∀ (s : State) (g : Gang) (f : CForm), Issues s g →
    let e := execLanes s g f.g
    let quiet (t : State) : Prop := ∃ h, Issues t h ∧ h.arch.fflags = g.arch.fflags
      ∧ ∀ l, l < 32 → SameRegs (h.lane l) (if (groupLanes s g).getLsbD l then { g.lane l with pc := s.cur.next } else g.lane l)
    let order := f.ext.extractLsb' 15 3
    let scope := f.ext.extractLsb' 12 3
    (∀ pa : Nat → Nat, s.inFirmware = false →
      (∀ l, e.getLsbD l = true → pkgOf (pa l) = s.self ∧ ∃ home,
        laneFound s g l ((g.lane l).rx f.a) (elemWidth f.ty / 8) 2 0x10B true apertureAtomic = .mem [pa l] false home none) →
      ∃ (t : State) (ms : List Contribution), exec (.fatom f) s = .next t ∧ quiet t ∧ t = { s with cores := t.cores, dies := t.dies, agenda := t.agenda }
        ∧ t.agenda = s.agenda ++ ms.map Event.fatomContribution
        ∧ (ms.map fun (m : Contribution) => (m.launch, m.pa, m.ty, (m.k1, m.k2), m.value))
          = (lanesOf e).map fun l => ((g.lane l).launch, pa l, f.ty, fatomKey s (g.lane l), (g.lane l).rt f.ty f.b))
    ∧ (∀ x y z fib, ∀ k : Fibre, k.name = .launched x y z fib → ∀ q, s.launch? k.launch = some q →
        fatomKey s k = (x + q.gx * (y + q.gy * z), fib))
    ∧ (∀ n, ∀ k : Fibre, k.name = .spawned n → fatomKey s k = (2 ^ 32 + n, 0))
    ∧ (e = 0 → exec (.fence f) s = .next (s.putCur (movedOn s g g)) ∧ exec (.fencex f) s = .next (s.putCur (movedOn s g g)))
    ∧ (needsTicket s order scope = false → (isRelease order = false ∨ scope.toNat < 4 ∨ s.awaitsAcks s.cur.core s.cur.gang = false) →
        (∃ t, exec (.fence f) s = .next t ∧ quiet t ∧ t = { s with cores := t.cores } ∧ t.mem = s.mem)
        ∧ ((∀ k, k < 5 → f.ext.getLsbD k = true → classBusy s s.cur.core s.cur.gang g k = false) →
          ∃ t, exec (.fencex f) s = .next t ∧ quiet t ∧ t = { s with cores := t.cores } ∧ t.mem = s.mem))

/-- R251, R273, R274, R276. -/
def Obligations.QueuesAndShapes : Prop :=
  (∀ (s : State) (g : Gang), Issues s g → s.inFirmware = false →
    (∀ f : CForm, let e := execLanes s g f.g
      let low := g.lane (lowLane e)
      exec (.shw f) s = .next (s.putCur (movedOn s g
        (if e = 0 then g else { g with arch := { g.arch with
          hSh := mset g.arch.hSh f.d ((g.hShadow f.d).put (f.ext.toNat % 32) (low.rx f.a) (low.rv f.a)) } }))))
    ∧ ∀ f : AForm, let e := execLanes s g f.g
      let n := countLanes e
      let err (sub q : Nat) : Host.Outcome State Fault Refusal := .next (takeTrap s tcQERR (lowLane e) [BitVec.ofNat 64 sub, BitVec.ofNat 64 q, e.setWidth 64])
      (e = 0 → exec (.ldq f) s = .next (s.putCur (movedOn s g g)) ∧ exec (.stq f) s = .next (s.putCur (movedOn s g g)))
      ∧ (e ≠ 0 → f.a = 0 ∨ f.a = 2 → exec (.ldq f) s = err 0x02 f.a)
      ∧ (e ≠ 0 → f.d < 6 → exec (.stq f) s = err 0x01 f.d)
      ∧ (16 < n → (f.a ≠ 0 → f.a ≠ 2 → exec (.ldq f) s = err 0x03 f.a) ∧ (6 ≤ f.d → exec (.stq f) s = err 0x03 f.d))
      ∧ (e ≠ 0 → f.a ≠ 0 → f.a ≠ 2 → n ≤ 16 →
          let es := queueOf s s.cur.core g f.a
          (n ≤ es.length → ∃ t h, exec (.ldq f) s = .next t ∧ Issues t h ∧ t = { s with cores := t.cores }
            ∧ (∀ l, l < 32 → SameRegs (h.lane l)
                (if e.getLsbD l then { (g.lane l).wv f.d (es.getD (countLanes (e &&& (laneBit l - 1))) 0) with pc := s.cur.next }
                 else if (groupLanes s g).getLsbD l then { g.lane l with pc := s.cur.next } else g.lane l))
            ∧ ((∀ u, g.block = some u → ∃ b, s.curCore.block? u = some b) →
                (6 ≤ f.a → g.block ≠ none) →
                queueOf t s.cur.core h f.a = if f.mod.getLsbD 0 = true then es else es.drop n))
          ∧ (es.length < n → ∃ h, exec (.ldq f) s = .next (s.putCur h)
              ∧ ∀ l, l < 32 → e.getLsbD l = true → h.lane l = { g.lane l with status := .parked .qempty }))
      ∧ (e ≠ 0 → 6 ≤ f.d → n ≤ 16 →
          let es := queueOf s s.cur.core g f.d
          (es.length + n ≤ 16 → ∃ t h, exec (.stq f) s = .next t ∧ Issues t h ∧ t = { s with cores := t.cores }
            ∧ (∀ l, l < 32 → SameRegs (h.lane l)
                (if (groupLanes s g).getLsbD l then { g.lane l with pc := s.cur.next } else g.lane l))
            ∧ ((∃ u b, g.block = some u ∧ s.curCore.block? u = some b) →
                queueOf t s.cur.core h f.d = es ++ (lanesOf e).map fun l => (g.lane l).rv f.a))
          ∧ (16 < es.length + n → ∃ h, exec (.stq f) s = .next (s.putCur h)
              ∧ ∀ l, l < 32 → e.getLsbD l = true → h.lane l = { g.lane l with status := .parked .qfull })))
  ∧ ∀ (h : Shape) (k : Nat) (x : W64) (v : W32), k < 20 →
      (k = 0 → h.put k x v = { h with base := x })
      ∧ (k = 1 → h.put k x v = { h with fmt := v.extractLsb' 0 4, rank := v.extractLsb' 4 3 })
      ∧ ∀ d, d < 6 → (k = 2 + 3 * d → h.put k x v = { h with ext := mset h.ext d v })
        ∧ (k = 3 + 3 * d → h.put k x v = { h with stride := mset h.stride d v })
        ∧ (k = 4 + 3 * d → h.put k x v = { h with origin := mset h.origin d v })
/-! ### Engines: matrix, copy, named data, fabric (R173, R241 to R291, R479 to R483) -/

/-- R173, R241, R246, R491. -/
def Obligations.CollectiveChecks : Prop :=
  ∀ (s : State) (g : Gang) (i : Instr) (gd : Guard), Issues s g → s.inFirmware = false → collective i = some gd →
    let e := execLanes s g gd
    (e ≠ g.live → exec i s = .next (takeTrap s 0x03 (lowLane (if e = 0 then groupLanes s g else e))
        [BitVec.ofNat 64 (g.live.toNat * 2 ^ 32 + e.toNat)]))
    ∧ (e = g.live → matrixInstr i = true → g.isFree = true → exec i s = .next (takeTrap s 0x0E (lowLane e) [0x01, 0, 0]))

/-- R44, R242, R245, R249, R250, R253, R254, R256, R257, R259, R260, R263. -/
def Obligations.MatrixInstructions : Prop :=
  (∀ (s : State) (g : Gang), Issues s g → s.inFirmware = false → g.isFree = false →
    (∀ f : CForm, execLanes s g f.g = g.live →
      let e := g.live
      let h := g.sw f.mod 1
      let low := g.lane (lowLane e)
      (matrixCheck s s.cur.core h { EngCmd.blank s h e .oload with
          ty := f.ty, mod := f.mod, d := f.d, ext := f.ext, shape := h.hActive 1 } = none →
        CommandResult (.oload f) s g h fun m => m.kind = .oload ∧ m.ty = f.ty ∧ m.d = f.d ∧ m.ext = f.ext ∧ m.shape = h.hActive 1)
      ∧ (∀ k i, (k = CmdKind.mma ∧ i = Instr.mma f) ∨ (k = CmdKind.mmas ∧ i = Instr.mmas f) ∨ (k = CmdKind.mmag ∧ i = Instr.mmag f) →
          matrixCheck s s.cur.core h (productCmd s f k h e) = none →
          CommandResult i s g h fun m => m.kind = k ∧ m.ty = f.ty ∧ m.mod = f.mod ∧ m.d = f.d ∧ m.a = f.a ∧ m.b = f.b
            ∧ m.word = low.rv f.c ∧ m.shape = h.hActive 1 ∧ (∀ l, l < 8 → mget 0 m.words l = (g.lane l).rv f.c)
            ∧ (s.cur.inNative = false → m.imm = 4 * f.ext.toNat))
      ∧ (CommandResult (.accwr f) s g g fun m => m.kind = .accwr ∧ m.d = f.d
          ∧ (∀ l, l < 32 → e.getLsbD l = true → mget 0 m.words l = (g.lane l).rv f.b
              ∧ ∀ t, t < 16 → (mget [] m.vals l).getD t 0 = (g.lane l).rv (f.a + t)))
      ∧ (∃ h m, exec (.accrd f) s = .next (s.putCur h) ∧ h.region.cmds = g.region.cmds ++ [m] ∧ m.kind = .accrd ∧ m.d = f.d
          ∧ m.a = f.a ∧ (∀ l, l < 32 → e.getLsbD l = true → mget 0 m.words l = (g.lane l).rv f.b
            ∧ ((g.lane l).status ≠ .absent → h.lane l = { g.lane l with status := .parked .result }))))
    ∧ (∀ f : IForm, execLanes s g f.g = g.live →
      (CommandResult (.accz f) s g g fun m => m.kind = .accz ∧ m.imm = f.imm.toNat % 16)
      ∧ (CommandResult (.seqrun f) s g g fun m => m.kind = .seqrun ∧ m.addr = (g.lane (lowLane g.live)).rx f.a
          ∧ ∃ q, m.seq = some q ∧ q.body = f.imm.toNat ∧ q.h0 = g.hActive 0 ∧ q.h1 = g.hActive 1)
      ∧ (g.claimed ≠ 0 → exec (.oclaim f) s = .next (takeTrap s tcOSLOT (lowLane g.live) [0x02, g.claimed.setWidth 64, 0]))
      ∧ ∀ b, g.claimed = 0 → s.blockOf? s.cur.core g = some b →
          let m := claimMask f.imm
          (b.claims = [] → heldSlots s s.cur.core b &&& m = 0 →
            exec (.oclaim f) s = .next (s.putCur (movedOn s g { g with claimed := m })))
          ∧ (¬ (b.claims = [] ∧ heldSlots s s.cur.core b &&& m = 0) → ∃ t h, exec (.oclaim f) s = .next t ∧ Issues t h
              ∧ h.claimed = 0 ∧ (∀ l, g.live.getLsbD l = true → h.lane l = { g.lane l with status := .parked .oslot })
              ∧ t.curCore.block? b.uid = some { b with claims := b.claims ++ [{ gang := s.cur.gang, mask := m }] }))
    ∧ (∀ f : AForm, execLanes s g f.g = g.live → g.claimed.getLsbD f.a = true → f.a < 32 →
        CommandResult (.actlut f) s g g fun m => m.kind = .actlut ∧ m.a = f.a)
    ∧ ∀ f : LForm, execLanes s g f.g = g.live →
      (f.lit &&& ~~~g.claimed = 0 → CommandResult (.orelease f) s g g fun m => m.kind = .orelease ∧ m.mask = f.lit)
      ∧ (f.lit &&& ~~~g.claimed ≠ 0 →
          exec (.orelease f) s = .next (takeTrap s tcOSLOT (lowLane g.live) [0x03, (f.lit &&& ~~~g.claimed).setWidth 64, 0])))
  ∧ (∀ (g : Gang) (q f : Nat), 0 < f →
      (tileCheck g q f = none ↔ q % f = 0 ∧ q + f ≤ 128 ∧ ∀ i, i < f → g.claimed.getLsbD ((q + i) / 4) = true))
  ∧ (∀ (imm : BitVec 14) (i : Nat), (claimMask imm).getLsbD i =
      (decide (i < 32) && decide (imm.toNat % 32 ≤ i) && decide (i < imm.toNat % 32 + imm.toNat / 32 % 64)))
  ∧ ∀ (g : Gang) (mod : BitVec 4) (n k : Nat),
      (mod.getLsbD 3 = false → g.sw mod n = g)
      ∧ (mod.getLsbD 3 = true →
          (g.sw mod n).hActive k = (if k = n then g.hShadow n else g.hActive k)
          ∧ (g.sw mod n).hShadow k = (if k = n then g.hActive n else g.hShadow k)
          ∧ g.sw mod n = { g with arch := { g.arch with hAct := (g.sw mod n).arch.hAct, hSh := (g.sw mod n).arch.hSh } })

/-- R277, R279, R280, R283, R284, R286, R287, R288, R290, R481, R483. -/
def Obligations.CopyNamedFabric : Prop :=
  ∀ (s : State) (g : Gang), Issues s g → s.inFirmware = false →
    (∀ f : CForm, execLanes s g f.g = g.live →
      let e := g.live
      let low := g.lane (lowLane e)
      (CommandResult (.copy f) s g (g.sw f.mod 0) fun m => m.kind = .copy ∧ m.addr = low.rx f.a ∧ m.ext = f.ext
          ∧ m.shape = (g.sw f.mod 0).hActive 0)
      ∧ (CommandResult (.copyg f) s g (g.sw f.mod 0) fun m => m.kind = .copyg ∧ m.addr = low.rx f.a ∧ m.ext = f.ext
          ∧ m.shape = (g.sw f.mod 0).hActive 0 ∧ m.words = (lanesOf e).map fun l => (l, (g.lane l).rv f.b))
      ∧ (let h := (g.sw f.mod 2).hActive 2
        let slot := f.ext.toNat % 32
        (slotFree g slot = false → exec (.nwant f) s = .next (takeTrap s 0x0F (lowLane e) [0x04, BitVec.ofNat 64 slot, e.setWidth 64]))
        ∧ (slotFree g slot = true → nameCheck s s.cur.core g (low.rx f.a) h 1 = none →
            CommandResult (.nwant f) s g (g.sw f.mod 2) fun m => m.kind = .nwant ∧ m.d = slot ∧ m.ext = f.ext ∧ m.addr = low.rx f.a
              ∧ m.shape = h ∧ ((low.rv f.b).toNat % 65536 ≠ 0 → m.imm = unitTicks ((low.rv f.b).toNat % 65536)))
        ∧ (nameCheck s s.cur.core g (low.rx f.a) h 0 = none →
            CommandResult (.npub f) s g (g.sw f.mod 2) fun m => m.kind = .npub ∧ m.ext = f.ext ∧ m.addr = low.rx f.a ∧ m.shape = h)))
    ∧ (∀ f : AForm, execLanes s g f.g = g.live →
      let low := g.lane (lowLane g.live)
      (let space := (low.rv f.a).toNat % 4096;
        (nameDesc s g.tenant space ≠ none → CommandResult (.nreg f) s g g fun m => m.kind = .nreg ∧ m.d = space ∧ m.addr = low.rx f.b)
        ∧ (nameDesc s g.tenant space = none → exec (.nreg f) s = .next (takeTrap s 0x08 (lowLane g.live) [BitVec.ofNat 64 space, 0x10])))
      ∧ (CommandResult (.ndrop f) s g g fun m => m.kind = .ndrop ∧ m.mask = low.rv f.a))
    ∧ ∀ f : CForm,
      let e := execLanes s g f.g
      let low := g.lane (lowLane e)
      let h := { (g.sw f.mod 3).hActive 3 with base := low.rx f.a }
      (e = 0 → exec (.bulk f) s = .next (s.putCur (movedOn s g g)))
      ∧ (e ≠ 0 → (f.ext.getLsbD 1 = true → noCounters s s.cur.core g = false) →
          bulkCheck s s.cur.core g { EngCmd.blank s g e .bulk with
            mod := f.mod, d := (low.rv f.b).toNat % 16, ext := f.ext, addr := low.rx f.d, shape := h } = none →
          CommandResult (.bulk f) s g (g.sw f.mod 3) fun m => m.kind = .bulk ∧ m.d = (low.rv f.b).toNat % 16 ∧ m.ext = f.ext
            ∧ m.addr = low.rx f.d ∧ m.shape = h)

/-- R284, R289, R480, R482. -/
def Obligations.NamedAndCounterWaits : Prop :=
  ∀ (s : State) (g : Gang), Issues s g → s.inFirmware = false →
    let moved (m : Mask) (x : Nat) : Fibre := if m.getLsbD x then { g.lane x with pc := s.cur.next } else g.lane x
    (∀ f : AForm,
      let e := execLanes s g f.g
      let slot (l : Nat) : Nat := ((g.lane l).rv f.a).toNat % 32
      let i (l : Nat) : Interest := mget Interest.none g.interests (slot l)
      (e = 0 → exec (.nwait f) s = .next (s.putCur (movedOn s g g)) ∧ exec (.arwait f) s = .next (s.putCur (movedOn s g g)))
      ∧ (∀ l, LowestOf e (fun k => (i k).state = .free) l → l < 32 →
          exec (.nwait f) s = .next (takeTrap s 0x0F l [0x05, BitVec.ofNat 64 (slot l), e.setWidth 64]))
      ∧ (e ≠ 0 → (∀ l, e.getLsbD l = true → (i l).state = .arrived) →
          ∃ t h, exec (.nwait f) s = .next t ∧ Issues t h ∧ t = { s with cores := t.cores }
            ∧ (∀ l, l < 32 → SameRegs (h.lane l) (moved (groupLanes s g) l))
            ∧ (∀ l, l < 32 → e.getLsbD l = true → mget Interest.none h.interests (slot l) = Interest.none)
            ∧ ∀ n, (∀ l, l < 32 → e.getLsbD l = true → slot l ≠ n) →
                mget Interest.none h.interests n = mget Interest.none g.interests n)
      ∧ ((∀ l, e.getLsbD l = true → (i l).state ≠ .free) → (∃ l, l < 32 ∧ e.getLsbD l = true ∧ (i l).state = .pending) →
          ∃ h, exec (.nwait f) s = .next (s.putCur h)
            ∧ ∀ l, l < 32 → e.getLsbD l = true → h.lane l = { g.lane l with status := .parked .named })
      ∧ (let k (l : Nat) : Nat := ((g.lane l).rv f.a).toNat % 16
        let ctr (l : Nat) : ArrCounter := counterOf s s.cur.core g (k l)
        (e ≠ 0 → noCounters s s.cur.core g = true →
          exec (.arwait f) s = .next (takeTrap s 0x0F (lowLane e) [0x07, BitVec.ofNat 64 (k (lowLane e)), e.setWidth 64]))
        ∧ (noCounters s s.cur.core g = false →
          (∀ l, LowestOf e (fun x => (ctr x).armed = false) l → l < 32 →
            exec (.arwait f) s = .next (takeTrap s 0x0F l [0x06, BitVec.ofNat 64 (k l), e.setWidth 64]))
          ∧ (e ≠ 0 → (∀ l, e.getLsbD l = true → (ctr l).armed = true) →
            ∃ h, exec (.arwait f) s = .next (s.putCur h) ∧ ∀ l, l < 32 →
              (e.getLsbD l = true → (ctr l).value.toNat < (ctr l).target.toNat → h.lane l = { g.lane l with status := .parked .arrive })
              ∧ (e.getLsbD l = true → (ctr l).target.toNat ≤ (ctr l).value.toNat →
                  SameRegs (h.lane l) { g.lane l with pc := s.cur.next })
              ∧ (e.getLsbD l = false → h.lane l = moved (groupLanes s g) l)))))
    ∧ ∀ f : CForm,
      let e := execLanes s g f.g
      let low := g.lane (lowLane e)
      let k := (low.rv f.a).toNat % 16
      (e = 0 → exec (.armt f) s = .next (s.putCur (movedOn s g g)))
      ∧ (e ≠ 0 → noCounters s s.cur.core g = true →
          exec (.armt f) s = .next (takeTrap s 0x0F (lowLane e) [0x07, BitVec.ofNat 64 k, e.setWidth 64]))
      ∧ (e ≠ 0 → ∀ b, homeBlock? s s.cur.core g = some b → ∃ t b', exec (.armt f) s = .next t ∧ t = { s with cores := t.cores }
          ∧ Issues t (movedOn s g g) ∧ homeBlock? t s.cur.core g = some b'
          ∧ b' = { b with counters := b'.counters }
          ∧ (∀ n, n ≠ k → mget ArrCounter.zero b'.counters n = mget ArrCounter.zero b.counters n)
          ∧ (mget ArrCounter.zero b'.counters k).target = low.rx f.b ∧ (mget ArrCounter.zero b'.counters k).armed = true
          ∧ (mget ArrCounter.zero b'.counters k).value =
              if f.ext.getLsbD 0 = true then 0 else (mget ArrCounter.zero b.counters k).value)

/-- R330, R331, R333, R336, R338, R339. -/
def Obligations.ClusterInstructions : Prop :=
  ∀ (s : State) (g : Gang), Issues s g → s.inFirmware = false →
    (∀ f : AForm,
      (let t := s.putCur (movedOn s g g);
        exec (.unyoke f) s = .next (if execLanes s g f.g ≠ 0 ∧ g.member4 ≠ none then dissolveYoke t s.cur.core else t))
      ∧ (execLanes s g f.g = g.live →
        let e := g.live
        let ea := (g.lane (lowLane e)).rx f.a
        (g.member4 ≠ none → LanesResult (.yoke f) s g f.g fun _ x => { x.wp f.d true with pc := s.cur.next })
        ∧ (g.member4 = none → ∃ t h, exec (.yoke f) s = .next t ∧ Issues t h ∧ t = { s with cores := t.cores, clusters := t.clusters }
            ∧ (∀ l, l < 32 → e.getLsbD l = true → SameRegs (h.lane l) { g.lane l with status := .parked .yoke })
            ∧ t.cluster (s.cur.core / 4) = { s.cluster (s.cur.core / 4) with
                waiting := (s.cluster (s.cur.core / 4)).waiting
                  ++ [(s.cur.core, s.cur.gang, ((g.lane (lowLane e)).rv f.a).toNat % 65536, s.ck)] })
        ∧ (g.isFree = false → exec (.migrate f) s = .next (takeTrap s 0x08 (lowLane e) [ea, 0xA1]))
        ∧ (g.isFree = true → g.member4 ≠ none → exec (.migrate f) s = .next (takeTrap s 0x08 (lowLane e) [ea, 0xA2]))
        ∧ (g.isFree = true → g.member4 = none → g.q2 = [] → classBusy s s.cur.core s.cur.gang g 4 = false →
            (∀ q, q ∈ g.interests → q.2.state ≠ .pending) →
            (∀ pte, (s.curCore.tlbFind g.tenant g.ctx ea) = some pte → ea.toNat < 0x00FE000000000000 →
                pkgOf (ptePa pte.pte + (ea.toNat - pte.va)) = s.self → pteHome pte.pte = 2 → pteHomeSel pte.pte = s.cur.core →
                LanesResult (.migrate f) s g f.g fun _ x => { x.wp f.d true with pc := s.cur.next })
            ∧ (0x00FE000000000000 ≤ ea.toNat → ea.toNat < 2 ^ 56 →
                LanesResult (.migrate f) s g f.g fun _ x => { x.wp f.d false with pc := s.cur.next }))))
    ∧ ∀ f : IForm, execLanes s g f.g = g.live →
      let cl := s.cur.core / 4
      let slot := f.imm.toNat % 8
      let n := f.imm.toNat / 8 % 256
      let ps := ((s.cluster cl).phases g.ctx).getD []
      let p := (mfind ps slot).getD { count := n, gangs := [], clock := [] }
      ((s.cluster cl).phases g.ctx = none → 32 ≤ (s.cluster cl).entries.length →
        ∃ h, exec (.cbar f) s = .next (s.putCur h)
          ∧ ∀ l, g.live.getLsbD l = true → h.lane l = { g.lane l with status := .parked .cbar })
      ∧ ((s.cluster cl).phases g.ctx ≠ none ∨ (s.cluster cl).entries.length < 32 →
        (p.count ≠ n → exec (.cbar f) s = .next (takeTrap s 0x05 (lowLane g.live)
          [BitVec.ofNat 64 (slot + 512), BitVec.ofNat 64 p.count, BitVec.ofNat 64 n]))
        ∧ (p.count = n → p.gangs.length + 1 < n → ∃ t h, exec (.cbar f) s = .next t ∧ Issues t h
            ∧ (∀ l, l < 32 → g.live.getLsbD l = true → SameRegs (h.lane l) { g.lane l with status := .parked .cbar })
            ∧ ∃ qs q, (t.cluster cl).phases g.ctx = some qs ∧ mfind qs slot = some q ∧ q.count = n ∧ q.gangs = p.gangs ++ [g.uid])
        ∧ (p.count = n → n ≤ p.gangs.length + 1 → (ps.map Prod.fst).Nodup → ∃ t h, exec (.cbar f) s = .next t ∧ Issues t h
            ∧ (∀ l, l < 32 → g.live.getLsbD l = true → (∀ w, w ∈ g.waits → w.mask.getLsbD l = false) →
                (h.lane l).status = .ready ∧ (h.lane l).pc = s.cur.next)
            ∧ ∀ qs q, (t.cluster cl).phases g.ctx = some qs → mfind qs slot = some q → q.gangs = []))
/-! ### New work, services and long words (R160, R161, R176, R208 to R224, R316) -/

/-- R160, R161. -/
def Obligations.ForkAndJoin : Prop :=
  ∀ (s : State) (g : Gang), Issues s g →
    let moved (m : Mask) (x : Nat) : Fibre := if m.getLsbD x then { g.lane x with pc := s.cur.next } else g.lane x
    (∀ f : CForm, s.inFirmware = false →
      let e := execLanes s g f.g
      let low := lowLane e
      let found := laneFound s g low ((g.lane low).rx f.c) 8 2 0x147 false apertureAtomic
      (e = 0 → exec (.fork f) s = .next (s.putCur (movedOn s g g)))
      ∧ (e ≠ 0 →
        (∀ l, e.getLsbD l = true → InCode s (g.lane l) ((g.lane l).rx f.a) ∧ IsEntry s (g.lane l) ((g.lane l).rx f.a) true
          ∧ (g.lane l).rx f.a = (g.lane low).rx f.a) →
        Performs s g low ((g.lane low).rx f.c) 8 2 true found → Untracked found →
        ∃ t h k, exec (.fork f) s = .next t ∧ Issues t h ∧ t.hostMem = s.hostMem ∧ (∀ c, c ≠ s.cur.core → t.core c = s.core c)
          ∧ (∀ l, l < 32 → SameRegs (h.lane l) (moved (groupLanes s g) l))
          ∧ (s.curCore.deque.length < 256 → t.curCore.deque = k :: s.curCore.deque)
          ∧ k.entry = (g.lane low).rx f.a ∧ k.join = (g.lane low).rx f.c ∧ k.home = g.home ∧ k.ctx = g.ctx
          ∧ k.launch = (g.lane low).launch
          ∧ k.args = (lanesOf e).map (fun l => argRun (g.lane l) f.b (f.ext.toNat % 32))
          ∧ ∀ pa home, found = .mem [pa] false home none → pkgOf pa = s.self → g.buffered = [] →
              (∀ i, i < 8 → s.inMeta (pa + i) = false) →
              t.mem = memWrite s.mem pa (leBytes 8 ((memNat s.mem pa 8 + 1) % 2 ^ 64))
              ∧ ∀ b, b < pa ∨ pa + 8 ≤ b → memByte t.mem b = memByte s.mem b))
    ∧ ∀ f : AForm,
      let e := execLanes s g f.g
      let found (l : Nat) : Found := laneFound s g l ((g.lane l).rx f.a) 8 0 0x148 false (apertureRule true 8 0 2)
      (e = 0 → exec (.join f) s = .next (s.putCur (movedOn s g g)))
      ∧ (e ≠ 0 → (∀ l, e.getLsbD l = true → Performs s g l ((g.lane l).rx f.a) 8 2 true (found l) ∧ Untracked (found l)) →
        ∃ t h, exec (.join f) s = .next t ∧ Issues t h ∧ OnlyCaches s t h
          ∧ ∀ l, l < 32 →
            (e.getLsbD l = true → ofLe (readFound s s.cur.core g l 8 (found l)) = 0 →
              SameRegs (h.lane l) { g.lane l with pc := s.cur.next })
            ∧ (e.getLsbD l = true → ofLe (readFound s s.cur.core g l 8 (found l)) ≠ 0 →
              s.inFirmware = false → h.lane l = { g.lane l with status := .parked .join })
            ∧ (e.getLsbD l = false → h.lane l = moved (groupLanes s g) l))

/-- R154, R176, R316, R444. `fl` are reports of failed sectors that leave the caches. -/
def Obligations.ServiceCalls : Prop :=
  (∀ (s : State) (g : Gang) (f : IForm), Issues s g →
    let e := execLanes s g f.g
    let ea (l : Nat) : W64 := (g.lane l).rx f.a
    let room (l : Nat) : Nat := if (ea l).getLsbD 48 = true then (windowOf s s.cur.core g).2 else (g.lane l).stackSize
    let bad (l : Nat) : Prop := (ea l).toNat % 64 ≠ 0 ∨ 2 ^ 56 ≤ (ea l).toNat
      ∨ (s.inFirmware = false ∧ (ea l).toNat / 2 ^ 49 = 0x7F ∧ room l < (ea l).toNat % 2 ^ 48 + 64)
    (e = 0 → exec (.syscall f) s = .next (s.putCur (movedOn s g g)))
    ∧ (∀ l, l < 32 → LowestOf e bad l → exec (.syscall f) s = .next (takeTrap s 0x08 l [ea l, 0x85]))
    ∧ ∀ pa : Nat → Nat, e ≠ 0 → (s.inFirmware = true ∨ s.awaitsAcks s.cur.core s.cur.gang = false) →
        (∀ l, e.getLsbD l = true → ¬ bad l ∧ pkgOf (pa l) = s.self ∧ pkgOf (pa l + 56) = s.self ∧ s.inMeta (pa l + 56) = false ∧ ∃ home,
          laneFound s g l (ea l) 64 1 0x151 false (apertureRule false 64 1 3) = .mem [pa l] false home none
          ∧ Performs s g l (ea l) 64 0 false (.mem [pa l] false home none)) →
        ∃ t h, exec (.syscall f) s = .next t ∧ Issues t h
          ∧ t.mem = (lanesOf e).foldl (fun m l => memWrite m (pa l + 56) (leBytes 8 0)) s.mem
          ∧ (∀ b, (∀ l, e.getLsbD l = true → b < pa l + 56 ∨ pa l + 64 ≤ b) → memByte t.mem b = memByte s.mem b)
          ∧ (∀ l, l < 32 → SameRegs (h.lane l)
              (if (groupLanes s g).getLsbD l then { g.lane l with pc := s.cur.next } else g.lane l))
          ∧ ∀ l, l < 32 → e = laneBit l → s.inFirmware = false →
              (∀ q, q ∈ s.requests → q.place ≠ .glob g.tenant (ea l)) →
              ∃ r, r.service = f.imm.toNat ∧ r.tenant = g.tenant ∧ r.ctx = g.ctx ∧ r.place = .glob g.tenant (ea l)
                ∧ ∃ fl, (s.flaws = [] → fl = [])
                ∧ (∀ ev, syscallEvent f.imm.toNat r = some ev →
                    t.requests = s.requests ++ [r] ∧ t.agenda = s.agenda ++ fl ++ [ev])
                ∧ (syscallEvent f.imm.toNat r = none → t.requests = s.requests
                    ∧ ∃ w, t.agenda = s.agenda ++ fl ++ [.syscallReply w] ∧ w.status = 2 ∧ w.place = .glob g.tenant (ea l)))
  ∧ ∀ (s : State) (f : IForm), FirmwareRuns s f.g →
      let ea := s.curCore.fw.rx f.a
      (ea.toNat % 64 ≠ 0 ∨ 2 ^ 52 ≤ ea.toNat ∨ ea.toNat / 2 ^ 48 ≠ s.self ∨ ea.toNat / 2 ^ 40 % 256 ≠ 0 →
        exec (.kcall f) s = .next (fwTrap s 0x08 [ea, 0x85]))
      ∧ (ea.toNat % 64 = 0 → ea.toNat < 2 ^ 52 → ea.toNat / 2 ^ 48 = s.self → ea.toNat / 2 ^ 40 % 256 = 0 →
          (∀ q, q ∈ s.requests → q.place ≠ .phys ea.toNat) →
          let t := { fwMoved s with mem := memWrite s.mem (ea.toNat + 56) (leBytes 8 0) }
          ∃ r, r.service = f.imm.toNat ∧ r.stk = 16 ∧ r.place = .phys ea.toNat
            ∧ (∀ ev, kcallEvent f.imm.toNat r = some ev →
                exec (.kcall f) s = .next { t with requests := s.requests ++ [r], agenda := s.agenda ++ [ev] })
            ∧ (kcallEvent f.imm.toNat r = none →
                ∃ w, exec (.kcall f) s = .next { t with agenda := s.agenda ++ [.syscallReply w] } ∧ w.status = 2))

/-- R210, R212, R216, R217, R219, R223, R224. -/
def Obligations.LongWords : Prop :=
  (∀ (s : State) (g : Gang) (w : LWord), Issues s g → s.inFirmware = false → groupLanes s g ≠ 0 →
    let lanes := groupLanes s g
    let npc := (g.lane (lowLane lanes)).npc
    let start := g.atIssue lanes
    let leafOf (l : Nat) : Nat := w.tree.pick (fun i => guardPasses (w.sel i) (start.lane l)) 0 0
    (waitsForResult w g lanes leafOf = true →
      exec (.longWord w) s = .next (s.putCur (g.mapLanes lanes fun _ f => { f with status := .parked .result })))
    ∧ (waitsForResult w g lanes leafOf = false →
      (∀ reason mask, lowestReason (w.staticFaults ++ issueFaults w start lanes leafOf) = some (reason, mask) →
        ∃ t h st, exec (.longWord w) s = .next t ∧ Issues t h ∧ h.stop = some st ∧ h.region = Region.empty
          ∧ st.record.code = 0x02
          ∧ st.record.infos = [BitVec.ofNat 64 (64 * npc), BitVec.ofNat 64 (mask + reason * 256), lanes.setWidth 64])
      ∧ (lowestReason (w.staticFaults ++ issueFaults w start lanes leafOf) = none → w.commit = false →
          g.replay = false → g.stop = none →
        (w.ops = [] → ∃ t h, exec (.longWord w) s = .next t ∧ Issues t h ∧ t = { s with cur := t.cur, cores := t.cores }
          ∧ h.words = g.words + 1 ∧ h.region.instrs = g.region.instrs + 1 ∧ h.pend = start.pend
          ∧ ∀ l, l < 32 → h.lane l = if lanes.getLsbD l then { start.lane l with npc := npc + 1 } else start.lane l)
        ∧ (∀ x, w.ops = [x] → x.op = 0x140 → x.leaf = 7 → translOf s g ≠ none →
            ∃ t h, exec (.longWord w) s = .next t ∧ Issues t h ∧ t = { s with cur := t.cur, cores := t.cores }
              ∧ h.words = g.words + 1 ∧ h.pend = start.pend
              ∧ ∀ l, l < 32 → h.lane l =
                  if lanes.getLsbD l then
                    { start.lane l with npc := if guardPasses x.guard (start.lane l) then ((npc : Int) + x.third.toInt).toNat
                                               else npc + 1 }
                  else start.lane l)
        ∧ (∀ x, w.ops = [x] → x.op = 0x001 → x.raw.ty = .s32 → x.leaf = 7 → x.hold = 0 → x.d < 509 → x.a < 509 → x.raw.b < 509 →
            ∃ t h, exec (.longWord w) s = .next t ∧ Issues t h ∧ h.words = g.words + 1
              ∧ (∀ l, l < 32 → lanes.getLsbD l = true → h.lane l = { start.lane l with npc := npc + 1 })
              ∧ h.pend = start.pend ++ ((lanesOf lanes).filter fun l => guardPasses x.guard (start.lane l)).map fun l =>
                  { due := g.words + 1, interlocked := false, lane := l, dest := .reg x.d
                    value := (start.lane l).rn x.a + (start.lane l).rn x.raw.b }))))
  ∧ ∀ (g : Gang) (p : PendWrite) (lanes : Mask) (n : Nat), g.pend = [p] → p.dest = .reg n → p.lane < 32 → n < 512 →
      (∃ x, mfind g.arch.fibres p.lane = some x) →
      (p.interlocked = false → p.due ≤ g.words → ((g.atIssue lanes).lane p.lane).rn n = p.value ∧ (g.atIssue lanes).pend = [])
      ∧ (g.words < p.due → (g.atIssue lanes).pend = [p] ∧ ∀ m, ((g.atIssue lanes).lane p.lane).rn m = (g.lane p.lane).rn m)
/-! ### What happens on a core (R187, R217, R235, R247, R269, R305, R355, R356, R494) -/

/-- R91, R187, R198, R217, R235, R269, R273, R289, R355, R482. -/
def Obligations.CoreProgress : Prop :=
  (∀ (s : State) (it : AtItem) (w : Wait), Waiting s it w →
    (w.cause = .l2miss → (opOf w.instr).isSome = true → Reissues (.globalAccessComplete it) s it w true)
    ∧ (w.cause = .tlb ∨ w.cause = .page ∨ w.cause = .presence → (opOf w.instr).isSome = true →
        Reissues (.globalAccessComplete it) s it w false)
    ∧ (∀ f, w.instr = .ldq f → Reissues (.ldqWake it) s it w false)
    ∧ (∀ f, w.instr = .stq f → Reissues (.stqWake it) s it w false)
    ∧ (∀ f, w.instr = .nwait f → Reissues (.nwaitWake it) s it w false)
    ∧ (∀ f, w.instr = .arwait f → Reissues (.arwaitWake it) s it w false)
    ∧ (∀ f, w.cause = .join → w.instr = .join f → Reissues (.joinWake it) s it w false)
    ∧ (∀ f, w.cause = .fence → w.ticket = 0 → fabricSC w.instr = false → w.instr = .fence f → Reissues (.fenceComplete it) s it w false))
  ∧ (∀ (s : State) (c k : Nat) (w : Wait) (granted : Bool) (g : Gang), s.gang? c k = some g →
      let t := s.reissue c k w granted
      t.cur.core = c ∧ t.cur.gang = k ∧ t.cur.lanes = w.mask ∧ t.cur.pc = w.pc ∧ t.cur.next = w.next ∧ t.cur.granted = granted
      ∧ t.cur.pf = w.pf ∧ t.cur.charged = w.charged ∧ t.mem = s.mem ∧ ∃ h, t.gang? c k = some h
        ∧ ∀ l, l < 32 → w.mask.getLsbD l = true → (g.lane l).status ≠ .absent → h.lane l = { g.lane l with status := .ready })
  ∧ (∀ (s : State) (at_ : AtGang) (g : Gang), at_.gang ≠ 32 → s.gang? at_.core at_.gang = some g → g.region.isEmpty = false →
      (∀ st, st ∈ g.region.stores → st.tracked = false) → g.region.exits = 0 → g.region.samples = [] →
      (let h := g.mapLanes g.stalled fun _ f => { f with status := .ready }
       commitStall (s.setGang at_.core at_.gang h) at_.core at_.gang h = none) →
      ∃ t h, exec (.regionCommit at_) s = .next t ∧ t.gang? at_.core at_.gang = some h
        ∧ h.region = Region.empty ∧ h.base = h.arch ∧ t.mem = memAfter s.self s.mem g.region.stores
        ∧ (∀ b, (∀ st pa, st ∈ g.region.stores → st.loc = .phys pa → b < pa ∨ pa + st.bytes.length ≤ b) →
            memByte t.mem b = memByte s.mem b)
        ∧ h.q0.length = g.q0.length + (g.region.cmds.filter fun m => m.kind.cls == 2).length
        ∧ h.q2.length = g.q2.length + (g.region.cmds.filter fun m => m.kind.cls == 1).length
        ∧ (t.core at_.core).namedQ.length = (s.core at_.core).namedQ.length + (g.region.cmds.filter fun m => m.kind.cls == 3).length
        ∧ (t.core at_.core).fabricQ.length = (s.core at_.core).fabricQ.length + (g.region.cmds.filter fun m => m.kind.cls == 4).length)
  ∧ (∀ (s : State) (at_ : AtGang) (g : Gang) (p : PendWrite) (n : Nat), at_.gang ≠ 32 → s.gang? at_.core at_.gang = some g →
      g.pend = [p] → p.interlocked = true → p.dest = .reg n → p.lane < 32 → (g.lane p.lane).status = .parked .result → g.waits = [] →
      ∃ h, exec (.interlockedResult at_) s = .next (s.setGang at_.core at_.gang h) ∧ h.pend = []
        ∧ (h.lane p.lane).rn n = p.value ∧ (h.lane p.lane).status = .ready
        ∧ ∀ l, l < 32 → (g.lane l).status = .parked .result → (h.lane l).status = .ready)
  ∧ (∀ (s : State) (r : WalkReq) (lvl tbl : Nat), walkStart s (r.core / 256) r.tenant r.va.toNat = (lvl, tbl) →
      farPte s (4 - lvl) lvl tbl r.va.toNat = none → NoJoinOwed s → (s.core r.core).gangs.length ≤ 32 →
      let page := r.va.toNat / 2 ^ 16
      (mget [] (s.die (r.core / 256)).walkCaches (walkerSlice r.tenant r.va) = [] → (lvl, tbl) = (0, s.root r.tenant))
      ∧ (∀ e n, walkAt s r.va (lvl, tbl) = .leaf e n → 0 < n → ∃ t, exec (.pageWalk r) s = .next t ∧ t.mem = s.mem ∧ t.agenda = s.agenda
        ∧ ∀ ctx, (pteG e = true ∨ ∃ q, q ∈ (s.core r.core).gangs ∧ q.2.tenant = r.tenant ∧ q.2.ctx = ctx) →
            ∃ x, (t.core r.core).tlbFind r.tenant ctx r.va = some x ∧ x.pte = e ∧ x.size = n ∧ x.va = r.va.toNat / n * n)
      ∧ (walkAt s r.va (lvl, tbl) = .notPresent → ∃ t m, exec (.pageWalk r) s = .next t ∧ t.mem = s.mem
          ∧ t.agenda = s.agenda ++ [.pageResident m])
      ∧ (walkAt s r.va (lvl, tbl) = .malformed → ∃ t, exec (.pageWalk r) s = .next t ∧ t.mem = s.mem ∧ t.agenda = s.agenda
          ∧ ∀ c k g, c ∈ s.cores.map Prod.fst → mfind (t.core c).gangs k = some g → g.tenant = r.tenant →
              ∀ w, w ∈ g.waits → (w.cause = .tlb ∨ w.cause = .page ∨ w.cause = .fetch) → w.va.toNat / 2 ^ 16 = page → page ∈ w.pf))
  ∧ (∀ (s : State) (r : ResidentMsg), NoJoinOwed s →
      (r.pte = none → exec (.pageResident r) s = .next (failPage s r.tenant (r.va.toNat / 2 ^ 16)))
      ∧ (∀ e, r.pte = some e → ∃ t, exec (.pageResident r) s = .next t
          ∧ t.mem = (putLeaf s r.tenant (2 ^ 16 * (r.va.toNat / 2 ^ 16)) e).mem
          ∧ t.agenda = s.agenda ++ (pageWaiters s r.tenant (r.va.toNat / 2 ^ 16)).map fun c =>
              Event.pageWalk { core := c, tenant := r.tenant, va := r.va }))
  ∧ (∀ (s : State) (r : WalkReq),
      let mine (w : Walk) : Bool := w.slice == walkerSlice r.tenant r.va && w.tenant == r.tenant && w.page == r.va.toNat / 2 ^ 16
      let walks := (s.die (r.core / 256)).walks
      let here := walks.filter fun w => w.slice == walkerSlice r.tenant r.va
      let load := here.foldl (fun n w => n + w.waiters.length) 0
      let left := (s.core r.core).retries.eraseP fun q => q.1 == r
      (∀ w, w ∈ walks → mine w = false) →
      (here.length < 32 → load < 4096 →
        ∃ t, exec (.walkRetry r) s = .next t ∧ t = { s with cores := t.cores, dies := t.dies, agenda := s.agenda ++ [.pageWalk r] }
          ∧ t.core r.core = { s.core r.core with retries := left }
          ∧ (t.die (r.core / 256)).walks = walks ++
              [{ slice := walkerSlice r.tenant r.va, tenant := r.tenant, page := r.va.toNat / 2 ^ 16, waiters := [r.core] }])
      ∧ (32 ≤ here.length ∨ 4096 ≤ load → ∃ t, exec (.walkRetry r) s = .next t ∧ t = { s with cores := t.cores }
          ∧ t.core r.core = { s.core r.core with retries := left ++ [(r, s.ck + 16)] }))
  ∧ ∀ (s : State) (it : AtCore), (∀ q, q ∈ (s.core it.core).gangs → ∀ w, w ∈ q.2.waits → w.cause ≠ .presence) →
      exec (.fillComplete it) s = .next (s.modCore it.core fun k =>
        { k with fills := k.fills.filter fun f => !(f.row == it.item && f.done) })

/-- R176, R247, R305, R316, R356, R494. -/
def Obligations.CoreReports : Prop :=
  (∀ (s : State) (at_ : AtGang) (g : Gang) (st : Stop) (n i : Nat), at_.gang ≠ 32 → s.gang? at_.core at_.gang = some g →
      g.notices = [] → g.stop = some st → st.entry = none → (s.core at_.core).slotFor g.ctx = some n →
      let u := (s.core at_.core).slotOf n
      i < 64 → u.trapvalid.getLsbD i = false → (∀ j, j < i → u.trapvalid.getLsbD j = true) →
      ∃ t, exec (.pendingRecordWrite at_) s = .next t ∧ t = { s with cores := t.cores, mem := t.mem }
        ∧ t.mem = memWrite s.mem (u.trapbase.toNat % 2 ^ 52 + 128 * i) (recordBytes st.record)
        ∧ (∀ a, a < u.trapbase.toNat % 2 ^ 52 + 128 * i ∨ u.trapbase.toNat % 2 ^ 52 + 128 * i + 128 ≤ a →
            memByte t.mem a = memByte s.mem a)
        ∧ ((t.core at_.core).slotOf n).trapvalid = u.trapvalid ||| BitVec.ofNat 64 (2 ^ i)
        ∧ (t.core at_.core).event = (s.core at_.core).event ||| BitVec.ofNat 5 (2 ^ n)
        ∧ t.gang? at_.core at_.gang = some { g with stop := some { st with entry := some i } })
  ∧ (∀ (s : State) (at_ : AtGang) (g : Gang) (d : Deferred) (r : List Deferred), at_.gang ≠ 32 →
      s.gang? at_.core at_.gang = some g → g.deferred = d :: r → g.stop = none → g.live ≠ 0 → g.region.isEmpty = true →
      ∃ t h st, exec (.deferredFaultTake at_) s = .next t ∧ t.gang? at_.core at_.gang = some h ∧ h.deferred = r
        ∧ h.stop = some st ∧ st.record.code = d.code ∧ st.record.infos = d.infos ∧ st.record.deferred = true
        ∧ st.record.pc = (g.lane (lowLane g.live)).pc)
  ∧ (∀ (s : State) (core : Nat) (v : Invalidation) (w : Wait), (s.core core).inval = some v → v.acks = 0 →
      (s.core core).fwWait = some w → w.mask = 1 → (s.core core).fw.status ≠ .absent →
      ∃ t, exec (.tlbinvComplete core) s = .next t ∧ t.mem = s.mem ∧ (t.core core).inval = none
        ∧ (t.core core).fw.status = .ready ∧ (t.core core).fw.pc = w.next
        ∧ ∀ c e, c ∈ s.cores.map Prod.fst → e ∈ (t.core c).tlb → e.tenant = v.tenant →
            v.all = false ∧ overlaps e.va e.size v.base.toNat v.len.toNat = false)
  ∧ (∀ (s : State) (core : Nat) (f : AForm) (w : Wait), (s.core core).fwWait = some w → w.instr = .wfi f → w.mask = 1 →
      (s.core core).event &&& ((s.core core).fw.rv f.a).setWidth 5 ≠ 0 →
      exec (.wfiWake core) s = .next (s.modCore core fun k => { k with fw := { k.fw with status := .ready, pc := w.next }, fwWait := none }))
  ∧ (∀ (s : State) (m : MboxMsg),
      let entry (kind : Nat) := (BitVec.ofNat 4 kind, BitVec.ofNat 12 m.ctx, BitVec.ofNat 1 m.slot, m.addr)
      ((s.core m.core).mbox.length < 16 →
        (exec (.mboxSave m) s = .next (s.modCore m.core fun k =>
          { k with mbox := k.mbox ++ [entry 2], event := k.event ||| 16 }))
        ∧ ∃ t, exec (.mboxLoad m) s = .next t ∧ (t.core m.core).mbox = (s.core m.core).mbox ++ [entry 1]
            ∧ (t.core m.core).event = (s.core m.core).event ||| 16 ∧ (t.ctx m.ctx).places = (s.ctx m.ctx).places ++ [(m.core, m.slot, m.addr)])
      ∧ (16 ≤ (s.core m.core).mbox.length →
          exec (.mboxSave m) s = .next (s.modCore m.core fun k => k) ∧ exec (.mboxLoad m) s = .next s))
  ∧ ∀ (s : State) (r : SvcReply) (pa : Nat), r.place = .phys pa →
      ∃ t, exec (.syscallReply r) s = .next t ∧ t = { s with mem := t.mem, dies := t.dies }
        ∧ t.mem = memWrite s.mem (pa + 56) (leBytes 8 r.status.toNat)
        ∧ ∀ b, b < pa + 56 ∨ pa + 64 ≤ b → memByte t.mem b = memByte s.mem b
/-! ### The engines run their commands (R245 to R291, R481, R482) -/

/-- R245, R249, R250, R253 to R260, R263. -/
def Obligations.MatrixEngineCommands : Prop :=
  (∀ (s : State) (at_ : AtGang) (g : Gang) (b : Block) (m : EngCmd), MatrixAt s at_ g b m →
    let c := at_.core
    let k := s.core c
    let w := elemWidth m.ty
    let base := (windowOf s c g).1
    let pat := patternRow s g m
    (m.kind = .oload → ∃ t h, exec (.oloadCmd at_) s = .next t ∧ MatrixDone s t at_ g m h
      ∧ (t.core c).acc = k.acc ∧ (t.core c).scratch = k.scratch
      ∧ (let cols := if m.ext.getLsbD 4 then 64 else 128
         let key := opKey b (4 * m.d + bitsOf m.ext 0 2) 0
         let size := 128 * cols * w / 8
         (∀ i, i < size → mget 0 (t.core c).opmem (key + i) = tileByte w (fun e => oloadElem k base m (e / cols) (e % cols)) i)
         ∧ ∀ n, n < key ∨ key + size ≤ n → mget 0 (t.core c).opmem n = mget 0 k.opmem n))
    ∧ (m.kind = .mma ∨ m.kind = .mmas ∨ m.kind = .mmag → ∃ t h, exec (.productStep at_) s = .next t ∧ MatrixDone s t at_ g m h
      ∧ (t.core c).opmem = k.opmem
      ∧ (∀ row col, row < 128 → col < 128 →
          let old : W32 := if m.mod.getLsbD 2 then 0 else mget 0 k.acc (accKey b m.d row col)
          mget 0 (t.core c).acc (accKey b m.d row col) =
            if isFloat m.ty then stepFloat (aFloats k b m pat) (bFloats k b m (row / 16)) row col old
            else BitVec.ofInt 32 ((List.range 128).foldl (fun (sum : Int) i =>
              sum + ((aTerms m pat row i).foldl (fun (x : Int) e => x + elemInt m.ty (tileElem (opTile k b m.qA) w e)) 0)
                * elemInt (bTy m.ty m.mod) (tileElem (opTile k b (m.qB (row / 16))) w (i * 128 + col))) old.toInt))
      ∧ (∀ n, n < accKey b m.d 0 0 ∨ accKey b m.d 0 0 + 16384 ≤ n → mget 0 (t.core c).acc n = mget 0 k.acc n)
      ∧ (cwOut m.word = false → (t.core c).scratch = k.scratch)
      ∧ (cwOut m.word = true → (t.core c).scratch = (runOut (runStep k b m pat) base b g.actLut m).scratch))
    ∧ (m.kind = .accrd → (g.inNative && !g.replay) = false → ∃ t h, exec (.accrdCmd at_) s = .next t ∧ MatrixDone s t at_ g m h
      ∧ (t.core c).acc = k.acc ∧ (t.core c).opmem = k.opmem ∧ (t.core c).scratch = k.scratch
      ∧ ∀ q, q ∈ m.words → q.1 < 32 → (∀ p, p ∈ m.words → p.1 = q.1 → p = q) → (g.lane q.1).status = .parked .result →
          (h.lane q.1).status = .ready ∧ (h.lane q.1).pc = g.nextOf q.1
          ∧ (∀ i, i < 16 → (h.lane q.1).rv (m.d + i) = mget 0 k.acc (accKey b m.a (bitsOf q.2 0 7) (16 * bitsOf q.2 7 3 + i)))
          ∧ ∀ n, n < m.d ∨ m.d + 16 ≤ n → (h.lane q.1).rv n = (g.lane q.1).rv n)
    ∧ (m.kind = .accwr → ∃ t h, exec (.accwrCmd at_) s = .next t ∧ MatrixDone s t at_ g m h
      ∧ (t.core c).opmem = k.opmem ∧ (t.core c).scratch = k.scratch
      ∧ (∀ pre l v post, m.words = pre ++ (l, v) :: post → (∀ q, q ∈ post → bitsOf q.2 0 10 ≠ bitsOf v 0 10) →
          ∀ i, i < 16 → mget 0 (t.core c).acc (accKey b m.d (bitsOf v 0 7) (16 * bitsOf v 7 3 + i)) = (mget [] m.vals l).getD i 0)
      ∧ ∀ n, (∀ q i, q ∈ m.words → i < 16 → n ≠ accKey b m.d (bitsOf q.2 0 7) (16 * bitsOf q.2 7 3 + i)) →
          mget 0 (t.core c).acc n = mget 0 k.acc n)
    ∧ (m.kind = .accz → ∃ t h, exec (.acczCmd at_) s = .next t ∧ MatrixDone s t at_ g m h
      ∧ (t.core c).opmem = k.opmem ∧ (t.core c).scratch = k.scratch
      ∧ (∀ a row col, a < min 4 b.accCount → m.imm.testBit a = true → row < 128 → col < 128 → mget 0 (t.core c).acc (accKey b a row col) = 0)
      ∧ ∀ n, (∀ a, a < min 4 b.accCount → m.imm.testBit a = true → n / 16384 ≠ b.accBase + a) → mget 0 (t.core c).acc n = mget 0 k.acc n)
    ∧ (m.kind = .actlut → ∃ t h, exec (.actlutCmd at_) s = .next t ∧ MatrixDone s t at_ g m h
      ∧ (t.core c).acc = k.acc ∧ (t.core c).opmem = k.opmem ∧ (t.core c).scratch = k.scratch
      ∧ ∀ i, i < 192 → mget 0 h.actLut i = opWord (opTile k b (4 * m.a)) i)
    ∧ (m.kind = .orelease → ∃ t h, exec (.oreleaseCmd at_) s = .next t ∧ MatrixDone s t at_ g m h
      ∧ (t.core c).acc = k.acc ∧ (t.core c).opmem = k.opmem ∧ (t.core c).scratch = k.scratch
      ∧ h.claimed = g.claimed &&& ~~~m.mask))
  ∧ (∀ (s : State) (it : AtCore) (b : Block) (q : Claim) (r : List Claim) (g : Gang), (s.core it.core).blocks[it.item]? = some b →
      (s.core it.core).block? b.uid = some b → b.claims = q :: r → heldSlots s it.core b &&& q.mask = 0 →
      q.gang ≠ 32 → s.gang? it.core q.gang = some g →
      ∃ t h, exec (.oclaimGrant it) s = .next t ∧ t = { s with cores := t.cores } ∧ t.gang? it.core q.gang = some h
        ∧ h.claimed = q.mask ∧ ((t.core it.core).block? b.uid).map Block.claims = some r
        ∧ ∀ l, l < 32 → h.lane l =
            if (g.lane l).status = .parked .oslot then { g.lane l with status := .ready, pc := g.nextOf l } else g.lane l)
  ∧ ∀ (s : State) (at_ : AtGang) (g : Gang) (b : Block) (m : EngCmd) (q : SeqPos), at_.gang ≠ 32 →
      s.gang? at_.core at_.gang = some g → g.live ≠ 0 → s.blockOf? at_.core g = some b → seqHead s at_.core at_.gang = some (m, q) →
      let body := seqBody s g q
      let runs := (seqEntry body q.entry).active body q.iter
      let after (p : SeqPos) : List EngCmd := match p.advance body with
        | some r => { m with seq := some r, imm := 0, addr2 := 0 } :: g.q0.drop 1
        | none => g.q0.drop 1
      (runs = false → ∃ t h, exec (.sequencerRun at_) s = .next t ∧ t = { s with cores := t.cores } ∧ t.gang? at_.core at_.gang = some h
        ∧ h = { g with q0 := after q } ∧ (t.core at_.core).acc = (s.core at_.core).acc
        ∧ (t.core at_.core).opmem = (s.core at_.core).opmem ∧ (t.core at_.core).scratch = (s.core at_.core).scratch)
      ∧ ∀ x, runs = true → seqForm s at_.core g m q = some (x, false) → x.kind ≠ .copy → x.kind ≠ .copyg →
          matrixCheck s at_.core g x = none → matrixWait s at_.core g x = none →
          (x.kind = .oload → s.expiredAt at_.core (oloadRows s at_.core g x) = none) → matrixFlawed s at_.core g b x = false →
          let ran := (matrixEffect s at_.core at_.gang g b { x with stamp := 0 }).core at_.core
          ∃ t h, exec (.sequencerRun at_) s = .next t ∧ t.gang? at_.core at_.gang = some h ∧ t.mem = s.mem
            ∧ h.q0 = after { q with mmas := mset q.mmas q.entry (mget 0 q.mmas q.entry + 1) }
            ∧ (t.core at_.core).acc = ran.acc ∧ (t.core at_.core).opmem = ran.opmem ∧ (t.core at_.core).scratch = ran.scratch

/-- R195, R196, R278 to R281, R284, R287, R288, R290, R360, R361, R364, R365, R481, R482. -/
def Obligations.EngineTransfers : Prop :=
  (∀ (s u : State) (at_ : AtGang) (g : Gang) (m : EngCmd), at_.gang ≠ 32 → s.gang? at_.core at_.gang = some g → g.live ≠ 0 →
    let done (t : State) (h : Gang) (u : State) (q tok : Nat) : Prop := t.gang? at_.core at_.gang = some h
      ∧ mget [] h.queues q = mget [] g.queues q ++ (if m.done then [BitVec.ofNat 32 tok] else [])
      ∧ (∀ f, f ∈ (t.core at_.core).fills → f.owner = m.stamp → f.done = true)
      ∧ t.mem = u.mem ∧ (t.core at_.core).scratch = (u.core at_.core).scratch ∧ (t.core at_.core).blocks = (u.core at_.core).blocks
    let failed (t : State) (code : BitVec 8) (infos : List W64) : Prop := ∃ h, t.gang? at_.core at_.gang = some h
      ∧ h.deferred = g.deferred ++ [{ code := code, infos := if code = tcECC then infos.take 3 else infos }] ∧ h.q2 = [] ∧ t.mem = s.mem
    (copyHead s at_.core at_.gang = some m → CopyMoves at_.core at_.gang (copyCount m - m.imm) s m u →
      (m.kind = .copy → ∃ t h, exec (.copyCmd at_) s = .next t ∧ done t h u 3 (copyToken m) ∧ h.q2 = g.q2.drop 1)
      ∧ (m.kind = .copyg → ∃ t h, exec (.copygCmd at_) s = .next t ∧ done t h u 3 (copyToken m) ∧ h.q2 = g.q2.drop 1))
    ∧ (∀ code infos, copyHead s at_.core at_.gang = some m → copyStep s at_.core at_.gang m = .fault code infos →
      (m.kind = .copy → ∃ t, exec (.copyCmd at_) s = .next t ∧ failed t code infos)
      ∧ (m.kind = .copyg → ∃ t, exec (.copygCmd at_) s = .next t ∧ failed t code infos))
    ∧ (fabricHead s at_.core at_.gang = some m → BulkMoves at_.core at_.gang (bulkCount m - m.imm) s m u →
      (m.put = false → ∃ t h, exec (.bulkGet at_) s = .next t ∧ done t h u 5 (1 + bitsOf m.ext 2 12 * 16)
        ∧ ∀ x, x ∈ (t.core at_.core).fabricQ → x.stamp ≠ m.stamp)
      ∧ (m.put = true → ∃ t h, exec (.bulkPut at_) s = .next t ∧ done t h u 5 (2 + bitsOf m.ext 2 12 * 16)
        ∧ ∀ x, x ∈ (t.core at_.core).fabricQ → x.stamp ≠ m.stamp)))
  ∧ (∀ (s : State) (c slot lane : Nat) (g : Gang) (m : EngCmd) (p : Path) (w : Nat) (src dst : W64 × Bool) (from_ onto : Nat → Loc),
      let n := max 1 (w / 8)
      Inv s → slot ≠ 32 → s.gang? c slot = some g → w = 4 ∨ w = 8 ∨ w = 16 ∨ w = 32 ∨ w = 64 →
      EngineAt s c slot lane g m src.1 n 0 from_ → EngineAt s c slot lane g m dst.1 n 1 onto →
      (∀ i off, i < n → from_ i = .scratch off → ∀ f, f ∈ (s.core c).fills → f.row = off / 64 → f.owner = m.stamp) →
      (∀ i j, i < n → j < n → onto i = onto j → i = j) →
      (∀ i x off, i < n → onto i = .stack x off → x < 32 ∧ ∃ f, mfind g.arch.fibres x = some f) →
      let bits := bitsIn w src.2 ((List.range n).map fun i => heldByte s c g (from_ i))
      let bytes := mergeBits w dst.2 ((List.range n).map fun i => heldByte s c g (onto i)) bits
      ∃ t h, moveElem s c slot lane g m p w { src := some src, dst := some dst } = .go t ∧ t.gang? c slot = some h
        ∧ (∀ i, i < n → heldByte t c h (onto i) = bytes.getD i 0)
        ∧ (∀ a, (∀ i, i < n → onto i ≠ .phys a) → memByte t.mem a = memByte s.mem a)
        ∧ ∀ a, (∀ i, i < n → onto i ≠ .scratch a) → (t.core c).pad a = (s.core c).pad a)
  ∧ (∀ (s : State) (at_ : AtGang) (g : Gang) (m : EngCmd), at_.gang ≠ 32 → s.gang? at_.core at_.gang = some g → g.live ≠ 0 →
      namedReady s at_.core at_.gang = some m → s.gangByUid m.party.gangUid = some g →
      s.gangPlace m.party.gangUid = some (at_.core, at_.gang) →
      (m.kind = .nreg → ∃ t, exec (.nregCmd at_) s = .next t
        ∧ t.mem = memWrite s.mem (routeAddr s g.tenant m.d) (leBytes 8 (routeEntry m.addr).toNat))
      ∧ (m.kind = .nwant → (mget Interest.none g.interests m.d).state = .pending → ∃ t, exec (.nwantCmd at_) s = .next t
        ∧ t = { s with cores := t.cores, agenda := t.agenda }
        ∧ (let i := mget Interest.none g.interests m.d
           t.agenda = s.agenda ++ [.interestArrival
             { holder := firstHolder s g.tenant (at_.core / 256) i.name, tenant := g.tenant, name := i.name
               face := .consumer (consumerOf s at_.core at_.gang g m.d i), until_ := i.until_ }]))
      ∧ (m.kind = .npub → npubWaits s at_.core m = false → ∀ d die, nameDesc s g.tenant (nameSpace m.addr) = some d →
          routeOf s g.tenant (nameSpace m.addr) = some (s.self, die) →
          ∃ t h, exec (.npubCmd at_) s = .next t ∧ t.gang? at_.core at_.gang = some h
            ∧ mget [] h.queues 4 = mget [] g.queues 4 ++ (if m.ext.getLsbD 0 then [BitVec.ofNat 32 3] else [])
            ∧ (isNew s d m.addr = true → t.mem = memWrite s.mem (pubAddr d m.addr) (leBytes 4 (nameIter m.addr + 65536))
                ∧ h.deferred = g.deferred
                ∧ (let bytes := tileBytes s at_.core g d m.shape
                   tarnUsed (s.die die) g.tenant + tarnBytes bytes.length ≤ tarnQuota s g.tenant →
                   ∃ x, x ∈ (t.die die).tarns ∧ x.tenant = g.tenant ∧ x.name = m.addr ∧ x.bytes = bytes))
            ∧ (isNew s d m.addr = false → t.mem = s.mem
                ∧ h.deferred = g.deferred ++ [{ code := tcNDUP, infos := [m.pc, m.addr] }]))
      ∧ (m.kind = .ndrop → ∃ t h, exec (.ndropCmd at_) s = .next t ∧ t = { s with cores := t.cores, migrations := t.migrations, saved := t.saved }
          ∧ t.gang? at_.core at_.gang = some h
          ∧ ∀ n, n < 32 → if (m.words.any fun q => q.1 == n && (mget Interest.none g.interests n).state != .free
                && (mget Interest.none g.interests n).serial == q.2) then mget Interest.none h.interests n = Interest.none
              else mget Interest.none h.interests n = mget Interest.none g.interests n))
  ∧ (∀ (s : State) (it : AtCore) (u : BulkUnit) (m : EngCmd) (g : Gang) (b : Block) (k : Nat), u.gang ≠ 32 →
      (s.core it.core).units[it.item]? = some u → (s.core it.core).fabricQ.find? (fun x => x.stamp == u.owner) = some m →
      s.gang? it.core u.gang = some g → homeBlock? s it.core g = some b →
      let n := bulkWidth m / 8
      let start := (windowOf s it.core g).1 + m.addr.toNat % 2 ^ 48 + u.off * n
      8 ≤ bulkWidth m → u.bytes.length = k * n → m.addr.toNat % 2 ^ 48 + (u.off + k) * n < 2 ^ 48 →
      let moved := (mget 0 m.words (u.off / unitElems m)).toNat + k
      ∃ t, exec (.bulkUnitArrival it) s = .next t ∧ t = { s with cores := t.cores, dies := t.dies }
        ∧ (t.core it.core).units = (s.core it.core).units.eraseIdx it.item
        ∧ (∀ i, i < k * n → (t.core it.core).pad (start + i) = u.bytes.getD i 0)
        ∧ (∀ a, a < start ∨ start + k * n ≤ a → (t.core it.core).pad a = (s.core it.core).pad a)
        ∧ (counterOf t it.core g m.d).value =
            if m.cnt = true ∧ moved = elemsInUnit m (u.off / unitElems m) then
              BitVec.ofNat 64 (min ((counterOf s it.core g m.d).value.toNat
                + (elemsInUnit m (u.off / unitElems m) * bulkWidth m + 7) / 8) (2 ^ 64 - 1))
            else (counterOf s it.core g m.d).value)
  ∧ ∀ (s : State) (m : Contribution),
      let d := s.die (dieOf m.pa)
      let item := (m.k1, m.k2, m.k3, m.value)
      ∃ t, exec (.fatomContribution m) s = .next t ∧ t = { s with dies := t.dies }
        ∧ (t.die (dieOf m.pa)).windows =
            if d.windows.any (isWindow m.launch m.pa m.ty) then
              updFirst (isWindow m.launch m.pa m.ty) (fun w => { w with items := w.items ++ [item] }) d.windows
            else d.windows ++ [{ launch := m.launch, pa := m.pa, ty := m.ty, folded := none, items := [item], counts := [] }]
/-! ### Named data on its way, and scheduling (R160, R284, R297, R299, R303, R309 to R312, R333, R339, R364 to R368, R424) -/

/-- R284, R285, R364, R365, R367, R368. -/
def Obligations.NamedDataEvents : Prop :=
  (∀ (s : State) (m : ArrivalMsg) (g : Gang) (d : NameDesc), m.consumer.gang ≠ 32 →
    s.gang? m.consumer.core m.consumer.gang = some g →
    let c := m.consumer.core
    let i := mget Interest.none g.interests m.consumer.slot
    let wanted := i.state = .pending ∧ i.serial = m.consumer.serial ∧ g.ctx = m.consumer.ctx ∧ s.ticks < i.until_
    let n := elemWidth (tyOf d.fmt) / 8
    let place (p : Nat) : Option Nat := (tilePlace d i.shape p).map fun q => (windowOf s c g).1 + q.1.toNat % 2 ^ 48
    (¬ wanted → exec (.namedArrival m) s = .next s)
    ∧ (wanted → nameDesc s g.tenant (nameSpace i.name) = some d →
      ∃ t h, exec (.namedArrival m) s = .next t ∧ t = { s with cores := t.cores, dies := t.dies } ∧ t.gang? c m.consumer.gang = some h
        ∧ mget Interest.none h.interests m.consumer.slot = { i with state := .arrived, clock := m.clock }
        ∧ mget [] h.queues 4 = mget [] g.queues 4 ++ (if i.tok then [BitVec.ofNat 32 (1 + m.consumer.slot * 16)] else [])
        ∧ (∀ f, f ∈ (t.core c).fills → f.owner = interestOwner g.uid m.consumer.slot → f.done = true)
        ∧ (0 < n → (∀ p q x y, p < d.elems → q < d.elems → p ≠ q → place p = some x → place q = some y → x + n ≤ y ∨ y + n ≤ x) →
          ∀ p x j, p < d.elems → place p = some x → j < n → (t.core c).pad (x + j) = m.bytes.getD (p * n + j) 0)))
  ∧ (∀ (s : State) (it : AtItem) (g : Gang), it.gang ≠ 32 → s.gang? it.core it.gang = some g →
      let i := mget Interest.none g.interests it.item
      (i.state = .pending → i.until_ ≤ s.ticks → ∃ t h, exec (.interestExpiry it) s = .next t ∧ t = { s with cores := t.cores }
        ∧ t.gang? it.core it.gang = some h ∧ (t.core it.core).fills = (s.core it.core).fills
        ∧ h = { g with interests := mset g.interests it.item { i with state := .expired }, queues := h.queues }
        ∧ mget [] h.queues 4 = mget [] g.queues 4 ++ (if i.tok then [BitVec.ofNat 32 (2 + it.item * 16)] else []))
      ∧ (s.ticks < i.until_ → exec (.interestExpiry it) s = .next s)
      ∧ (i.state = .pending → s.ticks < i.until_ →
        ∃ t, exec (.interestResend it) s = .next t ∧ t = { s with cores := t.cores, agenda := s.agenda ++ [.interestArrival
            { holder := firstHolder s g.tenant (it.core / 256) i.name, tenant := g.tenant, name := i.name
              face := .consumer (consumerOf s it.core it.gang g it.item i), until_ := i.until_ }] }
          ∧ t.gang? it.core it.gang = some { g with interests := mset g.interests it.item { i with refused := none } }))
  ∧ (∀ (s : State) (m : InterestMsg),
      let stored := match m.holder with | .rendezvous die _ => tarnTile s die m.tenant m.name | _ => none
      let full := fenEntry s m.holder m.tenant m.name = none ∧ holderFull s m.holder = true
      (∀ x c, stored = some x → m.face = .consumer c → ∃ t, exec (.interestArrival m) s = .next t
        ∧ t = { s with dies := t.dies, agenda := t.agenda, uids := t.uids }
        ∧ t.agenda = s.agenda ++ [.namedArrival { consumer := c, tenant := m.tenant, name := m.name, bytes := x.bytes, clock := x.clock }])
      ∧ (∀ c g, stored = none → full → m.face = .consumer c → c.gang ≠ 32 → s.gang? c.core c.gang = some g →
        let i := mget Interest.none g.interests c.slot
        i.state = .pending → i.serial = c.serial → ∃ t, exec (.interestArrival m) s = .next t ∧ t = { s with cores := t.cores }
          ∧ t.gang? c.core c.gang = some { g with interests := mset g.interests c.slot { i with refused := some (s.ticks + 1) } })
      ∧ (stored = none → ¬ full → ∃ t e f, exec (.interestArrival m) s = .next t ∧ t.mem = s.mem ∧ t.cores = s.cores
        ∧ fenEntry t m.holder m.tenant m.name = some e ∧ f ∈ e.faces ∧ f.1 = m.face ∧ m.until_ ≤ f.2.1)
      ∧ ∀ die slice, stored = none → fenEntry s m.holder m.tenant m.name = none → holderFull s m.holder = false → 0 < m.until_ →
          nextHolder s m.tenant m.name m.holder = some (.rendezvous die slice) →
          exec (.interestArrival m) s = .next { s with
            fen := s.fen ++ [{ holder := m.holder, tenant := m.tenant, name := m.name, faces := [(m.face, m.until_, false)]
                               sentUntil := m.until_, held := [], forwarded := [] }]
            agenda := s.agenda ++ [.interestArrival { holder := .rendezvous die slice, tenant := m.tenant, name := m.name
                                                      face := .relay m.holder, until_ := m.until_ }] })
  ∧ (∀ (s : State) (m : TileMsg) (e : FenEntry), fenEntry s m.holder m.tenant m.name = some e →
      (∀ f, f ∈ e.faces → f.2.2 = false ∧ (∃ c, f.1 = .consumer c) ∧ (f.1, m.pubseq) ∉ e.forwarded) →
      ∃ t, exec (.tileForward m) s = .next t ∧ t = { s with fen := t.fen, agenda := t.agenda }
        ∧ t.agenda = s.agenda ++ e.faces.filterMap (fun f => match f.1 with
            | .consumer c => some (.namedArrival { consumer := c, tenant := m.tenant, name := m.name, bytes := m.bytes, clock := m.clock })
            | _ => none)
        ∧ fenEntry t m.holder m.tenant m.name =
            some { e with faces := [], sentUntil := 0, forwarded := e.forwarded ++ e.faces.map fun f => (f.1, m.pubseq) })
  ∧ (∀ (s : State) (r : FaceRef) (e : FenEntry), fenEntry s r.holder r.tenant r.name = some e →
      let faces := e.faces.filter fun f => !(f.1 == r.face && f.2.1 + 64 ≤ s.ticks && !f.2.2)
      ∃ t, exec (.faceDrop r) s = .next t ∧ t = { s with fen := t.fen }
        ∧ (faces ≠ [] ∨ e.held ≠ [] → fenEntry t r.holder r.tenant r.name = some { e with faces := faces })
        ∧ (faces = [] → e.held = [] → { e with faces := faces } ∉ t.fen))
  ∧ ∀ (s : State) (m : RebindMsg) (e : FenEntry) (p q : List FenEntry),
      let mine (x : FenEntry) : Bool := x.tenant == m.tenant && x.name == m.name && x.faces.any fun f => f.1 == .consumer m.old
      s.fen = p ++ e :: q → mine e = true → (∀ x, x ∈ p ∨ x ∈ q → mine x = false) →
      (∀ x, x ∈ p → ¬ (x.holder = e.holder ∧ x.tenant = e.tenant ∧ x.name = e.name)) →
      let copies := e.held.filter fun h => h.1 == m.old.serial.toNat
      let left := e.held.filter fun h => h.1 != m.old.serial.toNat
      (copies = [] → exec (.rebind m) s = .next { s with fen := p ++ { e with
          faces := updAll (fun f => f.1 == .consumer m.old) (fun f => (.consumer m.new, f.2.1, false)) e.faces, held := left } :: q })
      ∧ (copies ≠ [] → exec (.rebind m) s = .next { s with
          fen := p ++ { e with faces := e.faces.filter (fun f => f.1 != .consumer m.old), held := left } :: q
          agenda := s.agenda ++ copies.map fun h =>
            .namedArrival { consumer := m.new, tenant := e.tenant, name := e.name, bytes := h.2.1, clock := h.2.2 } })

/-- R160, R297, R299, R303, R309, R310, R312, R333, R339, R424. -/
def Obligations.SchedulingEvents : Prop :=
  (∀ (s : State) (it : AtCore) (b : Bin), it.item < 4096 → (s.core it.core).bins[it.item]? = some b → binDue s b = true →
      let launch := (b.fibres.head?.map fun f => f.launch).getD 0
      let room := residentOn s it.core b.ctx && hasRoom s it.core 1 (launchResident s launch)
      (room = true → ∃ t g, exec (.binTimeout it) s = .next t ∧ t = { s with cores := t.cores, uids := t.uids }
        ∧ t.gang? it.core ((freeSlots s it.core).headD 0) = some g
        ∧ g.ctx = b.ctx ∧ g.home = b.home ∧ g.age = (s.core it.core).nextAge
        ∧ (t.core it.core).bins = (s.core it.core).bins.eraseIdx it.item
        ∧ ∀ l, l < b.fibres.length → g.lane l = (bySerial b.fibres).getD l Fibre.absent)
      ∧ (room = false → exec (.binTimeout it) s = .next (s.modCore it.core fun k =>
          { k with bins := k.bins.modify it.item fun x => { x with closed := true } })))
  ∧ (∀ (s : State) (core : Nat) (x : Task), (s.core core).deque.find? (canTake s core) = some x →
      ∃ t g, exec (.taskTake core) s = .next t ∧ t.mem = s.mem ∧ (t.core core).deque = (s.core core).deque.erase x
        ∧ t.gang? core ((freeSlots s core).headD 0) = some g ∧ g.ctx = x.ctx ∧ g.home = x.home
        ∧ (∀ l, l < x.args.length → (g.lane l).pc = x.entry ∧ (g.lane l).status = .ready ∧ (g.lane l).task = x.uid
            ∧ ∀ n, (g.lane l).rv n = mget 0 (x.args.getD l []) n)
        ∧ (mfind t.tasks x.uid).map JoinRef.addr = some x.join)
  ∧ (∀ (s : State) (index : Nat) (m : Migration), s.migrations[index]? = some m → m.slot ≠ 32 →
      ∃ t, exec (.migrationArrival index) s = .next t ∧ t = { s with cores := t.cores, migrations := s.migrations.eraseIdx index }
        ∧ t.gang? m.dst m.slot = some { m.gang with age := (s.core m.dst).nextAge }
        ∧ (t.core m.dst).nextAge = (s.core m.dst).nextAge + 1)
  ∧ (∀ (s : State) (cluster key : Nat) (ms : List (Nat × Nat)), yokeReady s cluster key = some ms →
      (∀ q, q ∈ ms → q.2 ≠ 32 ∧ ∃ g, s.gang? q.1 q.2 = some g) →
      ∃ t, exec (.yokeFormation cluster key) s = .next t ∧ t = { s with cores := t.cores, clusters := t.clusters }
        ∧ (t.cluster cluster).members = ms.map (fun q => (q.1 % 4, q.2)) ∧ (t.cluster cluster).shared = true
        ∧ ∀ q g w f, q ∈ ms → s.gang? q.1 q.2 = some g → (g.waits.find? fun w => w.cause == .yoke) = some w → w.instr = .yoke f →
            f.d < 12 → ∃ h, t.gang? q.1 q.2 = some h ∧ h.member4 = some (q.1 % 4)
              ∧ ∀ l, l < 32 → (g.lane l).status = .parked .yoke →
                  (h.lane l).status = .ready ∧ (h.lane l).pc = g.nextOf l ∧ (h.lane l).rp f.d = true)
  ∧ (∀ (s : State) (at_ : AtGang) (g : Gang) (w : Wait) (f : AForm), at_.gang ≠ 32 → s.gang? at_.core at_.gang = some g →
      (g.waits.find? fun w => w.cause == .yoke) = some w → w.instr = .yoke f → f.d < 12 →
      (∃ q, q ∈ (s.cluster (at_.core / 4)).waiting ∧ q.1 = at_.core ∧ q.2.1 = at_.gang ∧ q.2.2.2 + 65536 ≤ s.ck) →
      ∃ t h, exec (.yokeTimeout at_) s = .next t ∧ t = { s with cores := t.cores, clusters := t.clusters }
        ∧ t.gang? at_.core at_.gang = some h ∧ h.member4 = g.member4
        ∧ (∀ q, q ∈ (t.cluster (at_.core / 4)).waiting → ¬ (q.1 = at_.core ∧ q.2.1 = at_.gang))
        ∧ ∀ l, l < 32 → (g.lane l).status = .parked .yoke →
            (h.lane l).status = .ready ∧ (h.lane l).pc = g.nextOf l ∧ (h.lane l).rp f.d = false)
  ∧ (∀ (s : State) (core : Nat), (∀ m, m ∈ (s.cluster (core / 4)).members → m.1 ≠ core % 4) →
      let k := s.core core
      let charged (n : Nat) : Nat :=
        (k.slotOf n).pass.toNat + if k.running = some n then (k.slotOf n).stride * ((k.ckRun + 63) / 64) else 0
      charged 0 ≤ 2 ^ 31 → charged 1 ≤ 2 ^ 31 →
      ∃ x, exec (.sliceEnd core) s = .next (s.setCore core x) ∧ x.rem = k.sliceOf * 64 ∧ x.ckRun = 0
        ∧ (∀ n, n < 2 → (x.slotOf n).pass = BitVec.ofNat 32 (charged n)
            ∧ (x.slotOf n).penalty = (if (k.slotOf n).penalty = 0 then 0 else (k.slotOf n).penalty - 1))
        ∧ (k.slotRunnable 0 = false → k.slotRunnable 1 = false → x.running = none)
        ∧ (∀ n, n < 2 → k.slotRunnable n = true → k.slotRunnable (1 - n) = false → x.running = some n)
        ∧ (k.slotRunnable 0 = true → k.slotRunnable 1 = true → x.running = some (if charged 1 < charged 0 then 1 else 0)))
  ∧ (∀ (s : State) (at_ : AtGang) (g : Gang) (n : Nat), at_.gang ≠ 32 → s.gang? at_.core at_.gang = some g →
      (overrun g = false → exec (.yieldOverrun at_) s = .next s)
      ∧ (overrun g = true → (s.core at_.core).slotFor g.ctx = some n → ∃ t, exec (.yieldOverrun at_) s = .next t
        ∧ ((t.core at_.core).slotOf n).ovr =
            (if ((s.core at_.core).slotOf n).ovr = BitVec.allOnes 32 then BitVec.allOnes 32 else ((s.core at_.core).slotOf n).ovr + 1)))
  ∧ (∀ (s : State) (core : Nat),
      let k := s.core core
      let whole (n : Nat) : Bool := (k.slotOf n).live && (k.slotOf n).wholeInterval
      let r := ([0, 1].filter whole).length
      ∃ x, exec (.energyInterval core) s = .next (s.setCore core x)
        ∧ ∀ n, n < 2 →
            (x.slotOf n).energy = (if whole n then sat48 (k.slotOf n).energy (k.static.toNat / r) else (k.slotOf n).energy)
            ∧ (x.slotOf n).wholeInterval = (k.slotOf n).live
            ∧ ∀ ck busy, k.failed = false → (k.ckcount.toNat % 64 + ck) / 64 = 1 → (k.pass ck busy).slotOf n = x.slotOf n)
  ∧ (∀ (s : State) (it : AtCore) (m : Move), it.item < 2 → m.until_ ≤ s.ck →
      let k := s.core it.core
      let ctx := (k.slotOf it.item).ctx.toNat
      ((k.moves.find? fun x => x.slot == it.item && x.saving) = some m → saveBlocked s it.core ctx = false →
        ∃ t, exec (.saveComplete it) s = .next t
          ∧ t.mem = memWrite s.mem (fwPhys m.addr) (headerBytes ctx (saveSize s it.core ctx) (k.slotOf it.item).trapbase ++ leBytes 8 s.fresh.1)
          ∧ savedOf s it.core it.item s.fresh.1 ∈ t.saved ∧ m.addr ∈ (t.ctx ctx).areas
          ∧ (∀ q, q ∈ (t.ctx ctx).places → ¬ (q.1 = it.core ∧ q.2.1 = it.item))
          ∧ (t.core it.core).slotOf it.item = UserSlot.empty
          ∧ (∀ q, q ∈ (t.core it.core).gangs → q.2.ctx ≠ ctx)
          ∧ (t.core it.core).event = k.event ||| BitVec.ofNat 5 (2 ^ (2 + it.item)))
      ∧ ((k.moves.find? fun x => x.slot == it.item && !x.saving) = some m → (∀ r, r ∈ s.heldReplies → r.ctx ≠ ctx) →
        ∃ t, exec (.loadComplete it) s = .next t ∧ t.mem = s.mem ∧ (it.core, it.item, m.addr) ∈ (t.ctx ctx).places
          ∧ ((t.core it.core).slotOf it.item).state = .resident
          ∧ ((t.core it.core).slotOf it.item).trapbase = BitVec.ofNat 64 (memNat s.mem (fwPhys m.addr + 16) 8) &&& ~~~0x1FFF
          ∧ (t.core it.core).event = k.event ||| BitVec.ofNat 5 (2 ^ (2 + it.item))
          ∧ ∀ v i g slot, (s.saved.find? fun v => v.uid == s.rd (fwPhys m.addr + 64) 8 && v.ctx == ctx) = some v →
              v.gangs = [(i, g)] → (freeSlots s it.core).head? = some slot →
              ∃ h, t.gang? it.core slot = some h ∧ h.uid = g.uid ∧ ∀ l, l < 32 → h.lane l = g.lane l))
/-! ### Services (R176, R444 to R446) -/

/-- R176, R444, R445, R446. -/
def Obligations.Services : Prop :=
  (∀ (s : State) (r : SvcReq) (status : Nat) (ws : List (Nat × W64)),
    (∀ pa, r.place = .phys pa → (finishRequest s r status ws).requests = s.requests.filter (fun q => q != r)
      ∧ (finishRequest s r status ws).mem =
          memWrite (ws.foldl (fun m w => memWrite m (pa + 8 * w.1) (leBytes 8 w.2.toNat)) s.mem) (pa + 56)
            (leBytes 8 (BitVec.ofNat 64 status : W64).toNat))
    ∧ (∀ uid off, r.place = .stack uid off → finishRequest s r status ws =
        (let words := (List.range 7).map fun i => mget (r.args.getD i 0) ws i;
         { s with requests := s.requests.filter (fun q => q != r), awaits := s.awaits.filter (fun a => a.req != some r),
                  agenda := s.agenda ++ [.syscallReply { ctx := r.ctx, place := r.place, words := words, status := BitVec.ofNat 64 status }] })))
  ∧ (∀ (s : State) (r : SvcReq), Outstanding s r →
      let as := argsOf s r
      let a0 := arg as 0
      let a1 := arg as 1
      let inRange := a0 % 2 ^ 16 = 0 ∧ a1 % 2 ^ 16 = 0 ∧ a0 + a1 ≤ globalEnd
      -- pages
      (∀ at_, attrOf (arg as 2) = some at_ → r.ctx ≠ fwCtx →
        (¬ inRange → Replies (.pageMap r) s r s 2 [] ∧ Replies (.pageAttr r) s r s 2 [])
        ∧ (inRange → holdsLaunchPage s r.tenant a0 a1 = true → Replies (.pageMap r) s r s 4 [] ∧ Replies (.pageAttr r) s r s 4 [])
        ∧ (inRange → a1 = 2 ^ 16 → holdsLaunchPage s r.tenant a0 a1 = false → leafAt s r.tenant a0 = none →
            (∀ pa, freePage s r.tenant (2 ^ 16) (homeStacks at_.2.2.2.1 at_.2.2.2.2) = some pa →
              pinRoom s pa at_.2.2.2.1 at_.2.2.2.2 = true →
              Replies (.pageMap r) s r (putLeaf { s with mem := memClear s.mem pa (2 ^ 16) } r.tenant a0
                (leafPte pa at_.1 at_.2.1 at_.2.2.1 at_.2.2.2.1 at_.2.2.2.2)) 1 [(0, BitVec.ofNat 64 a1)])
            ∧ (freePage s r.tenant (2 ^ 16) (homeStacks at_.2.2.2.1 at_.2.2.2.2) = none → Replies (.pageMap r) s r s 3 []))
        ∧ (inRange → a1 = 2 ^ 16 → holdsLaunchPage s r.tenant a0 a1 = false → rangeInWindows s r.tenant a0 a1 = true →
            (leafAt s r.tenant a0 = none → Replies (.pageAttr r) s r s 1 [])
            ∧ ∀ l u, ownLeaf s r.tenant a0 = some (l, u) → at_.2.2.2 = (pteHome l.pte, pteHomeSel l.pte) →
                let e := leafPte (ptePa l.pte) at_.1 at_.2.1 at_.2.2.1 (pteHome l.pte) (pteHomeSel l.pte) ||| (l.pte &&& 0x20)
                let v := invalidateFor (u.wrPte l.at_ e) r.tenant a0 (2 ^ 16) (some r) none none
                if (v.awaits.any fun a => a.req == some r && a.acks != 0) then exec (.pageAttr r) s = .next v
                else Replies (.pageAttr r) s r v 1 []))
      ∧ (attrOf (arg as 2) = none → Replies (.pageMap r) s r s 2 [] ∧ Replies (.pageAttr r) s r s 2 [])
      ∧ (r.ctx ≠ fwCtx → globalEnd < a0 + a1 → Replies (.pageUnmap r) s r s 2 [] ∧ Replies (.failedQuery r) s r s 2 [])
      ∧ (r.ctx ≠ fwCtx → a0 + a1 ≤ globalEnd → rangeInWindows s r.tenant a0 a1 = false → Replies (.pageUnmap r) s r s 4 [])
      ∧ (r.ctx ≠ fwCtx → a0 + a1 ≤ globalEnd → rangeInWindows s r.tenant a0 a1 = true → a0 % 2 ^ 16 = 0 → a1 = 2 ^ 16 →
          (leafAt s r.tenant a0 = none → Replies (.pageUnmap r) s r s 1 [])
          ∧ ∀ l u, ownLeaf s r.tenant a0 = some (l, u) →
              let v := invalidateFor (u.wrPte l.at_ 0) r.tenant a0 (2 ^ 16) (some r) none none
              if (v.awaits.any fun a => a.req == some r && a.acks != 0) then exec (.pageUnmap r) s = .next v
              else Replies (.pageUnmap r) s r v 1 [])
      ∧ (r.ctx ≠ fwCtx → a0 + a1 ≤ globalEnd → Replies (.failedQuery r) s r s 1
          [(0, BitVec.ofNat 64 (failedIn s r.tenant a0 a1).length), (1, BitVec.ofNat 64 ((failedIn s r.tenant a0 a1).headD 0))])
      -- name spaces and samples
      ∧ (r.ctx ≠ fwCtx →
          (4095 < a0 ∨ globalEnd < a1 + 64 → Replies (.nspaceSet r) s r s 2 [])
          ∧ (a0 ≤ 4095 → a1 + 64 ≤ globalEnd →
              (∀ code, bringRange s r.tenant a1 64 false = .fault code → Replies (.nspaceSet r) s r s 4 [])
              ∧ ∀ u, bringRange s r.tenant a1 64 false = .ok u →
                  let bs := (List.range 64).map fun i => BitVec.ofNat 8 (readVirt u r.tenant (as.getD 1 0 + BitVec.ofNat 64 i) 1)
                  (descImageOk bs = true → Replies (.nspaceSet r) s r
                    ((serviceAccess u r (as.getD 1 0) 64 .read).wrBytes (memNat u.mem ((u.tenant r.tenant).desc + 8) 8 + 64 * a0) bs) 1 [])
                  ∧ (descImageOk bs = false → Replies (.nspaceSet r) s r u 2 [])))
      ∧ (r.ctx ≠ fwCtx →
          let dropped : List (Nat × W64) := [(0, BitVec.ofNat 64 (s.ctx r.ctx).sample.dropped)]
          (a1 = 0 → Replies (.sampleCfg r) s r (s.modCtx r.ctx fun x => { x with sample := SampleCfg.off }) 1 dropped)
          ∧ (a1 ≠ 0 → (bitsOf (as.getD 0 0) 0 6 ≠ 0 ∨ ringSize a1 = false ∨ arg as 2 < 4 ∨ 20 < arg as 2) → Replies (.sampleCfg r) s r s 2 [])
          ∧ (bitsOf (as.getD 0 0) 0 6 = 0 → a0 + 64 * (a1 + 1) ≤ globalEnd → ringSize a1 = true → 4 ≤ arg as 2 → arg as 2 ≤ 20 →
              rangeInWindows s r.tenant a0 (64 * (a1 + 1)) = true →
              Replies (.sampleCfg r) s r ((writeVirt (serviceAccess s r (as.getD 0 0) 64 .write) r.tenant (as.getD 0 0) (List.replicate 64 0)).modCtx r.ctx fun x =>
                { x with sample := { on := true, ring := as.getD 0 0, entries := a1, k := arg as 2, write := 0, dropped := 0 } }) 1 dropped))
      ∧ (r.ctx = fwCtx → attrOf (arg as 2) ≠ none → Replies (.pageMap r) s r s 4 [] ∧ Replies (.pageAttr r) s r s 4 [])
      ∧ (r.ctx = fwCtx → Replies (.pageUnmap r) s r s 4 [] ∧ Replies (.nspaceSet r) s r s 4 [] ∧ Replies (.failedQuery r) s r s 4 [])
      -- the kiln's services
      ∧ (a0 ≤ 4095 → ∃ u, Replies (.cacheDrop r) s r u 1 [] ∧ u = { s with kiln := u.kiln } ∧ u.kiln.length = s.kiln.length
          ∧ ∀ i t, s.kiln[i]? = some t →
              u.kiln[i]? = some (if t.tenant = a0 ∧ translInUse s i = false then { t with resident := 0 } else t))
      ∧ (4095 < a0 → Replies (.cacheDrop r) s r s 2 [])
      ∧ (let g := a0 % 2 ^ 16
         let l := a0 / 2 ^ 16 % 2 ^ 8
         (a0 < 2 ^ 24 → g ≠ 0 → l ≠ 0 → Replies (.kilnCfg r) s r { s with glazeth := g, aliasth := l } 1 [])
         ∧ (2 ^ 24 ≤ a0 ∨ g = 0 ∨ l = 0 → Replies (.kilnCfg r) s r s 2 []))
      ∧ (a0 ≤ 3 → a1 ≤ 2 →
          let m := if a1 = 0 then (s.die a0).launchSk else if a1 = 1 then (s.die a0).pcSk else (s.die a0).aliasSk
          Replies (.sketchRead r) s r s 1 [(0, BitVec.ofNat 64 (sketchEstimate m (arg as 2)))])
      ∧ (3 < a0 ∨ 2 < a1 → Replies (.sketchRead r) s r s 2 [])
      ∧ (fwRangeOk s (as.getD 0 0) 512 = true → ∃ bs, bs.length = 512 ∧ Replies (.measureRead r) s r (s.wrBytes a0 bs) 1 [])
      ∧ (fwRangeOk s (as.getD 0 0) 512 = false → Replies (.measureRead r) s r s 2 [])
      ∧ (a0 = 0 → ∀ x, mfind (s.fn (a1 / 2)).ide (a1 % 2) = some x → ∃ u, Replies (.keyRefresh r) s r u 1 []
          ∧ u = { s with fns := u.fns } ∧ mfind (u.fn (a1 / 2)).ide (a1 % 2) = some { x with refreshing := true })
      ∧ (a0 = 1 → (s.keySlots { peer := a1 % 16, tenant := a1 / 16, tx := true }).isSome = true →
          Replies (.keyRefresh r) s r (startRefresh s { peer := a1 % 16, tenant := a1 / 16, tx := true }) 1 [])
      ∧ (1 < a0 → Replies (.keyRefresh r) s r s 2 [])
      ∧ (a0 ≤ 1023 → (s.core a0).halted = true → ∃ u, Replies (.coreReset r) s r u 1 [] ∧ u.core a0 = Core.reset)
      ∧ (a0 ≤ 1023 → (s.core a0).halted = false → Replies (.coreReset r) s r s 4 [])
      ∧ (1023 < a0 → Replies (.coreReset r) s r s 2 [])
      ∧ (1000 ≤ a0 → a0 ≤ 5200 → Replies (.powerCap r) s r { s with powerCap := a0 } 1 [])
      ∧ (a0 < 1000 ∨ 5200 < a0 → Replies (.powerCap r) s r s 2 []))
  ∧ ∀ (s : State) (r : SvcReq), r ∈ s.requests → (∃ a, a ∈ s.awaits ∧ a.req = some r) → (∀ a, a ∈ s.awaits → a.req = some r → a.acks = 0) →
      Replies (.pageMap r) s r s 1 [(0, BitVec.ofNat 64 (arg (argsOf s r) 1))] ∧ Replies (.pageUnmap r) s r s 1 []
      ∧ Replies (.pageAttr r) s r s 1 []
/-! ### The host's queues, the commands of the journal and the dispatcher (R406 to R431) -/

/-- R406 to R410, R412, R413, R424, R430 to R434, R448. -/
def Obligations.SluiceEvents : Prop :=
  (∀ (s : State) (k : KickWrite),
    let q := s.queue k.fn k.page
    let e := bitsOf k.value 16 15 + q.size * bitsOf k.value 31 1
    let d := (e + 2 * q.size - q.c) % (2 * q.size)
    (k.offset ≠ 0 ∨ (k.bytes ≠ 8 ∧ k.bytes ≠ 4) ∨ bitsOf k.value 0 16 ≠ k.page ∨ q.enabled = false → exec (.kick k) s = .next s)
    ∧ (k.offset = 0 → k.bytes = 8 ∨ k.bytes = 4 → bitsOf k.value 0 16 = k.page → q.enabled = true →
      ∃ t, exec (.kick k) s = .next t ∧ t = { s with fns := t.fns }
        ∧ (t.queue k.fn k.page).c = if 1 ≤ d ∧ d ≤ q.size then e % (2 * q.size) else q.c))
  ∧ (∀ (s : State) (at_ : AtQueue), at_.queue % 2 = 0 →
      let q := (s.queue at_.fn at_.queue).fed
      q.unread = [] → q.ready = none → q.k ≠ q.c → (q.k + 1) % (2 * q.size) = q.c → slotAvail s at_.fn q = true →
      sluiceOpen s at_.fn q = true →
      ∃ t, exec (.descriptorReread at_) s = .next t ∧ t = { s with fns := t.fns }
        ∧ t.queue at_.fn at_.queue = (({ q.advance with
            unread := (readDescriptor s at_.fn q).2
            bufs := q.bufs ++ [{ id := (readDescriptor s at_.fn q).1, left := (readDescriptor s at_.fn q).2.length }] } : Queue).fed))
  ∧ (∀ (s : State) (r : RecordMsg),
      let q := s.queue r.fn r.queue
      let seq : W64 := BitVec.ofNat 64 (recNat r.bits 8 8)
      nextRecord q r.bits = true →
      (q.open_ = none → q.unread.tail = [] → q.k = q.c → ∃ t, exec (.batchBegin r) s = .next t ∧ t = { s with fns := t.fns }
        ∧ (t.queue r.fn r.queue).open_ = some { seq := seq, recs := [], held := 1,
                                                  bad := if seq ≠ q.expSeq then some (2, 0) else if recClean r.bits then none else some (3, 0) })
      ∧ (∀ b0, q.open_ = some b0 →
          let b := { b0 with held := b0.held + 1 }
          (batchVerdict s (s.fn r.fn).tenant b r.bits = none → ∃ t, exec (.batchCommit r) s = .next t ∧ t = { s with fns := t.fns }
            ∧ t.queue r.fn r.queue = { q with unread := q.unread.tail, open_ := none, ready := some b })
          ∧ ∀ why, batchVerdict s (s.fn r.fn).tenant b r.bits = some why → ∃ t, exec (.batchCommit r) s = .next t
            ∧ t = { s with fns := t.fns, hostMem := t.hostMem }
            ∧ (t.queue r.fn (r.queue + 1)).recs = (s.queue r.fn (r.queue + 1)).recs ++
                [{ kind := 2, status := why.1, flags := 0, seq := b0.seq.toNat, index := why.2, value := 0, time := BitVec.ofNat 64 s.ticks }]))
  ∧ (∀ (s : State) (at_ : AtQueue) (b : Batch), (s.queue at_.fn at_.queue).ready = some b →
      acceptOk s at_.fn (s.queue at_.fn at_.queue) b = true →
      ∃ t e, exec (.batchAccept at_) s = .next t ∧ t.journal = s.journal ++ [e] ∧ e.fn = at_.fn ∧ e.queue = at_.queue
        ∧ e.seq = b.seq.toNat ∧ e.cmds.map JCmd.bits = b.recs ∧ (∀ m, m ∈ e.cmds → m.state = .waiting) ∧ t.mem = s.mem
        ∧ (t.queue at_.fn at_.queue).ready = none
        ∧ (t.queue at_.fn at_.queue).expSeq = (s.queue at_.fn at_.queue).expSeq + 1)
  ∧ (∀ (s : State) (at_ : AtQueue) (r : CRec) (rest : List CRec),
      let q := s.queue at_.fn at_.queue
      let at0 := q.slotAddr q.k
      let host := memNat s.hostMem (hostAt at_.fn at0) 8
      let len := memNat s.hostMem (hostAt at_.fn (at0 + 8)) 4
      let fl := memNat s.hostMem (hostAt at_.fn (at0 + 14)) 2
      recordReady s at_.fn at_.queue = true → q.partBuf = none → q.recs = r :: rest →
      fl.testBit 1 = true → fl.testBit 2 = false → 32 ≤ len →
      ∃ t, exec (.completionRecordWrite at_) s = .next t ∧ t.mem = s.mem ∧ (t.queue at_.fn at_.queue).recs = rest
        ∧ (r.kind ≠ 1 ∨ s.witnessPkg.isSome = true → len < 64 ∨ rest = [] → t.hostMem = memWrite (memWrite s.hostMem (hostAt at_.fn host) (crecBytes r))
            (hostAt at_.fn (q.slotAddr q.used + 8)) (leBytes 4 32 ++ leBytes 2 (memNat s.hostMem (hostAt at_.fn (at0 + 12)) 2)
              ++ leBytes 2 ((if q.used / q.size = 1 then 2 ^ 7 + 2 ^ 15 else 0) + 2)))
        ∧ (r.kind ≠ 1 ∨ s.witnessPkg.isSome = true → 64 ≤ len → rest ≠ [] → t.hostMem = memWrite s.hostMem (hostAt at_.fn host) (crecBytes r)))
  ∧ (∀ (s : State) (m : FeatureMsg),
      (m.bits &&& featuresNeeded = featuresNeeded → m.bits &&& ~~~(featuresOffered m.fn) = 0 →
        exec (.featuresOk m) s = .next (s.modFn m.fn fun f => { f with features := m.bits, status := f.status ||| 8 }))
      ∧ (m.bits &&& featuresNeeded ≠ featuresNeeded ∨ m.bits &&& ~~~(featuresOffered m.fn) ≠ 0 →
        exec (.featuresOk m) s = .next (s.modFn m.fn fun f => { f with status := f.status &&& ~~~8#8 })))
  ∧ (∀ (s : State) (fn : Nat), exec (.driverOk fn) s = .next (s.modFn fn fun f =>
      { f with status := if s.bootFailed then f.status ||| 64 else f.status ||| 4 }))
  ∧ (∀ (s : State), exec .journalRebuild s =
      .next { s with journalOk := true, journal := s.journal.map fun e => { e with copy0 := true, copy1 := true } })
  ∧ (∀ (s : State), ∃ t, exec .hubRecovery s = .next t ∧ t = { s with journal := t.journal, fns := t.fns, hostMem := t.hostMem }
      ∧ t.journal = s.journal.map fun e => if e.copy0 && e.copy1 then { e with usedWritten := true } else e)
  ∧ (∀ (s : State) (w ctx ck tenant fn queue size : Nat) (ring : W64),
      (∃ t, exec (.managementQueueRequest (.setPowerCap w)) s = .next t
        ∧ t = if 1000 ≤ w ∧ w ≤ 5200 then { s with powerCap := w } else s)
      ∧ (∃ t, exec (.managementQueueRequest (.setBintime ctx ck)) s = .next t
        ∧ t = if 64 ≤ ck ∧ ck ≤ 4096 then s.modCtx ctx fun x => { x with bintime := ck } else s)
      ∧ (∃ t, exec (.managementQueueRequest (.setTickets tenant w)) s = .next t
        ∧ t = if 1 ≤ w ∧ w ≤ 65535 then s.modTenant tenant fun x => { x with tickets := w } else s)
      ∧ (∃ t, exec (.managementQueueRequest (.bindWitnessRing ring size)) s = .next t
        ∧ t = { s with witnessRing := if size = 0 then none else some (ring, size), witnessNext := 0 })
      ∧ (fn ≤ 512 → queue ≤ 63 → ringSize size = true → size ≤ 4096 →
        exec (.managementQueueRequest (.setupQueue fn queue size ring)) s = .next (s.modQueue fn queue fun q => q.setup size ring))
      ∧ (fn ≤ 512 → queue ≤ 63 → ctx ≤ 4095 → ∃ t, exec (.managementQueueRequest (.bindQueue fn queue ctx)) s = .next t
        ∧ (t.queue fn (queue / 2 * 2)).ctx = ctx ∧ (t.queue fn (queue / 2 * 2 + 1)).ctx = ctx ∧ (t.ctx ctx).tenant = (s.fn fn).tenant))
  ∧ ∀ (s : State) (fn : Nat), (∀ q, q ∈ allCmds s → q.1.fn = fn → q.2.2.isDecided = true) →
      ∃ t, exec (.functionReset fn) s = .next t ∧ t.mem = s.mem ∧ (t.fn fn).resetting = false ∧ (t.fn fn).status = 0
        ∧ (t.fn fn).features = 0 ∧ ((s.fn fn).resetting = false → ∀ n, (t.queue fn n).enabled = false)

/-- R357, R358, R411, R413 to R422, R426, R427. -/
def Obligations.CommandsAndLaunches : Prop :=
  (∀ (s : State) (c : CmdRef) (e : JEntry) (m : JCmd) (st : Status) (v : W64), s.cmd? c = some (e, m) → m.isDecided = false →
    (s.fn e.fn).resetting = false →
    let t := s.decide c.entry c.index st v
    (∃ e1 m1, t.cmd? c = some (e1, m1) ∧ m1.state = .decided ∧ m1.status = st ∧ m1.value = v ∧ m1.bits = m.bits)
    ∧ (t.queue e.fn (e.queue + 1)).recs = (s.queue e.fn (e.queue + 1)).recs ++
        [{ kind := 1, status := st.code, flags := if m.restarted then 1 else 0, seq := e.seq, index := c.index, value := v
           time := BitVec.ofNat 64 s.ticks }]
    ∧ t.mem = s.mem ∧ t.cores = s.cores)
  ∧ (∀ (s : State) (c : CmdRef) (e : JEntry) (m : JCmd), CmdRuns s c e m →
      let tenant := (s.fn e.fn).tenant
      let h := recNat m.bits 8 2
      Ends (.jobOpen c) s c (s.modJob tenant m.job fun j => { j with openTick := s.ticks }) .ok m.job
      ∧ (let u := s.modCmd c fun y => { y with state := .running }
         if earlierDecided u c tenant m.job && phaseDone u tenant m.job m.value.toNat then
           Ends (.jobClose c) s c (u.modJob tenant m.job fun j => { j with completed := true }) .ok 0
         else exec (.jobClose c) s = .next u)
      ∧ (phaseDone s tenant m.job m.value.toNat = false → exec (.checkpoint c) s = .next s)
      ∧ (phaseDone s tenant m.job m.value.toNat = true → ∃ u, Ends (.checkpoint c) s c u .ok 0
        ∧ u = { s with dies := u.dies, jobs := u.jobs }
        ∧ ∀ n d r l, (n, d) ∈ u.dies → r ∈ d.records → l ∈ s.launches → l.tenant = tenant → l.job = m.job →
            l.phase ≤ m.value.toNat → r.party.launch ≠ l.uid)
      ∧ (∀ u, bringRange s tenant (recNat m.bits 16 8) (recNat m.bits 24 8) false = .ok u →
          let img := imageAt u tenant m.bits
          let raw := virtBytes u tenant (recNat m.bits 16 8) (recNat m.bits 24 8)
          let z := zeroFill raw (recNat m.bits 16 8)
          (img.malformed = true → Ends (.imageLoad c) s c { u with images := u.images ++ [img] } .ok 0)
          ∧ (img.malformed = false →
            (∀ w, bringRange u tenant z.1 z.2 false = .ok w → Ends (.imageLoad c) s c
              { placeSections w tenant (recNat m.bits 16 8) raw with images := w.images ++ [img] } .ok 0)
            ∧ ∀ code, bringRange u tenant z.1 z.2 false = .fault code → Ends (.imageLoad c) s c s .failed code.toNat))
      ∧ (∀ code, bringRange s tenant (recNat m.bits 16 8) (recNat m.bits 24 8) false = .fault code →
          Ends (.imageLoad c) s c s .failed code.toNat)
      ∧ Ends (.imageDrop c) s c { s with images := s.images.filter fun i => !(i.tenant == tenant && i.handle == h) } .ok 0
      ∧ (∀ u, bringRange s tenant (recNat m.bits 16 8) (72 * recNat m.bits 24 1) false = .ok u →
          Ends (.graphCreate c) s c { u with graphs := u.graphs ++ [{ tenant := tenant, handle := h, id := graphId c.entry c.index,
                                                                            nodes := nodesAt u tenant (recNat m.bits 16 8) (recNat m.bits 24 1) }] } .ok 0)
      ∧ Ends (.graphDrop c) s c { s with graphs := s.graphs.filter fun g => !(g.tenant == tenant && g.handle == h) } .ok 0
      ∧ (let mine := s.launches.filter fun l => l.tenant == tenant && l.job == m.job
         let pick : Option (List Launch) := match recNat m.bits 8 1 with
           | 0 => none
           | 1 => some (mine.filter fun l => l.number == recNat m.bits 16 4)
           | 2 => (mine.find? fun l => l.number == recNat m.bits 16 4).map fun f => mine.filter fun l => l.entry == f.entry && l.index == f.index
           | 3 => some (mine.filter fun l => l.phase == m.value.toNat && cmdBefore l.entry l.index c)
           | _ => some mine
         ∀ ls, pick = some ls →
           let left := ls.filter fun l => l.state != .done && l.outcome.isNone
           (left = [] → Ends (.cancel c) s c s .noeffect 0)
           ∧ (left ≠ [] → Ends (.cancel c) s c (left.foldl (fun t l => endLaunch t l.uid .cancelled 0 0) s) .ok 0))
      ∧ (recNat m.bits 8 1 = 0 → ∀ l, (s.launches.find? fun l => (l.tenant == tenant && l.job == m.job) && l.number == recNat m.bits 16 4) = some l →
          let i := recNat m.bits 20 4 + l.gx * (recNat m.bits 24 4 + l.gy * recNat m.bits 28 4)
          if l.state == .done || l.outcome.isSome || l.blockCancel.contains i || blockEnded s l i then Ends (.cancel c) s c s .noeffect 0
          else Ends (.cancel c) s c (cancelBlock s l i) .ok 0)
      ∧ (let host := hostAt e.fn (recNat m.bits 8 8)
         let va := recNat m.bits 16 8
         let n := recNat m.bits 24 8
         (recNat m.bits 2 2 = 1 → ∀ u, bringRange s tenant va n false = .ok u →
            Ends (.hcopy c) s c { u with hostMem := memWrite u.hostMem host (virtBytes u tenant va n) } .ok 0)
         ∧ (recNat m.bits 2 2 ≠ 1 → ∀ u, bringRange s tenant va n true = .ok u →
            Ends (.hcopy c) s c (writeRange u tenant va (memRead u.hostMem host n)) .ok 0)
         ∧ ∀ code, bringRange s tenant va n (recNat m.bits 2 2 != 1) = .fault code → Ends (.hcopy c) s c s .failed code.toNat)
      ∧ (let va := recNat m.bits 8 8
         (∀ code, bringPage s tenant va false = .fault code → leafAt s tenant va = none → Ends (.pageMigrate c) s c s .failed tcPF.toNat)
         ∧ ∀ u, bringPage s tenant va false = .ok u →
           (∀ l, leafAt u tenant va = some l → pageTarget u tenant l (moveTarget m.bits).1 (moveTarget m.bits).2 = none →
               Ends (.pageMigrate c) s c u .failed 0)
           ∧ ∀ l onto, leafAt u tenant va = some l → pageTarget u tenant l (moveTarget m.bits).1 (moveTarget m.bits).2 = some onto →
               let t := migrateLeaf (u.modCmd c fun y => { y with state := .running }) tenant l onto none (some c)
               exec (.pageMigrate c) s = .next (if t.awaits.any fun a => a.cmd == some c then t else t.push (.pageMigrateComplete c)))
      ∧ (m.launches = [] → ∃ t l, exec (.launch c) s = .next t ∧ t.launches = s.launches ++ [l] ∧ l.uid = s.uids
          ∧ l.number = ((s.job? tenant m.job).map fun j => j.nextLaunch).getD 1 ∧ l.tenant = tenant ∧ l.job = m.job
          ∧ (l.gx, l.gy, l.gz) = recGrid m.bits ∧ l.kernel = recNat m.bits 14 2 ∧ l.state = .waiting ∧ l.outcome = none
          ∧ t.mem = s.mem ∧ ∀ j, s.job? tenant m.job = some j → (t.job? tenant m.job).map (fun x => x.nextLaunch) = some (j.nextLaunch + 1))
      ∧ ∀ id ns, m.launches = [] →
          ((envOf s tenant fun u i => cmdBefore u i c).graphs.find? fun g => g.1 == recNat m.bits 12 2) = some (recNat m.bits 12 2, id, ns) →
          let first := ((s.job? tenant m.job).map fun j => j.nextLaunch).getD 1
          ∃ t, exec (.graphReplay c) s = .next t ∧ t.launches.length = s.launches.length + ns.length
            ∧ (∀ i, i < ns.length → (t.launches[s.launches.length + i]?).map (fun l => l.number) = some (first + i))
            ∧ ∀ j, s.job? tenant m.job = some j → (t.job? tenant m.job).map (fun x => x.nextLaunch) = some (j.nextLaunch + ns.length))
  ∧ (∀ (s : State) (c : CmdRef) (e : JEntry) (m : JCmd), s.cmd? c = some (e, m) → m.state = .running → recOp m.bits = opPageMigrate →
      (∀ a, a ∈ s.awaits → a.cmd = some c → a.acks = 0) →
      Ends (.pageMigrateComplete c) s c (countSlip { s with awaits := s.awaits.filter fun a => a.cmd != some c }
        (s.fn e.fn).tenant (recNat m.bits 32 8)) .ok 0)
  ∧ (∀ (s : State) (u : Nat) (l : Launch), s.launch? u = some l →
      let s0 := s.modCmd { entry := l.entry, index := l.index } fun y => if y.state == .waiting then { y with state := .running } else y
      let l1 := { l with image := currentImage s l, start := startClock s l, clock := clockJoin l.clock (startClock s l) }
      let s1 := s0.modLaunch u fun _ => l1
      (launchTurn s l = true → depFails s l = true → exec (.launchStart u) s = .next (endLaunch s0 u .depfail 0 0))
      ∧ (launchTurn s l = true → depFails s l = false →
          (l1.kern = none → exec (.launchStart u) s = .next (failLaunch s1 u tcXLAT.toNat 1 none))
          ∧ (∀ k, l1.kern = some k → l.paramPage ≠ 0 → exec (.launchStart u) s = .next (chooseFor s1 u))
          ∧ ∀ k, l1.kern = some k → l.paramPage = 0 →
              (∀ code, readBlocks s1 l1 k = .inl code → exec (.launchStart u) s = .next (failLaunch s1 u code.toNat 0 none))
              ∧ ∀ t ps cs, readBlocks s1 l1 k = .inr (t, ps, cs) →
                  exec (.launchStart u) s = .next (chooseFor (placeBlocks t l1 ps cs) u))
      ∧ (∀ k c, l.kern = some k → l.state = .placing → l.outcome = none → l.nextBlock < l.blocks →
          l.blockCancel.contains l.nextBlock = false → coreFor s l k (launchResident s u) l.nextBlock = some c → residentOn s c l.ctx = true →
          let t := placeOn s l k l.nextBlock c
          exec (.blockPlace u) s = .next (blockPlaced t u false) ∧ t.mem = s.mem
          ∧ ∃ b, (t.core c).blocks = (s.core c).blocks ++ [b] ∧ b.launch = l.uid ∧ b.linear = l.nextBlock ∧ b.ctx = l.ctx
              ∧ b.x = l.nextBlock % l.gx ∧ b.y = l.nextBlock / l.gx % l.gy ∧ b.z = l.nextBlock / (l.gx * l.gy)))
  ∧ ∀ (s : State),
      let ts := (s.tenants.map fun p => p.1).filter fun t => runnableTenant s t
      ∃ t, exec .dispatchQuantum s = .next t ∧ t = { s with tenants := t.tenants, quantum := t.quantum, quantumEnd := t.quantumEnd }
        ∧ t.quantumEnd = max (s.quantumEnd + 100) (s.ticks + 1) ∧ (ts = [] → t.quantum = none)
        ∧ (∀ r, r ∈ ts → (s.tenant r).runnable = true → caughtUp s ts r = (s.tenant r).pass)
        ∧ (∀ r low, r ∈ ts → (s.tenant r).runnable = false → low ∈ ts → (s.tenant low).runnable = true →
            (∀ x, x ∈ ts → (s.tenant x).runnable = true → (s.tenant low).pass ≤ (s.tenant x).pass) →
            caughtUp s ts r = max (s.tenant r).pass (s.tenant low).pass)
        ∧ (ts ≠ [] → ∃ q, q ∈ ts ∧ t.quantum = some q ∧ (∀ r, r ∈ ts → caughtUp s ts q ≤ caughtUp s ts r)
            ∧ (t.tenant q).pass = caughtUp s ts q + 2 ^ 20 / (s.tenant q).tickets)
/-! ### The kiln, the package's health, boot and its security (R65, R349, R432, R437, R439, R440, R442, R447 to R458) -/

/-- R65, R349, R432, R433, R435, R437, R439, R440, R442, R447 to R449, R453 to R456, R458. -/
def Obligations.KilnAndHealth : Prop :=
  (∀ (s : State) (x : Transl), (∀ l, l ∈ s.launches → l.state ≠ .kilnWait) →
    (newestEntry s x.key x.tenant = none → s.kiln.foldl (fun a y => if y.resident = 0 then a else a + y.words.length) 0 + x.words.length ≤ 2 ^ 26 →
      exec (.bisqueComplete x) s = .next { s with kiln := s.kiln ++
        [{ x with generation := 0, glaze := false, resident := if x.resident = 0 then 128 else x.resident, lastUse := s.ck }] })
    ∧ (∀ i, newestEntry s x.key x.tenant = some i → exec (.bisqueComplete x) s = .next s))
  ∧ (∀ (s : State) (x old : Transl) (i : Nat), newestEntry s x.key x.tenant = some i → s.kiln[i]? = some old →
      let kids := kernelIdsOf s x.key
      let called := kids.any (isHot s) || kids.any fun k => x.unhoisted.any fun pc => !old.unhoisted.contains pc && isAliased s k pc
      let keeps := old.unhoisted.all fun pc => x.unhoisted.contains pc
      (called = true → keeps = true →
        s.kiln.foldl (fun a y => if y.resident = 0 then a else a + y.words.length) 0 + x.words.length ≤ 2 ^ 26 →
        ∃ t, exec (.glazeComplete x) s = .next t ∧ t = { s with kiln := t.kiln, newestCounts := t.newestCounts }
          ∧ t.kiln = s.kiln ++ [{ x with generation := (old.generation + 1) % 2 ^ 16, glaze := true
                                         resident := if x.resident = 0 then 128 else x.resident, lastUse := s.ck }]
          ∧ ∀ k, k ∈ kids → mget 0 t.newestCounts k = dieEstimates s (fun d => d.launchSk) k)
      ∧ (called = false ∨ keeps = false → exec (.glazeComplete x) s = .next s))
  ∧ (∀ (s : State), ∃ t, exec .sketchDecay s = .next t ∧ t = { s with dies := t.dies } ∧ ∀ d k,
      mget 0 (t.die d).launchSk k = mget 0 (s.die d).launchSk k >>> 1 ∧ mget 0 (t.die d).pcSk k = mget 0 (s.die d).pcSk k >>> 1
      ∧ mget 0 (t.die d).aliasSk k = mget 0 (s.die d).aliasSk k >>> 1)
  ∧ (∀ (s : State) (it : AtItem) (g : Gang), it.gang ≠ 32 → s.gang? it.core it.gang = some g →
      (∃ l, l < 32 ∧ (g.lane l).status = .parked .kiln) →
      ∃ t h, exec (.kilnTranslateTarget it) s = .next t ∧ t.mem = s.mem ∧ t.gang? it.core it.gang = some h
        ∧ h.replay = true ∧ h.region = Region.empty
        ∧ ∀ l x, l < 32 → mfind g.base.fibres l = some x →
            h.lane l = { x with latch := [], status := if (g.lane l).status = .parked .kiln then .ready else x.status })
  ∧ (∀ (s : State) (r : RefreshTick),
      let key := 65536 * r.stack + r.bank
      let d := s.die (r.stack / 4)
      ∃ t, exec (.refreshInterval r) s = .next t ∧ t = { s with dies := t.dies }
        ∧ (d.forced.contains key = true → (∀ k, k / 65536 = r.stack → Config.bankChannel (k % 65536) = Config.bankChannel r.bank →
              mget 0 (t.die (r.stack / 4)).refresh k = 0 ∧ k ∉ (t.die (r.stack / 4)).forced)
            ∧ mget 0 (t.die (r.stack / 4)).refreshing (65536 * r.stack + Config.bankChannel r.bank) = s.ck + d.clock.cyclesIn 350)
        ∧ (d.forced.contains key = false → r.waiting = true → mget 0 d.refresh key < 8 →
            mget 0 (t.die (r.stack / 4)).refresh key = mget 0 d.refresh key + 1
            ∧ (key ∈ (t.die (r.stack / 4)).forced ↔ mget 0 d.refresh key = 7))
        ∧ (d.forced.contains key = false → r.waiting = false ∨ 8 ≤ mget 0 d.refresh key →
            mget 0 (t.die (r.stack / 4)).refresh key = 0))
  ∧ (∀ (s : State) (r : ScrubRead), ∃ t, exec (.patrolScrub r) s = .next t
      ∧ (r.result = .clean → t = s)
      ∧ (r.result = .corrected → t = { s with dies := t.dies } ∧ t.die (r.stack / 4) = { s.die (r.stack / 4) with corrected := (s.die (r.stack / 4)).corrected + 1 })
      ∧ (r.result = .uncorrectable → r.pa / 2 ^ 16 ∈ t.failedPages ∧ ∀ p, p ∈ s.failedPages → p ∈ t.failedPages))
  ∧ (∀ (s : State), ∃ t, exec .errorCountReport s = .next t ∧ t = { s with dies := t.dies, pfReports := t.pfReports }
      ∧ t.pfReports = s.pfReports ++ [{ kind := 6, tenant := 0, time := s.ticks, words := (List.range 4).flatMap fun d => [(s.die d).corrected, (s.die d).uncorrected] }]
      ∧ ∀ d, (t.die d).corrected = 0 ∧ (t.die d).uncorrected = 0)
  ∧ (∀ (s : State) (u : FailUnit),
      let words := match u with
        | .core c => [0, c] | .cluster c => [1, c] | .die d => [2, d] | .stack k => [3, k] | .service k => [4, k] | .kiln k => [5, k] | .link p => [6, p]
      ∃ t r, exec (.unitFailure u) s = .next t ∧ t.pfReports.getLast? = some r ∧ r.kind = 3 ∧ r.words = words
        ∧ (∀ c, u = .core c → t.core c = Core.dead) ∧ (∀ k, u = .stack k → k < 16 → t.stackDown.getLsbD k = true)
        ∧ (∀ k, u = .service k → k < 16 → t.serviceDown.getLsbD k = true)
        ∧ (∀ k, u = .kiln k → k < 16 → t.kilnDown.getLsbD k = true) ∧ (∀ p, u = .link p → (t.link p).state = .failed))
  ∧ (∀ (s : State) (a b c : StageImage) (rest : List StageImage),
      let p := powerUp s
      (stageOk p 1 a = true → stageOk p 2 b = true → stageOk p 3 c = true → ∃ t, exec (.boot (a :: b :: c :: rest)) s = .next t
        ∧ t.bootStage = 4 ∧ t.bootFailed = false ∧ t.mem = State.reset.mem ∧ t.hostMem = s.hostMem
        ∧ t.measureLog = [(1, a.svn, sha3 a.bytes), (2, b.svn, sha3 b.bytes), (3, c.svn, sha3 c.bytes)]
        ∧ mget 0 t.measures 1 = sha3 (leBytes 32 0 ++ leBytes 32 (sha3 a.bytes).toNat))
      ∧ (stageOk p 1 a = false → ∃ t r, exec (.boot (a :: rest)) s = .next t ∧ t.bootFailed = true ∧ t.bootStage = 0
        ∧ t.pfReports = [r] ∧ r.kind = 8 ∧ t.measureLog = [(1, a.svn, sha3 a.bytes)]))
  ∧ (∀ (s : State) (r : WindowRead),
      let d := s.die r.die
      let budget := 1000 * dieBudget s
      ∃ t, exec (.throttleWindow r) s = .next t ∧ t = { s with dies := t.dies }
        ∧ (budget < r.power ∨ 1050 < r.hottest → t.die r.die = { d with clock := d.clock.down, coolWindows := 0 })
        ∧ (r.power ≤ budget → r.hottest ≤ 950 → 100 * r.power ≤ 85 * budget → d.coolWindows = 9 →
            t.die r.die = { d with clock := d.clock.up, coolWindows := 0 })
        ∧ (r.power ≤ budget → r.hottest ≤ 950 → 100 * r.power ≤ 85 * budget → d.coolWindows ≠ 9 →
            t.die r.die = { d with coolWindows := d.coolWindows + 1 })
        ∧ (r.power ≤ budget → r.hottest ≤ 1050 → 950 < r.hottest ∨ 85 * budget < 100 * r.power → t.die r.die = { d with coolWindows := 0 }))
  ∧ ∀ (s : State), ∃ t, exec .thermalTrip s = .next t ∧ t.tripped = true ∧ t.mem = s.mem ∧ t.cores = s.cores

/-- R450, R451, R452. -/
def Obligations.SecurityEvents : Prop :=
  (∀ (s : State) (m : SpdmMsg),
    let r := s.responder m.port
    let replied (t : State) (start : List Byte) (x : Spdm) : Prop := t = { s with spdm := t.spdm, free := t.free }
      ∧ (∀ p, p ≠ m.port → t.responder p = s.responder p)
      ∧ ∃ reply, t.responder m.port = { x with transcript := start ++ m.bytes ++ reply, replies := r.replies ++ [reply] }
    (∃ t, exec (.spdmGetVersion m) s = .next t ∧ replied t [] { Spdm.reset with versioned := true })
    ∧ (∃ t, exec (.spdmGetCapabilities m) s = .next t ∧ replied t r.transcript (if r.versioned then { r with capable := true } else r))
    ∧ (∃ t, exec (.spdmNegotiateAlgorithms m) s = .next t ∧ replied t r.transcript (if r.capable then { r with negotiated := true } else r))
    ∧ (∃ t, exec (.spdmGetDigests m) s = .next t ∧ replied t r.transcript r)
    ∧ (∃ t, exec (.spdmGetCertificate m) s = .next t ∧ replied t r.transcript r)
    ∧ (∃ t, exec (.spdmChallenge m) s = .next t ∧ replied t r.transcript r)
    ∧ (∃ t, exec (.spdmGetMeasurements m) s = .next t ∧ replied t r.transcript r)
    ∧ (∃ t k, exec (.spdmKeyExchange m) s = .next t
        ∧ replied t r.transcript (if r.negotiated then { r with session := some k, established := false } else r))
    ∧ (∃ t, exec (.spdmFinish m) s = .next t ∧ replied t r.transcript
        (match r.session with
         | some k => if r.established = false ∧ Config.spdmFinishOk k m.bytes = true then { r with established := true } else r
         | none => r))
    ∧ (∃ t, exec (.spdmKeyUpdate m) s = .next t ∧ replied t r.transcript
        (if r.established then { r with session := r.session.map fun k => sha3 (leBytes 32 k.toNat) } else r))
    ∧ (∃ t, exec (.spdmEndSession m) s = .next t ∧ replied t r.transcript
        (if r.established then { r with session := none, established := false } else r)))
  ∧ (∀ (s : State) (m : IdeMsg),
      let x := mget IdeStream.insecure (s.fn m.fn).ide m.port
      let now (t : State) := mget IdeStream.insecure (t.fn m.fn).ide m.port
      let runs (ev : Instr) (y : IdeStream) : Prop := ∃ t, exec ev s = .next t ∧ t = { s with fns := t.fns }
        ∧ now t = { y with secure := y.keyed }
      ((s.responder m.port).established = false →
        exec (.keyProg m) s = .next s ∧ exec (.kSetGo m) s = .next s ∧ exec (.kSetStop m) s = .next s)
      ∧ ((s.responder m.port).established = true →
        (m.tx = true → m.keySet = 0 → runs (.keyProg m) { x with txKey0 := some m.key } ∧ runs (.kSetStop m)
            { x with txKey0 := none, txSet := if x.txSet = some 0 then none else x.txSet })
        ∧ (m.tx = true → m.keySet = 1 → runs (.keyProg m) { x with txKey1 := some m.key } ∧ runs (.kSetStop m)
            { x with txKey1 := none, txSet := if x.txSet = some 1 then none else x.txSet })
        ∧ (m.tx = false → m.keySet = 0 → runs (.keyProg m) { x with rxKey0 := some m.key } ∧ runs (.kSetGo m) { x with rxGo0 := true }
            ∧ runs (.kSetStop m) { x with rxKey0 := none, rxGo0 := false })
        ∧ (m.tx = false → m.keySet = 1 → runs (.keyProg m) { x with rxKey1 := some m.key } ∧ runs (.kSetGo m) { x with rxGo1 := true }
            ∧ runs (.kSetStop m) { x with rxKey1 := none, rxGo1 := false })
        ∧ (m.tx = true → m.keySet ≤ 1 → runs (.kSetGo m)
            { x with txSet := some m.keySet, refreshing := if x.txSet = some m.keySet then x.refreshing else false }))
      ∧ ((∀ q, q ∈ allCmds s → q.1.fn = m.fn → q.2.2.isDecided = true) → ∃ t r, exec (.ideIntegrityFailure m) s = .next t
          ∧ (now t).secure = false ∧ (t.fn m.fn).status = 0 ∧ (t.fn m.fn).features = 0 ∧ t.pfReports = s.pfReports ++ [r]
          ∧ r.kind = 8 ∧ r.words = [m.fn, m.port]))
  ∧ ∀ (s : State) (r : StreamRef) (k : KeySlots), s.keySlots r = some k →
      (∀ u, k.oldUntil = some u → (s.ticks < u → exec (.oldKeySlotExpiry r) s = .next s)
        ∧ (u ≤ s.ticks → ∃ t, exec (.oldKeySlotExpiry r) s = .next t ∧ t = { s with keys := t.keys }
            ∧ t.keySlots r = some (if k.cur = 0 then { k with key1 := none, oldUntil := none } else { k with key0 := none, oldUntil := none })))
      ∧ (k.flits < 2 ^ 38 → exec (.keyRefreshRequest r) s = .next s)
      ∧ (2 ^ 38 ≤ k.flits → k.refreshing = false → ∃ t key, exec (.keyRefreshRequest r) s = .next t ∧ t.mem = s.mem
          ∧ t.keySlots r = some { (k.put (1 - k.cur) key) with refreshing := true })
      ∧ (k.flits < 2 ^ 40 → exec (.flitLimitHold r) s = .next s)
      ∧ (2 ^ 40 ≤ k.flits → ∃ t, exec (.flitLimitHold r) s = .next t ∧ t = { s with keys := t.keys }
          ∧ t.keySlots r = some { k with held := true })
/-! ### The fabric (R356, R360, R365, R380, R381, R434, R452, R469 to R488) -/

/-- R469 to R478, R481, R486. -/
def Obligations.FabricPackets : Prop :=
  (∀ (s : State) (g : GroupMsg),
    let l := s.link g.port
    let stays := l.isOn = false ∨ s.npkg ≤ s.peerOf g.port
    (stays → exec (.groupReceive g) s = .next s)
    ∧ (¬ stays → groupOk g = false → ∃ t, exec (.groupReceive g) s = .next t ∧ (t.link g.port).owesNack = true ∧ t.mem = s.mem
        ∧ (t.link g.port).expect = l.expect)
    ∧ (¬ stays → groupOk g = true → ∃ u, (u.link g.port).lastHeader = s.ticks ∧ (u.link g.port).upmask = groupUpmask g.header
        ∧ u = { s with links := u.links, lastHeard := mset s.lastHeard (s.peerOf g.port) s.ticks }
        ∧ (groupSeq g.header ≠ l.expect → exec (.groupReceive g) s = .next u ∧ (u.link g.port).owesNack = true
            ∧ (u.link g.port).expect = l.expect)
        ∧ (groupSeq g.header = l.expect → exec (.groupReceive g) s = .next (g.packets.foldl (fun t x => portPacket t g.port x) u)
            ∧ (u.link g.port).expect = l.expect + 1)))
  ∧ (∀ (s : State) (port : Nat),
      let l := s.link port
      let fails (ev : Instr) : Prop := ∃ t r, exec ev s = .next t ∧ (t.link port).state = .failed ∧ t.pfReports = s.pfReports ++ [r]
        ∧ r.kind = 3 ∧ r.words = [6, port] ∧ t.mem = s.mem
      (l.isOn = true → l.resendFrom = none → l.unacked.length < 2048 → ∃ t ps, exec (.idleGroup port) s = .next t ∧ t.mem = s.mem
        ∧ (t.link port).nextSeq = l.nextSeq + 1 ∧ (t.link port).unacked = l.unacked ++ [(l.nextSeq, ps)] ∧ (t.link port).lastSent = s.ticks
        ∧ (l.outQ = [] → ps = []))
      ∧ (l.isOn = false → exec (.idleGroup port) s = .next s)
      ∧ (let late := (∃ e, l.episode = some e ∧ e.1 + 20 ≤ s.ticks) ∨ (l.unacked ≠ [] ∧ l.lastAdvance + 20 ≤ s.ticks)
         (l.isOn = true → late → fails (.replayLimit port)) ∧ (¬ late → exec (.replayLimit port) s = .next s))
      ∧ (l.state = .up ∨ l.state = .replay → l.lastHeader + 100 ≤ s.ticks → fails (.linkHeaderTimeout port))
      ∧ (s.ticks < l.lastHeader + 100 → exec (.linkHeaderTimeout port) s = .next s)
      ∧ (l.state = .training → l.trainedAt + 100000 ≤ s.ticks → fails (.trainingTimeout port))
      ∧ (l.state ≠ .training ∨ s.ticks < l.trainedAt + 100000 → exec (.trainingTimeout port) s = .next s)
      ∧ (port ≤ 14 → s.peerOf port < s.npkg →
          (l.state = .down ∨ l.state = .failed → ∃ t, exec (.linkTraining { port := port, agreed := false }) s = .next t
            ∧ t = { s with links := t.links } ∧ (t.link port).state = .training ∧ (t.link port).trainedAt = s.ticks)
          ∧ (l.state = .training → s.ticks < l.trainedAt + 100000 → ∃ t, exec (.linkTraining { port := port, agreed := true }) s = .next t
            ∧ (t.link port).state = .up ∧ t.mem = s.mem ∧ (s.peerOf port < 16 → t.live.getLsbD (s.peerOf port) = true))))
  ∧ (∀ (s : State) (p : Packet),
      let answers (t : State) (op : Nat) (data : List Byte) : Prop := ∃ q, q ∈ (t.stream p.src p.tenant true).unacked ∧ q.1.op = op
        ∧ q.1.data = data ∧ q.1.tag = p.tag ∧ q.1.dst = p.src ∧ q.1.response = true
      (pkgOf p.addr = s.self →
        (∃ t, exec (.readRequest p) s = .next t ∧ t.mem = s.mem ∧ answers t pkReadData (memRead s.mem (s.homeOf p.addr) p.size))
        ∧ (∃ t, exec (.write p) s = .next t ∧ t.mem = memWrite s.mem (s.homeOf p.addr) (p.data.take p.size) ∧ answers t pkWriteAck []
            ∧ ∀ b, b < s.homeOf p.addr ∨ s.homeOf p.addr + p.size ≤ b → memByte t.mem b = memByte s.mem b)
        ∧ (p.contribution = none → ∃ t, exec (.atomicRequest p) s = .next t ∧ answers t pkAtomicResult (memRead s.mem (s.homeOf p.addr) p.size)
            ∧ t.mem = (match remoteAtomic p (memRead s.mem (s.homeOf p.addr) p.size) with
                | some bs => memWrite s.mem (s.homeOf p.addr) bs
                | none => s.mem))
        ∧ (∀ m, p.contribution = some m → exec (.atomicRequest p) s = exec (.fatomContribution { m with pa := s.homeOf m.pa }) s))
      ∧ (pkgOf p.addr ≠ s.self → exec (.readRequest p) s = .next s ∧ exec (.write p) s = .next s ∧ exec (.atomicRequest p) s = .next s)
      ∧ (∃ t, exec (.bulkGetRequest p) s = .next t ∧ t.mem = s.mem ∧ answers t pkBulkData ((runWords p.data).flatMap (runElem s p.size)))
      ∧ (s.remote? p.tag = none → exec (.readData p) s = .next s ∧ exec (.writeAck p) s = .next s ∧ exec (.atomicResult p) s = .next s
          ∧ exec (.bulkData p) s = .next s)
      ∧ (∀ r, s.remote? p.tag = some r →
          let kept := updFirst (fun x => x.tag == p.tag) (fun x : Remote => { x with data := some p.data }) s.remotes
          (r.gang ≠ walkerGang → s.laneGone r = false → ∃ t, exec (.readData p) s = .next t ∧ t.remotes = kept ∧ t.mem = s.mem)
          ∧ (s.laneGone r = false → ∃ t, exec (.atomicResult p) s = .next t ∧ t.remotes = kept ∧ t.mem = s.mem)
          ∧ ((∀ g, s.gang? r.core r.gang = some g → g.live ≠ 0) → ∃ t, exec (.writeAck p) s = .next t ∧ t.remotes = s.remotes.filter (fun x => x.tag != p.tag))
          ∧ (∀ g m, s.gang? r.core r.gang = some g → ((s.core r.core).fabricQ.find? fun x => x.gang == r.gang) = some m → ∃ t u, exec (.bulkData p) s = .next t
              ∧ (t.core r.core).units = (s.core r.core).units ++ [u] ∧ u.bytes = p.data ∧ u.owner = m.stamp ∧ u.gang = r.gang
              ∧ t.remotes = s.remotes.filter (fun x => x.tag != p.tag)))
      ∧ (∀ d, p.op / 16 ≠ 1 → routeOf s p.tenant (nameSpace p.name) = some (s.self, d) →
          exec (.namedInterest p) s = .next (s.push (.interestArrival 
            { holder := .rendezvous d (rendezvousSlice p.name), tenant := p.tenant, name := p.name
              face := if p.op / 16 = 2 then .prefetch p.tag else .relay (.pkgRelay p.src), until_ := s.ticks + p.until_ })))
      ∧ (p.op / 16 = 0 → exec (.namedTile p) s = .next (s.push (.tileForward 
          { holder := .pkgRelay s.self, tenant := p.tenant, name := p.name, pubseq := farPublish p.src p.tag, bytes := p.data, clock := [] })))
      ∧ (p.op / 16 = 1 → ∀ d k, nameDesc s p.tenant (nameSpace p.name) = some d → routeOf s p.tenant (nameSpace p.name) = some k →
          ∃ t, exec (.namedTile p) s = .next t
            ∧ t.mem = if isNew s d p.name then memWrite s.mem (pubAddr d p.name) (leBytes 4 (nameIter p.name + 65536)) else s.mem)
      ∧ (∃ t, exec (.endToEndAck p) s = .next t ∧ t = { s with streams := t.streams }
          ∧ (t.stream p.src p.streamKey p.response).unacked =
              (s.stream p.src p.streamKey p.response).unacked.filter fun u => decide (2 ^ 31 ≤ (p.eack - u.1.seq).toNat)))
  ∧ ∀ (s : State) (r : ResendRef) (u : Packet × Nat × Nat),
      ((s.stream r.peer r.tenant r.response).unacked.find? fun x => x.1.seq == r.seq) = some u →
      (resendDue s u = false → exec (.endToEndResend r) s = .next s)
      ∧ ∀ port relay det, resendDue s u = true → s.isHeld u.1.dst u.1.streamKey = false → s.routeTo u.1.dst u.1.mgmt = some (port, relay, det) →
          ∃ t q, exec (.endToEndResend r) s = .next t ∧ (t.link port).outQ = (s.link port).outQ ++ [(q, false)] ∧ q.seq = u.1.seq
            ∧ q.dst = u.1.dst ∧ q.data = u.1.data ∧ q.op = u.1.op ∧ t.mem = s.mem

/-- R197, R356, R361, R380, R381, R434, R452, R486, R487, R488. -/
def Obligations.FabricManagement : Prop :=
  (∀ (s : State) (it : AtItem) (w : Wait), waitOf s it = some w → it.gang ≠ 32 →
    let asks := w.cause = .fence ∧ w.ticket = 0 ∧ fabricSC w.instr = true ∧ s.highsOwed = 0
    (¬ asks → exec (.ticketRequest it) s = .next s)
    ∧ (asks → s.hostPkg ≠ s.self → ∃ t, exec (.ticketRequest it) s = .next t ∧ t.uids = s.uids + 1
        ∧ (waitOf t it).map Wait.ticket = some (askedTicket s.uids) ∧ t.mem = s.mem
        ∧ ∃ q, q ∈ (t.stream s.hostPkg 4096 false).unacked ∧ q.1.body = .ticketAsk s.uids)
    ∧ (asks → s.hostPkg = s.self → ∃ t, exec (.ticketRequest it) s = .next t ∧ t.nextTicket = s.nextTicket + 1 ∧ t.mem = s.mem))
  ∧ (∀ (s : State) (p : Packet),
      let ev : Instr := .management p
      let slots (tx : Bool) (tenant : Nat) : StreamRef := { peer := p.src, tenant := tenant, tx := tx }
      (p.body = .none → exec ev s = .next s)
      ∧ (p.body = .heartbeat → exec ev s = .next { s with lastHeard := mset s.lastHeard p.src s.ticks })
      ∧ (∀ n, p.body = .lossNotice n → exec ev s = .next (s.push (.lossNotice n)))
      ∧ (∀ n, p.body = .lossConfirm n → exec ev s = .next (s.push (.lossConfirmation n)))
      ∧ (∀ m, p.body = .rebind m → exec ev s = .next (s.push (.rebind m)))
      ∧ (∀ tenant space entry, p.body = .routeChange tenant space entry → ∃ t, exec ev s = .next t
          ∧ t.mem = memWrite s.mem (routeAddr s tenant space) (leBytes 8 entry.toNat))
      ∧ (∀ tenant slot key, p.body = .keyAgree tenant slot key → ∃ t, exec ev s = .next t
          ∧ t.keySlots (slots false tenant) = some (((s.keySlots (slots false tenant)).getD KeySlots.none).put slot key)
          ∧ ∃ q, q ∈ (t.stream p.src 4096 false).unacked ∧ q.1.body = .keyAck tenant slot)
      ∧ (∀ tenant slot k, p.body = .keyAck tenant slot → s.keySlots (slots true tenant) = some k → ∃ t, exec ev s = .next t
          ∧ t.keySlots (slots true tenant) = some { k with cur := slot, flits := 0, refreshing := false, held := false })
      ∧ (∀ fn queue seq n, p.body = .witnessAccept fn queue seq n → exec ev s = .next
          { s with witness := s.witness ++ (List.range n).map fun i => (p.src, fn, queue, seq, i + 1) })
      ∧ (∀ fn queue seq i, p.body = .witnessDone fn queue seq i → exec ev s = .next
          { s with witness := s.witness.filter fun w => w != (p.src, fn, queue, seq, i) })
      ∧ (∀ tenant base len all tag, p.body = .invalidate tenant base len all tag → ∃ t, exec ev s = .next t
          ∧ ∀ c e, c ∈ s.cores.map Prod.fst → e ∈ (t.core c).tlb → e.tenant = tenant →
              all = false ∧ overlaps e.va e.size base.toNat len.toNat = false)
      ∧ (∀ launch keep, p.body = .windowsClose launch keep → ∃ t, exec ev s = .next t
          ∧ (keep = false → t.mem = s.mem) ∧ ∀ n d w, (n, d) ∈ t.dies → w ∈ d.windows → w.launch ≠ launch)
      ∧ (∀ tag, p.body = .ticketAsk tag → s.hostPkg = s.self → s.highsOwed = 0 → ∃ t, exec ev s = .next t ∧ t.nextTicket = s.nextTicket + 1)
      ∧ (∀ pkg fn queue seq i, p.body = .lostWork pkg fn queue seq i → exec ev s = .next (s.report 5 0 [pkg, fn, queue, seq, i])))
  ∧ ∀ (s : State) (pkg : Nat),
      (s.peers.contains pkg = true → s.upTo pkg = false → ∃ t, exec (.heartbeat pkg) s = .next t ∧ t.mem = s.mem
        ∧ ∃ q, q ∈ (t.stream pkg 4096 false).unacked ∧ q.1.body = .heartbeat)
      ∧ (s.peers.contains pkg = false ∨ s.upTo pkg = true → exec (.heartbeat pkg) s = .next s)
      ∧ (let heard := s.peers.filter fun j => (mfind s.lastHeard j).isSome
         (heard ≠ [] → (∀ j, j ∈ heard → s.silent j = true) → exec (.suspicionTimeout pkg) s = .next { s with tripped := true })
         ∧ ((∃ j, j ∈ heard ∧ s.silent j = false) → s.silent pkg = true → s.peers.contains pkg = true → pkg < 16 →
             ∃ t, exec (.suspicionTimeout pkg) s = .next t ∧ t.suspects.getLsbD pkg = true ∧ t.tripped = s.tripped)
         ∧ ((∃ j, j ∈ heard ∧ s.silent j = false) → s.silent pkg = false → exec (.suspicionTimeout pkg) s = .next s))
      ∧ (s.peers.contains pkg = true → pkg < 16 → ∃ t, exec (.lossNotice pkg) s = .next t ∧ t.suspects.getLsbD pkg = true ∧ t.mem = s.mem)
      ∧ (pkg = s.self → exec (.lossConfirmation pkg) s = .next { s with tripped := true })
      ∧ (pkg ≠ s.self → s.peers.contains pkg = false → exec (.lossConfirmation pkg) s = .next s)
      ∧ (pkg ≠ s.self → s.peers.contains pkg = true → ∃ t, exec (.lossConfirmation pkg) s = .next t ∧ t.live.getLsbD pkg = false
          ∧ t.tripped = s.tripped ∧ ∀ w, w ∈ t.witness → w.1 ≠ pkg)
/-! ### The machine as a whole: encodings, the step, its invariant, reset -/

/-- R29 to R36, R49 to R56: worked encodings. -/
def Obligations.DecodeWords : Prop :=
  let always : Guard := { neg := false, pred := 15 }
  decodeParcels [0x00803C00, 0x7000C00C] = .ok (.add { mod := 0, ty := .s32, g := always, d := 7, a := 3, b := 12 }) 2 0 0x00803C007000C00C
  ∧ decodeParcels [0x16003C00, 0x90000000, 0x12345678]
      = .ok (.movi { mod := 0, ty := .s32, g := always, d := 9, a := 0, b := 0, lit := 0x12345678 }) 3 0 0x16003C0090000000
  ∧ decodeParcels [0xFF000040, 0x00000000, 0xFF400000, 0x00000001, 0x04004D17, 0x00014006, 0x38800000]
      = .ok (.madd { mod := 0, ty := .s32, g := { neg := true, pred := 3 }, d := 70000, a := 5, b := 6, c := 20000, ext := 0 }) 7 4
          0xFF00004000000000
  ∧ decodeParcels [0xFF000010, 0x00000000, 0x010044E2, 0x00013FFD]
      = .ok (.addI { mod := 0, ty := .s32, g := { neg := true, pred := 1 }, d := 20000, a := 4, imm := 0x3FFD }) 4 2 0xFF00001000000000
  ∧ decodeParcels [0x20903C00, 0x20017FFF]
      = .ok (.cmpI { mod := 2, ty := .s32, g := always, d := 2, a := 5, imm := 0x3FFF }) 2 0 0x20903C0020017FFF
  ∧ decodeParcels [0x418A3C00, 0x10008003, 0x00100000]
      = .ok (.ffma { mod := 1, ty := .fp32, g := always, d := 1, a := 2, b := 3, c := 4, ext := 0 }) 3 0 0x418A3C0010008003
  ∧ decodeParcels [0x80003C00, 0x50013FF8]
      = .ok (.ldI { mod := 0, ty := .s32, g := always, d := 5, a := 4, imm := 0x3FF8 }) 2 0 0x80003C0050013FF8
  ∧ decodeParcels [0x81803C00, 0x50010000, 0x0001A010]
      = .ok (.stC { mod := 0, ty := .s32, g := always, d := 5, a := 4, b := 0, c := 0, ext := 0x1A010 }) 3 0 0x81803C0050010000
  ∧ decodeParcels [0x80803C01, 0x5003C000, 0x00010000]
      = .ok (.ldC { mod := 0, ty := .s32, g := always, d := 21, a := 15, b := 0, c := 0, ext := 0x10000 }) 3 0 0x80803C015003C000
  ∧ decodeParcels [0xA5803C00, 0x00008000]
      = .ok (.jwait { mod := 0, ty := .s32, g := always, d := 0, a := 2, b := 0 }) 2 0 0xA5803C0000008000
  ∧ decodeParcels [0xA0000800, 0x00000000, 0xFFFFFFF6]
      = .ok (.bra { mod := 0, ty := .s32, g := { neg := false, pred := 2 }, d := 0, a := 0, b := 0, lit := 0xFFFFFFF6 }) 3 0 0xA000080000000000
  ∧ decodeParcels [0xAD803C01, 0x80050000]
      = .ok (.greduce { mod := 0, ty := .s32, g := always, d := 24, a := 20, b := 0 }) 2 0 0xAD803C0180050000
  ∧ decodeParcels [0xC1A63C00, 0x10010008, 0x00500000]
      = .ok (.mma { mod := 4, ty := .e4m3x4, g := always, d := 1, a := 4, b := 8, c := 20, ext := 0 }) 3 0 0xC1A63C0010010008
  ∧ decodeParcels [0xC8803C00, 0x00014009, 0x00000023]
      = .ok (.nwant { mod := 0, ty := .s32, g := always, d := 0, a := 5, b := 9, c := 0, ext := 0x23 }) 3 0 0xC8803C0000014009
  ∧ decodeParcels [0x88083C01, 0x40018000]
      = .ok (.ldq { mod := 1, ty := .s32, g := always, d := 20, a := 6, b := 0 }) 2 0 0x88083C0140018000
  ∧ decodeParcels [0xE0003C00, 0x30002008]
      = .ok (.srd { mod := 0, ty := .s32, g := always, d := 3, a := 0, imm := 0x2008 }) 2 0 0xE0003C0030002008

/-- R30, R36, R49 to R56, R61 to R63, R495: what is no instruction. -/
def Obligations.EncodingFaults : Prop :=
  let op : BitVec 32 → Nat := fun p => p.toNat / 2 ^ 23
  let assigned : Nat → Prop := fun o => ∃ r, r ∈ [(0x001, 0x030), (0x040, 0x048), (0x080, 0x095), (0x0C0, 0x0C9), (0x100, 0x111), (0x140, 0x155),
    (0x158, 0x15D), (0x180, 0x18A), (0x18C, 0x18D), (0x190, 0x194), (0x198, 0x19A), (0x19C, 0x19F), (0x1C0, 0x1C9)] ∧ r.1 ≤ o ∧ o ≤ r.2
  let three : Nat → Prop := fun o => o ∈ [0x008, 0x021, 0x024, 0x029, 0x02A, 0x02C, 0x02D, 0x048, 0x083, 0x092, 0x094, 0x095, 0x0C0, 0x0C1, 0x0C2,
    0x0C5, 0x0C6, 0x0C7, 0x101, 0x103, 0x106, 0x108, 0x109, 0x10A, 0x10B, 0x10C, 0x10D, 0x10F, 0x140, 0x142, 0x146, 0x147, 0x150, 0x158, 0x181,
    0x182, 0x183, 0x184, 0x185, 0x186, 0x187, 0x18C, 0x18D, 0x191, 0x192, 0x198, 0x199, 0x1C3]
  (∀ h l r, op h ≠ 0x1FE → ¬ assigned (op h) → decodeParcels (h :: l :: r) = .bad (if 0x1E0 ≤ op h ∧ op h ≤ 0x1EB then 2 else 1) 0 2 (h ++ l))
  ∧ (∀ h l k m n o r, op h = 0x1FE → op k = 0x1FE → op n = 0x1FE → decodeParcels (h :: l :: k :: m :: n :: o :: r) = .bad 8 10 6 (h ++ l))
  ∧ (∀ o, o < 512 → (partLength o = 3 ↔ three o) ∧ (partLength o = 2 ↔ ¬ three o))
  ∧ decodeParcels [] = .bad 0x0A 0 0 0
  ∧ (∀ h r, op h ≠ 0x1FE → (h :: r).length < partLength (op h) → decodeParcels (h :: r) = .bad 0x0A 0 (h :: r).length (h ++ r.headD 0))
  ∧ (∀ h, op h = 0x1FE → decodeParcels [h] = .bad 0x0A 0 1 (h ++ 0#32) ∧ ∀ l, decodeParcels [h, l] = .bad 0x0A 0 2 (h ++ l))
  ∧ (∀ h l k r, op h = 0x1FE → op k ≠ 0x1FE → (k :: r).length < partLength (op k) →
      decodeParcels (h :: l :: k :: r) = .bad 0x0A 0 (h :: l :: k :: r).length (h ++ l))
  ∧ (∀ h l k m, op h = 0x1FE → op k = 0x1FE →
      decodeParcels [h, l, k] = .bad 0x0A 0 3 (h ++ l) ∧ decodeParcels [h, l, k, m] = .bad 0x0A 0 4 (h ++ l)
      ∧ ∀ n r, (n :: r).length < partLength (op n) →
          decodeParcels (h :: l :: k :: m :: n :: r) = .bad 0x0A 0 (h :: l :: k :: m :: n :: r).length (h ++ l))
  ∧ ∀ (s : State) (c slot lanes : Nat) (pc : W64) (bs : List Byte) (reason field parcels : Nat) (bits : W64),
      decodeBytes bs = .bad reason field parcels bits →
      ∃ u, u = { s with cur := u.cur } ∧ u.cur.core = c ∧ u.cur.gang = slot ∧ u.cur.lanes = BitVec.ofNat 32 lanes ∧ u.cur.pc = pc
        ∧ issueBytes s c slot (BitVec.ofNat 32 lanes) pc bs
          = (takeTrap u tcILL (lowLane (BitVec.ofNat 32 lanes)) [bits, BitVec.ofNat 64 (reason + field * 256),
              BitVec.ofNat 64 (lanes % 2 ^ 32)], none)

/-- R29 to R36, R48 to R56, R60, R62, R495: the decoder and the encoder agree. -/
def Obligations.DecodeEncode : Prop :=
  (∀ (i : Instr) (p : Parts) (rest : List Byte), partsOf i = some p → WellFormed i →
    ∃ headAt bits, decodeBytes (encodeBytes i ++ rest) = .ok i (encode i).length headAt bits ∧ (encode i).length = headAt + partLength p.op)
  ∧ ∀ (ps : List (BitVec 32)) (i : Instr) (n headAt : Nat) (bits : BitVec 64), decodeParcels ps = .ok i n headAt bits →
      WellFormed i ∧ (partsOf i).isSome = true ∧ n ≤ ps.length

/-- R29, R150, R151, R292, R293, R493; the order of turns is log entry 4. -/
def Obligations.StepRunsDecoded : Prop :=
  (∀ (s : State), s.powered = true → s.tripped = false →
    (∀ e r i, s.agenda = e :: r → IsStep e i → step s = exec i { s with agenda := r })
    ∧ (s.agenda = [] →
        (∀ t, nextIssue s = (t, none) → step s = .next t)
        ∧ (∀ t e i, nextIssue s = (t, some (.event e)) → IsStep e i → step s = exec i t)
        ∧ (∀ t i u, nextIssue s = (t, some (.instr i)) → exec i t = .next u →
            step s = .next (settle t i u) ∧ ((∀ w, i ≠ .longWord w) → t.inFirmware = true → step s = .next u))
        ∧ ∀ (turn : Turn) (rest : List Turn), s.sched = turn :: rest → turn.skipDue = true →
            let s1 := flushAcks (meetFlaws (growPools (passTime { s with sched := rest } turn)))
            let k := s1.core turn.core
            4 ≤ s1.bootStage → k.halted = false → k.failed = false → k.fw.status = .ready → 64 ≤ k.credit →
            ∀ i n headAt bits, decodeBytes (memRead s1.mem (k.fw.pc.toNat % 2 ^ 52) 28) = .ok i n headAt bits →
              ∃ t, t = { s1.modCore turn.core fun x => { x with credit := x.credit - 64, userCk := x.userCk - 1 } with cur := t.cur }
                ∧ t.cur.core = turn.core ∧ t.inFirmware = true ∧ t.cur.lanes = 1 ∧ t.cur.pc = k.fw.pc
                ∧ t.cur.head = k.fw.pc + BitVec.ofNat 64 (4 * headAt) ∧ t.cur.next = k.fw.pc + BitVec.ofNat 64 (4 * n) ∧ t.cur.bits = bits
                ∧ ∀ u, exec i t = .next u → step s = .next u))
  ∧ ∀ (s : State) (c slot l n headAt : Nat) (g : Gang) (i : Instr) (bits : W64),
      let f := g.lane l
      let s1 := s.setGang c slot { g with tp := BitVec.ofNat 5 (l + 1) }
      let s2 := reachPc s1 f.launch f.pc f.fn
      translOf s g = none → g.inNative = false → g.nextLane = some l →
      ((s2.launch? f.launch).map fun x => x.outcome) = ((s1.launch? f.launch).map fun x => x.outcome) →
      (standAlone i = true → g.region.instrs = 0) → fetchStop s2 c g f (4 * n) = none →
      decodeBytes (fetchBytes s f) = .ok i n headAt bits →
        ∃ t, issueGang s c slot g = (t, some i) ∧ t = { s2 with cur := t.cur } ∧ t.cur.core = c ∧ t.cur.gang = slot
          ∧ t.cur.lanes = g.groupOf l ∧ t.cur.pc = f.pc ∧ t.cur.head = f.pc + BitVec.ofNat 64 (4 * headAt)
          ∧ t.cur.next = f.pc + BitVec.ofNat 64 (4 * n) ∧ t.cur.bits = bits ∧ t.cur.inNative = false

/-- R447, R458, and every rule that gives an instruction its effect. -/
def Obligations.NothingIsRefused : Prop :=
  (∀ (i : Instr) (s : State), ∃ t, exec i s = .next t)
  ∧ ∀ (s : State),
      (s.powered = true → s.tripped = false → ∃ t, step s = .next t)
      ∧ (∀ m r, s.agenda = .boot m :: r → ∃ t, step s = .next t)
      ∧ (s.powered = false ∨ s.tripped = true → (∀ m r, s.agenda ≠ .boot m :: r) → step s = .fault .powerLost)

/-- The invariant of the model's memories (log entry 2), over every instruction and event. -/
def Obligations.StepKeepsInv : Prop :=
  ∀ (s t : State), Inv s → step s = .next t → Inv t

/-- R292, R293, R294, R439, R447, R449: reset. -/
def Obligations.ResetState : Prop :=
  Inv State.reset ∧ State.reset.bootStage = 0 ∧ State.reset.glazeth = 8 ∧ State.reset.aliasth = 1
  ∧ (∀ m, mget 0 State.reset.measures m = 0) ∧ State.reset.launches = [] ∧ State.reset.jobs = [] ∧ State.reset.kiln = [] ∧ State.reset.keys = []
  ∧ ∀ c,
      let k := State.reset.core c
      (∀ n, sysReg k n = if n = 1 then 256 else if n = 2 then 4 else 0)
      ∧ (∀ n, (k.slotOf n).state = .empty ∧ (k.slotOf n).trapvalid = 0)
      ∧ k.credit = 0 ∧ k.halted = false

end
end

