-- ==== Sys2Proof/Laws/Maps.lean ====
section
/-! SUPPORT. What reading gives after writing a map keyed by numbers. The laws hold for every list, in order or not. -/

namespace Sys2Proof.Machine

theorem mget_mset_same {β : Type} (d : β) (m : List (Nat × β)) (k : Nat) (v : β) : mget d (mset m k v) k = v := by
  induction m with
  | nil => simp [mset, mget]
  | cons p r ih =>
    obtain ⟨j, u⟩ := p
    by_cases h : j = k
    · simp [mset, mget, h]
    · by_cases h2 : k < j
      · simp [mset, mget, h, h2]
      · simp [mset, mget, h, h2, ih]

theorem mget_mset_other {β : Type} (d : β) (m : List (Nat × β)) (k n : Nat) (v : β) (hn : n ≠ k) :
    mget d (mset m k v) n = mget d m n := by
  induction m with
  | nil => simp [mset, mget, Ne.symm hn]
  | cons p r ih =>
    obtain ⟨j, u⟩ := p
    by_cases h : j = k
    · subst h; simp [mset, mget, Ne.symm hn]
    · by_cases h2 : k < j
      · simp [mset, mget, h, h2, Ne.symm hn]
      · simp [mset, mget, h, h2, ih]

theorem mget_mset {β : Type} (d : β) (m : List (Nat × β)) (k n : Nat) (v : β) :
    mget d (mset m k v) n = if n = k then v else mget d m n := by
  by_cases h : n = k
  · subst h; simp [mget_mset_same]
  · simp [h, mget_mset_other]

theorem mfind_mset_same {β : Type} (m : List (Nat × β)) (k : Nat) (v : β) : mfind (mset m k v) k = some v := by
  induction m with
  | nil => simp [mset, mfind]
  | cons p r ih =>
    obtain ⟨j, u⟩ := p
    by_cases h : j = k
    · simp [mset, mfind, h]
    · by_cases h2 : k < j
      · simp [mset, mfind, h, h2]
      · simp [mset, mfind, h, h2, ih]

theorem mfind_mset_other {β : Type} (m : List (Nat × β)) (k n : Nat) (v : β) (hn : n ≠ k) :
    mfind (mset m k v) n = mfind m n := by
  induction m with
  | nil => simp [mset, mfind, Ne.symm hn]
  | cons p r ih =>
    obtain ⟨j, u⟩ := p
    by_cases h : j = k
    · subst h; simp [mset, mfind, Ne.symm hn]
    · by_cases h2 : k < j
      · simp [mset, mfind, h, h2, Ne.symm hn]
      · simp [mset, mfind, h, h2, ih]

theorem mfind_mset {β : Type} (m : List (Nat × β)) (k n : Nat) (v : β) :
    mfind (mset m k v) n = if n = k then some v else mfind m n := by
  by_cases h : n = k
  · subst h; simp [mfind_mset_same]
  · simp [h, mfind_mset_other]

theorem mget_eq_mfind {β : Type} (d : β) (m : List (Nat × β)) (k : Nat) : mget d m k = (mfind m k).getD d := by
  induction m with
  | nil => rfl
  | cons p r ih =>
    obtain ⟨j, u⟩ := p
    by_cases h : j = k
    · simp [mget, mfind, h]
    · simp [mget, mfind, h, ih]

theorem mfind_mdel_same {β : Type} (m : List (Nat × β)) (k : Nat) : mfind (mdel m k) k = none := by
  induction m with
  | nil => rfl
  | cons p r ih =>
    obtain ⟨j, u⟩ := p
    by_cases h : j = k
    · simpa [mdel, List.filter_cons, h] using ih
    · simpa [mdel, List.filter_cons, mfind, h] using ih

theorem mfind_mdel_other {β : Type} (m : List (Nat × β)) (k n : Nat) (hn : n ≠ k) : mfind (mdel m k) n = mfind m n := by
  induction m with
  | nil => rfl
  | cons p r ih =>
    obtain ⟨j, u⟩ := p
    by_cases h : j = k
    · subst h; simpa [mdel, List.filter_cons, mfind, Ne.symm hn] using ih
    · by_cases h2 : j = n
      · subst h2; simp [mdel, List.filter_cons, mfind, hn]
      · simpa [mdel, List.filter_cons, mfind, h, h2] using ih

theorem mget_mdel {β : Type} (d : β) (m : List (Nat × β)) (k n : Nat) :
    mget d (mdel m k) n = if n = k then d else mget d m n := by
  rw [mget_eq_mfind, mget_eq_mfind]
  by_cases h : n = k
  · subst h; simp [mfind_mdel_same]
  · simp [h, mfind_mdel_other]

/-- A function of key and value, applied to every entry, is applied where the key is found. -/
theorem mfind_map {β γ : Type} (f : Nat → β → γ) (m : List (Nat × β)) (k : Nat) :
    mfind (m.map fun p => (p.1, f p.1 p.2)) k = (mfind m k).map (f k) := by
  induction m with
  | nil => rfl
  | cons p r ih =>
    obtain ⟨j, u⟩ := p
    by_cases h : j = k
    · simp [mfind, h]
    · simp [mfind, h, ih]

end Sys2Proof.Machine
end

