-- ==== Sys2Proof/Laws/State.lean ====
section
/-! SUPPORT. What the named updates of the state leave unchanged, one lemma per field and update, so that no proof unfolds
a record update. -/

namespace Sys2Proof.Machine

section
variable (s : State)

@[simp] theorem setCore_cur (c : Nat) (k : Core) : (s.setCore c k).cur = s.cur := rfl
@[simp] theorem setCore_agenda (c : Nat) (k : Core) : (s.setCore c k).agenda = s.agenda := rfl
@[simp] theorem setCore_sched (c : Nat) (k : Core) : (s.setCore c k).sched = s.sched := rfl
@[simp] theorem setCore_free (c : Nat) (k : Core) : (s.setCore c k).free = s.free := rfl
@[simp] theorem setCore_uids (c : Nat) (k : Core) : (s.setCore c k).uids = s.uids := rfl
@[simp] theorem setCore_ck (c : Nat) (k : Core) : (s.setCore c k).ck = s.ck := rfl
@[simp] theorem setCore_ticks (c : Nat) (k : Core) : (s.setCore c k).ticks = s.ticks := rfl
@[simp] theorem setCore_powered (c : Nat) (k : Core) : (s.setCore c k).powered = s.powered := rfl
@[simp] theorem setCore_tripped (c : Nat) (k : Core) : (s.setCore c k).tripped = s.tripped := rfl
@[simp] theorem setCore_powerCap (c : Nat) (k : Core) : (s.setCore c k).powerCap = s.powerCap := rfl
@[simp] theorem setCore_self (c : Nat) (k : Core) : (s.setCore c k).self = s.self := rfl
@[simp] theorem setCore_npkg (c : Nat) (k : Core) : (s.setCore c k).npkg = s.npkg := rfl
@[simp] theorem setCore_live (c : Nat) (k : Core) : (s.setCore c k).live = s.live := rfl
@[simp] theorem setCore_suspects (c : Nat) (k : Core) : (s.setCore c k).suspects = s.suspects := rfl
@[simp] theorem setCore_lastHeard (c : Nat) (k : Core) : (s.setCore c k).lastHeard = s.lastHeard := rfl
@[simp] theorem setCore_mem (c : Nat) (k : Core) : (s.setCore c k).mem = s.mem := rfl
@[simp] theorem setCore_hostMem (c : Nat) (k : Core) : (s.setCore c k).hostMem = s.hostMem := rfl
@[simp] theorem setCore_failedPages (c : Nat) (k : Core) : (s.setCore c k).failedPages = s.failedPages := rfl
@[simp] theorem setCore_flaws (c : Nat) (k : Core) : (s.setCore c k).flaws = s.flaws := rfl
@[simp] theorem setCore_pager (c : Nat) (k : Core) : (s.setCore c k).pager = s.pager := rfl
@[simp] theorem setCore_nextFrame (c : Nat) (k : Core) : (s.setCore c k).nextFrame = s.nextFrame := rfl
@[simp] theorem setCore_nextArea (c : Nat) (k : Core) : (s.setCore c k).nextArea = s.nextArea := rfl
@[simp] theorem setCore_farPtes (c : Nat) (k : Core) : (s.setCore c k).farPtes = s.farPtes := rfl
@[simp] theorem setCore_clusters (c : Nat) (k : Core) : (s.setCore c k).clusters = s.clusters := rfl
@[simp] theorem setCore_dies (c : Nat) (k : Core) : (s.setCore c k).dies = s.dies := rfl
@[simp] theorem setCore_migrations (c : Nat) (k : Core) : (s.setCore c k).migrations = s.migrations := rfl
@[simp] theorem setCore_fen (c : Nat) (k : Core) : (s.setCore c k).fen = s.fen := rfl
@[simp] theorem setCore_saved (c : Nat) (k : Core) : (s.setCore c k).saved = s.saved := rfl
@[simp] theorem setCore_serviceDown (c : Nat) (k : Core) : (s.setCore c k).serviceDown = s.serviceDown := rfl
@[simp] theorem setCore_kilnDown (c : Nat) (k : Core) : (s.setCore c k).kilnDown = s.kilnDown := rfl
@[simp] theorem setCore_stackDown (c : Nat) (k : Core) : (s.setCore c k).stackDown = s.stackDown := rfl
@[simp] theorem setCore_tenants (c : Nat) (k : Core) : (s.setCore c k).tenants = s.tenants := rfl
@[simp] theorem setCore_ctxs (c : Nat) (k : Core) : (s.setCore c k).ctxs = s.ctxs := rfl
@[simp] theorem setCore_images (c : Nat) (k : Core) : (s.setCore c k).images = s.images := rfl
@[simp] theorem setCore_graphs (c : Nat) (k : Core) : (s.setCore c k).graphs = s.graphs := rfl
@[simp] theorem setCore_jobs (c : Nat) (k : Core) : (s.setCore c k).jobs = s.jobs := rfl
@[simp] theorem setCore_launches (c : Nat) (k : Core) : (s.setCore c k).launches = s.launches := rfl
@[simp] theorem setCore_journal (c : Nat) (k : Core) : (s.setCore c k).journal = s.journal := rfl
@[simp] theorem setCore_journalOk (c : Nat) (k : Core) : (s.setCore c k).journalOk = s.journalOk := rfl
@[simp] theorem setCore_journalAt (c : Nat) (k : Core) : (s.setCore c k).journalAt = s.journalAt := rfl
@[simp] theorem setCore_fns (c : Nat) (k : Core) : (s.setCore c k).fns = s.fns := rfl
@[simp] theorem setCore_pfReports (c : Nat) (k : Core) : (s.setCore c k).pfReports = s.pfReports := rfl
@[simp] theorem setCore_pfRecs (c : Nat) (k : Core) : (s.setCore c k).pfRecs = s.pfRecs := rfl
@[simp] theorem setCore_witness (c : Nat) (k : Core) : (s.setCore c k).witness = s.witness := rfl
@[simp] theorem setCore_witnessRing (c : Nat) (k : Core) : (s.setCore c k).witnessRing = s.witnessRing := rfl
@[simp] theorem setCore_witnessNext (c : Nat) (k : Core) : (s.setCore c k).witnessNext = s.witnessNext := rfl
@[simp] theorem setCore_quantum (c : Nat) (k : Core) : (s.setCore c k).quantum = s.quantum := rfl
@[simp] theorem setCore_quantumEnd (c : Nat) (k : Core) : (s.setCore c k).quantumEnd = s.quantumEnd := rfl
@[simp] theorem setCore_requests (c : Nat) (k : Core) : (s.setCore c k).requests = s.requests := rfl
@[simp] theorem setCore_heldReplies (c : Nat) (k : Core) : (s.setCore c k).heldReplies = s.heldReplies := rfl
@[simp] theorem setCore_awaits (c : Nat) (k : Core) : (s.setCore c k).awaits = s.awaits := rfl
@[simp] theorem setCore_owedAcks (c : Nat) (k : Core) : (s.setCore c k).owedAcks = s.owedAcks := rfl
@[simp] theorem setCore_tasks (c : Nat) (k : Core) : (s.setCore c k).tasks = s.tasks := rfl
@[simp] theorem setCore_kiln (c : Nat) (k : Core) : (s.setCore c k).kiln = s.kiln := rfl
@[simp] theorem setCore_kilnAsks (c : Nat) (k : Core) : (s.setCore c k).kilnAsks = s.kilnAsks := rfl
@[simp] theorem setCore_kilnWaiting (c : Nat) (k : Core) : (s.setCore c k).kilnWaiting = s.kilnWaiting := rfl
@[simp] theorem setCore_glazeth (c : Nat) (k : Core) : (s.setCore c k).glazeth = s.glazeth := rfl
@[simp] theorem setCore_aliasth (c : Nat) (k : Core) : (s.setCore c k).aliasth = s.aliasth := rfl
@[simp] theorem setCore_newestCounts (c : Nat) (k : Core) : (s.setCore c k).newestCounts = s.newestCounts := rfl
@[simp] theorem setCore_bootStage (c : Nat) (k : Core) : (s.setCore c k).bootStage = s.bootStage := rfl
@[simp] theorem setCore_bootFailed (c : Nat) (k : Core) : (s.setCore c k).bootFailed = s.bootFailed := rfl
@[simp] theorem setCore_minSvn (c : Nat) (k : Core) : (s.setCore c k).minSvn = s.minSvn := rfl
@[simp] theorem setCore_measures (c : Nat) (k : Core) : (s.setCore c k).measures = s.measures := rfl
@[simp] theorem setCore_measureLog (c : Nat) (k : Core) : (s.setCore c k).measureLog = s.measureLog := rfl
@[simp] theorem setCore_spdm (c : Nat) (k : Core) : (s.setCore c k).spdm = s.spdm := rfl
@[simp] theorem setCore_keys (c : Nat) (k : Core) : (s.setCore c k).keys = s.keys := rfl
@[simp] theorem setCore_links (c : Nat) (k : Core) : (s.setCore c k).links = s.links := rfl
@[simp] theorem setCore_detours (c : Nat) (k : Core) : (s.setCore c k).detours = s.detours := rfl
@[simp] theorem setCore_streams (c : Nat) (k : Core) : (s.setCore c k).streams = s.streams := rfl
@[simp] theorem setCore_remotes (c : Nat) (k : Core) : (s.setCore c k).remotes = s.remotes := rfl
@[simp] theorem setCore_nextTag (c : Nat) (k : Core) : (s.setCore c k).nextTag = s.nextTag := rfl
@[simp] theorem setCore_highsOwed (c : Nat) (k : Core) : (s.setCore c k).highsOwed = s.highsOwed := rfl
@[simp] theorem setCore_nextTicket (c : Nat) (k : Core) : (s.setCore c k).nextTicket = s.nextTicket := rfl
@[simp] theorem setCore_doneTicket (c : Nat) (k : Core) : (s.setCore c k).doneTicket = s.doneTicket := rfl
@[simp] theorem setCore_ticketWaits (c : Nat) (k : Core) : (s.setCore c k).ticketWaits = s.ticketWaits := rfl

@[simp] theorem modCore_cur (c : Nat) (f : Core → Core) : (s.modCore c f).cur = s.cur := rfl
@[simp] theorem modCore_agenda (c : Nat) (f : Core → Core) : (s.modCore c f).agenda = s.agenda := rfl
@[simp] theorem modCore_sched (c : Nat) (f : Core → Core) : (s.modCore c f).sched = s.sched := rfl
@[simp] theorem modCore_free (c : Nat) (f : Core → Core) : (s.modCore c f).free = s.free := rfl
@[simp] theorem modCore_uids (c : Nat) (f : Core → Core) : (s.modCore c f).uids = s.uids := rfl
@[simp] theorem modCore_ck (c : Nat) (f : Core → Core) : (s.modCore c f).ck = s.ck := rfl
@[simp] theorem modCore_ticks (c : Nat) (f : Core → Core) : (s.modCore c f).ticks = s.ticks := rfl
@[simp] theorem modCore_powered (c : Nat) (f : Core → Core) : (s.modCore c f).powered = s.powered := rfl
@[simp] theorem modCore_tripped (c : Nat) (f : Core → Core) : (s.modCore c f).tripped = s.tripped := rfl
@[simp] theorem modCore_powerCap (c : Nat) (f : Core → Core) : (s.modCore c f).powerCap = s.powerCap := rfl
@[simp] theorem modCore_self (c : Nat) (f : Core → Core) : (s.modCore c f).self = s.self := rfl
@[simp] theorem modCore_npkg (c : Nat) (f : Core → Core) : (s.modCore c f).npkg = s.npkg := rfl
@[simp] theorem modCore_live (c : Nat) (f : Core → Core) : (s.modCore c f).live = s.live := rfl
@[simp] theorem modCore_suspects (c : Nat) (f : Core → Core) : (s.modCore c f).suspects = s.suspects := rfl
@[simp] theorem modCore_lastHeard (c : Nat) (f : Core → Core) : (s.modCore c f).lastHeard = s.lastHeard := rfl
@[simp] theorem modCore_mem (c : Nat) (f : Core → Core) : (s.modCore c f).mem = s.mem := rfl
@[simp] theorem modCore_hostMem (c : Nat) (f : Core → Core) : (s.modCore c f).hostMem = s.hostMem := rfl
@[simp] theorem modCore_failedPages (c : Nat) (f : Core → Core) : (s.modCore c f).failedPages = s.failedPages := rfl
@[simp] theorem modCore_flaws (c : Nat) (f : Core → Core) : (s.modCore c f).flaws = s.flaws := rfl
@[simp] theorem modCore_pager (c : Nat) (f : Core → Core) : (s.modCore c f).pager = s.pager := rfl
@[simp] theorem modCore_nextFrame (c : Nat) (f : Core → Core) : (s.modCore c f).nextFrame = s.nextFrame := rfl
@[simp] theorem modCore_nextArea (c : Nat) (f : Core → Core) : (s.modCore c f).nextArea = s.nextArea := rfl
@[simp] theorem modCore_farPtes (c : Nat) (f : Core → Core) : (s.modCore c f).farPtes = s.farPtes := rfl
@[simp] theorem modCore_clusters (c : Nat) (f : Core → Core) : (s.modCore c f).clusters = s.clusters := rfl
@[simp] theorem modCore_dies (c : Nat) (f : Core → Core) : (s.modCore c f).dies = s.dies := rfl
@[simp] theorem modCore_migrations (c : Nat) (f : Core → Core) : (s.modCore c f).migrations = s.migrations := rfl
@[simp] theorem modCore_fen (c : Nat) (f : Core → Core) : (s.modCore c f).fen = s.fen := rfl
@[simp] theorem modCore_saved (c : Nat) (f : Core → Core) : (s.modCore c f).saved = s.saved := rfl
@[simp] theorem modCore_serviceDown (c : Nat) (f : Core → Core) : (s.modCore c f).serviceDown = s.serviceDown := rfl
@[simp] theorem modCore_kilnDown (c : Nat) (f : Core → Core) : (s.modCore c f).kilnDown = s.kilnDown := rfl
@[simp] theorem modCore_stackDown (c : Nat) (f : Core → Core) : (s.modCore c f).stackDown = s.stackDown := rfl
@[simp] theorem modCore_tenants (c : Nat) (f : Core → Core) : (s.modCore c f).tenants = s.tenants := rfl
@[simp] theorem modCore_ctxs (c : Nat) (f : Core → Core) : (s.modCore c f).ctxs = s.ctxs := rfl
@[simp] theorem modCore_images (c : Nat) (f : Core → Core) : (s.modCore c f).images = s.images := rfl
@[simp] theorem modCore_graphs (c : Nat) (f : Core → Core) : (s.modCore c f).graphs = s.graphs := rfl
@[simp] theorem modCore_jobs (c : Nat) (f : Core → Core) : (s.modCore c f).jobs = s.jobs := rfl
@[simp] theorem modCore_launches (c : Nat) (f : Core → Core) : (s.modCore c f).launches = s.launches := rfl
@[simp] theorem modCore_journal (c : Nat) (f : Core → Core) : (s.modCore c f).journal = s.journal := rfl
@[simp] theorem modCore_journalOk (c : Nat) (f : Core → Core) : (s.modCore c f).journalOk = s.journalOk := rfl
@[simp] theorem modCore_journalAt (c : Nat) (f : Core → Core) : (s.modCore c f).journalAt = s.journalAt := rfl
@[simp] theorem modCore_fns (c : Nat) (f : Core → Core) : (s.modCore c f).fns = s.fns := rfl
@[simp] theorem modCore_pfReports (c : Nat) (f : Core → Core) : (s.modCore c f).pfReports = s.pfReports := rfl
@[simp] theorem modCore_pfRecs (c : Nat) (f : Core → Core) : (s.modCore c f).pfRecs = s.pfRecs := rfl
@[simp] theorem modCore_witness (c : Nat) (f : Core → Core) : (s.modCore c f).witness = s.witness := rfl
@[simp] theorem modCore_witnessRing (c : Nat) (f : Core → Core) : (s.modCore c f).witnessRing = s.witnessRing := rfl
@[simp] theorem modCore_witnessNext (c : Nat) (f : Core → Core) : (s.modCore c f).witnessNext = s.witnessNext := rfl
@[simp] theorem modCore_quantum (c : Nat) (f : Core → Core) : (s.modCore c f).quantum = s.quantum := rfl
@[simp] theorem modCore_quantumEnd (c : Nat) (f : Core → Core) : (s.modCore c f).quantumEnd = s.quantumEnd := rfl
@[simp] theorem modCore_requests (c : Nat) (f : Core → Core) : (s.modCore c f).requests = s.requests := rfl
@[simp] theorem modCore_heldReplies (c : Nat) (f : Core → Core) : (s.modCore c f).heldReplies = s.heldReplies := rfl
@[simp] theorem modCore_awaits (c : Nat) (f : Core → Core) : (s.modCore c f).awaits = s.awaits := rfl
@[simp] theorem modCore_owedAcks (c : Nat) (f : Core → Core) : (s.modCore c f).owedAcks = s.owedAcks := rfl
@[simp] theorem modCore_tasks (c : Nat) (f : Core → Core) : (s.modCore c f).tasks = s.tasks := rfl
@[simp] theorem modCore_kiln (c : Nat) (f : Core → Core) : (s.modCore c f).kiln = s.kiln := rfl
@[simp] theorem modCore_kilnAsks (c : Nat) (f : Core → Core) : (s.modCore c f).kilnAsks = s.kilnAsks := rfl
@[simp] theorem modCore_kilnWaiting (c : Nat) (f : Core → Core) : (s.modCore c f).kilnWaiting = s.kilnWaiting := rfl
@[simp] theorem modCore_glazeth (c : Nat) (f : Core → Core) : (s.modCore c f).glazeth = s.glazeth := rfl
@[simp] theorem modCore_aliasth (c : Nat) (f : Core → Core) : (s.modCore c f).aliasth = s.aliasth := rfl
@[simp] theorem modCore_newestCounts (c : Nat) (f : Core → Core) : (s.modCore c f).newestCounts = s.newestCounts := rfl
@[simp] theorem modCore_bootStage (c : Nat) (f : Core → Core) : (s.modCore c f).bootStage = s.bootStage := rfl
@[simp] theorem modCore_bootFailed (c : Nat) (f : Core → Core) : (s.modCore c f).bootFailed = s.bootFailed := rfl
@[simp] theorem modCore_minSvn (c : Nat) (f : Core → Core) : (s.modCore c f).minSvn = s.minSvn := rfl
@[simp] theorem modCore_measures (c : Nat) (f : Core → Core) : (s.modCore c f).measures = s.measures := rfl
@[simp] theorem modCore_measureLog (c : Nat) (f : Core → Core) : (s.modCore c f).measureLog = s.measureLog := rfl
@[simp] theorem modCore_spdm (c : Nat) (f : Core → Core) : (s.modCore c f).spdm = s.spdm := rfl
@[simp] theorem modCore_keys (c : Nat) (f : Core → Core) : (s.modCore c f).keys = s.keys := rfl
@[simp] theorem modCore_links (c : Nat) (f : Core → Core) : (s.modCore c f).links = s.links := rfl
@[simp] theorem modCore_detours (c : Nat) (f : Core → Core) : (s.modCore c f).detours = s.detours := rfl
@[simp] theorem modCore_streams (c : Nat) (f : Core → Core) : (s.modCore c f).streams = s.streams := rfl
@[simp] theorem modCore_remotes (c : Nat) (f : Core → Core) : (s.modCore c f).remotes = s.remotes := rfl
@[simp] theorem modCore_nextTag (c : Nat) (f : Core → Core) : (s.modCore c f).nextTag = s.nextTag := rfl
@[simp] theorem modCore_highsOwed (c : Nat) (f : Core → Core) : (s.modCore c f).highsOwed = s.highsOwed := rfl
@[simp] theorem modCore_nextTicket (c : Nat) (f : Core → Core) : (s.modCore c f).nextTicket = s.nextTicket := rfl
@[simp] theorem modCore_doneTicket (c : Nat) (f : Core → Core) : (s.modCore c f).doneTicket = s.doneTicket := rfl
@[simp] theorem modCore_ticketWaits (c : Nat) (f : Core → Core) : (s.modCore c f).ticketWaits = s.ticketWaits := rfl

@[simp] theorem mapCores_cur (f : Core → Core) : (s.mapCores f).cur = s.cur := rfl
@[simp] theorem mapCores_agenda (f : Core → Core) : (s.mapCores f).agenda = s.agenda := rfl
@[simp] theorem mapCores_sched (f : Core → Core) : (s.mapCores f).sched = s.sched := rfl
@[simp] theorem mapCores_free (f : Core → Core) : (s.mapCores f).free = s.free := rfl
@[simp] theorem mapCores_uids (f : Core → Core) : (s.mapCores f).uids = s.uids := rfl
@[simp] theorem mapCores_ck (f : Core → Core) : (s.mapCores f).ck = s.ck := rfl
@[simp] theorem mapCores_ticks (f : Core → Core) : (s.mapCores f).ticks = s.ticks := rfl
@[simp] theorem mapCores_powered (f : Core → Core) : (s.mapCores f).powered = s.powered := rfl
@[simp] theorem mapCores_tripped (f : Core → Core) : (s.mapCores f).tripped = s.tripped := rfl
@[simp] theorem mapCores_powerCap (f : Core → Core) : (s.mapCores f).powerCap = s.powerCap := rfl
@[simp] theorem mapCores_self (f : Core → Core) : (s.mapCores f).self = s.self := rfl
@[simp] theorem mapCores_npkg (f : Core → Core) : (s.mapCores f).npkg = s.npkg := rfl
@[simp] theorem mapCores_live (f : Core → Core) : (s.mapCores f).live = s.live := rfl
@[simp] theorem mapCores_suspects (f : Core → Core) : (s.mapCores f).suspects = s.suspects := rfl
@[simp] theorem mapCores_lastHeard (f : Core → Core) : (s.mapCores f).lastHeard = s.lastHeard := rfl
@[simp] theorem mapCores_mem (f : Core → Core) : (s.mapCores f).mem = s.mem := rfl
@[simp] theorem mapCores_hostMem (f : Core → Core) : (s.mapCores f).hostMem = s.hostMem := rfl
@[simp] theorem mapCores_failedPages (f : Core → Core) : (s.mapCores f).failedPages = s.failedPages := rfl
@[simp] theorem mapCores_flaws (f : Core → Core) : (s.mapCores f).flaws = s.flaws := rfl
@[simp] theorem mapCores_pager (f : Core → Core) : (s.mapCores f).pager = s.pager := rfl
@[simp] theorem mapCores_nextFrame (f : Core → Core) : (s.mapCores f).nextFrame = s.nextFrame := rfl
@[simp] theorem mapCores_nextArea (f : Core → Core) : (s.mapCores f).nextArea = s.nextArea := rfl
@[simp] theorem mapCores_farPtes (f : Core → Core) : (s.mapCores f).farPtes = s.farPtes := rfl
@[simp] theorem mapCores_clusters (f : Core → Core) : (s.mapCores f).clusters = s.clusters := rfl
@[simp] theorem mapCores_dies (f : Core → Core) : (s.mapCores f).dies = s.dies := rfl
@[simp] theorem mapCores_migrations (f : Core → Core) : (s.mapCores f).migrations = s.migrations := rfl
@[simp] theorem mapCores_fen (f : Core → Core) : (s.mapCores f).fen = s.fen := rfl
@[simp] theorem mapCores_saved (f : Core → Core) : (s.mapCores f).saved = s.saved := rfl
@[simp] theorem mapCores_serviceDown (f : Core → Core) : (s.mapCores f).serviceDown = s.serviceDown := rfl
@[simp] theorem mapCores_kilnDown (f : Core → Core) : (s.mapCores f).kilnDown = s.kilnDown := rfl
@[simp] theorem mapCores_stackDown (f : Core → Core) : (s.mapCores f).stackDown = s.stackDown := rfl
@[simp] theorem mapCores_tenants (f : Core → Core) : (s.mapCores f).tenants = s.tenants := rfl
@[simp] theorem mapCores_ctxs (f : Core → Core) : (s.mapCores f).ctxs = s.ctxs := rfl
@[simp] theorem mapCores_images (f : Core → Core) : (s.mapCores f).images = s.images := rfl
@[simp] theorem mapCores_graphs (f : Core → Core) : (s.mapCores f).graphs = s.graphs := rfl
@[simp] theorem mapCores_jobs (f : Core → Core) : (s.mapCores f).jobs = s.jobs := rfl
@[simp] theorem mapCores_launches (f : Core → Core) : (s.mapCores f).launches = s.launches := rfl
@[simp] theorem mapCores_journal (f : Core → Core) : (s.mapCores f).journal = s.journal := rfl
@[simp] theorem mapCores_journalOk (f : Core → Core) : (s.mapCores f).journalOk = s.journalOk := rfl
@[simp] theorem mapCores_journalAt (f : Core → Core) : (s.mapCores f).journalAt = s.journalAt := rfl
@[simp] theorem mapCores_fns (f : Core → Core) : (s.mapCores f).fns = s.fns := rfl
@[simp] theorem mapCores_pfReports (f : Core → Core) : (s.mapCores f).pfReports = s.pfReports := rfl
@[simp] theorem mapCores_pfRecs (f : Core → Core) : (s.mapCores f).pfRecs = s.pfRecs := rfl
@[simp] theorem mapCores_witness (f : Core → Core) : (s.mapCores f).witness = s.witness := rfl
@[simp] theorem mapCores_witnessRing (f : Core → Core) : (s.mapCores f).witnessRing = s.witnessRing := rfl
@[simp] theorem mapCores_witnessNext (f : Core → Core) : (s.mapCores f).witnessNext = s.witnessNext := rfl
@[simp] theorem mapCores_quantum (f : Core → Core) : (s.mapCores f).quantum = s.quantum := rfl
@[simp] theorem mapCores_quantumEnd (f : Core → Core) : (s.mapCores f).quantumEnd = s.quantumEnd := rfl
@[simp] theorem mapCores_requests (f : Core → Core) : (s.mapCores f).requests = s.requests := rfl
@[simp] theorem mapCores_heldReplies (f : Core → Core) : (s.mapCores f).heldReplies = s.heldReplies := rfl
@[simp] theorem mapCores_awaits (f : Core → Core) : (s.mapCores f).awaits = s.awaits := rfl
@[simp] theorem mapCores_owedAcks (f : Core → Core) : (s.mapCores f).owedAcks = s.owedAcks := rfl
@[simp] theorem mapCores_tasks (f : Core → Core) : (s.mapCores f).tasks = s.tasks := rfl
@[simp] theorem mapCores_kiln (f : Core → Core) : (s.mapCores f).kiln = s.kiln := rfl
@[simp] theorem mapCores_kilnAsks (f : Core → Core) : (s.mapCores f).kilnAsks = s.kilnAsks := rfl
@[simp] theorem mapCores_kilnWaiting (f : Core → Core) : (s.mapCores f).kilnWaiting = s.kilnWaiting := rfl
@[simp] theorem mapCores_glazeth (f : Core → Core) : (s.mapCores f).glazeth = s.glazeth := rfl
@[simp] theorem mapCores_aliasth (f : Core → Core) : (s.mapCores f).aliasth = s.aliasth := rfl
@[simp] theorem mapCores_newestCounts (f : Core → Core) : (s.mapCores f).newestCounts = s.newestCounts := rfl
@[simp] theorem mapCores_bootStage (f : Core → Core) : (s.mapCores f).bootStage = s.bootStage := rfl
@[simp] theorem mapCores_bootFailed (f : Core → Core) : (s.mapCores f).bootFailed = s.bootFailed := rfl
@[simp] theorem mapCores_minSvn (f : Core → Core) : (s.mapCores f).minSvn = s.minSvn := rfl
@[simp] theorem mapCores_measures (f : Core → Core) : (s.mapCores f).measures = s.measures := rfl
@[simp] theorem mapCores_measureLog (f : Core → Core) : (s.mapCores f).measureLog = s.measureLog := rfl
@[simp] theorem mapCores_spdm (f : Core → Core) : (s.mapCores f).spdm = s.spdm := rfl
@[simp] theorem mapCores_keys (f : Core → Core) : (s.mapCores f).keys = s.keys := rfl
@[simp] theorem mapCores_links (f : Core → Core) : (s.mapCores f).links = s.links := rfl
@[simp] theorem mapCores_detours (f : Core → Core) : (s.mapCores f).detours = s.detours := rfl
@[simp] theorem mapCores_streams (f : Core → Core) : (s.mapCores f).streams = s.streams := rfl
@[simp] theorem mapCores_remotes (f : Core → Core) : (s.mapCores f).remotes = s.remotes := rfl
@[simp] theorem mapCores_nextTag (f : Core → Core) : (s.mapCores f).nextTag = s.nextTag := rfl
@[simp] theorem mapCores_highsOwed (f : Core → Core) : (s.mapCores f).highsOwed = s.highsOwed := rfl
@[simp] theorem mapCores_nextTicket (f : Core → Core) : (s.mapCores f).nextTicket = s.nextTicket := rfl
@[simp] theorem mapCores_doneTicket (f : Core → Core) : (s.mapCores f).doneTicket = s.doneTicket := rfl
@[simp] theorem mapCores_ticketWaits (f : Core → Core) : (s.mapCores f).ticketWaits = s.ticketWaits := rfl

@[simp] theorem delGang_cur (c g : Nat) : (s.delGang c g).cur = s.cur := rfl
@[simp] theorem delGang_agenda (c g : Nat) : (s.delGang c g).agenda = s.agenda := rfl
@[simp] theorem delGang_sched (c g : Nat) : (s.delGang c g).sched = s.sched := rfl
@[simp] theorem delGang_free (c g : Nat) : (s.delGang c g).free = s.free := rfl
@[simp] theorem delGang_uids (c g : Nat) : (s.delGang c g).uids = s.uids := rfl
@[simp] theorem delGang_ck (c g : Nat) : (s.delGang c g).ck = s.ck := rfl
@[simp] theorem delGang_ticks (c g : Nat) : (s.delGang c g).ticks = s.ticks := rfl
@[simp] theorem delGang_powered (c g : Nat) : (s.delGang c g).powered = s.powered := rfl
@[simp] theorem delGang_tripped (c g : Nat) : (s.delGang c g).tripped = s.tripped := rfl
@[simp] theorem delGang_powerCap (c g : Nat) : (s.delGang c g).powerCap = s.powerCap := rfl
@[simp] theorem delGang_self (c g : Nat) : (s.delGang c g).self = s.self := rfl
@[simp] theorem delGang_npkg (c g : Nat) : (s.delGang c g).npkg = s.npkg := rfl
@[simp] theorem delGang_live (c g : Nat) : (s.delGang c g).live = s.live := rfl
@[simp] theorem delGang_suspects (c g : Nat) : (s.delGang c g).suspects = s.suspects := rfl
@[simp] theorem delGang_lastHeard (c g : Nat) : (s.delGang c g).lastHeard = s.lastHeard := rfl
@[simp] theorem delGang_mem (c g : Nat) : (s.delGang c g).mem = s.mem := rfl
@[simp] theorem delGang_hostMem (c g : Nat) : (s.delGang c g).hostMem = s.hostMem := rfl
@[simp] theorem delGang_failedPages (c g : Nat) : (s.delGang c g).failedPages = s.failedPages := rfl
@[simp] theorem delGang_flaws (c g : Nat) : (s.delGang c g).flaws = s.flaws := rfl
@[simp] theorem delGang_pager (c g : Nat) : (s.delGang c g).pager = s.pager := rfl
@[simp] theorem delGang_nextFrame (c g : Nat) : (s.delGang c g).nextFrame = s.nextFrame := rfl
@[simp] theorem delGang_nextArea (c g : Nat) : (s.delGang c g).nextArea = s.nextArea := rfl
@[simp] theorem delGang_farPtes (c g : Nat) : (s.delGang c g).farPtes = s.farPtes := rfl
@[simp] theorem delGang_clusters (c g : Nat) : (s.delGang c g).clusters = s.clusters := rfl
@[simp] theorem delGang_dies (c g : Nat) : (s.delGang c g).dies = s.dies := rfl
@[simp] theorem delGang_migrations (c g : Nat) : (s.delGang c g).migrations = s.migrations := rfl
@[simp] theorem delGang_fen (c g : Nat) : (s.delGang c g).fen = s.fen := rfl
@[simp] theorem delGang_saved (c g : Nat) : (s.delGang c g).saved = s.saved := rfl
@[simp] theorem delGang_serviceDown (c g : Nat) : (s.delGang c g).serviceDown = s.serviceDown := rfl
@[simp] theorem delGang_kilnDown (c g : Nat) : (s.delGang c g).kilnDown = s.kilnDown := rfl
@[simp] theorem delGang_stackDown (c g : Nat) : (s.delGang c g).stackDown = s.stackDown := rfl
@[simp] theorem delGang_tenants (c g : Nat) : (s.delGang c g).tenants = s.tenants := rfl
@[simp] theorem delGang_ctxs (c g : Nat) : (s.delGang c g).ctxs = s.ctxs := rfl
@[simp] theorem delGang_images (c g : Nat) : (s.delGang c g).images = s.images := rfl
@[simp] theorem delGang_graphs (c g : Nat) : (s.delGang c g).graphs = s.graphs := rfl
@[simp] theorem delGang_jobs (c g : Nat) : (s.delGang c g).jobs = s.jobs := rfl
@[simp] theorem delGang_launches (c g : Nat) : (s.delGang c g).launches = s.launches := rfl
@[simp] theorem delGang_journal (c g : Nat) : (s.delGang c g).journal = s.journal := rfl
@[simp] theorem delGang_journalOk (c g : Nat) : (s.delGang c g).journalOk = s.journalOk := rfl
@[simp] theorem delGang_journalAt (c g : Nat) : (s.delGang c g).journalAt = s.journalAt := rfl
@[simp] theorem delGang_fns (c g : Nat) : (s.delGang c g).fns = s.fns := rfl
@[simp] theorem delGang_pfReports (c g : Nat) : (s.delGang c g).pfReports = s.pfReports := rfl
@[simp] theorem delGang_pfRecs (c g : Nat) : (s.delGang c g).pfRecs = s.pfRecs := rfl
@[simp] theorem delGang_witness (c g : Nat) : (s.delGang c g).witness = s.witness := rfl
@[simp] theorem delGang_witnessRing (c g : Nat) : (s.delGang c g).witnessRing = s.witnessRing := rfl
@[simp] theorem delGang_witnessNext (c g : Nat) : (s.delGang c g).witnessNext = s.witnessNext := rfl
@[simp] theorem delGang_quantum (c g : Nat) : (s.delGang c g).quantum = s.quantum := rfl
@[simp] theorem delGang_quantumEnd (c g : Nat) : (s.delGang c g).quantumEnd = s.quantumEnd := rfl
@[simp] theorem delGang_requests (c g : Nat) : (s.delGang c g).requests = s.requests := rfl
@[simp] theorem delGang_heldReplies (c g : Nat) : (s.delGang c g).heldReplies = s.heldReplies := rfl
@[simp] theorem delGang_awaits (c g : Nat) : (s.delGang c g).awaits = s.awaits := rfl
@[simp] theorem delGang_owedAcks (c g : Nat) : (s.delGang c g).owedAcks = s.owedAcks := rfl
@[simp] theorem delGang_tasks (c g : Nat) : (s.delGang c g).tasks = s.tasks := rfl
@[simp] theorem delGang_kiln (c g : Nat) : (s.delGang c g).kiln = s.kiln := rfl
@[simp] theorem delGang_kilnAsks (c g : Nat) : (s.delGang c g).kilnAsks = s.kilnAsks := rfl
@[simp] theorem delGang_kilnWaiting (c g : Nat) : (s.delGang c g).kilnWaiting = s.kilnWaiting := rfl
@[simp] theorem delGang_glazeth (c g : Nat) : (s.delGang c g).glazeth = s.glazeth := rfl
@[simp] theorem delGang_aliasth (c g : Nat) : (s.delGang c g).aliasth = s.aliasth := rfl
@[simp] theorem delGang_newestCounts (c g : Nat) : (s.delGang c g).newestCounts = s.newestCounts := rfl
@[simp] theorem delGang_bootStage (c g : Nat) : (s.delGang c g).bootStage = s.bootStage := rfl
@[simp] theorem delGang_bootFailed (c g : Nat) : (s.delGang c g).bootFailed = s.bootFailed := rfl
@[simp] theorem delGang_minSvn (c g : Nat) : (s.delGang c g).minSvn = s.minSvn := rfl
@[simp] theorem delGang_measures (c g : Nat) : (s.delGang c g).measures = s.measures := rfl
@[simp] theorem delGang_measureLog (c g : Nat) : (s.delGang c g).measureLog = s.measureLog := rfl
@[simp] theorem delGang_spdm (c g : Nat) : (s.delGang c g).spdm = s.spdm := rfl
@[simp] theorem delGang_keys (c g : Nat) : (s.delGang c g).keys = s.keys := rfl
@[simp] theorem delGang_links (c g : Nat) : (s.delGang c g).links = s.links := rfl
@[simp] theorem delGang_detours (c g : Nat) : (s.delGang c g).detours = s.detours := rfl
@[simp] theorem delGang_streams (c g : Nat) : (s.delGang c g).streams = s.streams := rfl
@[simp] theorem delGang_remotes (c g : Nat) : (s.delGang c g).remotes = s.remotes := rfl
@[simp] theorem delGang_nextTag (c g : Nat) : (s.delGang c g).nextTag = s.nextTag := rfl
@[simp] theorem delGang_highsOwed (c g : Nat) : (s.delGang c g).highsOwed = s.highsOwed := rfl
@[simp] theorem delGang_nextTicket (c g : Nat) : (s.delGang c g).nextTicket = s.nextTicket := rfl
@[simp] theorem delGang_doneTicket (c g : Nat) : (s.delGang c g).doneTicket = s.doneTicket := rfl
@[simp] theorem delGang_ticketWaits (c g : Nat) : (s.delGang c g).ticketWaits = s.ticketWaits := rfl

@[simp] theorem modDie_cur (d : Nat) (f : Die → Die) : (s.modDie d f).cur = s.cur := rfl
@[simp] theorem modDie_agenda (d : Nat) (f : Die → Die) : (s.modDie d f).agenda = s.agenda := rfl
@[simp] theorem modDie_sched (d : Nat) (f : Die → Die) : (s.modDie d f).sched = s.sched := rfl
@[simp] theorem modDie_free (d : Nat) (f : Die → Die) : (s.modDie d f).free = s.free := rfl
@[simp] theorem modDie_uids (d : Nat) (f : Die → Die) : (s.modDie d f).uids = s.uids := rfl
@[simp] theorem modDie_ck (d : Nat) (f : Die → Die) : (s.modDie d f).ck = s.ck := rfl
@[simp] theorem modDie_ticks (d : Nat) (f : Die → Die) : (s.modDie d f).ticks = s.ticks := rfl
@[simp] theorem modDie_powered (d : Nat) (f : Die → Die) : (s.modDie d f).powered = s.powered := rfl
@[simp] theorem modDie_tripped (d : Nat) (f : Die → Die) : (s.modDie d f).tripped = s.tripped := rfl
@[simp] theorem modDie_powerCap (d : Nat) (f : Die → Die) : (s.modDie d f).powerCap = s.powerCap := rfl
@[simp] theorem modDie_self (d : Nat) (f : Die → Die) : (s.modDie d f).self = s.self := rfl
@[simp] theorem modDie_npkg (d : Nat) (f : Die → Die) : (s.modDie d f).npkg = s.npkg := rfl
@[simp] theorem modDie_live (d : Nat) (f : Die → Die) : (s.modDie d f).live = s.live := rfl
@[simp] theorem modDie_suspects (d : Nat) (f : Die → Die) : (s.modDie d f).suspects = s.suspects := rfl
@[simp] theorem modDie_lastHeard (d : Nat) (f : Die → Die) : (s.modDie d f).lastHeard = s.lastHeard := rfl
@[simp] theorem modDie_mem (d : Nat) (f : Die → Die) : (s.modDie d f).mem = s.mem := rfl
@[simp] theorem modDie_hostMem (d : Nat) (f : Die → Die) : (s.modDie d f).hostMem = s.hostMem := rfl
@[simp] theorem modDie_failedPages (d : Nat) (f : Die → Die) : (s.modDie d f).failedPages = s.failedPages := rfl
@[simp] theorem modDie_flaws (d : Nat) (f : Die → Die) : (s.modDie d f).flaws = s.flaws := rfl
@[simp] theorem modDie_pager (d : Nat) (f : Die → Die) : (s.modDie d f).pager = s.pager := rfl
@[simp] theorem modDie_nextFrame (d : Nat) (f : Die → Die) : (s.modDie d f).nextFrame = s.nextFrame := rfl
@[simp] theorem modDie_nextArea (d : Nat) (f : Die → Die) : (s.modDie d f).nextArea = s.nextArea := rfl
@[simp] theorem modDie_farPtes (d : Nat) (f : Die → Die) : (s.modDie d f).farPtes = s.farPtes := rfl
@[simp] theorem modDie_cores (d : Nat) (f : Die → Die) : (s.modDie d f).cores = s.cores := rfl
@[simp] theorem modDie_clusters (d : Nat) (f : Die → Die) : (s.modDie d f).clusters = s.clusters := rfl
@[simp] theorem modDie_migrations (d : Nat) (f : Die → Die) : (s.modDie d f).migrations = s.migrations := rfl
@[simp] theorem modDie_fen (d : Nat) (f : Die → Die) : (s.modDie d f).fen = s.fen := rfl
@[simp] theorem modDie_saved (d : Nat) (f : Die → Die) : (s.modDie d f).saved = s.saved := rfl
@[simp] theorem modDie_serviceDown (d : Nat) (f : Die → Die) : (s.modDie d f).serviceDown = s.serviceDown := rfl
@[simp] theorem modDie_kilnDown (d : Nat) (f : Die → Die) : (s.modDie d f).kilnDown = s.kilnDown := rfl
@[simp] theorem modDie_stackDown (d : Nat) (f : Die → Die) : (s.modDie d f).stackDown = s.stackDown := rfl
@[simp] theorem modDie_tenants (d : Nat) (f : Die → Die) : (s.modDie d f).tenants = s.tenants := rfl
@[simp] theorem modDie_ctxs (d : Nat) (f : Die → Die) : (s.modDie d f).ctxs = s.ctxs := rfl
@[simp] theorem modDie_images (d : Nat) (f : Die → Die) : (s.modDie d f).images = s.images := rfl
@[simp] theorem modDie_graphs (d : Nat) (f : Die → Die) : (s.modDie d f).graphs = s.graphs := rfl
@[simp] theorem modDie_jobs (d : Nat) (f : Die → Die) : (s.modDie d f).jobs = s.jobs := rfl
@[simp] theorem modDie_launches (d : Nat) (f : Die → Die) : (s.modDie d f).launches = s.launches := rfl
@[simp] theorem modDie_journal (d : Nat) (f : Die → Die) : (s.modDie d f).journal = s.journal := rfl
@[simp] theorem modDie_journalOk (d : Nat) (f : Die → Die) : (s.modDie d f).journalOk = s.journalOk := rfl
@[simp] theorem modDie_journalAt (d : Nat) (f : Die → Die) : (s.modDie d f).journalAt = s.journalAt := rfl
@[simp] theorem modDie_fns (d : Nat) (f : Die → Die) : (s.modDie d f).fns = s.fns := rfl
@[simp] theorem modDie_pfReports (d : Nat) (f : Die → Die) : (s.modDie d f).pfReports = s.pfReports := rfl
@[simp] theorem modDie_pfRecs (d : Nat) (f : Die → Die) : (s.modDie d f).pfRecs = s.pfRecs := rfl
@[simp] theorem modDie_witness (d : Nat) (f : Die → Die) : (s.modDie d f).witness = s.witness := rfl
@[simp] theorem modDie_witnessRing (d : Nat) (f : Die → Die) : (s.modDie d f).witnessRing = s.witnessRing := rfl
@[simp] theorem modDie_witnessNext (d : Nat) (f : Die → Die) : (s.modDie d f).witnessNext = s.witnessNext := rfl
@[simp] theorem modDie_quantum (d : Nat) (f : Die → Die) : (s.modDie d f).quantum = s.quantum := rfl
@[simp] theorem modDie_quantumEnd (d : Nat) (f : Die → Die) : (s.modDie d f).quantumEnd = s.quantumEnd := rfl
@[simp] theorem modDie_requests (d : Nat) (f : Die → Die) : (s.modDie d f).requests = s.requests := rfl
@[simp] theorem modDie_heldReplies (d : Nat) (f : Die → Die) : (s.modDie d f).heldReplies = s.heldReplies := rfl
@[simp] theorem modDie_awaits (d : Nat) (f : Die → Die) : (s.modDie d f).awaits = s.awaits := rfl
@[simp] theorem modDie_owedAcks (d : Nat) (f : Die → Die) : (s.modDie d f).owedAcks = s.owedAcks := rfl
@[simp] theorem modDie_tasks (d : Nat) (f : Die → Die) : (s.modDie d f).tasks = s.tasks := rfl
@[simp] theorem modDie_kiln (d : Nat) (f : Die → Die) : (s.modDie d f).kiln = s.kiln := rfl
@[simp] theorem modDie_kilnAsks (d : Nat) (f : Die → Die) : (s.modDie d f).kilnAsks = s.kilnAsks := rfl
@[simp] theorem modDie_kilnWaiting (d : Nat) (f : Die → Die) : (s.modDie d f).kilnWaiting = s.kilnWaiting := rfl
@[simp] theorem modDie_glazeth (d : Nat) (f : Die → Die) : (s.modDie d f).glazeth = s.glazeth := rfl
@[simp] theorem modDie_aliasth (d : Nat) (f : Die → Die) : (s.modDie d f).aliasth = s.aliasth := rfl
@[simp] theorem modDie_newestCounts (d : Nat) (f : Die → Die) : (s.modDie d f).newestCounts = s.newestCounts := rfl
@[simp] theorem modDie_bootStage (d : Nat) (f : Die → Die) : (s.modDie d f).bootStage = s.bootStage := rfl
@[simp] theorem modDie_bootFailed (d : Nat) (f : Die → Die) : (s.modDie d f).bootFailed = s.bootFailed := rfl
@[simp] theorem modDie_minSvn (d : Nat) (f : Die → Die) : (s.modDie d f).minSvn = s.minSvn := rfl
@[simp] theorem modDie_measures (d : Nat) (f : Die → Die) : (s.modDie d f).measures = s.measures := rfl
@[simp] theorem modDie_measureLog (d : Nat) (f : Die → Die) : (s.modDie d f).measureLog = s.measureLog := rfl
@[simp] theorem modDie_spdm (d : Nat) (f : Die → Die) : (s.modDie d f).spdm = s.spdm := rfl
@[simp] theorem modDie_keys (d : Nat) (f : Die → Die) : (s.modDie d f).keys = s.keys := rfl
@[simp] theorem modDie_links (d : Nat) (f : Die → Die) : (s.modDie d f).links = s.links := rfl
@[simp] theorem modDie_detours (d : Nat) (f : Die → Die) : (s.modDie d f).detours = s.detours := rfl
@[simp] theorem modDie_streams (d : Nat) (f : Die → Die) : (s.modDie d f).streams = s.streams := rfl
@[simp] theorem modDie_remotes (d : Nat) (f : Die → Die) : (s.modDie d f).remotes = s.remotes := rfl
@[simp] theorem modDie_nextTag (d : Nat) (f : Die → Die) : (s.modDie d f).nextTag = s.nextTag := rfl
@[simp] theorem modDie_highsOwed (d : Nat) (f : Die → Die) : (s.modDie d f).highsOwed = s.highsOwed := rfl
@[simp] theorem modDie_nextTicket (d : Nat) (f : Die → Die) : (s.modDie d f).nextTicket = s.nextTicket := rfl
@[simp] theorem modDie_doneTicket (d : Nat) (f : Die → Die) : (s.modDie d f).doneTicket = s.doneTicket := rfl
@[simp] theorem modDie_ticketWaits (d : Nat) (f : Die → Die) : (s.modDie d f).ticketWaits = s.ticketWaits := rfl

@[simp] theorem mapDies_cur (f : Die → Die) : (s.mapDies f).cur = s.cur := rfl
@[simp] theorem mapDies_agenda (f : Die → Die) : (s.mapDies f).agenda = s.agenda := rfl
@[simp] theorem mapDies_sched (f : Die → Die) : (s.mapDies f).sched = s.sched := rfl
@[simp] theorem mapDies_free (f : Die → Die) : (s.mapDies f).free = s.free := rfl
@[simp] theorem mapDies_uids (f : Die → Die) : (s.mapDies f).uids = s.uids := rfl
@[simp] theorem mapDies_ck (f : Die → Die) : (s.mapDies f).ck = s.ck := rfl
@[simp] theorem mapDies_ticks (f : Die → Die) : (s.mapDies f).ticks = s.ticks := rfl
@[simp] theorem mapDies_powered (f : Die → Die) : (s.mapDies f).powered = s.powered := rfl
@[simp] theorem mapDies_tripped (f : Die → Die) : (s.mapDies f).tripped = s.tripped := rfl
@[simp] theorem mapDies_powerCap (f : Die → Die) : (s.mapDies f).powerCap = s.powerCap := rfl
@[simp] theorem mapDies_self (f : Die → Die) : (s.mapDies f).self = s.self := rfl
@[simp] theorem mapDies_npkg (f : Die → Die) : (s.mapDies f).npkg = s.npkg := rfl
@[simp] theorem mapDies_live (f : Die → Die) : (s.mapDies f).live = s.live := rfl
@[simp] theorem mapDies_suspects (f : Die → Die) : (s.mapDies f).suspects = s.suspects := rfl
@[simp] theorem mapDies_lastHeard (f : Die → Die) : (s.mapDies f).lastHeard = s.lastHeard := rfl
@[simp] theorem mapDies_mem (f : Die → Die) : (s.mapDies f).mem = s.mem := rfl
@[simp] theorem mapDies_hostMem (f : Die → Die) : (s.mapDies f).hostMem = s.hostMem := rfl
@[simp] theorem mapDies_failedPages (f : Die → Die) : (s.mapDies f).failedPages = s.failedPages := rfl
@[simp] theorem mapDies_flaws (f : Die → Die) : (s.mapDies f).flaws = s.flaws := rfl
@[simp] theorem mapDies_pager (f : Die → Die) : (s.mapDies f).pager = s.pager := rfl
@[simp] theorem mapDies_nextFrame (f : Die → Die) : (s.mapDies f).nextFrame = s.nextFrame := rfl
@[simp] theorem mapDies_nextArea (f : Die → Die) : (s.mapDies f).nextArea = s.nextArea := rfl
@[simp] theorem mapDies_farPtes (f : Die → Die) : (s.mapDies f).farPtes = s.farPtes := rfl
@[simp] theorem mapDies_cores (f : Die → Die) : (s.mapDies f).cores = s.cores := rfl
@[simp] theorem mapDies_clusters (f : Die → Die) : (s.mapDies f).clusters = s.clusters := rfl
@[simp] theorem mapDies_migrations (f : Die → Die) : (s.mapDies f).migrations = s.migrations := rfl
@[simp] theorem mapDies_fen (f : Die → Die) : (s.mapDies f).fen = s.fen := rfl
@[simp] theorem mapDies_saved (f : Die → Die) : (s.mapDies f).saved = s.saved := rfl
@[simp] theorem mapDies_serviceDown (f : Die → Die) : (s.mapDies f).serviceDown = s.serviceDown := rfl
@[simp] theorem mapDies_kilnDown (f : Die → Die) : (s.mapDies f).kilnDown = s.kilnDown := rfl
@[simp] theorem mapDies_stackDown (f : Die → Die) : (s.mapDies f).stackDown = s.stackDown := rfl
@[simp] theorem mapDies_tenants (f : Die → Die) : (s.mapDies f).tenants = s.tenants := rfl
@[simp] theorem mapDies_ctxs (f : Die → Die) : (s.mapDies f).ctxs = s.ctxs := rfl
@[simp] theorem mapDies_images (f : Die → Die) : (s.mapDies f).images = s.images := rfl
@[simp] theorem mapDies_graphs (f : Die → Die) : (s.mapDies f).graphs = s.graphs := rfl
@[simp] theorem mapDies_jobs (f : Die → Die) : (s.mapDies f).jobs = s.jobs := rfl
@[simp] theorem mapDies_launches (f : Die → Die) : (s.mapDies f).launches = s.launches := rfl
@[simp] theorem mapDies_journal (f : Die → Die) : (s.mapDies f).journal = s.journal := rfl
@[simp] theorem mapDies_journalOk (f : Die → Die) : (s.mapDies f).journalOk = s.journalOk := rfl
@[simp] theorem mapDies_journalAt (f : Die → Die) : (s.mapDies f).journalAt = s.journalAt := rfl
@[simp] theorem mapDies_fns (f : Die → Die) : (s.mapDies f).fns = s.fns := rfl
@[simp] theorem mapDies_pfReports (f : Die → Die) : (s.mapDies f).pfReports = s.pfReports := rfl
@[simp] theorem mapDies_pfRecs (f : Die → Die) : (s.mapDies f).pfRecs = s.pfRecs := rfl
@[simp] theorem mapDies_witness (f : Die → Die) : (s.mapDies f).witness = s.witness := rfl
@[simp] theorem mapDies_witnessRing (f : Die → Die) : (s.mapDies f).witnessRing = s.witnessRing := rfl
@[simp] theorem mapDies_witnessNext (f : Die → Die) : (s.mapDies f).witnessNext = s.witnessNext := rfl
@[simp] theorem mapDies_quantum (f : Die → Die) : (s.mapDies f).quantum = s.quantum := rfl
@[simp] theorem mapDies_quantumEnd (f : Die → Die) : (s.mapDies f).quantumEnd = s.quantumEnd := rfl
@[simp] theorem mapDies_requests (f : Die → Die) : (s.mapDies f).requests = s.requests := rfl
@[simp] theorem mapDies_heldReplies (f : Die → Die) : (s.mapDies f).heldReplies = s.heldReplies := rfl
@[simp] theorem mapDies_awaits (f : Die → Die) : (s.mapDies f).awaits = s.awaits := rfl
@[simp] theorem mapDies_owedAcks (f : Die → Die) : (s.mapDies f).owedAcks = s.owedAcks := rfl
@[simp] theorem mapDies_tasks (f : Die → Die) : (s.mapDies f).tasks = s.tasks := rfl
@[simp] theorem mapDies_kiln (f : Die → Die) : (s.mapDies f).kiln = s.kiln := rfl
@[simp] theorem mapDies_kilnAsks (f : Die → Die) : (s.mapDies f).kilnAsks = s.kilnAsks := rfl
@[simp] theorem mapDies_kilnWaiting (f : Die → Die) : (s.mapDies f).kilnWaiting = s.kilnWaiting := rfl
@[simp] theorem mapDies_glazeth (f : Die → Die) : (s.mapDies f).glazeth = s.glazeth := rfl
@[simp] theorem mapDies_aliasth (f : Die → Die) : (s.mapDies f).aliasth = s.aliasth := rfl
@[simp] theorem mapDies_newestCounts (f : Die → Die) : (s.mapDies f).newestCounts = s.newestCounts := rfl
@[simp] theorem mapDies_bootStage (f : Die → Die) : (s.mapDies f).bootStage = s.bootStage := rfl
@[simp] theorem mapDies_bootFailed (f : Die → Die) : (s.mapDies f).bootFailed = s.bootFailed := rfl
@[simp] theorem mapDies_minSvn (f : Die → Die) : (s.mapDies f).minSvn = s.minSvn := rfl
@[simp] theorem mapDies_measures (f : Die → Die) : (s.mapDies f).measures = s.measures := rfl
@[simp] theorem mapDies_measureLog (f : Die → Die) : (s.mapDies f).measureLog = s.measureLog := rfl
@[simp] theorem mapDies_spdm (f : Die → Die) : (s.mapDies f).spdm = s.spdm := rfl
@[simp] theorem mapDies_keys (f : Die → Die) : (s.mapDies f).keys = s.keys := rfl
@[simp] theorem mapDies_links (f : Die → Die) : (s.mapDies f).links = s.links := rfl
@[simp] theorem mapDies_detours (f : Die → Die) : (s.mapDies f).detours = s.detours := rfl
@[simp] theorem mapDies_streams (f : Die → Die) : (s.mapDies f).streams = s.streams := rfl
@[simp] theorem mapDies_remotes (f : Die → Die) : (s.mapDies f).remotes = s.remotes := rfl
@[simp] theorem mapDies_nextTag (f : Die → Die) : (s.mapDies f).nextTag = s.nextTag := rfl
@[simp] theorem mapDies_highsOwed (f : Die → Die) : (s.mapDies f).highsOwed = s.highsOwed := rfl
@[simp] theorem mapDies_nextTicket (f : Die → Die) : (s.mapDies f).nextTicket = s.nextTicket := rfl
@[simp] theorem mapDies_doneTicket (f : Die → Die) : (s.mapDies f).doneTicket = s.doneTicket := rfl
@[simp] theorem mapDies_ticketWaits (f : Die → Die) : (s.mapDies f).ticketWaits = s.ticketWaits := rfl

@[simp] theorem modCluster_cur (k : Nat) (f : Cluster → Cluster) : (s.modCluster k f).cur = s.cur := rfl
@[simp] theorem modCluster_agenda (k : Nat) (f : Cluster → Cluster) : (s.modCluster k f).agenda = s.agenda := rfl
@[simp] theorem modCluster_sched (k : Nat) (f : Cluster → Cluster) : (s.modCluster k f).sched = s.sched := rfl
@[simp] theorem modCluster_free (k : Nat) (f : Cluster → Cluster) : (s.modCluster k f).free = s.free := rfl
@[simp] theorem modCluster_uids (k : Nat) (f : Cluster → Cluster) : (s.modCluster k f).uids = s.uids := rfl
@[simp] theorem modCluster_ck (k : Nat) (f : Cluster → Cluster) : (s.modCluster k f).ck = s.ck := rfl
@[simp] theorem modCluster_ticks (k : Nat) (f : Cluster → Cluster) : (s.modCluster k f).ticks = s.ticks := rfl
@[simp] theorem modCluster_powered (k : Nat) (f : Cluster → Cluster) : (s.modCluster k f).powered = s.powered := rfl
@[simp] theorem modCluster_tripped (k : Nat) (f : Cluster → Cluster) : (s.modCluster k f).tripped = s.tripped := rfl
@[simp] theorem modCluster_powerCap (k : Nat) (f : Cluster → Cluster) : (s.modCluster k f).powerCap = s.powerCap := rfl
@[simp] theorem modCluster_self (k : Nat) (f : Cluster → Cluster) : (s.modCluster k f).self = s.self := rfl
@[simp] theorem modCluster_npkg (k : Nat) (f : Cluster → Cluster) : (s.modCluster k f).npkg = s.npkg := rfl
@[simp] theorem modCluster_live (k : Nat) (f : Cluster → Cluster) : (s.modCluster k f).live = s.live := rfl
@[simp] theorem modCluster_suspects (k : Nat) (f : Cluster → Cluster) : (s.modCluster k f).suspects = s.suspects := rfl
@[simp] theorem modCluster_lastHeard (k : Nat) (f : Cluster → Cluster) : (s.modCluster k f).lastHeard = s.lastHeard := rfl
@[simp] theorem modCluster_mem (k : Nat) (f : Cluster → Cluster) : (s.modCluster k f).mem = s.mem := rfl
@[simp] theorem modCluster_hostMem (k : Nat) (f : Cluster → Cluster) : (s.modCluster k f).hostMem = s.hostMem := rfl
@[simp] theorem modCluster_failedPages (k : Nat) (f : Cluster → Cluster) : (s.modCluster k f).failedPages = s.failedPages := rfl
@[simp] theorem modCluster_flaws (k : Nat) (f : Cluster → Cluster) : (s.modCluster k f).flaws = s.flaws := rfl
@[simp] theorem modCluster_pager (k : Nat) (f : Cluster → Cluster) : (s.modCluster k f).pager = s.pager := rfl
@[simp] theorem modCluster_nextFrame (k : Nat) (f : Cluster → Cluster) : (s.modCluster k f).nextFrame = s.nextFrame := rfl
@[simp] theorem modCluster_nextArea (k : Nat) (f : Cluster → Cluster) : (s.modCluster k f).nextArea = s.nextArea := rfl
@[simp] theorem modCluster_farPtes (k : Nat) (f : Cluster → Cluster) : (s.modCluster k f).farPtes = s.farPtes := rfl
@[simp] theorem modCluster_cores (k : Nat) (f : Cluster → Cluster) : (s.modCluster k f).cores = s.cores := rfl
@[simp] theorem modCluster_dies (k : Nat) (f : Cluster → Cluster) : (s.modCluster k f).dies = s.dies := rfl
@[simp] theorem modCluster_migrations (k : Nat) (f : Cluster → Cluster) : (s.modCluster k f).migrations = s.migrations := rfl
@[simp] theorem modCluster_fen (k : Nat) (f : Cluster → Cluster) : (s.modCluster k f).fen = s.fen := rfl
@[simp] theorem modCluster_saved (k : Nat) (f : Cluster → Cluster) : (s.modCluster k f).saved = s.saved := rfl
@[simp] theorem modCluster_serviceDown (k : Nat) (f : Cluster → Cluster) : (s.modCluster k f).serviceDown = s.serviceDown := rfl
@[simp] theorem modCluster_kilnDown (k : Nat) (f : Cluster → Cluster) : (s.modCluster k f).kilnDown = s.kilnDown := rfl
@[simp] theorem modCluster_stackDown (k : Nat) (f : Cluster → Cluster) : (s.modCluster k f).stackDown = s.stackDown := rfl
@[simp] theorem modCluster_tenants (k : Nat) (f : Cluster → Cluster) : (s.modCluster k f).tenants = s.tenants := rfl
@[simp] theorem modCluster_ctxs (k : Nat) (f : Cluster → Cluster) : (s.modCluster k f).ctxs = s.ctxs := rfl
@[simp] theorem modCluster_images (k : Nat) (f : Cluster → Cluster) : (s.modCluster k f).images = s.images := rfl
@[simp] theorem modCluster_graphs (k : Nat) (f : Cluster → Cluster) : (s.modCluster k f).graphs = s.graphs := rfl
@[simp] theorem modCluster_jobs (k : Nat) (f : Cluster → Cluster) : (s.modCluster k f).jobs = s.jobs := rfl
@[simp] theorem modCluster_launches (k : Nat) (f : Cluster → Cluster) : (s.modCluster k f).launches = s.launches := rfl
@[simp] theorem modCluster_journal (k : Nat) (f : Cluster → Cluster) : (s.modCluster k f).journal = s.journal := rfl
@[simp] theorem modCluster_journalOk (k : Nat) (f : Cluster → Cluster) : (s.modCluster k f).journalOk = s.journalOk := rfl
@[simp] theorem modCluster_journalAt (k : Nat) (f : Cluster → Cluster) : (s.modCluster k f).journalAt = s.journalAt := rfl
@[simp] theorem modCluster_fns (k : Nat) (f : Cluster → Cluster) : (s.modCluster k f).fns = s.fns := rfl
@[simp] theorem modCluster_pfReports (k : Nat) (f : Cluster → Cluster) : (s.modCluster k f).pfReports = s.pfReports := rfl
@[simp] theorem modCluster_pfRecs (k : Nat) (f : Cluster → Cluster) : (s.modCluster k f).pfRecs = s.pfRecs := rfl
@[simp] theorem modCluster_witness (k : Nat) (f : Cluster → Cluster) : (s.modCluster k f).witness = s.witness := rfl
@[simp] theorem modCluster_witnessRing (k : Nat) (f : Cluster → Cluster) : (s.modCluster k f).witnessRing = s.witnessRing := rfl
@[simp] theorem modCluster_witnessNext (k : Nat) (f : Cluster → Cluster) : (s.modCluster k f).witnessNext = s.witnessNext := rfl
@[simp] theorem modCluster_quantum (k : Nat) (f : Cluster → Cluster) : (s.modCluster k f).quantum = s.quantum := rfl
@[simp] theorem modCluster_quantumEnd (k : Nat) (f : Cluster → Cluster) : (s.modCluster k f).quantumEnd = s.quantumEnd := rfl
@[simp] theorem modCluster_requests (k : Nat) (f : Cluster → Cluster) : (s.modCluster k f).requests = s.requests := rfl
@[simp] theorem modCluster_heldReplies (k : Nat) (f : Cluster → Cluster) : (s.modCluster k f).heldReplies = s.heldReplies := rfl
@[simp] theorem modCluster_awaits (k : Nat) (f : Cluster → Cluster) : (s.modCluster k f).awaits = s.awaits := rfl
@[simp] theorem modCluster_owedAcks (k : Nat) (f : Cluster → Cluster) : (s.modCluster k f).owedAcks = s.owedAcks := rfl
@[simp] theorem modCluster_tasks (k : Nat) (f : Cluster → Cluster) : (s.modCluster k f).tasks = s.tasks := rfl
@[simp] theorem modCluster_kiln (k : Nat) (f : Cluster → Cluster) : (s.modCluster k f).kiln = s.kiln := rfl
@[simp] theorem modCluster_kilnAsks (k : Nat) (f : Cluster → Cluster) : (s.modCluster k f).kilnAsks = s.kilnAsks := rfl
@[simp] theorem modCluster_kilnWaiting (k : Nat) (f : Cluster → Cluster) : (s.modCluster k f).kilnWaiting = s.kilnWaiting := rfl
@[simp] theorem modCluster_glazeth (k : Nat) (f : Cluster → Cluster) : (s.modCluster k f).glazeth = s.glazeth := rfl
@[simp] theorem modCluster_aliasth (k : Nat) (f : Cluster → Cluster) : (s.modCluster k f).aliasth = s.aliasth := rfl
@[simp] theorem modCluster_newestCounts (k : Nat) (f : Cluster → Cluster) : (s.modCluster k f).newestCounts = s.newestCounts := rfl
@[simp] theorem modCluster_bootStage (k : Nat) (f : Cluster → Cluster) : (s.modCluster k f).bootStage = s.bootStage := rfl
@[simp] theorem modCluster_bootFailed (k : Nat) (f : Cluster → Cluster) : (s.modCluster k f).bootFailed = s.bootFailed := rfl
@[simp] theorem modCluster_minSvn (k : Nat) (f : Cluster → Cluster) : (s.modCluster k f).minSvn = s.minSvn := rfl
@[simp] theorem modCluster_measures (k : Nat) (f : Cluster → Cluster) : (s.modCluster k f).measures = s.measures := rfl
@[simp] theorem modCluster_measureLog (k : Nat) (f : Cluster → Cluster) : (s.modCluster k f).measureLog = s.measureLog := rfl
@[simp] theorem modCluster_spdm (k : Nat) (f : Cluster → Cluster) : (s.modCluster k f).spdm = s.spdm := rfl
@[simp] theorem modCluster_keys (k : Nat) (f : Cluster → Cluster) : (s.modCluster k f).keys = s.keys := rfl
@[simp] theorem modCluster_links (k : Nat) (f : Cluster → Cluster) : (s.modCluster k f).links = s.links := rfl
@[simp] theorem modCluster_detours (k : Nat) (f : Cluster → Cluster) : (s.modCluster k f).detours = s.detours := rfl
@[simp] theorem modCluster_streams (k : Nat) (f : Cluster → Cluster) : (s.modCluster k f).streams = s.streams := rfl
@[simp] theorem modCluster_remotes (k : Nat) (f : Cluster → Cluster) : (s.modCluster k f).remotes = s.remotes := rfl
@[simp] theorem modCluster_nextTag (k : Nat) (f : Cluster → Cluster) : (s.modCluster k f).nextTag = s.nextTag := rfl
@[simp] theorem modCluster_highsOwed (k : Nat) (f : Cluster → Cluster) : (s.modCluster k f).highsOwed = s.highsOwed := rfl
@[simp] theorem modCluster_nextTicket (k : Nat) (f : Cluster → Cluster) : (s.modCluster k f).nextTicket = s.nextTicket := rfl
@[simp] theorem modCluster_doneTicket (k : Nat) (f : Cluster → Cluster) : (s.modCluster k f).doneTicket = s.doneTicket := rfl
@[simp] theorem modCluster_ticketWaits (k : Nat) (f : Cluster → Cluster) : (s.modCluster k f).ticketWaits = s.ticketWaits := rfl

@[simp] theorem modTenant_cur (t : Nat) (f : Tenant → Tenant) : (s.modTenant t f).cur = s.cur := rfl
@[simp] theorem modTenant_agenda (t : Nat) (f : Tenant → Tenant) : (s.modTenant t f).agenda = s.agenda := rfl
@[simp] theorem modTenant_sched (t : Nat) (f : Tenant → Tenant) : (s.modTenant t f).sched = s.sched := rfl
@[simp] theorem modTenant_free (t : Nat) (f : Tenant → Tenant) : (s.modTenant t f).free = s.free := rfl
@[simp] theorem modTenant_uids (t : Nat) (f : Tenant → Tenant) : (s.modTenant t f).uids = s.uids := rfl
@[simp] theorem modTenant_ck (t : Nat) (f : Tenant → Tenant) : (s.modTenant t f).ck = s.ck := rfl
@[simp] theorem modTenant_ticks (t : Nat) (f : Tenant → Tenant) : (s.modTenant t f).ticks = s.ticks := rfl
@[simp] theorem modTenant_powered (t : Nat) (f : Tenant → Tenant) : (s.modTenant t f).powered = s.powered := rfl
@[simp] theorem modTenant_tripped (t : Nat) (f : Tenant → Tenant) : (s.modTenant t f).tripped = s.tripped := rfl
@[simp] theorem modTenant_powerCap (t : Nat) (f : Tenant → Tenant) : (s.modTenant t f).powerCap = s.powerCap := rfl
@[simp] theorem modTenant_self (t : Nat) (f : Tenant → Tenant) : (s.modTenant t f).self = s.self := rfl
@[simp] theorem modTenant_npkg (t : Nat) (f : Tenant → Tenant) : (s.modTenant t f).npkg = s.npkg := rfl
@[simp] theorem modTenant_live (t : Nat) (f : Tenant → Tenant) : (s.modTenant t f).live = s.live := rfl
@[simp] theorem modTenant_suspects (t : Nat) (f : Tenant → Tenant) : (s.modTenant t f).suspects = s.suspects := rfl
@[simp] theorem modTenant_lastHeard (t : Nat) (f : Tenant → Tenant) : (s.modTenant t f).lastHeard = s.lastHeard := rfl
@[simp] theorem modTenant_mem (t : Nat) (f : Tenant → Tenant) : (s.modTenant t f).mem = s.mem := rfl
@[simp] theorem modTenant_hostMem (t : Nat) (f : Tenant → Tenant) : (s.modTenant t f).hostMem = s.hostMem := rfl
@[simp] theorem modTenant_failedPages (t : Nat) (f : Tenant → Tenant) : (s.modTenant t f).failedPages = s.failedPages := rfl
@[simp] theorem modTenant_flaws (t : Nat) (f : Tenant → Tenant) : (s.modTenant t f).flaws = s.flaws := rfl
@[simp] theorem modTenant_pager (t : Nat) (f : Tenant → Tenant) : (s.modTenant t f).pager = s.pager := rfl
@[simp] theorem modTenant_nextFrame (t : Nat) (f : Tenant → Tenant) : (s.modTenant t f).nextFrame = s.nextFrame := rfl
@[simp] theorem modTenant_nextArea (t : Nat) (f : Tenant → Tenant) : (s.modTenant t f).nextArea = s.nextArea := rfl
@[simp] theorem modTenant_farPtes (t : Nat) (f : Tenant → Tenant) : (s.modTenant t f).farPtes = s.farPtes := rfl
@[simp] theorem modTenant_cores (t : Nat) (f : Tenant → Tenant) : (s.modTenant t f).cores = s.cores := rfl
@[simp] theorem modTenant_clusters (t : Nat) (f : Tenant → Tenant) : (s.modTenant t f).clusters = s.clusters := rfl
@[simp] theorem modTenant_dies (t : Nat) (f : Tenant → Tenant) : (s.modTenant t f).dies = s.dies := rfl
@[simp] theorem modTenant_migrations (t : Nat) (f : Tenant → Tenant) : (s.modTenant t f).migrations = s.migrations := rfl
@[simp] theorem modTenant_fen (t : Nat) (f : Tenant → Tenant) : (s.modTenant t f).fen = s.fen := rfl
@[simp] theorem modTenant_saved (t : Nat) (f : Tenant → Tenant) : (s.modTenant t f).saved = s.saved := rfl
@[simp] theorem modTenant_serviceDown (t : Nat) (f : Tenant → Tenant) : (s.modTenant t f).serviceDown = s.serviceDown := rfl
@[simp] theorem modTenant_kilnDown (t : Nat) (f : Tenant → Tenant) : (s.modTenant t f).kilnDown = s.kilnDown := rfl
@[simp] theorem modTenant_stackDown (t : Nat) (f : Tenant → Tenant) : (s.modTenant t f).stackDown = s.stackDown := rfl
@[simp] theorem modTenant_ctxs (t : Nat) (f : Tenant → Tenant) : (s.modTenant t f).ctxs = s.ctxs := rfl
@[simp] theorem modTenant_images (t : Nat) (f : Tenant → Tenant) : (s.modTenant t f).images = s.images := rfl
@[simp] theorem modTenant_graphs (t : Nat) (f : Tenant → Tenant) : (s.modTenant t f).graphs = s.graphs := rfl
@[simp] theorem modTenant_jobs (t : Nat) (f : Tenant → Tenant) : (s.modTenant t f).jobs = s.jobs := rfl
@[simp] theorem modTenant_launches (t : Nat) (f : Tenant → Tenant) : (s.modTenant t f).launches = s.launches := rfl
@[simp] theorem modTenant_journal (t : Nat) (f : Tenant → Tenant) : (s.modTenant t f).journal = s.journal := rfl
@[simp] theorem modTenant_journalOk (t : Nat) (f : Tenant → Tenant) : (s.modTenant t f).journalOk = s.journalOk := rfl
@[simp] theorem modTenant_journalAt (t : Nat) (f : Tenant → Tenant) : (s.modTenant t f).journalAt = s.journalAt := rfl
@[simp] theorem modTenant_fns (t : Nat) (f : Tenant → Tenant) : (s.modTenant t f).fns = s.fns := rfl
@[simp] theorem modTenant_pfReports (t : Nat) (f : Tenant → Tenant) : (s.modTenant t f).pfReports = s.pfReports := rfl
@[simp] theorem modTenant_pfRecs (t : Nat) (f : Tenant → Tenant) : (s.modTenant t f).pfRecs = s.pfRecs := rfl
@[simp] theorem modTenant_witness (t : Nat) (f : Tenant → Tenant) : (s.modTenant t f).witness = s.witness := rfl
@[simp] theorem modTenant_witnessRing (t : Nat) (f : Tenant → Tenant) : (s.modTenant t f).witnessRing = s.witnessRing := rfl
@[simp] theorem modTenant_witnessNext (t : Nat) (f : Tenant → Tenant) : (s.modTenant t f).witnessNext = s.witnessNext := rfl
@[simp] theorem modTenant_quantum (t : Nat) (f : Tenant → Tenant) : (s.modTenant t f).quantum = s.quantum := rfl
@[simp] theorem modTenant_quantumEnd (t : Nat) (f : Tenant → Tenant) : (s.modTenant t f).quantumEnd = s.quantumEnd := rfl
@[simp] theorem modTenant_requests (t : Nat) (f : Tenant → Tenant) : (s.modTenant t f).requests = s.requests := rfl
@[simp] theorem modTenant_heldReplies (t : Nat) (f : Tenant → Tenant) : (s.modTenant t f).heldReplies = s.heldReplies := rfl
@[simp] theorem modTenant_awaits (t : Nat) (f : Tenant → Tenant) : (s.modTenant t f).awaits = s.awaits := rfl
@[simp] theorem modTenant_owedAcks (t : Nat) (f : Tenant → Tenant) : (s.modTenant t f).owedAcks = s.owedAcks := rfl
@[simp] theorem modTenant_tasks (t : Nat) (f : Tenant → Tenant) : (s.modTenant t f).tasks = s.tasks := rfl
@[simp] theorem modTenant_kiln (t : Nat) (f : Tenant → Tenant) : (s.modTenant t f).kiln = s.kiln := rfl
@[simp] theorem modTenant_kilnAsks (t : Nat) (f : Tenant → Tenant) : (s.modTenant t f).kilnAsks = s.kilnAsks := rfl
@[simp] theorem modTenant_kilnWaiting (t : Nat) (f : Tenant → Tenant) : (s.modTenant t f).kilnWaiting = s.kilnWaiting := rfl
@[simp] theorem modTenant_glazeth (t : Nat) (f : Tenant → Tenant) : (s.modTenant t f).glazeth = s.glazeth := rfl
@[simp] theorem modTenant_aliasth (t : Nat) (f : Tenant → Tenant) : (s.modTenant t f).aliasth = s.aliasth := rfl
@[simp] theorem modTenant_newestCounts (t : Nat) (f : Tenant → Tenant) : (s.modTenant t f).newestCounts = s.newestCounts := rfl
@[simp] theorem modTenant_bootStage (t : Nat) (f : Tenant → Tenant) : (s.modTenant t f).bootStage = s.bootStage := rfl
@[simp] theorem modTenant_bootFailed (t : Nat) (f : Tenant → Tenant) : (s.modTenant t f).bootFailed = s.bootFailed := rfl
@[simp] theorem modTenant_minSvn (t : Nat) (f : Tenant → Tenant) : (s.modTenant t f).minSvn = s.minSvn := rfl
@[simp] theorem modTenant_measures (t : Nat) (f : Tenant → Tenant) : (s.modTenant t f).measures = s.measures := rfl
@[simp] theorem modTenant_measureLog (t : Nat) (f : Tenant → Tenant) : (s.modTenant t f).measureLog = s.measureLog := rfl
@[simp] theorem modTenant_spdm (t : Nat) (f : Tenant → Tenant) : (s.modTenant t f).spdm = s.spdm := rfl
@[simp] theorem modTenant_keys (t : Nat) (f : Tenant → Tenant) : (s.modTenant t f).keys = s.keys := rfl
@[simp] theorem modTenant_links (t : Nat) (f : Tenant → Tenant) : (s.modTenant t f).links = s.links := rfl
@[simp] theorem modTenant_detours (t : Nat) (f : Tenant → Tenant) : (s.modTenant t f).detours = s.detours := rfl
@[simp] theorem modTenant_streams (t : Nat) (f : Tenant → Tenant) : (s.modTenant t f).streams = s.streams := rfl
@[simp] theorem modTenant_remotes (t : Nat) (f : Tenant → Tenant) : (s.modTenant t f).remotes = s.remotes := rfl
@[simp] theorem modTenant_nextTag (t : Nat) (f : Tenant → Tenant) : (s.modTenant t f).nextTag = s.nextTag := rfl
@[simp] theorem modTenant_highsOwed (t : Nat) (f : Tenant → Tenant) : (s.modTenant t f).highsOwed = s.highsOwed := rfl
@[simp] theorem modTenant_nextTicket (t : Nat) (f : Tenant → Tenant) : (s.modTenant t f).nextTicket = s.nextTicket := rfl
@[simp] theorem modTenant_doneTicket (t : Nat) (f : Tenant → Tenant) : (s.modTenant t f).doneTicket = s.doneTicket := rfl
@[simp] theorem modTenant_ticketWaits (t : Nat) (f : Tenant → Tenant) : (s.modTenant t f).ticketWaits = s.ticketWaits := rfl

@[simp] theorem modCtx_cur (x : Nat) (f : Ctx → Ctx) : (s.modCtx x f).cur = s.cur := rfl
@[simp] theorem modCtx_agenda (x : Nat) (f : Ctx → Ctx) : (s.modCtx x f).agenda = s.agenda := rfl
@[simp] theorem modCtx_sched (x : Nat) (f : Ctx → Ctx) : (s.modCtx x f).sched = s.sched := rfl
@[simp] theorem modCtx_free (x : Nat) (f : Ctx → Ctx) : (s.modCtx x f).free = s.free := rfl
@[simp] theorem modCtx_uids (x : Nat) (f : Ctx → Ctx) : (s.modCtx x f).uids = s.uids := rfl
@[simp] theorem modCtx_ck (x : Nat) (f : Ctx → Ctx) : (s.modCtx x f).ck = s.ck := rfl
@[simp] theorem modCtx_ticks (x : Nat) (f : Ctx → Ctx) : (s.modCtx x f).ticks = s.ticks := rfl
@[simp] theorem modCtx_powered (x : Nat) (f : Ctx → Ctx) : (s.modCtx x f).powered = s.powered := rfl
@[simp] theorem modCtx_tripped (x : Nat) (f : Ctx → Ctx) : (s.modCtx x f).tripped = s.tripped := rfl
@[simp] theorem modCtx_powerCap (x : Nat) (f : Ctx → Ctx) : (s.modCtx x f).powerCap = s.powerCap := rfl
@[simp] theorem modCtx_self (x : Nat) (f : Ctx → Ctx) : (s.modCtx x f).self = s.self := rfl
@[simp] theorem modCtx_npkg (x : Nat) (f : Ctx → Ctx) : (s.modCtx x f).npkg = s.npkg := rfl
@[simp] theorem modCtx_live (x : Nat) (f : Ctx → Ctx) : (s.modCtx x f).live = s.live := rfl
@[simp] theorem modCtx_suspects (x : Nat) (f : Ctx → Ctx) : (s.modCtx x f).suspects = s.suspects := rfl
@[simp] theorem modCtx_lastHeard (x : Nat) (f : Ctx → Ctx) : (s.modCtx x f).lastHeard = s.lastHeard := rfl
@[simp] theorem modCtx_mem (x : Nat) (f : Ctx → Ctx) : (s.modCtx x f).mem = s.mem := rfl
@[simp] theorem modCtx_hostMem (x : Nat) (f : Ctx → Ctx) : (s.modCtx x f).hostMem = s.hostMem := rfl
@[simp] theorem modCtx_failedPages (x : Nat) (f : Ctx → Ctx) : (s.modCtx x f).failedPages = s.failedPages := rfl
@[simp] theorem modCtx_flaws (x : Nat) (f : Ctx → Ctx) : (s.modCtx x f).flaws = s.flaws := rfl
@[simp] theorem modCtx_pager (x : Nat) (f : Ctx → Ctx) : (s.modCtx x f).pager = s.pager := rfl
@[simp] theorem modCtx_nextFrame (x : Nat) (f : Ctx → Ctx) : (s.modCtx x f).nextFrame = s.nextFrame := rfl
@[simp] theorem modCtx_nextArea (x : Nat) (f : Ctx → Ctx) : (s.modCtx x f).nextArea = s.nextArea := rfl
@[simp] theorem modCtx_farPtes (x : Nat) (f : Ctx → Ctx) : (s.modCtx x f).farPtes = s.farPtes := rfl
@[simp] theorem modCtx_cores (x : Nat) (f : Ctx → Ctx) : (s.modCtx x f).cores = s.cores := rfl
@[simp] theorem modCtx_clusters (x : Nat) (f : Ctx → Ctx) : (s.modCtx x f).clusters = s.clusters := rfl
@[simp] theorem modCtx_dies (x : Nat) (f : Ctx → Ctx) : (s.modCtx x f).dies = s.dies := rfl
@[simp] theorem modCtx_migrations (x : Nat) (f : Ctx → Ctx) : (s.modCtx x f).migrations = s.migrations := rfl
@[simp] theorem modCtx_fen (x : Nat) (f : Ctx → Ctx) : (s.modCtx x f).fen = s.fen := rfl
@[simp] theorem modCtx_saved (x : Nat) (f : Ctx → Ctx) : (s.modCtx x f).saved = s.saved := rfl
@[simp] theorem modCtx_serviceDown (x : Nat) (f : Ctx → Ctx) : (s.modCtx x f).serviceDown = s.serviceDown := rfl
@[simp] theorem modCtx_kilnDown (x : Nat) (f : Ctx → Ctx) : (s.modCtx x f).kilnDown = s.kilnDown := rfl
@[simp] theorem modCtx_stackDown (x : Nat) (f : Ctx → Ctx) : (s.modCtx x f).stackDown = s.stackDown := rfl
@[simp] theorem modCtx_tenants (x : Nat) (f : Ctx → Ctx) : (s.modCtx x f).tenants = s.tenants := rfl
@[simp] theorem modCtx_images (x : Nat) (f : Ctx → Ctx) : (s.modCtx x f).images = s.images := rfl
@[simp] theorem modCtx_graphs (x : Nat) (f : Ctx → Ctx) : (s.modCtx x f).graphs = s.graphs := rfl
@[simp] theorem modCtx_jobs (x : Nat) (f : Ctx → Ctx) : (s.modCtx x f).jobs = s.jobs := rfl
@[simp] theorem modCtx_launches (x : Nat) (f : Ctx → Ctx) : (s.modCtx x f).launches = s.launches := rfl
@[simp] theorem modCtx_journal (x : Nat) (f : Ctx → Ctx) : (s.modCtx x f).journal = s.journal := rfl
@[simp] theorem modCtx_journalOk (x : Nat) (f : Ctx → Ctx) : (s.modCtx x f).journalOk = s.journalOk := rfl
@[simp] theorem modCtx_journalAt (x : Nat) (f : Ctx → Ctx) : (s.modCtx x f).journalAt = s.journalAt := rfl
@[simp] theorem modCtx_fns (x : Nat) (f : Ctx → Ctx) : (s.modCtx x f).fns = s.fns := rfl
@[simp] theorem modCtx_pfReports (x : Nat) (f : Ctx → Ctx) : (s.modCtx x f).pfReports = s.pfReports := rfl
@[simp] theorem modCtx_pfRecs (x : Nat) (f : Ctx → Ctx) : (s.modCtx x f).pfRecs = s.pfRecs := rfl
@[simp] theorem modCtx_witness (x : Nat) (f : Ctx → Ctx) : (s.modCtx x f).witness = s.witness := rfl
@[simp] theorem modCtx_witnessRing (x : Nat) (f : Ctx → Ctx) : (s.modCtx x f).witnessRing = s.witnessRing := rfl
@[simp] theorem modCtx_witnessNext (x : Nat) (f : Ctx → Ctx) : (s.modCtx x f).witnessNext = s.witnessNext := rfl
@[simp] theorem modCtx_quantum (x : Nat) (f : Ctx → Ctx) : (s.modCtx x f).quantum = s.quantum := rfl
@[simp] theorem modCtx_quantumEnd (x : Nat) (f : Ctx → Ctx) : (s.modCtx x f).quantumEnd = s.quantumEnd := rfl
@[simp] theorem modCtx_requests (x : Nat) (f : Ctx → Ctx) : (s.modCtx x f).requests = s.requests := rfl
@[simp] theorem modCtx_heldReplies (x : Nat) (f : Ctx → Ctx) : (s.modCtx x f).heldReplies = s.heldReplies := rfl
@[simp] theorem modCtx_awaits (x : Nat) (f : Ctx → Ctx) : (s.modCtx x f).awaits = s.awaits := rfl
@[simp] theorem modCtx_owedAcks (x : Nat) (f : Ctx → Ctx) : (s.modCtx x f).owedAcks = s.owedAcks := rfl
@[simp] theorem modCtx_tasks (x : Nat) (f : Ctx → Ctx) : (s.modCtx x f).tasks = s.tasks := rfl
@[simp] theorem modCtx_kiln (x : Nat) (f : Ctx → Ctx) : (s.modCtx x f).kiln = s.kiln := rfl
@[simp] theorem modCtx_kilnAsks (x : Nat) (f : Ctx → Ctx) : (s.modCtx x f).kilnAsks = s.kilnAsks := rfl
@[simp] theorem modCtx_kilnWaiting (x : Nat) (f : Ctx → Ctx) : (s.modCtx x f).kilnWaiting = s.kilnWaiting := rfl
@[simp] theorem modCtx_glazeth (x : Nat) (f : Ctx → Ctx) : (s.modCtx x f).glazeth = s.glazeth := rfl
@[simp] theorem modCtx_aliasth (x : Nat) (f : Ctx → Ctx) : (s.modCtx x f).aliasth = s.aliasth := rfl
@[simp] theorem modCtx_newestCounts (x : Nat) (f : Ctx → Ctx) : (s.modCtx x f).newestCounts = s.newestCounts := rfl
@[simp] theorem modCtx_bootStage (x : Nat) (f : Ctx → Ctx) : (s.modCtx x f).bootStage = s.bootStage := rfl
@[simp] theorem modCtx_bootFailed (x : Nat) (f : Ctx → Ctx) : (s.modCtx x f).bootFailed = s.bootFailed := rfl
@[simp] theorem modCtx_minSvn (x : Nat) (f : Ctx → Ctx) : (s.modCtx x f).minSvn = s.minSvn := rfl
@[simp] theorem modCtx_measures (x : Nat) (f : Ctx → Ctx) : (s.modCtx x f).measures = s.measures := rfl
@[simp] theorem modCtx_measureLog (x : Nat) (f : Ctx → Ctx) : (s.modCtx x f).measureLog = s.measureLog := rfl
@[simp] theorem modCtx_spdm (x : Nat) (f : Ctx → Ctx) : (s.modCtx x f).spdm = s.spdm := rfl
@[simp] theorem modCtx_keys (x : Nat) (f : Ctx → Ctx) : (s.modCtx x f).keys = s.keys := rfl
@[simp] theorem modCtx_links (x : Nat) (f : Ctx → Ctx) : (s.modCtx x f).links = s.links := rfl
@[simp] theorem modCtx_detours (x : Nat) (f : Ctx → Ctx) : (s.modCtx x f).detours = s.detours := rfl
@[simp] theorem modCtx_streams (x : Nat) (f : Ctx → Ctx) : (s.modCtx x f).streams = s.streams := rfl
@[simp] theorem modCtx_remotes (x : Nat) (f : Ctx → Ctx) : (s.modCtx x f).remotes = s.remotes := rfl
@[simp] theorem modCtx_nextTag (x : Nat) (f : Ctx → Ctx) : (s.modCtx x f).nextTag = s.nextTag := rfl
@[simp] theorem modCtx_highsOwed (x : Nat) (f : Ctx → Ctx) : (s.modCtx x f).highsOwed = s.highsOwed := rfl
@[simp] theorem modCtx_nextTicket (x : Nat) (f : Ctx → Ctx) : (s.modCtx x f).nextTicket = s.nextTicket := rfl
@[simp] theorem modCtx_doneTicket (x : Nat) (f : Ctx → Ctx) : (s.modCtx x f).doneTicket = s.doneTicket := rfl
@[simp] theorem modCtx_ticketWaits (x : Nat) (f : Ctx → Ctx) : (s.modCtx x f).ticketWaits = s.ticketWaits := rfl

@[simp] theorem modFn_cur (n : Nat) (f : Fn → Fn) : (s.modFn n f).cur = s.cur := rfl
@[simp] theorem modFn_agenda (n : Nat) (f : Fn → Fn) : (s.modFn n f).agenda = s.agenda := rfl
@[simp] theorem modFn_sched (n : Nat) (f : Fn → Fn) : (s.modFn n f).sched = s.sched := rfl
@[simp] theorem modFn_free (n : Nat) (f : Fn → Fn) : (s.modFn n f).free = s.free := rfl
@[simp] theorem modFn_uids (n : Nat) (f : Fn → Fn) : (s.modFn n f).uids = s.uids := rfl
@[simp] theorem modFn_ck (n : Nat) (f : Fn → Fn) : (s.modFn n f).ck = s.ck := rfl
@[simp] theorem modFn_ticks (n : Nat) (f : Fn → Fn) : (s.modFn n f).ticks = s.ticks := rfl
@[simp] theorem modFn_powered (n : Nat) (f : Fn → Fn) : (s.modFn n f).powered = s.powered := rfl
@[simp] theorem modFn_tripped (n : Nat) (f : Fn → Fn) : (s.modFn n f).tripped = s.tripped := rfl
@[simp] theorem modFn_powerCap (n : Nat) (f : Fn → Fn) : (s.modFn n f).powerCap = s.powerCap := rfl
@[simp] theorem modFn_self (n : Nat) (f : Fn → Fn) : (s.modFn n f).self = s.self := rfl
@[simp] theorem modFn_npkg (n : Nat) (f : Fn → Fn) : (s.modFn n f).npkg = s.npkg := rfl
@[simp] theorem modFn_live (n : Nat) (f : Fn → Fn) : (s.modFn n f).live = s.live := rfl
@[simp] theorem modFn_suspects (n : Nat) (f : Fn → Fn) : (s.modFn n f).suspects = s.suspects := rfl
@[simp] theorem modFn_lastHeard (n : Nat) (f : Fn → Fn) : (s.modFn n f).lastHeard = s.lastHeard := rfl
@[simp] theorem modFn_mem (n : Nat) (f : Fn → Fn) : (s.modFn n f).mem = s.mem := rfl
@[simp] theorem modFn_hostMem (n : Nat) (f : Fn → Fn) : (s.modFn n f).hostMem = s.hostMem := rfl
@[simp] theorem modFn_failedPages (n : Nat) (f : Fn → Fn) : (s.modFn n f).failedPages = s.failedPages := rfl
@[simp] theorem modFn_flaws (n : Nat) (f : Fn → Fn) : (s.modFn n f).flaws = s.flaws := rfl
@[simp] theorem modFn_pager (n : Nat) (f : Fn → Fn) : (s.modFn n f).pager = s.pager := rfl
@[simp] theorem modFn_nextFrame (n : Nat) (f : Fn → Fn) : (s.modFn n f).nextFrame = s.nextFrame := rfl
@[simp] theorem modFn_nextArea (n : Nat) (f : Fn → Fn) : (s.modFn n f).nextArea = s.nextArea := rfl
@[simp] theorem modFn_farPtes (n : Nat) (f : Fn → Fn) : (s.modFn n f).farPtes = s.farPtes := rfl
@[simp] theorem modFn_cores (n : Nat) (f : Fn → Fn) : (s.modFn n f).cores = s.cores := rfl
@[simp] theorem modFn_clusters (n : Nat) (f : Fn → Fn) : (s.modFn n f).clusters = s.clusters := rfl
@[simp] theorem modFn_dies (n : Nat) (f : Fn → Fn) : (s.modFn n f).dies = s.dies := rfl
@[simp] theorem modFn_migrations (n : Nat) (f : Fn → Fn) : (s.modFn n f).migrations = s.migrations := rfl
@[simp] theorem modFn_fen (n : Nat) (f : Fn → Fn) : (s.modFn n f).fen = s.fen := rfl
@[simp] theorem modFn_saved (n : Nat) (f : Fn → Fn) : (s.modFn n f).saved = s.saved := rfl
@[simp] theorem modFn_serviceDown (n : Nat) (f : Fn → Fn) : (s.modFn n f).serviceDown = s.serviceDown := rfl
@[simp] theorem modFn_kilnDown (n : Nat) (f : Fn → Fn) : (s.modFn n f).kilnDown = s.kilnDown := rfl
@[simp] theorem modFn_stackDown (n : Nat) (f : Fn → Fn) : (s.modFn n f).stackDown = s.stackDown := rfl
@[simp] theorem modFn_tenants (n : Nat) (f : Fn → Fn) : (s.modFn n f).tenants = s.tenants := rfl
@[simp] theorem modFn_ctxs (n : Nat) (f : Fn → Fn) : (s.modFn n f).ctxs = s.ctxs := rfl
@[simp] theorem modFn_images (n : Nat) (f : Fn → Fn) : (s.modFn n f).images = s.images := rfl
@[simp] theorem modFn_graphs (n : Nat) (f : Fn → Fn) : (s.modFn n f).graphs = s.graphs := rfl
@[simp] theorem modFn_jobs (n : Nat) (f : Fn → Fn) : (s.modFn n f).jobs = s.jobs := rfl
@[simp] theorem modFn_launches (n : Nat) (f : Fn → Fn) : (s.modFn n f).launches = s.launches := rfl
@[simp] theorem modFn_journal (n : Nat) (f : Fn → Fn) : (s.modFn n f).journal = s.journal := rfl
@[simp] theorem modFn_journalOk (n : Nat) (f : Fn → Fn) : (s.modFn n f).journalOk = s.journalOk := rfl
@[simp] theorem modFn_journalAt (n : Nat) (f : Fn → Fn) : (s.modFn n f).journalAt = s.journalAt := rfl
@[simp] theorem modFn_pfReports (n : Nat) (f : Fn → Fn) : (s.modFn n f).pfReports = s.pfReports := rfl
@[simp] theorem modFn_pfRecs (n : Nat) (f : Fn → Fn) : (s.modFn n f).pfRecs = s.pfRecs := rfl
@[simp] theorem modFn_witness (n : Nat) (f : Fn → Fn) : (s.modFn n f).witness = s.witness := rfl
@[simp] theorem modFn_witnessRing (n : Nat) (f : Fn → Fn) : (s.modFn n f).witnessRing = s.witnessRing := rfl
@[simp] theorem modFn_witnessNext (n : Nat) (f : Fn → Fn) : (s.modFn n f).witnessNext = s.witnessNext := rfl
@[simp] theorem modFn_quantum (n : Nat) (f : Fn → Fn) : (s.modFn n f).quantum = s.quantum := rfl
@[simp] theorem modFn_quantumEnd (n : Nat) (f : Fn → Fn) : (s.modFn n f).quantumEnd = s.quantumEnd := rfl
@[simp] theorem modFn_requests (n : Nat) (f : Fn → Fn) : (s.modFn n f).requests = s.requests := rfl
@[simp] theorem modFn_heldReplies (n : Nat) (f : Fn → Fn) : (s.modFn n f).heldReplies = s.heldReplies := rfl
@[simp] theorem modFn_awaits (n : Nat) (f : Fn → Fn) : (s.modFn n f).awaits = s.awaits := rfl
@[simp] theorem modFn_owedAcks (n : Nat) (f : Fn → Fn) : (s.modFn n f).owedAcks = s.owedAcks := rfl
@[simp] theorem modFn_tasks (n : Nat) (f : Fn → Fn) : (s.modFn n f).tasks = s.tasks := rfl
@[simp] theorem modFn_kiln (n : Nat) (f : Fn → Fn) : (s.modFn n f).kiln = s.kiln := rfl
@[simp] theorem modFn_kilnAsks (n : Nat) (f : Fn → Fn) : (s.modFn n f).kilnAsks = s.kilnAsks := rfl
@[simp] theorem modFn_kilnWaiting (n : Nat) (f : Fn → Fn) : (s.modFn n f).kilnWaiting = s.kilnWaiting := rfl
@[simp] theorem modFn_glazeth (n : Nat) (f : Fn → Fn) : (s.modFn n f).glazeth = s.glazeth := rfl
@[simp] theorem modFn_aliasth (n : Nat) (f : Fn → Fn) : (s.modFn n f).aliasth = s.aliasth := rfl
@[simp] theorem modFn_newestCounts (n : Nat) (f : Fn → Fn) : (s.modFn n f).newestCounts = s.newestCounts := rfl
@[simp] theorem modFn_bootStage (n : Nat) (f : Fn → Fn) : (s.modFn n f).bootStage = s.bootStage := rfl
@[simp] theorem modFn_bootFailed (n : Nat) (f : Fn → Fn) : (s.modFn n f).bootFailed = s.bootFailed := rfl
@[simp] theorem modFn_minSvn (n : Nat) (f : Fn → Fn) : (s.modFn n f).minSvn = s.minSvn := rfl
@[simp] theorem modFn_measures (n : Nat) (f : Fn → Fn) : (s.modFn n f).measures = s.measures := rfl
@[simp] theorem modFn_measureLog (n : Nat) (f : Fn → Fn) : (s.modFn n f).measureLog = s.measureLog := rfl
@[simp] theorem modFn_spdm (n : Nat) (f : Fn → Fn) : (s.modFn n f).spdm = s.spdm := rfl
@[simp] theorem modFn_keys (n : Nat) (f : Fn → Fn) : (s.modFn n f).keys = s.keys := rfl
@[simp] theorem modFn_links (n : Nat) (f : Fn → Fn) : (s.modFn n f).links = s.links := rfl
@[simp] theorem modFn_detours (n : Nat) (f : Fn → Fn) : (s.modFn n f).detours = s.detours := rfl
@[simp] theorem modFn_streams (n : Nat) (f : Fn → Fn) : (s.modFn n f).streams = s.streams := rfl
@[simp] theorem modFn_remotes (n : Nat) (f : Fn → Fn) : (s.modFn n f).remotes = s.remotes := rfl
@[simp] theorem modFn_nextTag (n : Nat) (f : Fn → Fn) : (s.modFn n f).nextTag = s.nextTag := rfl
@[simp] theorem modFn_highsOwed (n : Nat) (f : Fn → Fn) : (s.modFn n f).highsOwed = s.highsOwed := rfl
@[simp] theorem modFn_nextTicket (n : Nat) (f : Fn → Fn) : (s.modFn n f).nextTicket = s.nextTicket := rfl
@[simp] theorem modFn_doneTicket (n : Nat) (f : Fn → Fn) : (s.modFn n f).doneTicket = s.doneTicket := rfl
@[simp] theorem modFn_ticketWaits (n : Nat) (f : Fn → Fn) : (s.modFn n f).ticketWaits = s.ticketWaits := rfl

@[simp] theorem modLaunch_cur (u : Nat) (f : Launch → Launch) : (s.modLaunch u f).cur = s.cur := rfl
@[simp] theorem modLaunch_agenda (u : Nat) (f : Launch → Launch) : (s.modLaunch u f).agenda = s.agenda := rfl
@[simp] theorem modLaunch_sched (u : Nat) (f : Launch → Launch) : (s.modLaunch u f).sched = s.sched := rfl
@[simp] theorem modLaunch_free (u : Nat) (f : Launch → Launch) : (s.modLaunch u f).free = s.free := rfl
@[simp] theorem modLaunch_uids (u : Nat) (f : Launch → Launch) : (s.modLaunch u f).uids = s.uids := rfl
@[simp] theorem modLaunch_ck (u : Nat) (f : Launch → Launch) : (s.modLaunch u f).ck = s.ck := rfl
@[simp] theorem modLaunch_ticks (u : Nat) (f : Launch → Launch) : (s.modLaunch u f).ticks = s.ticks := rfl
@[simp] theorem modLaunch_powered (u : Nat) (f : Launch → Launch) : (s.modLaunch u f).powered = s.powered := rfl
@[simp] theorem modLaunch_tripped (u : Nat) (f : Launch → Launch) : (s.modLaunch u f).tripped = s.tripped := rfl
@[simp] theorem modLaunch_powerCap (u : Nat) (f : Launch → Launch) : (s.modLaunch u f).powerCap = s.powerCap := rfl
@[simp] theorem modLaunch_self (u : Nat) (f : Launch → Launch) : (s.modLaunch u f).self = s.self := rfl
@[simp] theorem modLaunch_npkg (u : Nat) (f : Launch → Launch) : (s.modLaunch u f).npkg = s.npkg := rfl
@[simp] theorem modLaunch_live (u : Nat) (f : Launch → Launch) : (s.modLaunch u f).live = s.live := rfl
@[simp] theorem modLaunch_suspects (u : Nat) (f : Launch → Launch) : (s.modLaunch u f).suspects = s.suspects := rfl
@[simp] theorem modLaunch_lastHeard (u : Nat) (f : Launch → Launch) : (s.modLaunch u f).lastHeard = s.lastHeard := rfl
@[simp] theorem modLaunch_mem (u : Nat) (f : Launch → Launch) : (s.modLaunch u f).mem = s.mem := rfl
@[simp] theorem modLaunch_hostMem (u : Nat) (f : Launch → Launch) : (s.modLaunch u f).hostMem = s.hostMem := rfl
@[simp] theorem modLaunch_failedPages (u : Nat) (f : Launch → Launch) : (s.modLaunch u f).failedPages = s.failedPages := rfl
@[simp] theorem modLaunch_flaws (u : Nat) (f : Launch → Launch) : (s.modLaunch u f).flaws = s.flaws := rfl
@[simp] theorem modLaunch_pager (u : Nat) (f : Launch → Launch) : (s.modLaunch u f).pager = s.pager := rfl
@[simp] theorem modLaunch_nextFrame (u : Nat) (f : Launch → Launch) : (s.modLaunch u f).nextFrame = s.nextFrame := rfl
@[simp] theorem modLaunch_nextArea (u : Nat) (f : Launch → Launch) : (s.modLaunch u f).nextArea = s.nextArea := rfl
@[simp] theorem modLaunch_farPtes (u : Nat) (f : Launch → Launch) : (s.modLaunch u f).farPtes = s.farPtes := rfl
@[simp] theorem modLaunch_cores (u : Nat) (f : Launch → Launch) : (s.modLaunch u f).cores = s.cores := rfl
@[simp] theorem modLaunch_clusters (u : Nat) (f : Launch → Launch) : (s.modLaunch u f).clusters = s.clusters := rfl
@[simp] theorem modLaunch_dies (u : Nat) (f : Launch → Launch) : (s.modLaunch u f).dies = s.dies := rfl
@[simp] theorem modLaunch_migrations (u : Nat) (f : Launch → Launch) : (s.modLaunch u f).migrations = s.migrations := rfl
@[simp] theorem modLaunch_fen (u : Nat) (f : Launch → Launch) : (s.modLaunch u f).fen = s.fen := rfl
@[simp] theorem modLaunch_saved (u : Nat) (f : Launch → Launch) : (s.modLaunch u f).saved = s.saved := rfl
@[simp] theorem modLaunch_serviceDown (u : Nat) (f : Launch → Launch) : (s.modLaunch u f).serviceDown = s.serviceDown := rfl
@[simp] theorem modLaunch_kilnDown (u : Nat) (f : Launch → Launch) : (s.modLaunch u f).kilnDown = s.kilnDown := rfl
@[simp] theorem modLaunch_stackDown (u : Nat) (f : Launch → Launch) : (s.modLaunch u f).stackDown = s.stackDown := rfl
@[simp] theorem modLaunch_tenants (u : Nat) (f : Launch → Launch) : (s.modLaunch u f).tenants = s.tenants := rfl
@[simp] theorem modLaunch_ctxs (u : Nat) (f : Launch → Launch) : (s.modLaunch u f).ctxs = s.ctxs := rfl
@[simp] theorem modLaunch_images (u : Nat) (f : Launch → Launch) : (s.modLaunch u f).images = s.images := rfl
@[simp] theorem modLaunch_graphs (u : Nat) (f : Launch → Launch) : (s.modLaunch u f).graphs = s.graphs := rfl
@[simp] theorem modLaunch_jobs (u : Nat) (f : Launch → Launch) : (s.modLaunch u f).jobs = s.jobs := rfl
@[simp] theorem modLaunch_journal (u : Nat) (f : Launch → Launch) : (s.modLaunch u f).journal = s.journal := rfl
@[simp] theorem modLaunch_journalOk (u : Nat) (f : Launch → Launch) : (s.modLaunch u f).journalOk = s.journalOk := rfl
@[simp] theorem modLaunch_journalAt (u : Nat) (f : Launch → Launch) : (s.modLaunch u f).journalAt = s.journalAt := rfl
@[simp] theorem modLaunch_fns (u : Nat) (f : Launch → Launch) : (s.modLaunch u f).fns = s.fns := rfl
@[simp] theorem modLaunch_pfReports (u : Nat) (f : Launch → Launch) : (s.modLaunch u f).pfReports = s.pfReports := rfl
@[simp] theorem modLaunch_pfRecs (u : Nat) (f : Launch → Launch) : (s.modLaunch u f).pfRecs = s.pfRecs := rfl
@[simp] theorem modLaunch_witness (u : Nat) (f : Launch → Launch) : (s.modLaunch u f).witness = s.witness := rfl
@[simp] theorem modLaunch_witnessRing (u : Nat) (f : Launch → Launch) : (s.modLaunch u f).witnessRing = s.witnessRing := rfl
@[simp] theorem modLaunch_witnessNext (u : Nat) (f : Launch → Launch) : (s.modLaunch u f).witnessNext = s.witnessNext := rfl
@[simp] theorem modLaunch_quantum (u : Nat) (f : Launch → Launch) : (s.modLaunch u f).quantum = s.quantum := rfl
@[simp] theorem modLaunch_quantumEnd (u : Nat) (f : Launch → Launch) : (s.modLaunch u f).quantumEnd = s.quantumEnd := rfl
@[simp] theorem modLaunch_requests (u : Nat) (f : Launch → Launch) : (s.modLaunch u f).requests = s.requests := rfl
@[simp] theorem modLaunch_heldReplies (u : Nat) (f : Launch → Launch) : (s.modLaunch u f).heldReplies = s.heldReplies := rfl
@[simp] theorem modLaunch_awaits (u : Nat) (f : Launch → Launch) : (s.modLaunch u f).awaits = s.awaits := rfl
@[simp] theorem modLaunch_owedAcks (u : Nat) (f : Launch → Launch) : (s.modLaunch u f).owedAcks = s.owedAcks := rfl
@[simp] theorem modLaunch_tasks (u : Nat) (f : Launch → Launch) : (s.modLaunch u f).tasks = s.tasks := rfl
@[simp] theorem modLaunch_kiln (u : Nat) (f : Launch → Launch) : (s.modLaunch u f).kiln = s.kiln := rfl
@[simp] theorem modLaunch_kilnAsks (u : Nat) (f : Launch → Launch) : (s.modLaunch u f).kilnAsks = s.kilnAsks := rfl
@[simp] theorem modLaunch_kilnWaiting (u : Nat) (f : Launch → Launch) : (s.modLaunch u f).kilnWaiting = s.kilnWaiting := rfl
@[simp] theorem modLaunch_glazeth (u : Nat) (f : Launch → Launch) : (s.modLaunch u f).glazeth = s.glazeth := rfl
@[simp] theorem modLaunch_aliasth (u : Nat) (f : Launch → Launch) : (s.modLaunch u f).aliasth = s.aliasth := rfl
@[simp] theorem modLaunch_newestCounts (u : Nat) (f : Launch → Launch) : (s.modLaunch u f).newestCounts = s.newestCounts := rfl
@[simp] theorem modLaunch_bootStage (u : Nat) (f : Launch → Launch) : (s.modLaunch u f).bootStage = s.bootStage := rfl
@[simp] theorem modLaunch_bootFailed (u : Nat) (f : Launch → Launch) : (s.modLaunch u f).bootFailed = s.bootFailed := rfl
@[simp] theorem modLaunch_minSvn (u : Nat) (f : Launch → Launch) : (s.modLaunch u f).minSvn = s.minSvn := rfl
@[simp] theorem modLaunch_measures (u : Nat) (f : Launch → Launch) : (s.modLaunch u f).measures = s.measures := rfl
@[simp] theorem modLaunch_measureLog (u : Nat) (f : Launch → Launch) : (s.modLaunch u f).measureLog = s.measureLog := rfl
@[simp] theorem modLaunch_spdm (u : Nat) (f : Launch → Launch) : (s.modLaunch u f).spdm = s.spdm := rfl
@[simp] theorem modLaunch_keys (u : Nat) (f : Launch → Launch) : (s.modLaunch u f).keys = s.keys := rfl
@[simp] theorem modLaunch_links (u : Nat) (f : Launch → Launch) : (s.modLaunch u f).links = s.links := rfl
@[simp] theorem modLaunch_detours (u : Nat) (f : Launch → Launch) : (s.modLaunch u f).detours = s.detours := rfl
@[simp] theorem modLaunch_streams (u : Nat) (f : Launch → Launch) : (s.modLaunch u f).streams = s.streams := rfl
@[simp] theorem modLaunch_remotes (u : Nat) (f : Launch → Launch) : (s.modLaunch u f).remotes = s.remotes := rfl
@[simp] theorem modLaunch_nextTag (u : Nat) (f : Launch → Launch) : (s.modLaunch u f).nextTag = s.nextTag := rfl
@[simp] theorem modLaunch_highsOwed (u : Nat) (f : Launch → Launch) : (s.modLaunch u f).highsOwed = s.highsOwed := rfl
@[simp] theorem modLaunch_nextTicket (u : Nat) (f : Launch → Launch) : (s.modLaunch u f).nextTicket = s.nextTicket := rfl
@[simp] theorem modLaunch_doneTicket (u : Nat) (f : Launch → Launch) : (s.modLaunch u f).doneTicket = s.doneTicket := rfl
@[simp] theorem modLaunch_ticketWaits (u : Nat) (f : Launch → Launch) : (s.modLaunch u f).ticketWaits = s.ticketWaits := rfl

@[simp] theorem modJob_cur (t j : Nat) (f : Job → Job) : (s.modJob t j f).cur = s.cur := rfl
@[simp] theorem modJob_agenda (t j : Nat) (f : Job → Job) : (s.modJob t j f).agenda = s.agenda := rfl
@[simp] theorem modJob_sched (t j : Nat) (f : Job → Job) : (s.modJob t j f).sched = s.sched := rfl
@[simp] theorem modJob_free (t j : Nat) (f : Job → Job) : (s.modJob t j f).free = s.free := rfl
@[simp] theorem modJob_uids (t j : Nat) (f : Job → Job) : (s.modJob t j f).uids = s.uids := rfl
@[simp] theorem modJob_ck (t j : Nat) (f : Job → Job) : (s.modJob t j f).ck = s.ck := rfl
@[simp] theorem modJob_ticks (t j : Nat) (f : Job → Job) : (s.modJob t j f).ticks = s.ticks := rfl
@[simp] theorem modJob_powered (t j : Nat) (f : Job → Job) : (s.modJob t j f).powered = s.powered := rfl
@[simp] theorem modJob_tripped (t j : Nat) (f : Job → Job) : (s.modJob t j f).tripped = s.tripped := rfl
@[simp] theorem modJob_powerCap (t j : Nat) (f : Job → Job) : (s.modJob t j f).powerCap = s.powerCap := rfl
@[simp] theorem modJob_self (t j : Nat) (f : Job → Job) : (s.modJob t j f).self = s.self := rfl
@[simp] theorem modJob_npkg (t j : Nat) (f : Job → Job) : (s.modJob t j f).npkg = s.npkg := rfl
@[simp] theorem modJob_live (t j : Nat) (f : Job → Job) : (s.modJob t j f).live = s.live := rfl
@[simp] theorem modJob_suspects (t j : Nat) (f : Job → Job) : (s.modJob t j f).suspects = s.suspects := rfl
@[simp] theorem modJob_lastHeard (t j : Nat) (f : Job → Job) : (s.modJob t j f).lastHeard = s.lastHeard := rfl
@[simp] theorem modJob_mem (t j : Nat) (f : Job → Job) : (s.modJob t j f).mem = s.mem := rfl
@[simp] theorem modJob_hostMem (t j : Nat) (f : Job → Job) : (s.modJob t j f).hostMem = s.hostMem := rfl
@[simp] theorem modJob_failedPages (t j : Nat) (f : Job → Job) : (s.modJob t j f).failedPages = s.failedPages := rfl
@[simp] theorem modJob_flaws (t j : Nat) (f : Job → Job) : (s.modJob t j f).flaws = s.flaws := rfl
@[simp] theorem modJob_pager (t j : Nat) (f : Job → Job) : (s.modJob t j f).pager = s.pager := rfl
@[simp] theorem modJob_nextFrame (t j : Nat) (f : Job → Job) : (s.modJob t j f).nextFrame = s.nextFrame := rfl
@[simp] theorem modJob_nextArea (t j : Nat) (f : Job → Job) : (s.modJob t j f).nextArea = s.nextArea := rfl
@[simp] theorem modJob_farPtes (t j : Nat) (f : Job → Job) : (s.modJob t j f).farPtes = s.farPtes := rfl
@[simp] theorem modJob_cores (t j : Nat) (f : Job → Job) : (s.modJob t j f).cores = s.cores := rfl
@[simp] theorem modJob_clusters (t j : Nat) (f : Job → Job) : (s.modJob t j f).clusters = s.clusters := rfl
@[simp] theorem modJob_dies (t j : Nat) (f : Job → Job) : (s.modJob t j f).dies = s.dies := rfl
@[simp] theorem modJob_migrations (t j : Nat) (f : Job → Job) : (s.modJob t j f).migrations = s.migrations := rfl
@[simp] theorem modJob_fen (t j : Nat) (f : Job → Job) : (s.modJob t j f).fen = s.fen := rfl
@[simp] theorem modJob_saved (t j : Nat) (f : Job → Job) : (s.modJob t j f).saved = s.saved := rfl
@[simp] theorem modJob_serviceDown (t j : Nat) (f : Job → Job) : (s.modJob t j f).serviceDown = s.serviceDown := rfl
@[simp] theorem modJob_kilnDown (t j : Nat) (f : Job → Job) : (s.modJob t j f).kilnDown = s.kilnDown := rfl
@[simp] theorem modJob_stackDown (t j : Nat) (f : Job → Job) : (s.modJob t j f).stackDown = s.stackDown := rfl
@[simp] theorem modJob_tenants (t j : Nat) (f : Job → Job) : (s.modJob t j f).tenants = s.tenants := rfl
@[simp] theorem modJob_ctxs (t j : Nat) (f : Job → Job) : (s.modJob t j f).ctxs = s.ctxs := rfl
@[simp] theorem modJob_images (t j : Nat) (f : Job → Job) : (s.modJob t j f).images = s.images := rfl
@[simp] theorem modJob_graphs (t j : Nat) (f : Job → Job) : (s.modJob t j f).graphs = s.graphs := rfl
@[simp] theorem modJob_launches (t j : Nat) (f : Job → Job) : (s.modJob t j f).launches = s.launches := rfl
@[simp] theorem modJob_journal (t j : Nat) (f : Job → Job) : (s.modJob t j f).journal = s.journal := rfl
@[simp] theorem modJob_journalOk (t j : Nat) (f : Job → Job) : (s.modJob t j f).journalOk = s.journalOk := rfl
@[simp] theorem modJob_journalAt (t j : Nat) (f : Job → Job) : (s.modJob t j f).journalAt = s.journalAt := rfl
@[simp] theorem modJob_fns (t j : Nat) (f : Job → Job) : (s.modJob t j f).fns = s.fns := rfl
@[simp] theorem modJob_pfReports (t j : Nat) (f : Job → Job) : (s.modJob t j f).pfReports = s.pfReports := rfl
@[simp] theorem modJob_pfRecs (t j : Nat) (f : Job → Job) : (s.modJob t j f).pfRecs = s.pfRecs := rfl
@[simp] theorem modJob_witness (t j : Nat) (f : Job → Job) : (s.modJob t j f).witness = s.witness := rfl
@[simp] theorem modJob_witnessRing (t j : Nat) (f : Job → Job) : (s.modJob t j f).witnessRing = s.witnessRing := rfl
@[simp] theorem modJob_witnessNext (t j : Nat) (f : Job → Job) : (s.modJob t j f).witnessNext = s.witnessNext := rfl
@[simp] theorem modJob_quantum (t j : Nat) (f : Job → Job) : (s.modJob t j f).quantum = s.quantum := rfl
@[simp] theorem modJob_quantumEnd (t j : Nat) (f : Job → Job) : (s.modJob t j f).quantumEnd = s.quantumEnd := rfl
@[simp] theorem modJob_requests (t j : Nat) (f : Job → Job) : (s.modJob t j f).requests = s.requests := rfl
@[simp] theorem modJob_heldReplies (t j : Nat) (f : Job → Job) : (s.modJob t j f).heldReplies = s.heldReplies := rfl
@[simp] theorem modJob_awaits (t j : Nat) (f : Job → Job) : (s.modJob t j f).awaits = s.awaits := rfl
@[simp] theorem modJob_owedAcks (t j : Nat) (f : Job → Job) : (s.modJob t j f).owedAcks = s.owedAcks := rfl
@[simp] theorem modJob_tasks (t j : Nat) (f : Job → Job) : (s.modJob t j f).tasks = s.tasks := rfl
@[simp] theorem modJob_kiln (t j : Nat) (f : Job → Job) : (s.modJob t j f).kiln = s.kiln := rfl
@[simp] theorem modJob_kilnAsks (t j : Nat) (f : Job → Job) : (s.modJob t j f).kilnAsks = s.kilnAsks := rfl
@[simp] theorem modJob_kilnWaiting (t j : Nat) (f : Job → Job) : (s.modJob t j f).kilnWaiting = s.kilnWaiting := rfl
@[simp] theorem modJob_glazeth (t j : Nat) (f : Job → Job) : (s.modJob t j f).glazeth = s.glazeth := rfl
@[simp] theorem modJob_aliasth (t j : Nat) (f : Job → Job) : (s.modJob t j f).aliasth = s.aliasth := rfl
@[simp] theorem modJob_newestCounts (t j : Nat) (f : Job → Job) : (s.modJob t j f).newestCounts = s.newestCounts := rfl
@[simp] theorem modJob_bootStage (t j : Nat) (f : Job → Job) : (s.modJob t j f).bootStage = s.bootStage := rfl
@[simp] theorem modJob_bootFailed (t j : Nat) (f : Job → Job) : (s.modJob t j f).bootFailed = s.bootFailed := rfl
@[simp] theorem modJob_minSvn (t j : Nat) (f : Job → Job) : (s.modJob t j f).minSvn = s.minSvn := rfl
@[simp] theorem modJob_measures (t j : Nat) (f : Job → Job) : (s.modJob t j f).measures = s.measures := rfl
@[simp] theorem modJob_measureLog (t j : Nat) (f : Job → Job) : (s.modJob t j f).measureLog = s.measureLog := rfl
@[simp] theorem modJob_spdm (t j : Nat) (f : Job → Job) : (s.modJob t j f).spdm = s.spdm := rfl
@[simp] theorem modJob_keys (t j : Nat) (f : Job → Job) : (s.modJob t j f).keys = s.keys := rfl
@[simp] theorem modJob_links (t j : Nat) (f : Job → Job) : (s.modJob t j f).links = s.links := rfl
@[simp] theorem modJob_detours (t j : Nat) (f : Job → Job) : (s.modJob t j f).detours = s.detours := rfl
@[simp] theorem modJob_streams (t j : Nat) (f : Job → Job) : (s.modJob t j f).streams = s.streams := rfl
@[simp] theorem modJob_remotes (t j : Nat) (f : Job → Job) : (s.modJob t j f).remotes = s.remotes := rfl
@[simp] theorem modJob_nextTag (t j : Nat) (f : Job → Job) : (s.modJob t j f).nextTag = s.nextTag := rfl
@[simp] theorem modJob_highsOwed (t j : Nat) (f : Job → Job) : (s.modJob t j f).highsOwed = s.highsOwed := rfl
@[simp] theorem modJob_nextTicket (t j : Nat) (f : Job → Job) : (s.modJob t j f).nextTicket = s.nextTicket := rfl
@[simp] theorem modJob_doneTicket (t j : Nat) (f : Job → Job) : (s.modJob t j f).doneTicket = s.doneTicket := rfl
@[simp] theorem modJob_ticketWaits (t j : Nat) (f : Job → Job) : (s.modJob t j f).ticketWaits = s.ticketWaits := rfl

@[simp] theorem push_cur (e : Event) : (s.push e).cur = s.cur := rfl
@[simp] theorem push_sched (e : Event) : (s.push e).sched = s.sched := rfl
@[simp] theorem push_free (e : Event) : (s.push e).free = s.free := rfl
@[simp] theorem push_uids (e : Event) : (s.push e).uids = s.uids := rfl
@[simp] theorem push_ck (e : Event) : (s.push e).ck = s.ck := rfl
@[simp] theorem push_ticks (e : Event) : (s.push e).ticks = s.ticks := rfl
@[simp] theorem push_powered (e : Event) : (s.push e).powered = s.powered := rfl
@[simp] theorem push_tripped (e : Event) : (s.push e).tripped = s.tripped := rfl
@[simp] theorem push_powerCap (e : Event) : (s.push e).powerCap = s.powerCap := rfl
@[simp] theorem push_self (e : Event) : (s.push e).self = s.self := rfl
@[simp] theorem push_npkg (e : Event) : (s.push e).npkg = s.npkg := rfl
@[simp] theorem push_live (e : Event) : (s.push e).live = s.live := rfl
@[simp] theorem push_suspects (e : Event) : (s.push e).suspects = s.suspects := rfl
@[simp] theorem push_lastHeard (e : Event) : (s.push e).lastHeard = s.lastHeard := rfl
@[simp] theorem push_mem (e : Event) : (s.push e).mem = s.mem := rfl
@[simp] theorem push_hostMem (e : Event) : (s.push e).hostMem = s.hostMem := rfl
@[simp] theorem push_failedPages (e : Event) : (s.push e).failedPages = s.failedPages := rfl
@[simp] theorem push_flaws (e : Event) : (s.push e).flaws = s.flaws := rfl
@[simp] theorem push_pager (e : Event) : (s.push e).pager = s.pager := rfl
@[simp] theorem push_nextFrame (e : Event) : (s.push e).nextFrame = s.nextFrame := rfl
@[simp] theorem push_nextArea (e : Event) : (s.push e).nextArea = s.nextArea := rfl
@[simp] theorem push_farPtes (e : Event) : (s.push e).farPtes = s.farPtes := rfl
@[simp] theorem push_cores (e : Event) : (s.push e).cores = s.cores := rfl
@[simp] theorem push_clusters (e : Event) : (s.push e).clusters = s.clusters := rfl
@[simp] theorem push_dies (e : Event) : (s.push e).dies = s.dies := rfl
@[simp] theorem push_migrations (e : Event) : (s.push e).migrations = s.migrations := rfl
@[simp] theorem push_fen (e : Event) : (s.push e).fen = s.fen := rfl
@[simp] theorem push_saved (e : Event) : (s.push e).saved = s.saved := rfl
@[simp] theorem push_serviceDown (e : Event) : (s.push e).serviceDown = s.serviceDown := rfl
@[simp] theorem push_kilnDown (e : Event) : (s.push e).kilnDown = s.kilnDown := rfl
@[simp] theorem push_stackDown (e : Event) : (s.push e).stackDown = s.stackDown := rfl
@[simp] theorem push_tenants (e : Event) : (s.push e).tenants = s.tenants := rfl
@[simp] theorem push_ctxs (e : Event) : (s.push e).ctxs = s.ctxs := rfl
@[simp] theorem push_images (e : Event) : (s.push e).images = s.images := rfl
@[simp] theorem push_graphs (e : Event) : (s.push e).graphs = s.graphs := rfl
@[simp] theorem push_jobs (e : Event) : (s.push e).jobs = s.jobs := rfl
@[simp] theorem push_launches (e : Event) : (s.push e).launches = s.launches := rfl
@[simp] theorem push_journal (e : Event) : (s.push e).journal = s.journal := rfl
@[simp] theorem push_journalOk (e : Event) : (s.push e).journalOk = s.journalOk := rfl
@[simp] theorem push_journalAt (e : Event) : (s.push e).journalAt = s.journalAt := rfl
@[simp] theorem push_fns (e : Event) : (s.push e).fns = s.fns := rfl
@[simp] theorem push_pfReports (e : Event) : (s.push e).pfReports = s.pfReports := rfl
@[simp] theorem push_pfRecs (e : Event) : (s.push e).pfRecs = s.pfRecs := rfl
@[simp] theorem push_witness (e : Event) : (s.push e).witness = s.witness := rfl
@[simp] theorem push_witnessRing (e : Event) : (s.push e).witnessRing = s.witnessRing := rfl
@[simp] theorem push_witnessNext (e : Event) : (s.push e).witnessNext = s.witnessNext := rfl
@[simp] theorem push_quantum (e : Event) : (s.push e).quantum = s.quantum := rfl
@[simp] theorem push_quantumEnd (e : Event) : (s.push e).quantumEnd = s.quantumEnd := rfl
@[simp] theorem push_requests (e : Event) : (s.push e).requests = s.requests := rfl
@[simp] theorem push_heldReplies (e : Event) : (s.push e).heldReplies = s.heldReplies := rfl
@[simp] theorem push_awaits (e : Event) : (s.push e).awaits = s.awaits := rfl
@[simp] theorem push_owedAcks (e : Event) : (s.push e).owedAcks = s.owedAcks := rfl
@[simp] theorem push_tasks (e : Event) : (s.push e).tasks = s.tasks := rfl
@[simp] theorem push_kiln (e : Event) : (s.push e).kiln = s.kiln := rfl
@[simp] theorem push_kilnAsks (e : Event) : (s.push e).kilnAsks = s.kilnAsks := rfl
@[simp] theorem push_kilnWaiting (e : Event) : (s.push e).kilnWaiting = s.kilnWaiting := rfl
@[simp] theorem push_glazeth (e : Event) : (s.push e).glazeth = s.glazeth := rfl
@[simp] theorem push_aliasth (e : Event) : (s.push e).aliasth = s.aliasth := rfl
@[simp] theorem push_newestCounts (e : Event) : (s.push e).newestCounts = s.newestCounts := rfl
@[simp] theorem push_bootStage (e : Event) : (s.push e).bootStage = s.bootStage := rfl
@[simp] theorem push_bootFailed (e : Event) : (s.push e).bootFailed = s.bootFailed := rfl
@[simp] theorem push_minSvn (e : Event) : (s.push e).minSvn = s.minSvn := rfl
@[simp] theorem push_measures (e : Event) : (s.push e).measures = s.measures := rfl
@[simp] theorem push_measureLog (e : Event) : (s.push e).measureLog = s.measureLog := rfl
@[simp] theorem push_spdm (e : Event) : (s.push e).spdm = s.spdm := rfl
@[simp] theorem push_keys (e : Event) : (s.push e).keys = s.keys := rfl
@[simp] theorem push_links (e : Event) : (s.push e).links = s.links := rfl
@[simp] theorem push_detours (e : Event) : (s.push e).detours = s.detours := rfl
@[simp] theorem push_streams (e : Event) : (s.push e).streams = s.streams := rfl
@[simp] theorem push_remotes (e : Event) : (s.push e).remotes = s.remotes := rfl
@[simp] theorem push_nextTag (e : Event) : (s.push e).nextTag = s.nextTag := rfl
@[simp] theorem push_highsOwed (e : Event) : (s.push e).highsOwed = s.highsOwed := rfl
@[simp] theorem push_nextTicket (e : Event) : (s.push e).nextTicket = s.nextTicket := rfl
@[simp] theorem push_doneTicket (e : Event) : (s.push e).doneTicket = s.doneTicket := rfl
@[simp] theorem push_ticketWaits (e : Event) : (s.push e).ticketWaits = s.ticketWaits := rfl

@[simp] theorem pushAll_cur (es : List Event) : (s.pushAll es).cur = s.cur := rfl
@[simp] theorem pushAll_sched (es : List Event) : (s.pushAll es).sched = s.sched := rfl
@[simp] theorem pushAll_free (es : List Event) : (s.pushAll es).free = s.free := rfl
@[simp] theorem pushAll_uids (es : List Event) : (s.pushAll es).uids = s.uids := rfl
@[simp] theorem pushAll_ck (es : List Event) : (s.pushAll es).ck = s.ck := rfl
@[simp] theorem pushAll_ticks (es : List Event) : (s.pushAll es).ticks = s.ticks := rfl
@[simp] theorem pushAll_powered (es : List Event) : (s.pushAll es).powered = s.powered := rfl
@[simp] theorem pushAll_tripped (es : List Event) : (s.pushAll es).tripped = s.tripped := rfl
@[simp] theorem pushAll_powerCap (es : List Event) : (s.pushAll es).powerCap = s.powerCap := rfl
@[simp] theorem pushAll_self (es : List Event) : (s.pushAll es).self = s.self := rfl
@[simp] theorem pushAll_npkg (es : List Event) : (s.pushAll es).npkg = s.npkg := rfl
@[simp] theorem pushAll_live (es : List Event) : (s.pushAll es).live = s.live := rfl
@[simp] theorem pushAll_suspects (es : List Event) : (s.pushAll es).suspects = s.suspects := rfl
@[simp] theorem pushAll_lastHeard (es : List Event) : (s.pushAll es).lastHeard = s.lastHeard := rfl
@[simp] theorem pushAll_mem (es : List Event) : (s.pushAll es).mem = s.mem := rfl
@[simp] theorem pushAll_hostMem (es : List Event) : (s.pushAll es).hostMem = s.hostMem := rfl
@[simp] theorem pushAll_failedPages (es : List Event) : (s.pushAll es).failedPages = s.failedPages := rfl
@[simp] theorem pushAll_flaws (es : List Event) : (s.pushAll es).flaws = s.flaws := rfl
@[simp] theorem pushAll_pager (es : List Event) : (s.pushAll es).pager = s.pager := rfl
@[simp] theorem pushAll_nextFrame (es : List Event) : (s.pushAll es).nextFrame = s.nextFrame := rfl
@[simp] theorem pushAll_nextArea (es : List Event) : (s.pushAll es).nextArea = s.nextArea := rfl
@[simp] theorem pushAll_farPtes (es : List Event) : (s.pushAll es).farPtes = s.farPtes := rfl
@[simp] theorem pushAll_cores (es : List Event) : (s.pushAll es).cores = s.cores := rfl
@[simp] theorem pushAll_clusters (es : List Event) : (s.pushAll es).clusters = s.clusters := rfl
@[simp] theorem pushAll_dies (es : List Event) : (s.pushAll es).dies = s.dies := rfl
@[simp] theorem pushAll_migrations (es : List Event) : (s.pushAll es).migrations = s.migrations := rfl
@[simp] theorem pushAll_fen (es : List Event) : (s.pushAll es).fen = s.fen := rfl
@[simp] theorem pushAll_saved (es : List Event) : (s.pushAll es).saved = s.saved := rfl
@[simp] theorem pushAll_serviceDown (es : List Event) : (s.pushAll es).serviceDown = s.serviceDown := rfl
@[simp] theorem pushAll_kilnDown (es : List Event) : (s.pushAll es).kilnDown = s.kilnDown := rfl
@[simp] theorem pushAll_stackDown (es : List Event) : (s.pushAll es).stackDown = s.stackDown := rfl
@[simp] theorem pushAll_tenants (es : List Event) : (s.pushAll es).tenants = s.tenants := rfl
@[simp] theorem pushAll_ctxs (es : List Event) : (s.pushAll es).ctxs = s.ctxs := rfl
@[simp] theorem pushAll_images (es : List Event) : (s.pushAll es).images = s.images := rfl
@[simp] theorem pushAll_graphs (es : List Event) : (s.pushAll es).graphs = s.graphs := rfl
@[simp] theorem pushAll_jobs (es : List Event) : (s.pushAll es).jobs = s.jobs := rfl
@[simp] theorem pushAll_launches (es : List Event) : (s.pushAll es).launches = s.launches := rfl
@[simp] theorem pushAll_journal (es : List Event) : (s.pushAll es).journal = s.journal := rfl
@[simp] theorem pushAll_journalOk (es : List Event) : (s.pushAll es).journalOk = s.journalOk := rfl
@[simp] theorem pushAll_journalAt (es : List Event) : (s.pushAll es).journalAt = s.journalAt := rfl
@[simp] theorem pushAll_fns (es : List Event) : (s.pushAll es).fns = s.fns := rfl
@[simp] theorem pushAll_pfReports (es : List Event) : (s.pushAll es).pfReports = s.pfReports := rfl
@[simp] theorem pushAll_pfRecs (es : List Event) : (s.pushAll es).pfRecs = s.pfRecs := rfl
@[simp] theorem pushAll_witness (es : List Event) : (s.pushAll es).witness = s.witness := rfl
@[simp] theorem pushAll_witnessRing (es : List Event) : (s.pushAll es).witnessRing = s.witnessRing := rfl
@[simp] theorem pushAll_witnessNext (es : List Event) : (s.pushAll es).witnessNext = s.witnessNext := rfl
@[simp] theorem pushAll_quantum (es : List Event) : (s.pushAll es).quantum = s.quantum := rfl
@[simp] theorem pushAll_quantumEnd (es : List Event) : (s.pushAll es).quantumEnd = s.quantumEnd := rfl
@[simp] theorem pushAll_requests (es : List Event) : (s.pushAll es).requests = s.requests := rfl
@[simp] theorem pushAll_heldReplies (es : List Event) : (s.pushAll es).heldReplies = s.heldReplies := rfl
@[simp] theorem pushAll_awaits (es : List Event) : (s.pushAll es).awaits = s.awaits := rfl
@[simp] theorem pushAll_owedAcks (es : List Event) : (s.pushAll es).owedAcks = s.owedAcks := rfl
@[simp] theorem pushAll_tasks (es : List Event) : (s.pushAll es).tasks = s.tasks := rfl
@[simp] theorem pushAll_kiln (es : List Event) : (s.pushAll es).kiln = s.kiln := rfl
@[simp] theorem pushAll_kilnAsks (es : List Event) : (s.pushAll es).kilnAsks = s.kilnAsks := rfl
@[simp] theorem pushAll_kilnWaiting (es : List Event) : (s.pushAll es).kilnWaiting = s.kilnWaiting := rfl
@[simp] theorem pushAll_glazeth (es : List Event) : (s.pushAll es).glazeth = s.glazeth := rfl
@[simp] theorem pushAll_aliasth (es : List Event) : (s.pushAll es).aliasth = s.aliasth := rfl
@[simp] theorem pushAll_newestCounts (es : List Event) : (s.pushAll es).newestCounts = s.newestCounts := rfl
@[simp] theorem pushAll_bootStage (es : List Event) : (s.pushAll es).bootStage = s.bootStage := rfl
@[simp] theorem pushAll_bootFailed (es : List Event) : (s.pushAll es).bootFailed = s.bootFailed := rfl
@[simp] theorem pushAll_minSvn (es : List Event) : (s.pushAll es).minSvn = s.minSvn := rfl
@[simp] theorem pushAll_measures (es : List Event) : (s.pushAll es).measures = s.measures := rfl
@[simp] theorem pushAll_measureLog (es : List Event) : (s.pushAll es).measureLog = s.measureLog := rfl
@[simp] theorem pushAll_spdm (es : List Event) : (s.pushAll es).spdm = s.spdm := rfl
@[simp] theorem pushAll_keys (es : List Event) : (s.pushAll es).keys = s.keys := rfl
@[simp] theorem pushAll_links (es : List Event) : (s.pushAll es).links = s.links := rfl
@[simp] theorem pushAll_detours (es : List Event) : (s.pushAll es).detours = s.detours := rfl
@[simp] theorem pushAll_streams (es : List Event) : (s.pushAll es).streams = s.streams := rfl
@[simp] theorem pushAll_remotes (es : List Event) : (s.pushAll es).remotes = s.remotes := rfl
@[simp] theorem pushAll_nextTag (es : List Event) : (s.pushAll es).nextTag = s.nextTag := rfl
@[simp] theorem pushAll_highsOwed (es : List Event) : (s.pushAll es).highsOwed = s.highsOwed := rfl
@[simp] theorem pushAll_nextTicket (es : List Event) : (s.pushAll es).nextTicket = s.nextTicket := rfl
@[simp] theorem pushAll_doneTicket (es : List Event) : (s.pushAll es).doneTicket = s.doneTicket := rfl
@[simp] theorem pushAll_ticketWaits (es : List Event) : (s.pushAll es).ticketWaits = s.ticketWaits := rfl

@[simp] theorem wr_cur (pa n v : Nat) : (s.wr pa n v).cur = s.cur := rfl
@[simp] theorem wr_agenda (pa n v : Nat) : (s.wr pa n v).agenda = s.agenda := rfl
@[simp] theorem wr_sched (pa n v : Nat) : (s.wr pa n v).sched = s.sched := rfl
@[simp] theorem wr_free (pa n v : Nat) : (s.wr pa n v).free = s.free := rfl
@[simp] theorem wr_uids (pa n v : Nat) : (s.wr pa n v).uids = s.uids := rfl
@[simp] theorem wr_ck (pa n v : Nat) : (s.wr pa n v).ck = s.ck := rfl
@[simp] theorem wr_ticks (pa n v : Nat) : (s.wr pa n v).ticks = s.ticks := rfl
@[simp] theorem wr_powered (pa n v : Nat) : (s.wr pa n v).powered = s.powered := rfl
@[simp] theorem wr_tripped (pa n v : Nat) : (s.wr pa n v).tripped = s.tripped := rfl
@[simp] theorem wr_powerCap (pa n v : Nat) : (s.wr pa n v).powerCap = s.powerCap := rfl
@[simp] theorem wr_self (pa n v : Nat) : (s.wr pa n v).self = s.self := rfl
@[simp] theorem wr_npkg (pa n v : Nat) : (s.wr pa n v).npkg = s.npkg := rfl
@[simp] theorem wr_live (pa n v : Nat) : (s.wr pa n v).live = s.live := rfl
@[simp] theorem wr_suspects (pa n v : Nat) : (s.wr pa n v).suspects = s.suspects := rfl
@[simp] theorem wr_lastHeard (pa n v : Nat) : (s.wr pa n v).lastHeard = s.lastHeard := rfl
@[simp] theorem wr_hostMem (pa n v : Nat) : (s.wr pa n v).hostMem = s.hostMem := rfl
@[simp] theorem wr_failedPages (pa n v : Nat) : (s.wr pa n v).failedPages = s.failedPages := rfl
@[simp] theorem wr_flaws (pa n v : Nat) : (s.wr pa n v).flaws = s.flaws := rfl
@[simp] theorem wr_pager (pa n v : Nat) : (s.wr pa n v).pager = s.pager := rfl
@[simp] theorem wr_nextFrame (pa n v : Nat) : (s.wr pa n v).nextFrame = s.nextFrame := rfl
@[simp] theorem wr_nextArea (pa n v : Nat) : (s.wr pa n v).nextArea = s.nextArea := rfl
@[simp] theorem wr_farPtes (pa n v : Nat) : (s.wr pa n v).farPtes = s.farPtes := rfl
@[simp] theorem wr_cores (pa n v : Nat) : (s.wr pa n v).cores = s.cores := rfl
@[simp] theorem wr_clusters (pa n v : Nat) : (s.wr pa n v).clusters = s.clusters := rfl
@[simp] theorem wr_dies (pa n v : Nat) : (s.wr pa n v).dies = s.dies := rfl
@[simp] theorem wr_migrations (pa n v : Nat) : (s.wr pa n v).migrations = s.migrations := rfl
@[simp] theorem wr_fen (pa n v : Nat) : (s.wr pa n v).fen = s.fen := rfl
@[simp] theorem wr_saved (pa n v : Nat) : (s.wr pa n v).saved = s.saved := rfl
@[simp] theorem wr_serviceDown (pa n v : Nat) : (s.wr pa n v).serviceDown = s.serviceDown := rfl
@[simp] theorem wr_kilnDown (pa n v : Nat) : (s.wr pa n v).kilnDown = s.kilnDown := rfl
@[simp] theorem wr_stackDown (pa n v : Nat) : (s.wr pa n v).stackDown = s.stackDown := rfl
@[simp] theorem wr_tenants (pa n v : Nat) : (s.wr pa n v).tenants = s.tenants := rfl
@[simp] theorem wr_ctxs (pa n v : Nat) : (s.wr pa n v).ctxs = s.ctxs := rfl
@[simp] theorem wr_images (pa n v : Nat) : (s.wr pa n v).images = s.images := rfl
@[simp] theorem wr_graphs (pa n v : Nat) : (s.wr pa n v).graphs = s.graphs := rfl
@[simp] theorem wr_jobs (pa n v : Nat) : (s.wr pa n v).jobs = s.jobs := rfl
@[simp] theorem wr_launches (pa n v : Nat) : (s.wr pa n v).launches = s.launches := rfl
@[simp] theorem wr_journal (pa n v : Nat) : (s.wr pa n v).journal = s.journal := rfl
@[simp] theorem wr_journalOk (pa n v : Nat) : (s.wr pa n v).journalOk = s.journalOk := rfl
@[simp] theorem wr_journalAt (pa n v : Nat) : (s.wr pa n v).journalAt = s.journalAt := rfl
@[simp] theorem wr_fns (pa n v : Nat) : (s.wr pa n v).fns = s.fns := rfl
@[simp] theorem wr_pfReports (pa n v : Nat) : (s.wr pa n v).pfReports = s.pfReports := rfl
@[simp] theorem wr_pfRecs (pa n v : Nat) : (s.wr pa n v).pfRecs = s.pfRecs := rfl
@[simp] theorem wr_witness (pa n v : Nat) : (s.wr pa n v).witness = s.witness := rfl
@[simp] theorem wr_witnessRing (pa n v : Nat) : (s.wr pa n v).witnessRing = s.witnessRing := rfl
@[simp] theorem wr_witnessNext (pa n v : Nat) : (s.wr pa n v).witnessNext = s.witnessNext := rfl
@[simp] theorem wr_quantum (pa n v : Nat) : (s.wr pa n v).quantum = s.quantum := rfl
@[simp] theorem wr_quantumEnd (pa n v : Nat) : (s.wr pa n v).quantumEnd = s.quantumEnd := rfl
@[simp] theorem wr_requests (pa n v : Nat) : (s.wr pa n v).requests = s.requests := rfl
@[simp] theorem wr_heldReplies (pa n v : Nat) : (s.wr pa n v).heldReplies = s.heldReplies := rfl
@[simp] theorem wr_awaits (pa n v : Nat) : (s.wr pa n v).awaits = s.awaits := rfl
@[simp] theorem wr_owedAcks (pa n v : Nat) : (s.wr pa n v).owedAcks = s.owedAcks := rfl
@[simp] theorem wr_tasks (pa n v : Nat) : (s.wr pa n v).tasks = s.tasks := rfl
@[simp] theorem wr_kiln (pa n v : Nat) : (s.wr pa n v).kiln = s.kiln := rfl
@[simp] theorem wr_kilnAsks (pa n v : Nat) : (s.wr pa n v).kilnAsks = s.kilnAsks := rfl
@[simp] theorem wr_kilnWaiting (pa n v : Nat) : (s.wr pa n v).kilnWaiting = s.kilnWaiting := rfl
@[simp] theorem wr_glazeth (pa n v : Nat) : (s.wr pa n v).glazeth = s.glazeth := rfl
@[simp] theorem wr_aliasth (pa n v : Nat) : (s.wr pa n v).aliasth = s.aliasth := rfl
@[simp] theorem wr_newestCounts (pa n v : Nat) : (s.wr pa n v).newestCounts = s.newestCounts := rfl
@[simp] theorem wr_bootStage (pa n v : Nat) : (s.wr pa n v).bootStage = s.bootStage := rfl
@[simp] theorem wr_bootFailed (pa n v : Nat) : (s.wr pa n v).bootFailed = s.bootFailed := rfl
@[simp] theorem wr_minSvn (pa n v : Nat) : (s.wr pa n v).minSvn = s.minSvn := rfl
@[simp] theorem wr_measures (pa n v : Nat) : (s.wr pa n v).measures = s.measures := rfl
@[simp] theorem wr_measureLog (pa n v : Nat) : (s.wr pa n v).measureLog = s.measureLog := rfl
@[simp] theorem wr_spdm (pa n v : Nat) : (s.wr pa n v).spdm = s.spdm := rfl
@[simp] theorem wr_keys (pa n v : Nat) : (s.wr pa n v).keys = s.keys := rfl
@[simp] theorem wr_links (pa n v : Nat) : (s.wr pa n v).links = s.links := rfl
@[simp] theorem wr_detours (pa n v : Nat) : (s.wr pa n v).detours = s.detours := rfl
@[simp] theorem wr_streams (pa n v : Nat) : (s.wr pa n v).streams = s.streams := rfl
@[simp] theorem wr_remotes (pa n v : Nat) : (s.wr pa n v).remotes = s.remotes := rfl
@[simp] theorem wr_nextTag (pa n v : Nat) : (s.wr pa n v).nextTag = s.nextTag := rfl
@[simp] theorem wr_highsOwed (pa n v : Nat) : (s.wr pa n v).highsOwed = s.highsOwed := rfl
@[simp] theorem wr_nextTicket (pa n v : Nat) : (s.wr pa n v).nextTicket = s.nextTicket := rfl
@[simp] theorem wr_doneTicket (pa n v : Nat) : (s.wr pa n v).doneTicket = s.doneTicket := rfl
@[simp] theorem wr_ticketWaits (pa n v : Nat) : (s.wr pa n v).ticketWaits = s.ticketWaits := rfl

@[simp] theorem wrBytes_cur (pa : Nat) (bs : List Byte) : (s.wrBytes pa bs).cur = s.cur := rfl
@[simp] theorem wrBytes_agenda (pa : Nat) (bs : List Byte) : (s.wrBytes pa bs).agenda = s.agenda := rfl
@[simp] theorem wrBytes_sched (pa : Nat) (bs : List Byte) : (s.wrBytes pa bs).sched = s.sched := rfl
@[simp] theorem wrBytes_free (pa : Nat) (bs : List Byte) : (s.wrBytes pa bs).free = s.free := rfl
@[simp] theorem wrBytes_uids (pa : Nat) (bs : List Byte) : (s.wrBytes pa bs).uids = s.uids := rfl
@[simp] theorem wrBytes_ck (pa : Nat) (bs : List Byte) : (s.wrBytes pa bs).ck = s.ck := rfl
@[simp] theorem wrBytes_ticks (pa : Nat) (bs : List Byte) : (s.wrBytes pa bs).ticks = s.ticks := rfl
@[simp] theorem wrBytes_powered (pa : Nat) (bs : List Byte) : (s.wrBytes pa bs).powered = s.powered := rfl
@[simp] theorem wrBytes_tripped (pa : Nat) (bs : List Byte) : (s.wrBytes pa bs).tripped = s.tripped := rfl
@[simp] theorem wrBytes_powerCap (pa : Nat) (bs : List Byte) : (s.wrBytes pa bs).powerCap = s.powerCap := rfl
@[simp] theorem wrBytes_self (pa : Nat) (bs : List Byte) : (s.wrBytes pa bs).self = s.self := rfl
@[simp] theorem wrBytes_npkg (pa : Nat) (bs : List Byte) : (s.wrBytes pa bs).npkg = s.npkg := rfl
@[simp] theorem wrBytes_live (pa : Nat) (bs : List Byte) : (s.wrBytes pa bs).live = s.live := rfl
@[simp] theorem wrBytes_suspects (pa : Nat) (bs : List Byte) : (s.wrBytes pa bs).suspects = s.suspects := rfl
@[simp] theorem wrBytes_lastHeard (pa : Nat) (bs : List Byte) : (s.wrBytes pa bs).lastHeard = s.lastHeard := rfl
@[simp] theorem wrBytes_hostMem (pa : Nat) (bs : List Byte) : (s.wrBytes pa bs).hostMem = s.hostMem := rfl
@[simp] theorem wrBytes_failedPages (pa : Nat) (bs : List Byte) : (s.wrBytes pa bs).failedPages = s.failedPages := rfl
@[simp] theorem wrBytes_flaws (pa : Nat) (bs : List Byte) : (s.wrBytes pa bs).flaws = s.flaws := rfl
@[simp] theorem wrBytes_pager (pa : Nat) (bs : List Byte) : (s.wrBytes pa bs).pager = s.pager := rfl
@[simp] theorem wrBytes_nextFrame (pa : Nat) (bs : List Byte) : (s.wrBytes pa bs).nextFrame = s.nextFrame := rfl
@[simp] theorem wrBytes_nextArea (pa : Nat) (bs : List Byte) : (s.wrBytes pa bs).nextArea = s.nextArea := rfl
@[simp] theorem wrBytes_farPtes (pa : Nat) (bs : List Byte) : (s.wrBytes pa bs).farPtes = s.farPtes := rfl
@[simp] theorem wrBytes_cores (pa : Nat) (bs : List Byte) : (s.wrBytes pa bs).cores = s.cores := rfl
@[simp] theorem wrBytes_clusters (pa : Nat) (bs : List Byte) : (s.wrBytes pa bs).clusters = s.clusters := rfl
@[simp] theorem wrBytes_dies (pa : Nat) (bs : List Byte) : (s.wrBytes pa bs).dies = s.dies := rfl
@[simp] theorem wrBytes_migrations (pa : Nat) (bs : List Byte) : (s.wrBytes pa bs).migrations = s.migrations := rfl
@[simp] theorem wrBytes_fen (pa : Nat) (bs : List Byte) : (s.wrBytes pa bs).fen = s.fen := rfl
@[simp] theorem wrBytes_saved (pa : Nat) (bs : List Byte) : (s.wrBytes pa bs).saved = s.saved := rfl
@[simp] theorem wrBytes_serviceDown (pa : Nat) (bs : List Byte) : (s.wrBytes pa bs).serviceDown = s.serviceDown := rfl
@[simp] theorem wrBytes_kilnDown (pa : Nat) (bs : List Byte) : (s.wrBytes pa bs).kilnDown = s.kilnDown := rfl
@[simp] theorem wrBytes_stackDown (pa : Nat) (bs : List Byte) : (s.wrBytes pa bs).stackDown = s.stackDown := rfl
@[simp] theorem wrBytes_tenants (pa : Nat) (bs : List Byte) : (s.wrBytes pa bs).tenants = s.tenants := rfl
@[simp] theorem wrBytes_ctxs (pa : Nat) (bs : List Byte) : (s.wrBytes pa bs).ctxs = s.ctxs := rfl
@[simp] theorem wrBytes_images (pa : Nat) (bs : List Byte) : (s.wrBytes pa bs).images = s.images := rfl
@[simp] theorem wrBytes_graphs (pa : Nat) (bs : List Byte) : (s.wrBytes pa bs).graphs = s.graphs := rfl
@[simp] theorem wrBytes_jobs (pa : Nat) (bs : List Byte) : (s.wrBytes pa bs).jobs = s.jobs := rfl
@[simp] theorem wrBytes_launches (pa : Nat) (bs : List Byte) : (s.wrBytes pa bs).launches = s.launches := rfl
@[simp] theorem wrBytes_journal (pa : Nat) (bs : List Byte) : (s.wrBytes pa bs).journal = s.journal := rfl
@[simp] theorem wrBytes_journalOk (pa : Nat) (bs : List Byte) : (s.wrBytes pa bs).journalOk = s.journalOk := rfl
@[simp] theorem wrBytes_journalAt (pa : Nat) (bs : List Byte) : (s.wrBytes pa bs).journalAt = s.journalAt := rfl
@[simp] theorem wrBytes_fns (pa : Nat) (bs : List Byte) : (s.wrBytes pa bs).fns = s.fns := rfl
@[simp] theorem wrBytes_pfReports (pa : Nat) (bs : List Byte) : (s.wrBytes pa bs).pfReports = s.pfReports := rfl
@[simp] theorem wrBytes_pfRecs (pa : Nat) (bs : List Byte) : (s.wrBytes pa bs).pfRecs = s.pfRecs := rfl
@[simp] theorem wrBytes_witness (pa : Nat) (bs : List Byte) : (s.wrBytes pa bs).witness = s.witness := rfl
@[simp] theorem wrBytes_witnessRing (pa : Nat) (bs : List Byte) : (s.wrBytes pa bs).witnessRing = s.witnessRing := rfl
@[simp] theorem wrBytes_witnessNext (pa : Nat) (bs : List Byte) : (s.wrBytes pa bs).witnessNext = s.witnessNext := rfl
@[simp] theorem wrBytes_quantum (pa : Nat) (bs : List Byte) : (s.wrBytes pa bs).quantum = s.quantum := rfl
@[simp] theorem wrBytes_quantumEnd (pa : Nat) (bs : List Byte) : (s.wrBytes pa bs).quantumEnd = s.quantumEnd := rfl
@[simp] theorem wrBytes_requests (pa : Nat) (bs : List Byte) : (s.wrBytes pa bs).requests = s.requests := rfl
@[simp] theorem wrBytes_heldReplies (pa : Nat) (bs : List Byte) : (s.wrBytes pa bs).heldReplies = s.heldReplies := rfl
@[simp] theorem wrBytes_awaits (pa : Nat) (bs : List Byte) : (s.wrBytes pa bs).awaits = s.awaits := rfl
@[simp] theorem wrBytes_owedAcks (pa : Nat) (bs : List Byte) : (s.wrBytes pa bs).owedAcks = s.owedAcks := rfl
@[simp] theorem wrBytes_tasks (pa : Nat) (bs : List Byte) : (s.wrBytes pa bs).tasks = s.tasks := rfl
@[simp] theorem wrBytes_kiln (pa : Nat) (bs : List Byte) : (s.wrBytes pa bs).kiln = s.kiln := rfl
@[simp] theorem wrBytes_kilnAsks (pa : Nat) (bs : List Byte) : (s.wrBytes pa bs).kilnAsks = s.kilnAsks := rfl
@[simp] theorem wrBytes_kilnWaiting (pa : Nat) (bs : List Byte) : (s.wrBytes pa bs).kilnWaiting = s.kilnWaiting := rfl
@[simp] theorem wrBytes_glazeth (pa : Nat) (bs : List Byte) : (s.wrBytes pa bs).glazeth = s.glazeth := rfl
@[simp] theorem wrBytes_aliasth (pa : Nat) (bs : List Byte) : (s.wrBytes pa bs).aliasth = s.aliasth := rfl
@[simp] theorem wrBytes_newestCounts (pa : Nat) (bs : List Byte) : (s.wrBytes pa bs).newestCounts = s.newestCounts := rfl
@[simp] theorem wrBytes_bootStage (pa : Nat) (bs : List Byte) : (s.wrBytes pa bs).bootStage = s.bootStage := rfl
@[simp] theorem wrBytes_bootFailed (pa : Nat) (bs : List Byte) : (s.wrBytes pa bs).bootFailed = s.bootFailed := rfl
@[simp] theorem wrBytes_minSvn (pa : Nat) (bs : List Byte) : (s.wrBytes pa bs).minSvn = s.minSvn := rfl
@[simp] theorem wrBytes_measures (pa : Nat) (bs : List Byte) : (s.wrBytes pa bs).measures = s.measures := rfl
@[simp] theorem wrBytes_measureLog (pa : Nat) (bs : List Byte) : (s.wrBytes pa bs).measureLog = s.measureLog := rfl
@[simp] theorem wrBytes_spdm (pa : Nat) (bs : List Byte) : (s.wrBytes pa bs).spdm = s.spdm := rfl
@[simp] theorem wrBytes_keys (pa : Nat) (bs : List Byte) : (s.wrBytes pa bs).keys = s.keys := rfl
@[simp] theorem wrBytes_links (pa : Nat) (bs : List Byte) : (s.wrBytes pa bs).links = s.links := rfl
@[simp] theorem wrBytes_detours (pa : Nat) (bs : List Byte) : (s.wrBytes pa bs).detours = s.detours := rfl
@[simp] theorem wrBytes_streams (pa : Nat) (bs : List Byte) : (s.wrBytes pa bs).streams = s.streams := rfl
@[simp] theorem wrBytes_remotes (pa : Nat) (bs : List Byte) : (s.wrBytes pa bs).remotes = s.remotes := rfl
@[simp] theorem wrBytes_nextTag (pa : Nat) (bs : List Byte) : (s.wrBytes pa bs).nextTag = s.nextTag := rfl
@[simp] theorem wrBytes_highsOwed (pa : Nat) (bs : List Byte) : (s.wrBytes pa bs).highsOwed = s.highsOwed := rfl
@[simp] theorem wrBytes_nextTicket (pa : Nat) (bs : List Byte) : (s.wrBytes pa bs).nextTicket = s.nextTicket := rfl
@[simp] theorem wrBytes_doneTicket (pa : Nat) (bs : List Byte) : (s.wrBytes pa bs).doneTicket = s.doneTicket := rfl
@[simp] theorem wrBytes_ticketWaits (pa : Nat) (bs : List Byte) : (s.wrBytes pa bs).ticketWaits = s.ticketWaits := rfl

@[simp] theorem setGang_cur (c g : Nat) (x : Gang) : (s.setGang c g x).cur = s.cur := by
  unfold State.setGang; split <;> rfl
@[simp] theorem setGang_agenda (c g : Nat) (x : Gang) : (s.setGang c g x).agenda = s.agenda := by
  unfold State.setGang; split <;> rfl
@[simp] theorem setGang_sched (c g : Nat) (x : Gang) : (s.setGang c g x).sched = s.sched := by
  unfold State.setGang; split <;> rfl
@[simp] theorem setGang_free (c g : Nat) (x : Gang) : (s.setGang c g x).free = s.free := by
  unfold State.setGang; split <;> rfl
@[simp] theorem setGang_uids (c g : Nat) (x : Gang) : (s.setGang c g x).uids = s.uids := by
  unfold State.setGang; split <;> rfl
@[simp] theorem setGang_ck (c g : Nat) (x : Gang) : (s.setGang c g x).ck = s.ck := by
  unfold State.setGang; split <;> rfl
@[simp] theorem setGang_ticks (c g : Nat) (x : Gang) : (s.setGang c g x).ticks = s.ticks := by
  unfold State.setGang; split <;> rfl
@[simp] theorem setGang_powered (c g : Nat) (x : Gang) : (s.setGang c g x).powered = s.powered := by
  unfold State.setGang; split <;> rfl
@[simp] theorem setGang_tripped (c g : Nat) (x : Gang) : (s.setGang c g x).tripped = s.tripped := by
  unfold State.setGang; split <;> rfl
@[simp] theorem setGang_powerCap (c g : Nat) (x : Gang) : (s.setGang c g x).powerCap = s.powerCap := by
  unfold State.setGang; split <;> rfl
@[simp] theorem setGang_self (c g : Nat) (x : Gang) : (s.setGang c g x).self = s.self := by
  unfold State.setGang; split <;> rfl
@[simp] theorem setGang_npkg (c g : Nat) (x : Gang) : (s.setGang c g x).npkg = s.npkg := by
  unfold State.setGang; split <;> rfl
@[simp] theorem setGang_live (c g : Nat) (x : Gang) : (s.setGang c g x).live = s.live := by
  unfold State.setGang; split <;> rfl
@[simp] theorem setGang_suspects (c g : Nat) (x : Gang) : (s.setGang c g x).suspects = s.suspects := by
  unfold State.setGang; split <;> rfl
@[simp] theorem setGang_lastHeard (c g : Nat) (x : Gang) : (s.setGang c g x).lastHeard = s.lastHeard := by
  unfold State.setGang; split <;> rfl
@[simp] theorem setGang_mem (c g : Nat) (x : Gang) : (s.setGang c g x).mem = s.mem := by
  unfold State.setGang; split <;> rfl
@[simp] theorem setGang_hostMem (c g : Nat) (x : Gang) : (s.setGang c g x).hostMem = s.hostMem := by
  unfold State.setGang; split <;> rfl
@[simp] theorem setGang_failedPages (c g : Nat) (x : Gang) : (s.setGang c g x).failedPages = s.failedPages := by
  unfold State.setGang; split <;> rfl
@[simp] theorem setGang_flaws (c g : Nat) (x : Gang) : (s.setGang c g x).flaws = s.flaws := by
  unfold State.setGang; split <;> rfl
@[simp] theorem setGang_pager (c g : Nat) (x : Gang) : (s.setGang c g x).pager = s.pager := by
  unfold State.setGang; split <;> rfl
@[simp] theorem setGang_nextFrame (c g : Nat) (x : Gang) : (s.setGang c g x).nextFrame = s.nextFrame := by
  unfold State.setGang; split <;> rfl
@[simp] theorem setGang_nextArea (c g : Nat) (x : Gang) : (s.setGang c g x).nextArea = s.nextArea := by
  unfold State.setGang; split <;> rfl
@[simp] theorem setGang_farPtes (c g : Nat) (x : Gang) : (s.setGang c g x).farPtes = s.farPtes := by
  unfold State.setGang; split <;> rfl
@[simp] theorem setGang_clusters (c g : Nat) (x : Gang) : (s.setGang c g x).clusters = s.clusters := by
  unfold State.setGang; split <;> rfl
@[simp] theorem setGang_dies (c g : Nat) (x : Gang) : (s.setGang c g x).dies = s.dies := by
  unfold State.setGang; split <;> rfl
@[simp] theorem setGang_migrations (c g : Nat) (x : Gang) : (s.setGang c g x).migrations = s.migrations := by
  unfold State.setGang; split <;> rfl
@[simp] theorem setGang_fen (c g : Nat) (x : Gang) : (s.setGang c g x).fen = s.fen := by
  unfold State.setGang; split <;> rfl
@[simp] theorem setGang_saved (c g : Nat) (x : Gang) : (s.setGang c g x).saved = s.saved := by
  unfold State.setGang; split <;> rfl
@[simp] theorem setGang_serviceDown (c g : Nat) (x : Gang) : (s.setGang c g x).serviceDown = s.serviceDown := by
  unfold State.setGang; split <;> rfl
@[simp] theorem setGang_kilnDown (c g : Nat) (x : Gang) : (s.setGang c g x).kilnDown = s.kilnDown := by
  unfold State.setGang; split <;> rfl
@[simp] theorem setGang_stackDown (c g : Nat) (x : Gang) : (s.setGang c g x).stackDown = s.stackDown := by
  unfold State.setGang; split <;> rfl
@[simp] theorem setGang_tenants (c g : Nat) (x : Gang) : (s.setGang c g x).tenants = s.tenants := by
  unfold State.setGang; split <;> rfl
@[simp] theorem setGang_ctxs (c g : Nat) (x : Gang) : (s.setGang c g x).ctxs = s.ctxs := by
  unfold State.setGang; split <;> rfl
@[simp] theorem setGang_images (c g : Nat) (x : Gang) : (s.setGang c g x).images = s.images := by
  unfold State.setGang; split <;> rfl
@[simp] theorem setGang_graphs (c g : Nat) (x : Gang) : (s.setGang c g x).graphs = s.graphs := by
  unfold State.setGang; split <;> rfl
@[simp] theorem setGang_jobs (c g : Nat) (x : Gang) : (s.setGang c g x).jobs = s.jobs := by
  unfold State.setGang; split <;> rfl
@[simp] theorem setGang_launches (c g : Nat) (x : Gang) : (s.setGang c g x).launches = s.launches := by
  unfold State.setGang; split <;> rfl
@[simp] theorem setGang_journal (c g : Nat) (x : Gang) : (s.setGang c g x).journal = s.journal := by
  unfold State.setGang; split <;> rfl
@[simp] theorem setGang_journalOk (c g : Nat) (x : Gang) : (s.setGang c g x).journalOk = s.journalOk := by
  unfold State.setGang; split <;> rfl
@[simp] theorem setGang_journalAt (c g : Nat) (x : Gang) : (s.setGang c g x).journalAt = s.journalAt := by
  unfold State.setGang; split <;> rfl
@[simp] theorem setGang_fns (c g : Nat) (x : Gang) : (s.setGang c g x).fns = s.fns := by
  unfold State.setGang; split <;> rfl
@[simp] theorem setGang_pfReports (c g : Nat) (x : Gang) : (s.setGang c g x).pfReports = s.pfReports := by
  unfold State.setGang; split <;> rfl
@[simp] theorem setGang_pfRecs (c g : Nat) (x : Gang) : (s.setGang c g x).pfRecs = s.pfRecs := by
  unfold State.setGang; split <;> rfl
@[simp] theorem setGang_witness (c g : Nat) (x : Gang) : (s.setGang c g x).witness = s.witness := by
  unfold State.setGang; split <;> rfl
@[simp] theorem setGang_witnessRing (c g : Nat) (x : Gang) : (s.setGang c g x).witnessRing = s.witnessRing := by
  unfold State.setGang; split <;> rfl
@[simp] theorem setGang_witnessNext (c g : Nat) (x : Gang) : (s.setGang c g x).witnessNext = s.witnessNext := by
  unfold State.setGang; split <;> rfl
@[simp] theorem setGang_quantum (c g : Nat) (x : Gang) : (s.setGang c g x).quantum = s.quantum := by
  unfold State.setGang; split <;> rfl
@[simp] theorem setGang_quantumEnd (c g : Nat) (x : Gang) : (s.setGang c g x).quantumEnd = s.quantumEnd := by
  unfold State.setGang; split <;> rfl
@[simp] theorem setGang_requests (c g : Nat) (x : Gang) : (s.setGang c g x).requests = s.requests := by
  unfold State.setGang; split <;> rfl
@[simp] theorem setGang_heldReplies (c g : Nat) (x : Gang) : (s.setGang c g x).heldReplies = s.heldReplies := by
  unfold State.setGang; split <;> rfl
@[simp] theorem setGang_awaits (c g : Nat) (x : Gang) : (s.setGang c g x).awaits = s.awaits := by
  unfold State.setGang; split <;> rfl
@[simp] theorem setGang_owedAcks (c g : Nat) (x : Gang) : (s.setGang c g x).owedAcks = s.owedAcks := by
  unfold State.setGang; split <;> rfl
@[simp] theorem setGang_tasks (c g : Nat) (x : Gang) : (s.setGang c g x).tasks = s.tasks := by
  unfold State.setGang; split <;> rfl
@[simp] theorem setGang_kiln (c g : Nat) (x : Gang) : (s.setGang c g x).kiln = s.kiln := by
  unfold State.setGang; split <;> rfl
@[simp] theorem setGang_kilnAsks (c g : Nat) (x : Gang) : (s.setGang c g x).kilnAsks = s.kilnAsks := by
  unfold State.setGang; split <;> rfl
@[simp] theorem setGang_kilnWaiting (c g : Nat) (x : Gang) : (s.setGang c g x).kilnWaiting = s.kilnWaiting := by
  unfold State.setGang; split <;> rfl
@[simp] theorem setGang_glazeth (c g : Nat) (x : Gang) : (s.setGang c g x).glazeth = s.glazeth := by
  unfold State.setGang; split <;> rfl
@[simp] theorem setGang_aliasth (c g : Nat) (x : Gang) : (s.setGang c g x).aliasth = s.aliasth := by
  unfold State.setGang; split <;> rfl
@[simp] theorem setGang_newestCounts (c g : Nat) (x : Gang) : (s.setGang c g x).newestCounts = s.newestCounts := by
  unfold State.setGang; split <;> rfl
@[simp] theorem setGang_bootStage (c g : Nat) (x : Gang) : (s.setGang c g x).bootStage = s.bootStage := by
  unfold State.setGang; split <;> rfl
@[simp] theorem setGang_bootFailed (c g : Nat) (x : Gang) : (s.setGang c g x).bootFailed = s.bootFailed := by
  unfold State.setGang; split <;> rfl
@[simp] theorem setGang_minSvn (c g : Nat) (x : Gang) : (s.setGang c g x).minSvn = s.minSvn := by
  unfold State.setGang; split <;> rfl
@[simp] theorem setGang_measures (c g : Nat) (x : Gang) : (s.setGang c g x).measures = s.measures := by
  unfold State.setGang; split <;> rfl
@[simp] theorem setGang_measureLog (c g : Nat) (x : Gang) : (s.setGang c g x).measureLog = s.measureLog := by
  unfold State.setGang; split <;> rfl
@[simp] theorem setGang_spdm (c g : Nat) (x : Gang) : (s.setGang c g x).spdm = s.spdm := by
  unfold State.setGang; split <;> rfl
@[simp] theorem setGang_keys (c g : Nat) (x : Gang) : (s.setGang c g x).keys = s.keys := by
  unfold State.setGang; split <;> rfl
@[simp] theorem setGang_links (c g : Nat) (x : Gang) : (s.setGang c g x).links = s.links := by
  unfold State.setGang; split <;> rfl
@[simp] theorem setGang_detours (c g : Nat) (x : Gang) : (s.setGang c g x).detours = s.detours := by
  unfold State.setGang; split <;> rfl
@[simp] theorem setGang_streams (c g : Nat) (x : Gang) : (s.setGang c g x).streams = s.streams := by
  unfold State.setGang; split <;> rfl
@[simp] theorem setGang_remotes (c g : Nat) (x : Gang) : (s.setGang c g x).remotes = s.remotes := by
  unfold State.setGang; split <;> rfl
@[simp] theorem setGang_nextTag (c g : Nat) (x : Gang) : (s.setGang c g x).nextTag = s.nextTag := by
  unfold State.setGang; split <;> rfl
@[simp] theorem setGang_highsOwed (c g : Nat) (x : Gang) : (s.setGang c g x).highsOwed = s.highsOwed := by
  unfold State.setGang; split <;> rfl
@[simp] theorem setGang_nextTicket (c g : Nat) (x : Gang) : (s.setGang c g x).nextTicket = s.nextTicket := by
  unfold State.setGang; split <;> rfl
@[simp] theorem setGang_doneTicket (c g : Nat) (x : Gang) : (s.setGang c g x).doneTicket = s.doneTicket := by
  unfold State.setGang; split <;> rfl
@[simp] theorem setGang_ticketWaits (c g : Nat) (x : Gang) : (s.setGang c g x).ticketWaits = s.ticketWaits := by
  unfold State.setGang; split <;> rfl
@[simp] theorem modGang_cur (c g : Nat) (h : Gang → Gang) : (s.modGang c g h).cur = s.cur := by
  unfold State.modGang; split <;> simp only [setGang_cur]
@[simp] theorem modGang_agenda (c g : Nat) (h : Gang → Gang) : (s.modGang c g h).agenda = s.agenda := by
  unfold State.modGang; split <;> simp only [setGang_agenda]
@[simp] theorem modGang_sched (c g : Nat) (h : Gang → Gang) : (s.modGang c g h).sched = s.sched := by
  unfold State.modGang; split <;> simp only [setGang_sched]
@[simp] theorem modGang_free (c g : Nat) (h : Gang → Gang) : (s.modGang c g h).free = s.free := by
  unfold State.modGang; split <;> simp only [setGang_free]
@[simp] theorem modGang_uids (c g : Nat) (h : Gang → Gang) : (s.modGang c g h).uids = s.uids := by
  unfold State.modGang; split <;> simp only [setGang_uids]
@[simp] theorem modGang_ck (c g : Nat) (h : Gang → Gang) : (s.modGang c g h).ck = s.ck := by
  unfold State.modGang; split <;> simp only [setGang_ck]
@[simp] theorem modGang_ticks (c g : Nat) (h : Gang → Gang) : (s.modGang c g h).ticks = s.ticks := by
  unfold State.modGang; split <;> simp only [setGang_ticks]
@[simp] theorem modGang_powered (c g : Nat) (h : Gang → Gang) : (s.modGang c g h).powered = s.powered := by
  unfold State.modGang; split <;> simp only [setGang_powered]
@[simp] theorem modGang_tripped (c g : Nat) (h : Gang → Gang) : (s.modGang c g h).tripped = s.tripped := by
  unfold State.modGang; split <;> simp only [setGang_tripped]
@[simp] theorem modGang_powerCap (c g : Nat) (h : Gang → Gang) : (s.modGang c g h).powerCap = s.powerCap := by
  unfold State.modGang; split <;> simp only [setGang_powerCap]
@[simp] theorem modGang_self (c g : Nat) (h : Gang → Gang) : (s.modGang c g h).self = s.self := by
  unfold State.modGang; split <;> simp only [setGang_self]
@[simp] theorem modGang_npkg (c g : Nat) (h : Gang → Gang) : (s.modGang c g h).npkg = s.npkg := by
  unfold State.modGang; split <;> simp only [setGang_npkg]
@[simp] theorem modGang_live (c g : Nat) (h : Gang → Gang) : (s.modGang c g h).live = s.live := by
  unfold State.modGang; split <;> simp only [setGang_live]
@[simp] theorem modGang_suspects (c g : Nat) (h : Gang → Gang) : (s.modGang c g h).suspects = s.suspects := by
  unfold State.modGang; split <;> simp only [setGang_suspects]
@[simp] theorem modGang_lastHeard (c g : Nat) (h : Gang → Gang) : (s.modGang c g h).lastHeard = s.lastHeard := by
  unfold State.modGang; split <;> simp only [setGang_lastHeard]
@[simp] theorem modGang_mem (c g : Nat) (h : Gang → Gang) : (s.modGang c g h).mem = s.mem := by
  unfold State.modGang; split <;> simp only [setGang_mem]
@[simp] theorem modGang_hostMem (c g : Nat) (h : Gang → Gang) : (s.modGang c g h).hostMem = s.hostMem := by
  unfold State.modGang; split <;> simp only [setGang_hostMem]
@[simp] theorem modGang_failedPages (c g : Nat) (h : Gang → Gang) : (s.modGang c g h).failedPages = s.failedPages := by
  unfold State.modGang; split <;> simp only [setGang_failedPages]
@[simp] theorem modGang_flaws (c g : Nat) (h : Gang → Gang) : (s.modGang c g h).flaws = s.flaws := by
  unfold State.modGang; split <;> simp only [setGang_flaws]
@[simp] theorem modGang_pager (c g : Nat) (h : Gang → Gang) : (s.modGang c g h).pager = s.pager := by
  unfold State.modGang; split <;> simp only [setGang_pager]
@[simp] theorem modGang_nextFrame (c g : Nat) (h : Gang → Gang) : (s.modGang c g h).nextFrame = s.nextFrame := by
  unfold State.modGang; split <;> simp only [setGang_nextFrame]
@[simp] theorem modGang_nextArea (c g : Nat) (h : Gang → Gang) : (s.modGang c g h).nextArea = s.nextArea := by
  unfold State.modGang; split <;> simp only [setGang_nextArea]
@[simp] theorem modGang_farPtes (c g : Nat) (h : Gang → Gang) : (s.modGang c g h).farPtes = s.farPtes := by
  unfold State.modGang; split <;> simp only [setGang_farPtes]
@[simp] theorem modGang_clusters (c g : Nat) (h : Gang → Gang) : (s.modGang c g h).clusters = s.clusters := by
  unfold State.modGang; split <;> simp only [setGang_clusters]
@[simp] theorem modGang_dies (c g : Nat) (h : Gang → Gang) : (s.modGang c g h).dies = s.dies := by
  unfold State.modGang; split <;> simp only [setGang_dies]
@[simp] theorem modGang_migrations (c g : Nat) (h : Gang → Gang) : (s.modGang c g h).migrations = s.migrations := by
  unfold State.modGang; split <;> simp only [setGang_migrations]
@[simp] theorem modGang_fen (c g : Nat) (h : Gang → Gang) : (s.modGang c g h).fen = s.fen := by
  unfold State.modGang; split <;> simp only [setGang_fen]
@[simp] theorem modGang_saved (c g : Nat) (h : Gang → Gang) : (s.modGang c g h).saved = s.saved := by
  unfold State.modGang; split <;> simp only [setGang_saved]
@[simp] theorem modGang_serviceDown (c g : Nat) (h : Gang → Gang) : (s.modGang c g h).serviceDown = s.serviceDown := by
  unfold State.modGang; split <;> simp only [setGang_serviceDown]
@[simp] theorem modGang_kilnDown (c g : Nat) (h : Gang → Gang) : (s.modGang c g h).kilnDown = s.kilnDown := by
  unfold State.modGang; split <;> simp only [setGang_kilnDown]
@[simp] theorem modGang_stackDown (c g : Nat) (h : Gang → Gang) : (s.modGang c g h).stackDown = s.stackDown := by
  unfold State.modGang; split <;> simp only [setGang_stackDown]
@[simp] theorem modGang_tenants (c g : Nat) (h : Gang → Gang) : (s.modGang c g h).tenants = s.tenants := by
  unfold State.modGang; split <;> simp only [setGang_tenants]
@[simp] theorem modGang_ctxs (c g : Nat) (h : Gang → Gang) : (s.modGang c g h).ctxs = s.ctxs := by
  unfold State.modGang; split <;> simp only [setGang_ctxs]
@[simp] theorem modGang_images (c g : Nat) (h : Gang → Gang) : (s.modGang c g h).images = s.images := by
  unfold State.modGang; split <;> simp only [setGang_images]
@[simp] theorem modGang_graphs (c g : Nat) (h : Gang → Gang) : (s.modGang c g h).graphs = s.graphs := by
  unfold State.modGang; split <;> simp only [setGang_graphs]
@[simp] theorem modGang_jobs (c g : Nat) (h : Gang → Gang) : (s.modGang c g h).jobs = s.jobs := by
  unfold State.modGang; split <;> simp only [setGang_jobs]
@[simp] theorem modGang_launches (c g : Nat) (h : Gang → Gang) : (s.modGang c g h).launches = s.launches := by
  unfold State.modGang; split <;> simp only [setGang_launches]
@[simp] theorem modGang_journal (c g : Nat) (h : Gang → Gang) : (s.modGang c g h).journal = s.journal := by
  unfold State.modGang; split <;> simp only [setGang_journal]
@[simp] theorem modGang_journalOk (c g : Nat) (h : Gang → Gang) : (s.modGang c g h).journalOk = s.journalOk := by
  unfold State.modGang; split <;> simp only [setGang_journalOk]
@[simp] theorem modGang_journalAt (c g : Nat) (h : Gang → Gang) : (s.modGang c g h).journalAt = s.journalAt := by
  unfold State.modGang; split <;> simp only [setGang_journalAt]
@[simp] theorem modGang_fns (c g : Nat) (h : Gang → Gang) : (s.modGang c g h).fns = s.fns := by
  unfold State.modGang; split <;> simp only [setGang_fns]
@[simp] theorem modGang_pfReports (c g : Nat) (h : Gang → Gang) : (s.modGang c g h).pfReports = s.pfReports := by
  unfold State.modGang; split <;> simp only [setGang_pfReports]
@[simp] theorem modGang_pfRecs (c g : Nat) (h : Gang → Gang) : (s.modGang c g h).pfRecs = s.pfRecs := by
  unfold State.modGang; split <;> simp only [setGang_pfRecs]
@[simp] theorem modGang_witness (c g : Nat) (h : Gang → Gang) : (s.modGang c g h).witness = s.witness := by
  unfold State.modGang; split <;> simp only [setGang_witness]
@[simp] theorem modGang_witnessRing (c g : Nat) (h : Gang → Gang) : (s.modGang c g h).witnessRing = s.witnessRing := by
  unfold State.modGang; split <;> simp only [setGang_witnessRing]
@[simp] theorem modGang_witnessNext (c g : Nat) (h : Gang → Gang) : (s.modGang c g h).witnessNext = s.witnessNext := by
  unfold State.modGang; split <;> simp only [setGang_witnessNext]
@[simp] theorem modGang_quantum (c g : Nat) (h : Gang → Gang) : (s.modGang c g h).quantum = s.quantum := by
  unfold State.modGang; split <;> simp only [setGang_quantum]
@[simp] theorem modGang_quantumEnd (c g : Nat) (h : Gang → Gang) : (s.modGang c g h).quantumEnd = s.quantumEnd := by
  unfold State.modGang; split <;> simp only [setGang_quantumEnd]
@[simp] theorem modGang_requests (c g : Nat) (h : Gang → Gang) : (s.modGang c g h).requests = s.requests := by
  unfold State.modGang; split <;> simp only [setGang_requests]
@[simp] theorem modGang_heldReplies (c g : Nat) (h : Gang → Gang) : (s.modGang c g h).heldReplies = s.heldReplies := by
  unfold State.modGang; split <;> simp only [setGang_heldReplies]
@[simp] theorem modGang_awaits (c g : Nat) (h : Gang → Gang) : (s.modGang c g h).awaits = s.awaits := by
  unfold State.modGang; split <;> simp only [setGang_awaits]
@[simp] theorem modGang_owedAcks (c g : Nat) (h : Gang → Gang) : (s.modGang c g h).owedAcks = s.owedAcks := by
  unfold State.modGang; split <;> simp only [setGang_owedAcks]
@[simp] theorem modGang_tasks (c g : Nat) (h : Gang → Gang) : (s.modGang c g h).tasks = s.tasks := by
  unfold State.modGang; split <;> simp only [setGang_tasks]
@[simp] theorem modGang_kiln (c g : Nat) (h : Gang → Gang) : (s.modGang c g h).kiln = s.kiln := by
  unfold State.modGang; split <;> simp only [setGang_kiln]
@[simp] theorem modGang_kilnAsks (c g : Nat) (h : Gang → Gang) : (s.modGang c g h).kilnAsks = s.kilnAsks := by
  unfold State.modGang; split <;> simp only [setGang_kilnAsks]
@[simp] theorem modGang_kilnWaiting (c g : Nat) (h : Gang → Gang) : (s.modGang c g h).kilnWaiting = s.kilnWaiting := by
  unfold State.modGang; split <;> simp only [setGang_kilnWaiting]
@[simp] theorem modGang_glazeth (c g : Nat) (h : Gang → Gang) : (s.modGang c g h).glazeth = s.glazeth := by
  unfold State.modGang; split <;> simp only [setGang_glazeth]
@[simp] theorem modGang_aliasth (c g : Nat) (h : Gang → Gang) : (s.modGang c g h).aliasth = s.aliasth := by
  unfold State.modGang; split <;> simp only [setGang_aliasth]
@[simp] theorem modGang_newestCounts (c g : Nat) (h : Gang → Gang) : (s.modGang c g h).newestCounts = s.newestCounts := by
  unfold State.modGang; split <;> simp only [setGang_newestCounts]
@[simp] theorem modGang_bootStage (c g : Nat) (h : Gang → Gang) : (s.modGang c g h).bootStage = s.bootStage := by
  unfold State.modGang; split <;> simp only [setGang_bootStage]
@[simp] theorem modGang_bootFailed (c g : Nat) (h : Gang → Gang) : (s.modGang c g h).bootFailed = s.bootFailed := by
  unfold State.modGang; split <;> simp only [setGang_bootFailed]
@[simp] theorem modGang_minSvn (c g : Nat) (h : Gang → Gang) : (s.modGang c g h).minSvn = s.minSvn := by
  unfold State.modGang; split <;> simp only [setGang_minSvn]
@[simp] theorem modGang_measures (c g : Nat) (h : Gang → Gang) : (s.modGang c g h).measures = s.measures := by
  unfold State.modGang; split <;> simp only [setGang_measures]
@[simp] theorem modGang_measureLog (c g : Nat) (h : Gang → Gang) : (s.modGang c g h).measureLog = s.measureLog := by
  unfold State.modGang; split <;> simp only [setGang_measureLog]
@[simp] theorem modGang_spdm (c g : Nat) (h : Gang → Gang) : (s.modGang c g h).spdm = s.spdm := by
  unfold State.modGang; split <;> simp only [setGang_spdm]
@[simp] theorem modGang_keys (c g : Nat) (h : Gang → Gang) : (s.modGang c g h).keys = s.keys := by
  unfold State.modGang; split <;> simp only [setGang_keys]
@[simp] theorem modGang_links (c g : Nat) (h : Gang → Gang) : (s.modGang c g h).links = s.links := by
  unfold State.modGang; split <;> simp only [setGang_links]
@[simp] theorem modGang_detours (c g : Nat) (h : Gang → Gang) : (s.modGang c g h).detours = s.detours := by
  unfold State.modGang; split <;> simp only [setGang_detours]
@[simp] theorem modGang_streams (c g : Nat) (h : Gang → Gang) : (s.modGang c g h).streams = s.streams := by
  unfold State.modGang; split <;> simp only [setGang_streams]
@[simp] theorem modGang_remotes (c g : Nat) (h : Gang → Gang) : (s.modGang c g h).remotes = s.remotes := by
  unfold State.modGang; split <;> simp only [setGang_remotes]
@[simp] theorem modGang_nextTag (c g : Nat) (h : Gang → Gang) : (s.modGang c g h).nextTag = s.nextTag := by
  unfold State.modGang; split <;> simp only [setGang_nextTag]
@[simp] theorem modGang_highsOwed (c g : Nat) (h : Gang → Gang) : (s.modGang c g h).highsOwed = s.highsOwed := by
  unfold State.modGang; split <;> simp only [setGang_highsOwed]
@[simp] theorem modGang_nextTicket (c g : Nat) (h : Gang → Gang) : (s.modGang c g h).nextTicket = s.nextTicket := by
  unfold State.modGang; split <;> simp only [setGang_nextTicket]
@[simp] theorem modGang_doneTicket (c g : Nat) (h : Gang → Gang) : (s.modGang c g h).doneTicket = s.doneTicket := by
  unfold State.modGang; split <;> simp only [setGang_doneTicket]
@[simp] theorem modGang_ticketWaits (c g : Nat) (h : Gang → Gang) : (s.modGang c g h).ticketWaits = s.ticketWaits := by
  unfold State.modGang; split <;> simp only [setGang_ticketWaits]

end

end Sys2Proof.Machine
end

