-- ==== Sys2Proof/Laws/Lanes.lean ====
section
/-! SUPPORT. Lane masks, the fibres of a gang, and what the shared shape of the lane instructions does. -/

namespace Sys2Proof.Machine

/-! ### Masks -/

theorem getLsbD_laneBit (k l : Nat) : (BitVec.ofNat 32 (2 ^ k)).getLsbD l = (decide (l < 32) && decide (l = k)) := by
  rw [BitVec.getLsbD_ofNat, Nat.testBit_two_pow]
  congr 1
  exact decide_eq_decide.mpr eq_comm

theorem getLsbD_maskOf (p : Nat → Bool) (l : Nat) : (maskOf p).getLsbD l = (decide (l < 32) && p l) := by
  have H : ∀ (n : Nat) (m : Mask), n ≤ 32 →
      (((List.range n).foldl (fun m k => if p k then m ||| BitVec.ofNat 32 (2 ^ k) else m) m).getLsbD l)
        = (m.getLsbD l || (decide (l < n) && p l)) := by
    intro n
    induction n with
    | zero => intro m _; simp
    | succ n ih =>
      intro m hn
      rw [List.range_succ, List.foldl_append, List.foldl_cons, List.foldl_nil]
      have hl : l = n ∨ l ≠ n := by omega
      by_cases hp : p n = true
      · rw [if_pos hp, BitVec.getLsbD_or, ih m (by omega), getLsbD_laneBit]
        rcases hl with e | e
        · subst e
          have h32 : l < 32 := by omega
          simp [hp, h32]
        · have hd : decide (l < n + 1) = decide (l < n) := decide_eq_decide.mpr (by omega)
          rw [hd, decide_eq_false e]; simp only [Bool.and_false, Bool.or_false]
      · rw [if_neg hp, ih m (by omega)]
        rcases hl with e | e
        · subst e
          have hf : p l = false := by simpa using hp
          simp [hf]
        · rw [show decide (l < n + 1) = decide (l < n) from decide_eq_decide.mpr (by omega)]
  have := H 32 0 (Nat.le_refl _)
  simpa [maskOf] using this

theorem mem_lanesOf (m : Mask) (l : Nat) : l ∈ lanesOf m ↔ l < 32 ∧ m.getLsbD l = true := by
  simp [lanesOf]

/-! ### Fibres -/

@[simp] theorem raiseFlags_lane (g : Gang) (f : W32) (l : Nat) : (g.raiseFlags f).lane l = g.lane l := rfl
@[simp] theorem charge_lane (g : Gang) (c u l : Nat) : (g.charge c u).lane l = g.lane l := rfl

/-- The fibre in a lane after an operation on the lanes of a mask that hold a fibre. -/
theorem mapLanes_lane (g : Gang) (m : Mask) (f : Nat → Fibre → Fibre) (l : Nat)
    (h : m.getLsbD l = true → ∃ x, mfind g.arch.fibres l = some x) :
    (g.mapLanes m f).lane l = if m.getLsbD l then f l (g.lane l) else g.lane l := by
  have e : (g.mapLanes m f).lane l
      = ((mfind g.arch.fibres l).map fun x => if m.getLsbD l then f l x else x).getD Fibre.absent := by
    show mget _ (Machine.mapLanes m f g.arch.fibres) l = _
    rw [mget_eq_mfind, Machine.mapLanes]
    rw [mfind_map (fun k x => if m.getLsbD k then f k x else x)]
  have e2 : g.lane l = (mfind g.arch.fibres l).getD Fibre.absent := mget_eq_mfind _ _ _
  rw [e, e2]
  cases hf : mfind g.arch.fibres l with
  | some x => simp
  | none =>
    by_cases hm : m.getLsbD l = true
    · obtain ⟨x, hx⟩ := h hm
      rw [hf] at hx; cases hx
    · simp [hm]

theorem ready_found (g : Gang) (l : Nat) (h : (g.lane l).status = .ready) : ∃ x, mfind g.arch.fibres l = some x := by
  have e2 : g.lane l = (mfind g.arch.fibres l).getD Fibre.absent := mget_eq_mfind _ _ _
  rw [e2] at h
  cases hf : mfind g.arch.fibres l with
  | some x => exact ⟨x, rfl⟩
  | none => rw [hf] at h; simp [Fibre.absent] at h

theorem mapLanes_lane_found (g : Gang) (m : Mask) (f : Nat → Fibre → Fibre) (l : Nat) (h : ∃ x, mfind g.arch.fibres l = some x) :
    ∃ x, mfind (g.mapLanes m f).arch.fibres l = some x := by
  obtain ⟨x, hx⟩ := h
  refine ⟨if m.getLsbD l then f l x else x, ?_⟩
  · show mfind (Machine.mapLanes m f g.arch.fibres) l = _
    rw [Machine.mapLanes, mfind_map (fun k x => if m.getLsbD k then f k x else x), hx]
    rfl

theorem groupLanes_bit (s : State) (g : Gang) (l : Nat) :
    (groupLanes s g).getLsbD l = (decide (l < 32) && (s.cur.lanes.getLsbD l && ((g.lane l).status == .ready))) := by
  rw [groupLanes, getLsbD_maskOf]

theorem execLanes_bit (s : State) (g : Gang) (gd : Guard) (l : Nat) :
    (execLanes s g gd).getLsbD l = ((groupLanes s g).getLsbD l && guardPasses gd (g.lane l)) := by
  rw [execLanes, getLsbD_maskOf, groupLanes_bit, Bool.and_assoc, Bool.and_assoc, Bool.and_assoc]

theorem exec_in_group (s : State) (g : Gang) (gd : Guard) (l : Nat) (h : (execLanes s g gd).getLsbD l = true) :
    (groupLanes s g).getLsbD l = true := by
  rw [execLanes_bit, Bool.and_eq_true] at h; exact h.1

theorem group_found (s : State) (g : Gang) (l : Nat) (h : (groupLanes s g).getLsbD l = true) :
    ∃ x, mfind g.arch.fibres l = some x := by
  rw [groupLanes_bit] at h
  simp only [Bool.and_eq_true, beq_iff_eq] at h
  exact ready_found g l h.2.2

/-! ### Flags -/

theorem orAll_bit {α : Type} (f : α → W32) (ls : List α) (z : W32) (b : Nat) :
    (ls.foldl (fun acc l => acc ||| f l) z).getLsbD b = (z.getLsbD b || ls.any fun l => (f l).getLsbD b) := by
  induction ls generalizing z with
  | nil => simp
  | cons a r ih => rw [List.foldl_cons, ih, BitVec.getLsbD_or, List.any_cons, Bool.or_assoc]

/-! ### The shared shapes -/

/-- All that a lane instruction does: the one lemma behind every meaning written with `laneOp`. -/
theorem laneOp_result (s : State) (gd : Guard) (cls weight : Nat) (upd : Gang → Nat → Fibre → Fibre)
    (flags : Gang → Nat → Fibre → W32) (g : Gang) (hg : Issues s g) :
    ∃ h, laneOp s gd cls weight upd flags = s.putCur h ∧ LanesMove s g h gd (upd g) ∧ FlagsRise s g h gd (flags g)
      ∧ GangRestKept g h := by
  have hc : s.curGang? = some g := hg
  refine ⟨_, by unfold laneOp; rw [hc], ?_, ?_, ?_⟩
  · intro l
    rw [charge_lane]
    rw [Gang.advance, mapLanes_lane]
    · rw [raiseFlags_lane, mapLanes_lane]
      · by_cases he : (execLanes s g gd).getLsbD l = true
        · rw [exec_in_group s g gd l he]; simp [he]
        · simp [he]
      · intro he; exact group_found s g l (exec_in_group s g gd l he)
    · intro hgl
      exact mapLanes_lane_found g _ _ l (group_found s g l hgl)
  · intro b
    show ((g.arch.fflags ||| _) : W32).getLsbD b = _
    rw [BitVec.getLsbD_or, orAll_bit]; simp
  · rfl

/-- A meaning written with `laneOp` completes as `LaneResult` says. -/
theorem laneResult_of {i : Instr} {s : State} {g : Gang} {gd : Guard} {upd : Nat → Fibre → Fibre} {flags : Nat → Fibre → W32}
    (hg : Issues s g) (cls weight : Nat) (U : Gang → Nat → Fibre → Fibre) (F : Gang → Nat → Fibre → W32)
    (he : exec i s = .next (laneOp s gd cls weight U F)) (hu : U g = upd) (hf : F g = flags) :
    LaneResult i s g gd upd flags := by
  subst hu; subst hf
  obtain ⟨h, h1, h2⟩ := laneOp_result s gd cls weight U F g hg
  exact ⟨h, by rw [he, h1], h2⟩

end Sys2Proof.Machine
end

