-- ==== Sys2Proof/Laws/Units.lean ====
section
/-! SUPPORT. Reading a unit after the named updates of the state: the updated one, and every other. -/

namespace Sys2Proof.Machine

section
variable (s : State)

theorem core_setCore (c d : Nat) (k : Core) : (s.setCore c k).core d = if d = c then k else s.core d := mget_mset _ _ _ _ _
theorem core_modCore (c d : Nat) (f : Core → Core) : (s.modCore c f).core d = if d = c then f (s.core c) else s.core d := mget_mset _ _ _ _ _
theorem modCore_modCore (c : Nat) (f h : Core → Core) : ((s.modCore c f).modCore c h).core c = h (f (s.core c)) := by
  rw [core_modCore, if_pos rfl, core_modCore, if_pos rfl]
theorem die_modDie (d n : Nat) (f : Die → Die) : (s.modDie d f).die n = if n = d then f (s.die d) else s.die n := mget_mset _ _ _ _ _
theorem cluster_modCluster (k n : Nat) (f : Cluster → Cluster) :
    (s.modCluster k f).cluster n = if n = k then f (s.cluster k) else s.cluster n := mget_mset _ _ _ _ _
theorem tenant_modTenant (t n : Nat) (f : Tenant → Tenant) : (s.modTenant t f).tenant n = if n = t then f (s.tenant t) else s.tenant n :=
  mget_mset _ _ _ _ _
theorem ctx_modCtx (x n : Nat) (f : Ctx → Ctx) : (s.modCtx x f).ctx n = if n = x then f (s.ctx x) else s.ctx n := mget_mset _ _ _ _ _
theorem fn_modFn (n m : Nat) (f : Fn → Fn) : (s.modFn n f).fn m = if m = n then f (s.fn n) else s.fn m := mget_mset _ _ _ _ _
theorem link_modLink (p n : Nat) (f : Link → Link) : (s.modLink p f).link n = if n = p then f (s.link p) else s.link n := mget_mset _ _ _ _ _

/-- The launch with a uid after an update that keeps uids. -/
theorem find_updFirst {α : Type} (p : α → Bool) (f : α → α) (l : List α) (h : ∀ a, p (f a) = p a) :
    (updFirst p f l).find? p = (l.find? p).map f := by
  induction l with
  | nil => rfl
  | cons a r ih =>
    unfold updFirst
    cases hp : p a with
    | true => simp [hp, h]
    | false => simp [hp, ih]
theorem launch_modLaunch (u : Nat) (f : Launch → Launch) (h : ∀ l, (f l).uid = l.uid) :
    (s.modLaunch u f).launch? u = (s.launch? u).map f := find_updFirst _ f _ fun l => by rw [h]
theorem job_modJob (t j : Nat) (f : Job → Job) (h : ∀ b, (f b).tenant = b.tenant ∧ (f b).number = b.number) :
    (s.modJob t j f).job? t j = (s.job? t j).map f := find_updFirst _ f _ fun b => by rw [(h b).1, (h b).2]

/-- The gang of a user slot after that slot is set, and any other. -/
theorem gang_setGang (c g d n : Nat) (x : Gang) (hg : g ≠ fwSlot) (hn : n ≠ fwSlot) :
    (s.setGang c g x).gang? d n = if d = c ∧ n = g then some x else s.gang? d n := by
  unfold State.setGang State.gang?
  rw [if_neg hg, if_neg hn, if_neg hn, core_modCore]
  by_cases hd : d = c
  · subst hd
    rw [if_pos rfl]
    by_cases h : n = g
    · subst h; rw [if_pos ⟨rfl, rfl⟩]; exact mfind_mset_same _ _ _
    · rw [if_neg fun q => h q.2]; exact mfind_mset_other _ _ _ _ h
  · rw [if_neg hd, if_neg fun q => hd q.1]
/-- Setting a user slot leaves every firmware fibre as it was. -/
theorem fwGang_setGang (c g d : Nat) (x : Gang) (hg : g ≠ fwSlot) : (s.setGang c g x).gang? d fwSlot = s.gang? d fwSlot := by
  unfold State.setGang State.gang?
  rw [if_neg hg, if_pos rfl, if_pos rfl, core_modCore]
  split <;> rename_i h
  · subst h; rfl
  · rfl
theorem gang_modGang (c g : Nat) (f : Gang → Gang) (hg : g ≠ fwSlot) : (s.modGang c g f).gang? c g = (s.gang? c g).map f := by
  unfold State.modGang
  cases h : s.gang? c g with
  | none => simp [h]
  | some x => rw [Option.map_some]; rw [gang_setGang _ _ _ _ _ _ hg hg, if_pos ⟨rfl, rfl⟩]
/-- The gang that issues, after it is put back. -/
theorem curGang_putCur (g : Gang) (h : s.cur.gang ≠ fwSlot) : (s.putCur g).curGang? = some g := by
  have e : (s.putCur g).cur = s.cur := by unfold State.putCur State.setGang; split <;> rfl
  unfold State.curGang?
  rw [e]
  exact (gang_setGang _ _ _ _ _ _ h h).trans (if_pos ⟨rfl, rfl⟩)

theorem slotOf_modSlot (k : Core) (n m : Nat) (f : UserSlot → UserSlot) (hn : n < 2) (hm : m < 2) :
    (k.modSlot n f).slotOf m = if m = n then f (k.slotOf n) else k.slotOf m := by
  have h1 : n = 0 ∨ n = 1 := by omega
  have h2 : m = 0 ∨ m = 1 := by omega
  rcases h1 with rfl | rfl <;> rcases h2 with rfl | rfl <;> rfl

theorem queue_modQueue (fn q n m : Nat) (f : Queue → Queue) :
    (s.modQueue fn q f).queue n m = if n = fn ∧ m = q then f (s.queue fn q) else s.queue n m := by
  unfold State.modQueue State.queue
  rw [fn_modFn]
  by_cases h : n = fn
  · subst h; rw [if_pos rfl, mget_mset]
    by_cases h2 : m = q
    · rw [if_pos h2, if_pos ⟨rfl, h2⟩]
    · rw [if_neg h2, if_neg fun x => h2 x.2]
  · rw [if_neg h, if_neg fun x => h x.1]
theorem find_append_self {α : Type} (p : α → Bool) (l : List α) (a : α) (h : l.any p = false) (ha : p a = true) : (l ++ [a]).find? p = some a := by
  rw [List.find?_append, List.find?_eq_none.mpr]
  · simp [ha]
  · intro x hx hp
    rw [List.any_eq_false] at h; exact h x hx hp
theorem keySlots_modKeys (r : StreamRef) (f : KeySlots → KeySlots) :
    (s.modKeys r f).keySlots r = some (f ((s.keySlots r).getD KeySlots.none)) := by
  unfold State.modKeys State.keySlots
  split <;> rename_i h
  · rw [find_updFirst (fun k : StreamRef × KeySlots => k.1 == r) (fun k => (k.1, f k.2)) s.keys fun _ => rfl]
    cases hk : s.keys.find? (fun k => k.1 == r) with
    | none =>
      rw [List.any_eq_true] at h
      obtain ⟨x, hx, hp⟩ := h
      exact absurd hp (List.find?_eq_none.mp hk x hx)
    | some x => rfl
  · have hf : s.keys.any (fun k => k.1 == r) = false := Bool.eq_false_iff.mpr h
    have hn : s.keys.find? (fun k => k.1 == r) = none := List.find?_eq_none.mpr fun x hx hp => by
      rw [List.any_eq_false] at hf; exact hf x hx hp
    dsimp only
    rw [find_append_self _ _ _ hf (beq_self_eq_true r), hn]
    rfl

/-- A fresh uid and a fresh free value change the counter they come from and nothing else. -/
theorem fresh_state : s.fresh = (s.uids, { s with uids := s.uids + 1 }) := rfl
theorem freeVal_state (w : Nat) : (s.freeVal w).2 = { s with free := s.free + 1 } := rfl

/-- Every instruction charged once whose group moves on: the whole of `retireWith`. -/
theorem retireWith_moves (f : Gang → Gang) (g : Gang) (h : s.curGang? = some g) :
    retireWith s f = s.putCur (((f g).advance (groupLanes s g) s.cur.next).chargeOnce s) := by unfold retireWith; rw [h]
theorem chargeOnce_first (g : Gang) (h : s.cur.charged = false) : g.chargeOnce s = g.charge 4 1 := by
  unfold Gang.chargeOnce; rw [h, if_neg (by decide)]
theorem chargeOnce_again (g : Gang) (h : s.cur.charged = true) : g.chargeOnce s = g := by unfold Gang.chargeOnce; rw [if_pos h]
theorem retireWith_issues (f : Gang → Gang) (g : Gang) (h : s.curGang? = some g) (hc : s.cur.charged = false) :
    retireWith s f = s.putCur (((f g).advance (groupLanes s g) s.cur.next).charge 4 1) := by
  rw [retireWith_moves s f g h, chargeOnce_first s _ hc]
theorem retire_issues (g : Gang) (h : s.curGang? = some g) : retire s = s.putCur (g.advance (groupLanes s g) s.cur.next) := by
  unfold retire; rw [h]

end

end Sys2Proof.Machine
end

