-- ==== Sys2Proof/Laws/Traps.lean ====
section
/-! SUPPORT. Taking a trap, the checks of privilege and of collective instructions, and the records of traps: what each of these
shared operations can do, said once. -/

namespace Sys2Proof.Machine

section
variable (s : State)

/-- Taking a trap: the firmware fibre's supervisor takes its own; a region with earlier instructions, or native code, rolls
back; else the gang stops with a record. An ECC aborts such a region. -/
theorem takeTrap_at (code : BitVec 8) (lane : Nat) (infos : List W64) (hc : code ≠ tcECC) :
    takeTrap s code lane infos = takeTrapAt s code lane infos := by unfold takeTrap; rw [if_neg hc]
theorem takeTrap_ecc (lane : Nat) (places : List W64) :
    takeTrap s tcECC lane places = takeTrapAt (eccFound s places) tcECC lane [] := by unfold takeTrap; rw [if_pos rfl]
theorem takeTrapAt_firmware (code : BitVec 8) (lane : Nat) (infos : List W64) (h : s.inFirmware = true) :
    takeTrapAt s code lane infos = fwTrap s code infos := by unfold takeTrapAt; rw [if_pos h]
theorem takeTrap_firmware (code : BitVec 8) (lane : Nat) (infos : List W64) (hc : code ≠ tcECC) (h : s.inFirmware = true) :
    takeTrap s code lane infos = fwTrap s code infos := by rw [takeTrap_at s code lane infos hc, takeTrapAt_firmware s code lane infos h]
theorem takeTrap_aborts (lane : Nat) (places : List W64) (g : Gang) (h : s.inFirmware = false) (hg : s.curGang? = some g)
    (hr : g.region.instrs ≠ 0 ∨ (g.inNative = true ∧ g.replay = false)) :
    takeTrap s tcECC lane places = abortRegion (eccFound s places) g lane := by
  rw [takeTrap_ecc]
  unfold takeTrapAt
  have hf : (eccFound s places).inFirmware = false := h
  have hc : (eccFound s places).curGang? = some g := hg
  rw [if_neg (by rw [hf]; decide), hc]
  dsimp only
  rw [if_pos ⟨rfl, by simpa using hr⟩]
theorem takeTrap_rollsBack (code : BitVec 8) (lane : Nat) (infos : List W64) (g : Gang) (hc : code ≠ tcECC) (h : s.inFirmware = false) (hg : s.curGang? = some g)
    (hr : g.region.instrs ≠ 0 ∨ (g.inNative = true ∧ g.replay = false)) :
    takeTrap s code lane infos = rollback s s.cur.core s.cur.gang := by
  rw [takeTrap_at s code lane infos hc]
  unfold takeTrapAt
  rw [if_neg (by rw [h]; decide), hg]
  dsimp only
  rw [if_neg (fun q => hc q.1), if_pos (by simpa using hr)]
theorem takeTrap_stops (code : BitVec 8) (lane : Nat) (infos : List W64) (g : Gang) (hc : code ≠ tcECC) (h : s.inFirmware = false) (hg : s.curGang? = some g)
    (hr : g.region.instrs = 0) (hn : g.inNative = true → g.replay = true) :
    takeTrap s code lane infos
      = stopGang s s.cur.core s.cur.gang (trapRecord s g (g.lane lane) code false false s.cur.pc infos) (groupLanes s g) s.cur.next := by
  rw [takeTrap_at s code lane infos hc]
  unfold takeTrapAt
  rw [if_neg (by rw [h]; decide), hg]
  dsimp only
  rw [if_neg (fun q => hc q.1), if_neg]
  intro q
  rcases q with q | ⟨q1, q2⟩
  · exact q hr
  · exact q2 (hn q1)

/-- A record has a place while the table of a resident context has a free entry: the lowest. -/
theorem writeRecord_writes (c ctx : Nat) (r : TrapRec) (n i : Nat) (hn : (s.core c).slotFor ctx = some n)
    (hi : freeEntry ((s.core c).slotOf n).trapvalid = some i) :
    writeRecord s c ctx r = some (i, (s.wrBytes (fwPhys ((s.core c).slotOf n).trapbase + 128 * i) (recordBytes r)).modCore c fun k =>
      { k.modSlot n fun u => { u with trapvalid := u.trapvalid ||| BitVec.ofNat 64 (2 ^ i) } with
          event := (k.modSlot n fun u => { u with trapvalid := u.trapvalid ||| BitVec.ofNat 64 (2 ^ i) }).event ||| BitVec.ofNat 5 (2 ^ n) }) := by
  unfold writeRecord
  rw [hn]
  dsimp only
  rw [hi]
theorem writeRecord_full (c ctx : Nat) (r : TrapRec)
    (h : (s.core c).slotFor ctx = none ∨ ∃ n, (s.core c).slotFor ctx = some n ∧ freeEntry ((s.core c).slotOf n).trapvalid = none) :
    writeRecord s c ctx r = none := by
  unfold writeRecord
  rcases h with h | ⟨n, hn, hi⟩
  · rw [h]
  · rw [hn]; dsimp only; rw [hi]

/-- A stop of a gang that is not yoked. -/
theorem stopGang_pending (c g : Nat) (r : TrapRec) (lanes : Mask) (resume : W64) (x : Gang) (hx : s.gang? c g = some x) (hy : x.member4 = none)
    (hw : writeRecord s c x.ctx r = none) :
    stopGang s c g r lanes resume
      = s.modGang c g fun y => { y with stop := some { record := r, entry := none, lanes := lanes, resume := resume } } := by
  unfold stopGang
  rw [hx]
  dsimp only
  rw [hy, if_neg (by decide), hw]
theorem stopGang_written (c g : Nat) (r : TrapRec) (lanes : Mask) (resume : W64) (x : Gang) (i : Nat) (s1 : State) (hx : s.gang? c g = some x)
    (hy : x.member4 = none) (hw : writeRecord s c x.ctx r = some (i, s1)) :
    stopGang s c g r lanes resume
      = s1.modGang c g fun y => { y with stop := some { record := r, entry := some i, lanes := lanes, resume := resume } } := by
  unfold stopGang
  rw [hx]
  dsimp only
  rw [hy, if_neg (by decide), hw]

/-- A rolled-back gang is at its commit point, with nothing of its region. -/
theorem undoRegion_gang (c g : Nat) (back : Gang → Gang) (x : Gang) (hg : g ≠ fwSlot) (hx : s.gang? c g = some x) :
    (undoRegion s c g back).gang? c g = some (back x) := by
  unfold undoRegion
  rw [hx]
  unfold State.gang?
  rw [if_neg hg, core_modCore, if_pos rfl]
  have h := gang_setGang (s.unrecord x.region.reads) c g c g (back x) hg hg
  rw [if_pos ⟨rfl, rfl⟩] at h
  unfold State.gang? at h
  rw [if_neg hg] at h
  exact h
theorem rollback_gang (c g : Nat) (x : Gang) (hg : g ≠ fwSlot) (hx : s.gang? c g = some x) :
    (rollback s c g).gang? c g = some (x.toRerun (translOf s x)) := undoRegion_gang s c g _ x hg hx
theorem rollbackVirtual_gang (c g : Nat) (x : Gang) (hg : g ≠ fwSlot) (hx : s.gang? c g = some x) :
    (rollbackVirtual s c g).gang? c g = some x.rolledBack := undoRegion_gang s c g _ x hg hx
theorem rolledBack_region (x : Gang) : x.rolledBack.region = Region.empty ∧ x.rolledBack.replay = true ∧ x.rolledBack.pend = [] := ⟨rfl, rfl, rfl⟩

/-- The checks of privilege (R57, R492) and of collective instructions (R173). -/
theorem userOp_user (k : Gang → State) (g : Gang) (h : s.inFirmware = false) (hg : s.curGang? = some g) : userOp s k = k g := by
  unfold userOp; rw [if_neg (by rw [h]; decide), hg]
theorem userOp_firmware (k : Gang → State) (h : s.inFirmware = true) : userOp s k = fwTrap s tcPROT [s.cur.bits, 0x8F] := by
  unfold userOp; rw [if_pos h, takeTrap_firmware s _ _ _ (by decide) h]
theorem privOp_firmware (gd : Guard) (k : Gang → State) (g : Gang) (h : s.inFirmware = true) (hg : s.curGang? = some g) : privOp s gd k = k g := by
  unfold privOp; rw [hg]; dsimp only; rw [if_pos h]
theorem privOp_user (gd : Guard) (k : Gang → State) (g : Gang) (h : s.inFirmware = false) (hg : s.curGang? = some g) :
    privOp s gd k
      = takeTrap s tcPROT (lowLane (if execLanes s g gd = 0 then groupLanes s g else execLanes s g gd)) [s.cur.bits, 0x80] := by
  unfold privOp; rw [hg]; dsimp only; rw [if_neg (by rw [h]; decide)]
theorem collectiveOp_all (gd : Guard) (k : Gang → Mask → State) (g : Gang) (h : s.inFirmware = false) (hg : s.curGang? = some g)
    (he : execLanes s g gd = g.live) : collectiveOp s gd k = k g (execLanes s g gd) := by
  unfold collectiveOp; rw [userOp_user s _ g h hg]; exact if_pos he
theorem collectiveOp_some (gd : Guard) (k : Gang → Mask → State) (g : Gang) (h : s.inFirmware = false) (hg : s.curGang? = some g)
    (he : execLanes s g gd ≠ g.live) : collectiveOp s gd k =
      takeTrap s tcICONV (lowLane (if execLanes s g gd = 0 then groupLanes s g else execLanes s g gd)) [(g.live ++ execLanes s g gd : W64)] := by
  unfold collectiveOp; rw [userOp_user s _ g h hg]; exact if_neg he

end

end Sys2Proof.Machine
end

