-- ==== Sys2Proof/Laws/Access.lean ====
section
/-! SUPPORT. Loads: what their checks answer where every lane's access is performed, what a cache operation changes, and when a load completes
(R179, R185, R187, R200). -/

namespace Sys2Proof.Machine
/-! ### Checked accesses -/

theorem checkLanes_eq (s : State) (g : Gang) (e : Mask) (eaOf : Fibre → W64) (n kind op : Nat) (fatom : Bool) (ap : W64 → Found → Found) :
    checkLanes s g e eaOf n kind op fatom ap
      = (lanesOf e).map fun l => (l, lowEa s n (eaOf (g.lane l)), laneFound s g l (eaOf (g.lane l)) n kind op fatom ap) := rfl

/-- Accesses that all have a place go on (R200). -/
theorem resolveAll_go (accs : List (Nat × W64 × Found)) (h : ∀ a, a ∈ accs → (∃ loc, a.2.2 = .here loc) ∨ ∃ pas t h k, a.2.2 = .mem pas t h k) :
    resolveAll accs = .go accs := by
  unfold resolveAll
  split
  · next va hva =>
    obtain ⟨a, ha, hm⟩ := List.exists_of_findSome?_eq_some hva
    rcases h a ha with ⟨l, e⟩ | ⟨p, t, k, m, e⟩ <;> rw [e] at hm <;> cases hm
  · split
    · next hva =>
      obtain ⟨a, ha, hm⟩ := List.exists_of_findSome?_eq_some hva
      rcases h a ha with ⟨l, e⟩ | ⟨p, t, k, m, e⟩ <;> rw [e] at hm <;> cases hm
    · rfl

/-- Accesses none of which waits are all performed (R187). -/
theorem splitWaits_all (s : State) (g : Gang) (n policy : Nat) (loads : Bool) (accs : List (Nat × W64 × Found))
    (h : ∀ a, a ∈ accs → accessWait s s.cur.core g a.1 a.2.1 n policy loads a.2.2 = none) :
    splitWaits s g n policy loads accs = (accs, []) := by
  unfold splitWaits
  rw [List.filter_eq_self.mpr (by intro a ha; rw [h a ha]; rfl), List.filterMap_eq_nil_iff.mpr (by intro a ha; rw [h a ha]; rfl)]

/-! ### What a cache operation can change -/

/-- From `s` to `t` only core `c`'s lane cache, the dies and, with flawed sectors, the agenda change. -/
def CacheOnly (s t : State) (c : Nat) : Prop :=
  t = { s with cores := t.cores, dies := t.dies, agenda := t.agenda } ∧ (s.flaws = [] → t.agenda = s.agenda)
  ∧ ∀ d, t.core d = if d = c then { s.core d with laneCache := (t.core d).laneCache } else s.core d
theorem CacheOnly.refl (s : State) (c : Nat) : CacheOnly s s c := ⟨rfl, fun _ => rfl, fun d => by split <;> rfl⟩
theorem CacheOnly.trans {s t u : State} {c : Nat} (h : CacheOnly s t c) (k : CacheOnly t u c) : CacheOnly s u c := by
  refine ⟨by rw [k.1, h.1], ?_, ?_⟩
  · intro hf; rw [k.2.1 (by rw [h.1]; exact hf), h.2.1 hf]
  · intro d; rw [k.2.2 d, h.2.2 d]; split <;> simp_all
theorem CacheOnly.foldl {α : Type} (f : State → α → State) (l : List α) (c : Nat) (h : ∀ t a, CacheOnly t (f t a) c) (s : State) : CacheOnly s (l.foldl f s) c := by
  induction l generalizing s with
  | nil => exact CacheOnly.refl s c
  | cons a r ih => exact (h s a).trans (ih _)
theorem cacheOnly_modDie (s : State) (c d : Nat) (f : Die → Die) : CacheOnly s (s.modDie d f) c :=
  ⟨rfl, fun _ => rfl, fun e => by show s.core e = _; split <;> rfl⟩
theorem cacheOnly_evictLines (s : State) (c : Nat) (ls : List L2Line) : CacheOnly s (evictLines s ls) c := by
  refine ⟨rfl, ?_, fun e => by show s.core e = _; split <;> rfl⟩
  intro hf
  show s.agenda ++ _ = s.agenda
  rw [List.append_right_eq_self, List.flatMap_eq_nil_iff]
  intro l _
  rw [List.filterMap_eq_nil_iff]
  intro i _
  rw [if_neg]
  rw [hf]; simp
theorem cacheOnly_l2Fill (s : State) (c pa home : Nat) (dirty : Bool) : CacheOnly s (s.l2Fill pa home dirty) c := by
  unfold State.l2Fill
  split
  · exact CacheOnly.refl s c
  · exact (cacheOnly_modDie s c _ _).trans (cacheOnly_evictLines _ c _)
theorem cacheOnly_lane (s : State) (c : Nat) (f : Core → Core) (h : ∀ k, f k = { k with laneCache := (f k).laneCache }) : CacheOnly s (s.modCore c f) c := by
  refine ⟨rfl, fun _ => rfl, fun d => ?_⟩
  rw [core_modCore]
  split
  · next e => subst e; exact h _
  · rfl
theorem cacheOnly_lcFill (s : State) (c t : Nat) (va : W64) (p : Nat) : CacheOnly s (s.modCore c fun k => k.lcFill t va p) c :=
  cacheOnly_lane s c _ fun k => by unfold Core.lcFill; split <;> rfl
theorem cacheOnly_cacheRead (s : State) (c : Nat) (g : Gang) (ea : W64) (f : Found) (p : Nat) : CacheOnly s (cacheRead s c g ea f p) c := by
  unfold cacheRead
  split
  · split
    · exact CacheOnly.refl s c
    · exact (CacheOnly.foldl _ _ c (fun t a => cacheOnly_l2Fill t c _ _ _) s).trans (cacheOnly_lcFill _ c _ _ _)
  · exact CacheOnly.refl s c
theorem cacheOnly_record (s : State) (c : Nat) (clk : TMap Nat) (a : Access) : CacheOnly s (s.recordAccess clk a) c := cacheOnly_modDie s c _ _
theorem cacheOnly_recordReads (s : State) (g : Gang) (n p : Nat) (order scope : BitVec 3) (now : List (Nat × W64 × Found)) :
    CacheOnly s (recordReads s g n p order scope now) s.cur.core := by
  unfold recordReads
  have H : ∀ (now : List (Nat × W64 × Found)) (t : State), t.cur.core = s.cur.core → CacheOnly t (now.foldl (fun t a =>
    let t1 := (readsOf s g a.1 a.2.1 n a.2.2 order scope).foldl (fun u r => u.recordAccess (g.lane a.1).clock r) t
    cacheRead t1 s.cur.core g a.2.1 a.2.2 p) t) s.cur.core := fun now t _ =>
    CacheOnly.foldl _ now _ (fun t a => (CacheOnly.foldl _ _ _ (fun t a => cacheOnly_record t _ _ a) t).trans (cacheOnly_cacheRead _ _ _ _ _ _)) t
  exact H now s rfl
theorem cacheOnly_acquireDrop (s : State) (t : Nat) (order scope : BitVec 3) : CacheOnly s (acquireDrop s t order scope) s.cur.core := by
  unfold acquireDrop
  split
  · exact cacheOnly_lane s _ _ fun k => rfl
  · exact CacheOnly.refl s _

theorem CacheOnly.gang {s t : State} {c : Nat} (h : CacheOnly s t c) (d n : Nat) : t.gang? d n = s.gang? d n := by
  have := h.2.2 d
  unfold State.gang?
  split <;> (rw [this]; split <;> rfl)
theorem CacheOnly.putCur {s t : State} (h : CacheOnly s t s.cur.core) (x : Gang) :
    OnlyCaches s (t.putCur x) x := by
  have hc : t.cur = s.cur := by rw [h.1]
  have hk : (t.putCur x) = { t with cores := (t.putCur x).cores } := by unfold State.putCur State.setGang; split <;> rfl
  refine ⟨?_, ?_, ?_⟩
  · rw [hk]; rw [h.1]
  · intro hf; rw [hk]; exact h.2.1 hf
  · intro c
    unfold State.putCur State.setGang
    rw [hc]
    by_cases e : c = s.cur.core
    · subst e
      have q := h.2.2 s.cur.core
      rw [if_pos rfl] at q
      split <;> (rw [core_modCore, core_modCore, if_pos rfl, if_pos rfl, if_pos rfl, q])
    · have q := h.2.2 c
      rw [if_neg e] at q
      split <;> (rw [core_modCore, if_neg e]; simpa [e] using q)
theorem OnlyCaches.cache {s t u : State} {x : Gang} (h : OnlyCaches s t x) (k : CacheOnly t u s.cur.core) : OnlyCaches s u x := by
  refine ⟨by rw [k.1, h.1], ?_, ?_⟩
  · intro hf; rw [k.2.1 (by rw [h.1]; exact hf)]; exact h.2.1 hf
  · intro d; rw [k.2.2 d, h.2.2 d]; split <;> simp_all
theorem OnlyCaches.drop {s t : State} {x : Gang} (h : OnlyCaches s t x) (c g l : Nat) : OnlyCaches s (t.dropRemote c g l) x :=
  ⟨by unfold State.dropRemote; rw [h.1], fun hf => h.2.1 hf, h.2.2⟩

theorem OnlyCaches.dropAll {s t : State} {x : Gang} (h : OnlyCaches s t x) (c g : Nat) (l : List (Nat × W64 × Found)) :
    OnlyCaches s (l.foldl (fun t q => t.dropRemote c g q.1) t) x := by
  induction l generalizing t with
  | nil => exact h
  | cons a r ih => exact ih (h.drop c g a.1)

theorem chargeOnce_lane (g : Gang) (s : State) (l : Nat) : (g.chargeOnce s).lane l = g.lane l := by
  unfold Gang.chargeOnce; split <;> rfl
theorem mapLanes_out (g : Gang) (m : Mask) (f : Nat → Fibre → Fibre) (l : Nat) (h : m.getLsbD l = false) : (g.mapLanes m f).lane l = g.lane l := by
  rw [mapLanes_lane]
  · simp [h]
  · simp [h]

theorem find_lane (ls : List Nat) (A : Nat → W64 × Found) (l : Nat) (h : l ∈ ls) :
    (ls.map fun k => (k, A k)).find? (fun q => q.1 == l) = some (l, A l) := by
  induction ls with
  | nil => cases h
  | cons a r ih =>
    rw [List.map_cons, List.find?_cons]
    by_cases e : a = l
    · subst e; simp
    · have : (a == l) = false := by simpa using e
      simp only [this]
      exact ih (by simpa [Ne.symm e] using h)
theorem lanesMask_bit (ls : List Nat) (l : Nat) (hl : l < 32) : (lanesMask ls).getLsbD l = decide (l ∈ ls) := by
  unfold lanesMask; rw [getLsbD_maskOf]; simp [hl]
theorem bit_lt (m : Mask) (l : Nat) (h : m.getLsbD l = true) : l < 32 := BitVec.lt_of_getLsbD h

theorem OnlyCaches.issues {s t : State} {x : Gang} (h : OnlyCaches s t x) (hn : s.cur.gang ≠ fwSlot) : Issues t x := by
  have hc : t.cur = s.cur := by rw [h.1]
  have q := h.2.2 s.cur.core
  rw [if_pos rfl] at q
  have r := curGang_putCur s x hn
  have hcc : (s.putCur x).cur = s.cur := by unfold State.putCur State.setGang; split <;> rfl
  unfold State.curGang? at r
  rw [hcc] at r
  unfold Issues State.curGang?
  rw [hc]
  unfold State.gang? at r ⊢
  rw [if_neg hn] at r ⊢
  rw [q]; exact r
theorem lane_of_arch {g h : Gang} (e : h.arch = g.arch) (l : Nat) : h.lane l = g.lane l := by unfold Gang.lane; rw [e]

theorem OnlyCaches.acquire {s t : State} {x : Gang} (h : OnlyCaches s t x) (tenant : Nat) (order scope : BitVec 3) :
    OnlyCaches s (acquireDrop t tenant order scope) x := by
  have k := cacheOnly_acquireDrop t tenant order scope
  rw [show t.cur = s.cur from by rw [h.1]] at k
  exact h.cache k
theorem afterRead_pc (x : Fibre) (p : Party) (hs : List Release) (o sc : BitVec 3) (n : W64) :
    afterRead { x with pc := n } p hs o sc = { afterRead x p hs o sc with pc := n } := by
  unfold afterRead
  split
  · rfl
  · dsimp only; split <;> rfl

/-- A load of a user gang's lanes that all perform. -/
theorem doLoad_completes (s : State) (g : Gang) (i : Instr) (a : LoadArgs) (hg : Issues s g) (hf : s.inFirmware = false)
    (hex : exec i s = .next (doLoad a i s))
    (hw : ∀ (x : Fibre) (n : W64) (bs : List Byte), a.write { x with pc := n } bs = { a.write x bs with pc := n }) : LoadCompletes i s g a := by
  intro hp ht hr
  have hc : s.curGang? = some g := hg
  have hne : s.cur.gang ≠ fwSlot := by simpa [State.inFirmware] using hf
  rw [hex]
  unfold doLoad
  rw [hc]
  dsimp only
  by_cases he : execLanes s g a.g = 0
  · have hret : retire s = s.putCur (g.advance (groupLanes s g) s.cur.next) := by unfold retire; rw [hc]
    have ho : OnlyCaches s (s.putCur (g.advance (groupLanes s g) s.cur.next)) (g.advance (groupLanes s g) s.cur.next) :=
      (CacheOnly.refl s s.cur.core).putCur _
    rw [if_pos he, hret]
    refine ⟨_, _, rfl, ho.issues hne, ?_, rfl, ho⟩
    intro l
    rw [if_neg (by rw [he]; simp), Gang.advance, mapLanes_lane _ _ _ _ fun h => group_found s g l h]
  · rw [if_neg he, if_neg (by rw [ht he]; decide)]
    have hacc := checkLanes_eq s g (execLanes s g a.g) a.ea a.n 0 a.op false (apertureRule true a.n 0 a.order)
    have hin : ∀ q, q ∈ checkLanes s g (execLanes s g a.g) a.ea a.n 0 a.op false (apertureRule true a.n 0 a.order) →
        Performs s g q.1 (a.ea (g.lane q.1)) a.n a.policy true q.2.2 ∧ q.2.1 = lowEa s a.n (a.ea (g.lane q.1)) ∧ (execLanes s g a.g).getLsbD q.1 = true
          ∧ q.2.2 = a.found s g q.1 := by
      intro q hq
      rw [hacc, List.mem_map] at hq
      obtain ⟨l, hl, rfl⟩ := hq
      have := ((mem_lanesOf _ _).mp hl).2
      exact ⟨hp l this, rfl, this, rfl⟩
    rw [resolveAll_go _ (fun q hq => (hin q hq).1.1)]
    dsimp only
    rw [splitWaits_all _ _ _ _ _ _ (fun q hq => by rw [(hin q hq).2.1]; exact (hin q hq).1.2)]
    dsimp only
    have hrace : readRaces s g a.n a.order a.scope (checkLanes s g (execLanes s g a.g) a.ea a.n 0 a.op false (apertureRule true a.n 0 a.order)) = none := by
      unfold readRaces
      rw [List.findSome?_eq_none_iff]
      intro q hq
      rw [List.findSome?_eq_none_iff]
      intro r hrr
      have h4 := hin q hq
      rw [h4.2.1, h4.2.2.2] at hrr
      rw [hr q.1 h4.2.2.1 r hrr]; rfl
    rw [hrace]
    dsimp only
    generalize hx : ((parkWaiting s (((g.mapLanes _ _).advance _ _) ) i []) : Gang) = y
    have hq := (cacheOnly_recordReads s g a.n a.policy a.order a.scope (checkLanes s g (execLanes s g a.g) a.ea a.n 0 a.op false (apertureRule true a.n 0 a.order))).putCur
      (({ y with region := { y.region with
            reads := y.region.reads ++ (checkLanes s g (execLanes s g a.g) a.ea a.n 0 a.op false (apertureRule true a.n 0 a.order)).flatMap
              fun (q : Nat × W64 × Found) => readsOf s g q.1 q.2.1 a.n q.2.2 a.order a.scope } } : Gang).charge 5
          (4 * sectorCount (checkLanes s g (execLanes s g a.g) a.ea a.n 0 a.op false (apertureRule true a.n 0 a.order))))
    have hd := hq.dropAll s.cur.core s.cur.gang (checkLanes s g (execLanes s g a.g) a.ea a.n 0 a.op false (apertureRule true a.n 0 a.order))
    have ho := hd.acquire g.tenant a.order a.scope
    refine ⟨_, _, rfl, ho.issues hne, ?_, ?_, ho⟩
    · intro l
      rw [charge_lane]
      subst hx
      show ((g.mapLanes _ _).advance _ _).lane l = _
      have hfst : (checkLanes s g (execLanes s g a.g) a.ea a.n 0 a.op false (apertureRule true a.n 0 a.order)).map (fun q => q.1) = lanesOf (execLanes s g a.g) := by
        rw [hacc, List.map_map]; exact List.map_id _
      rw [hfst, Gang.advance]
      by_cases hl : l < 32
      · have hd1 : (lanesMask (lanesOf (execLanes s g a.g))).getLsbD l = (execLanes s g a.g).getLsbD l := by
          rw [lanesMask_bit _ _ hl]
          cases hb : (execLanes s g a.g).getLsbD l
          · simp [mem_lanesOf, hb]
          · simp [mem_lanesOf, hb, hl]
        cases hb : (execLanes s g a.g).getLsbD l
        · rw [hb] at hd1
          have hfin (h : (groupLanes s g).getLsbD l = true) := group_found s g l h
          rw [mapLanes_lane, mapLanes_out _ _ _ _ hd1]
          · rw [BitVec.getLsbD_and, BitVec.getLsbD_not, hb]; simp [hl]
          · intro h
            rw [BitVec.getLsbD_and, Bool.and_eq_true] at h
            exact mapLanes_lane_found g _ _ l (hfin h.1)
        · rw [hb] at hd1
          have hfin := group_found s g l (exec_in_group s g a.g l hb)
          rw [mapLanes_out, mapLanes_lane _ _ _ _ (fun _ => hfin), if_pos hd1, if_pos rfl, hacc,
            find_lane (lanesOf (execLanes s g a.g)) (fun l => (lowEa s a.n (a.ea (g.lane l)), laneFound s g l (a.ea (g.lane l)) a.n 0 a.op false (apertureRule true a.n 0 a.order))) l ((mem_lanesOf _ _).mpr ⟨hl, hb⟩)]
          · dsimp only
            rw [hw, afterRead_pc]; rfl
          · rw [BitVec.getLsbD_and, BitVec.getLsbD_not, hb]; simp
      · have hn (m : Mask) : m.getLsbD l = false := by
          cases h : m.getLsbD l
          · rfl
          · exact absurd (bit_lt m l h) hl
        rw [mapLanes_out _ _ _ _ (hn _), mapLanes_out _ _ _ _ (hn _), hn, hn]; rfl
    · subst hx; rfl
end Sys2Proof.Machine
end

