-- ==== Sys2Proof/Laws/Memory.lean ====
section
/-! SUPPORT. Bytes of memory: reading after writing, and the canonical form that every write keeps (log entry 2). -/

namespace Sys2Proof.Machine

theorem memSet_same (m : List Host.Cell) (a : Nat) (b : Byte) (h : Memory.wf m = true) : memByte (memSet m a b) a = b := by
  suffices H : ∀ (m : List Host.Cell) (lo : Nat), Memory.above lo m = true → memByte (memSet m a b) a = b by
    cases m with
    | nil => exact H [] 0 rfl
    | cons p r =>
      obtain ⟨k, c⟩ := p
      cases k with
      | zero =>
        simp only [Memory.wf, Bool.and_eq_true, decide_eq_true_eq] at h
        by_cases h0 : 0 = a
        · subst h0
          by_cases hb : b = unlisted
          · simp only [memSet, hb, if_true]
            have : ∀ (r : List Host.Cell), Memory.above 0 r = true → memByte r 0 = unlisted := by
              intro r; cases r with
              | nil => intro _; rfl
              | cons q t =>
                intro hq
                have hgen : ∀ (t : List Host.Cell) (lo : Nat), Memory.above lo t = true → 0 ≤ lo → memByte t 0 = unlisted := by
                  intro t
                  induction t with
                  | nil => intros; rfl
                  | cons q t ih =>
                    intro lo hq hlo
                    obtain ⟨j, d⟩ := q
                    simp only [Memory.above, Bool.and_eq_true, decide_eq_true_eq] at hq
                    have : j ≠ 0 := by omega
                    simp only [memByte, this, if_false]
                    exact ih j hq.2 (Nat.zero_le _)
                exact hgen _ 0 hq (Nat.le_refl _)
            exact this r h.2
          · simp [memSet, memByte, hb]
        · have hna : ¬ a < 0 := Nat.not_lt_zero a
          simp only [memSet, h0, if_false, hna, memByte]
          exact H r 0 h.2
      | succ k =>
        refine H _ k ?_
        simp only [Memory.wf, Bool.and_eq_true, decide_eq_true_eq] at h
        simp only [Memory.above, Bool.and_eq_true, decide_eq_true_eq]
        exact ⟨⟨Nat.lt_succ_self k, h.1⟩, h.2⟩
  intro m
  induction m with
  | nil =>
    intro lo _
    by_cases hb : b = unlisted
    · simp [memSet, memByte, hb]
    · simp [memSet, memByte, hb]
  | cons p r ih =>
    intro lo hm
    obtain ⟨k, c⟩ := p
    simp only [Memory.above, Bool.and_eq_true, decide_eq_true_eq] at hm
    have habs : ∀ (t : List Host.Cell) (l : Nat), Memory.above l t = true → a ≤ l → memByte t a = unlisted := by
      intro t
      induction t with
      | nil => intros; rfl
      | cons q t ih2 =>
        intro l hq hl
        obtain ⟨j, d⟩ := q
        simp only [Memory.above, Bool.and_eq_true, decide_eq_true_eq] at hq
        have : j ≠ a := by omega
        simp only [memByte, this, if_false]
        exact ih2 j hq.2 (by omega)
    by_cases hk : k = a
    · subst hk
      by_cases hb : b = unlisted
      · simp only [memSet, if_true, hb]
        exact habs r k hm.2 (Nat.le_refl _)
      · simp [memSet, memByte, hb]
    · by_cases hlt : a < k
      · by_cases hb : b = unlisted
        · simp only [memSet, hk, if_false, hlt, if_true, hb, memByte]
          exact habs r k hm.2 (by omega)
        · simp [memSet, memByte, hk, hlt, hb]
      · simp only [memSet, hk, if_false, hlt, memByte]
        exact ih k hm.2

theorem memSet_other (m : List Host.Cell) (a n : Nat) (b : Byte) (hn : n ≠ a) :
    memByte (memSet m a b) n = memByte m n := by
  induction m with
  | nil =>
    by_cases hb : b = unlisted
    · simp [memSet, hb]
    · simp [memSet, hb, memByte, Ne.symm hn]
  | cons p r ih =>
    obtain ⟨k, c⟩ := p
    by_cases hk : k = a
    · subst hk
      by_cases hb : b = unlisted
      · simp [memSet, hb, memByte, Ne.symm hn]
      · simp [memSet, hb, memByte, Ne.symm hn]
    · by_cases hlt : a < k
      · by_cases hb : b = unlisted
        · simp [memSet, hk, hlt, hb]
        · simp [memSet, hk, hlt, hb, memByte, Ne.symm hn]
      · simp only [memSet, hk, if_false, hlt, memByte, ih]

theorem memSet_above (m : List Host.Cell) (lo a : Nat) (b : Byte) (h : Memory.above lo m = true) (ha : lo < a) :
    Memory.above lo (memSet m a b) = true := by
  induction m generalizing lo with
  | nil =>
    by_cases hb : b = unlisted
    · simp [memSet, hb, Memory.above]
    · simp [memSet, hb, Memory.above, ha]
  | cons p r ih =>
    obtain ⟨k, c⟩ := p
    simp only [Memory.above, Bool.and_eq_true, decide_eq_true_eq] at h
    have hw : ∀ (t : List Host.Cell) (x y : Nat), Memory.above y t = true → x ≤ y → Memory.above x t = true := by
      intro t x y ht hxy
      cases t with
      | nil => rfl
      | cons q t =>
        obtain ⟨j, d⟩ := q
        simp only [Memory.above, Bool.and_eq_true, decide_eq_true_eq] at ht ⊢
        exact ⟨⟨by omega, ht.1.2⟩, ht.2⟩
    by_cases hk : k = a
    · subst hk
      by_cases hb : b = unlisted
      · simp only [memSet, if_true, hb]
        exact hw r lo k h.2 (by omega)
      · simp only [memSet, if_true, hb, if_false, Memory.above, Bool.and_eq_true, decide_eq_true_eq]
        exact ⟨⟨ha, hb⟩, h.2⟩
    · by_cases hlt : a < k
      · by_cases hb : b = unlisted
        · simp only [memSet, hk, if_false, hlt, if_true, hb, Memory.above, Bool.and_eq_true, decide_eq_true_eq]
          exact ⟨⟨h.1.1, h.1.2⟩, h.2⟩
        · simp only [memSet, hk, if_false, hlt, if_true, hb, Memory.above, Bool.and_eq_true, decide_eq_true_eq]
          exact ⟨⟨ha, hb⟩, ⟨trivial, h.1.2⟩, h.2⟩
      · simp only [memSet, hk, if_false, hlt, Memory.above, Bool.and_eq_true, decide_eq_true_eq]
        exact ⟨⟨h.1.1, h.1.2⟩, ih k h.2 (by omega)⟩

/-- Setting a byte keeps the canonical form. -/
theorem memSet_wf (m : List Host.Cell) (a : Nat) (b : Byte) (h : Memory.wf m = true) : Memory.wf (memSet m a b) = true := by
  cases m with
  | nil =>
    by_cases hb : b = unlisted
    · simp [memSet, hb, Memory.wf]
    · simp [memSet, hb, Memory.wf, Memory.above]
  | cons p r =>
    obtain ⟨k, c⟩ := p
    simp only [Memory.wf, Bool.and_eq_true, decide_eq_true_eq] at h
    by_cases hk : k = a
    · subst hk
      by_cases hb : b = unlisted
      · simp only [memSet, if_true, hb]
        have hr := h.2
        cases r with
        | nil => rfl
        | cons q t =>
          obtain ⟨j, d⟩ := q
          simp only [Memory.above, Bool.and_eq_true, decide_eq_true_eq] at hr
          simp only [Memory.wf, Bool.and_eq_true, decide_eq_true_eq]
          exact ⟨hr.1.2, hr.2⟩
      · simp only [memSet, if_true, hb, if_false, Memory.wf, Bool.and_eq_true, decide_eq_true_eq]
        exact ⟨hb, h.2⟩
    · by_cases hlt : a < k
      · by_cases hb : b = unlisted
        · simp only [memSet, hk, if_false, hlt, if_true, hb, Memory.wf, Bool.and_eq_true, decide_eq_true_eq]
          exact h
        · simp only [memSet, hk, if_false, hlt, if_true, hb, Memory.wf, Memory.above, Bool.and_eq_true, decide_eq_true_eq]
          exact ⟨hb, ⟨trivial, h.1⟩, h.2⟩
      · simp only [memSet, hk, if_false, hlt, Memory.wf, Bool.and_eq_true, decide_eq_true_eq]
        exact ⟨h.1, memSet_above r k a b h.2 (by omega)⟩

/-- Writing bytes keeps the canonical form. -/
theorem memWrite_wf (m : List Host.Cell) (a : Nat) (bs : List Byte) (h : Memory.wf m = true) :
    Memory.wf (memWrite m a bs) = true := by
  induction bs generalizing m a with
  | nil => exact h
  | cons b r ih => exact ih _ _ (memSet_wf m a b h)

/-- A write leaves every byte outside its range alone. -/
theorem memWrite_other (m : List Host.Cell) (a n : Nat) (bs : List Byte) (h : n < a ∨ a + bs.length ≤ n) :
    memByte (memWrite m a bs) n = memByte m n := by
  induction bs generalizing m a with
  | nil => rfl
  | cons b r ih =>
    simp only [List.length_cons] at h
    rw [memWrite, ih _ _ (by omega), memSet_other _ _ _ _ (by omega)]

/-- A byte just written reads back. -/
theorem memWrite_same (m : List Host.Cell) (a i : Nat) (bs : List Byte) (hm : Memory.wf m = true) (h : i < bs.length) :
    memByte (memWrite m a bs) (a + i) = bs.getD i 0 := by
  induction bs generalizing m a i with
  | nil => simp at h
  | cons b r ih =>
    cases i with
    | zero =>
      rw [memWrite, memWrite_other _ _ _ _ (by omega)]
      simpa using memSet_same m a b hm
    | succ i =>
      have := ih (memSet m a b) (a + 1) i (memSet_wf m a b hm) (by simpa using h)
      rw [memWrite]
      have e : a + (i + 1) = a + 1 + i := by omega
      rw [e, this]; simp

/-- Reading back what was written. -/
theorem memRead_memWrite (m : List Host.Cell) (a : Nat) (bs : List Byte) (hm : Memory.wf m = true) :
    memRead (memWrite m a bs) a bs.length = bs := by
  apply List.ext_getElem
  · simp [memRead]
  · intro i h1 h2
    simp only [memRead, List.getElem_map, List.getElem_range]
    rw [memWrite_same m a i bs hm h2]
    simp [List.getD, h2]

theorem reset_mem_wf : Memory.wf State.reset.mem = true := rfl
theorem reset_hostMem_wf : Memory.wf State.reset.hostMem = true := rfl

/-! ### Clearing and moving ranges -/

/-- A bound below which no address lies may be lowered, and a bounded memory is canonical. -/
theorem above_weaken {m : List Host.Cell} {hi : Nat} (lo : Nat) (h : Memory.above hi m = true) (hl : lo ≤ hi) : Memory.above lo m = true := by
  cases m with
  | nil => rfl
  | cons q t =>
    obtain ⟨j, d⟩ := q
    simp only [Memory.above, Bool.and_eq_true, decide_eq_true_eq] at h ⊢
    exact ⟨⟨by omega, h.1.2⟩, h.2⟩
theorem wf_of_above {m : List Host.Cell} {lo : Nat} (h : Memory.above lo m = true) : Memory.wf m = true := by
  cases m with
  | nil => rfl
  | cons q t =>
    obtain ⟨j, d⟩ := q
    simp only [Memory.above, Bool.and_eq_true, decide_eq_true_eq] at h
    simp only [Memory.wf, Bool.and_eq_true, decide_eq_true_eq]
    exact ⟨h.1.2, h.2⟩
/-- Dropping cells keeps the canonical form. -/
theorem above_filter (m : List Host.Cell) (lo : Nat) (p : Host.Cell → Bool) (h : Memory.above lo m = true) :
    Memory.above lo (m.filter p) = true := by
  induction m generalizing lo with
  | nil => rfl
  | cons q r ih =>
    obtain ⟨k, c⟩ := q
    simp only [Memory.above, Bool.and_eq_true, decide_eq_true_eq] at h
    rw [List.filter_cons]
    split
    · simp only [Memory.above, Bool.and_eq_true, decide_eq_true_eq]
      exact ⟨h.1, ih k h.2⟩
    · exact above_weaken _ (ih k h.2) (by omega)
theorem wf_filter (m : List Host.Cell) (p : Host.Cell → Bool) (h : Memory.wf m = true) : Memory.wf (m.filter p) = true := by
  cases m with
  | nil => rfl
  | cons q r =>
    obtain ⟨k, c⟩ := q
    simp only [Memory.wf, Bool.and_eq_true, decide_eq_true_eq] at h
    rw [List.filter_cons]
    split
    · simp only [Memory.wf, Bool.and_eq_true, decide_eq_true_eq]
      exact ⟨h.1, above_filter r k p h.2⟩
    · exact wf_of_above (above_filter r k p h.2)
/-- Clearing a range keeps the canonical form, reads as unlisted inside and as before outside. -/
theorem memClear_wf (m : List Host.Cell) (a n : Nat) (h : Memory.wf m = true) : Memory.wf (memClear m a n) = true := wf_filter m _ h
theorem memClear_byte (m : List Host.Cell) (a n b : Nat) :
    memByte (memClear m a n) b = if a ≤ b ∧ b < a + n then unlisted else memByte m b := by
  induction m with
  | nil => simp [memClear, memByte]
  | cons q r ih =>
    obtain ⟨k, c⟩ := q
    simp only [memClear, List.filter_cons] at ih ⊢
    generalize List.filter (fun c : Host.Cell => !(decide (a ≤ c.1) && decide (c.1 < a + n))) r = t at ih ⊢
    by_cases hk : k = b
    · subst hk
      by_cases hi : a ≤ k ∧ k < a + n
      · rw [if_pos hi] at ih; simp [hi, ih]
      · rw [if_pos (by simp; omega)]; simp [memByte, hi]
    · split
      · simp only [memByte, if_neg hk]; exact ih
      · simp only [memByte, if_neg hk]; exact ih
/-- Moving a range keeps the canonical form. -/
theorem memMove_wf (m : List Host.Cell) (a b n : Nat) (h : Memory.wf m = true) : Memory.wf (memMove m a b n) = true := by
  have hs : ∀ (cs : List Host.Cell) (t : List Host.Cell), Memory.wf t = true →
      Memory.wf (cs.foldl (fun t c => memSet t (c.1 - a + b) c.2) t) = true := by
    intro cs
    induction cs with
    | nil => exact fun t ht => ht
    | cons c r ih => exact fun t ht => ih _ (memSet_wf t _ _ ht)
  exact hs _ _ (memClear_wf _ _ _ (memClear_wf _ _ _ h))

end Sys2Proof.Machine
end

