-- ==== Sys2Proof/Laws/Canonical.lean ====
section
/-! SUPPORT. Which shared operations leave both memories alone, and that those which write keep their canonical form (log entry 2). -/

namespace Sys2Proof.Machine

/-- Both memories are the same. -/
def SameMem (s t : State) : Prop := t.mem = s.mem ∧ t.hostMem = s.hostMem

theorem SameMem.rfl' (s : State) : SameMem s s := ⟨rfl, rfl⟩
theorem SameMem.trans {s t u : State} (h : SameMem s t) (k : SameMem t u) : SameMem s u := ⟨k.1.trans h.1, k.2.trans h.2⟩
theorem inv_of_same {s t : State} (h : SameMem s t) (hi : Inv s) : Inv t := by unfold Inv; rw [h.1, h.2]; exact hi
/-- A fold of steps that keep both memories keeps them. -/
theorem sameMem_foldl {α : Type} (f : State → α → State) (l : List α) (h : ∀ t a, SameMem t (f t a)) (s : State) : SameMem s (l.foldl f s) := by
  induction l generalizing s with
  | nil => exact SameMem.rfl' s
  | cons a r ih => exact (h s a).trans (ih (f s a))
/-- A fold of steps that keep the invariant keeps it. -/
theorem inv_foldl {α : Type} (f : State → α → State) (l : List α) (h : ∀ t a, Inv t → Inv (f t a)) (s : State) (hi : Inv s) : Inv (l.foldl f s) := by
  induction l generalizing s with
  | nil => exact hi
  | cons a r ih => exact ih (f s a) (h s a hi)

section
variable (s : State)

/-! ### Operations that leave memory alone -/

theorem sameMem_setCore (c : Nat) (k : Core) : SameMem s (s.setCore c k) := ⟨rfl, rfl⟩
theorem sameMem_modCore (c : Nat) (f : Core → Core) : SameMem s (s.modCore c f) := ⟨rfl, rfl⟩
theorem sameMem_modDie (d : Nat) (f : Die → Die) : SameMem s (s.modDie d f) := ⟨rfl, rfl⟩
theorem sameMem_push (e : Event) : SameMem s (s.push e) := ⟨rfl, rfl⟩
theorem sameMem_setGang (c g : Nat) (x : Gang) : SameMem s (s.setGang c g x) := by unfold State.setGang; split <;> exact ⟨rfl, rfl⟩
theorem sameMem_putCur (g : Gang) : SameMem s (s.putCur g) := sameMem_setGang s _ _ g
theorem sameMem_modGang (c g : Nat) (f : Gang → Gang) : SameMem s (s.modGang c g f) := by
  unfold State.modGang; split
  · exact sameMem_setGang s _ _ _
  · exact SameMem.rfl' s
theorem sameMem_delGang (c g : Nat) : SameMem s (s.delGang c g) := ⟨rfl, rfl⟩
theorem sameMem_modStream (p t : Nat) (r : Bool) (f : Stream → Stream) : SameMem s (s.modStream p t r f) := by
  unfold State.modStream; extract_lets is; split <;> exact ⟨rfl, rfl⟩
theorem sameMem_modKeys (r : StreamRef) (f : KeySlots → KeySlots) : SameMem s (s.modKeys r f) := by
  unfold State.modKeys; split <;> exact ⟨rfl, rfl⟩
theorem sameMem_transmit (p : Packet) : SameMem s (s.transmit p) := by
  unfold State.transmit; split
  · exact sameMem_modStream s _ _ _ _
  · exact (sameMem_modStream s _ _ _ _).trans ⟨rfl, rfl⟩
theorem sameMem_send (p : Packet) : SameMem s (s.send p) := (sameMem_modStream s _ _ _ _).trans (sameMem_transmit _ _)
theorem sameMem_sendMgmt (dst : Nat) (b : Mgmt) : SameMem s (s.sendMgmt dst b) := sameMem_send s _
theorem sameMem_retire : SameMem s (retire s) := by
  unfold retire; split
  · exact sameMem_putCur s _
  · exact SameMem.rfl' s
theorem sameMem_retireWith (f : Gang → Gang) : SameMem s (retireWith s f) := by
  unfold retireWith; split
  · exact sameMem_putCur s _
  · exact SameMem.rfl' s
theorem sameMem_laneOp (gd : Guard) (c w : Nat) (u : Gang → Nat → Fibre → Fibre) (f : Gang → Nat → Fibre → W32) : SameMem s (laneOp s gd c w u f) := by
  unfold laneOp; split
  · exact SameMem.rfl' s
  · exact sameMem_putCur s _
theorem sameMem_unrecord (as : List Access) : SameMem s (s.unrecord as) :=
  sameMem_foldl (fun (t : State) (a : Access) => t.modDie (dieOf a.pa) fun d => { d with records := d.records.erase a }) as (fun _ _ => ⟨rfl, rfl⟩) s
theorem sameMem_undoRegion (c g : Nat) (back : Gang → Gang) : SameMem s (undoRegion s c g back) := by
  unfold undoRegion; split
  · exact SameMem.rfl' s
  · exact (sameMem_unrecord s _).trans ((sameMem_setGang _ _ _ _).trans ⟨rfl, rfl⟩)
theorem sameMem_rollback (c g : Nat) : SameMem s (rollback s c g) := sameMem_undoRegion s _ _ _
theorem sameMem_rollbackVirtual (c g : Nat) : SameMem s (rollbackVirtual s c g) := sameMem_undoRegion s _ _ _
theorem sameMem_eccFound (places : List W64) : SameMem s (eccFound s places) := ⟨rfl, rfl⟩
theorem sameMem_fwTrap (code : BitVec 8) (infos : List W64) : SameMem s (fwTrap s code infos) := ⟨rfl, rfl⟩
theorem sameMem_fwEmulated (infos : List W64) : SameMem s (fwEmulated s infos) := ⟨rfl, rfl⟩
theorem sameMem_dissolveYoke (c : Nat) : SameMem s (dissolveYoke s c) := by
  unfold dissolveYoke
  exact (sameMem_foldl _ _ (fun t m => sameMem_modGang t _ _ _) s).trans ⟨rfl, rfl⟩
theorem sameMem_startWalk (c tenant : Nat) (va : W64) : SameMem s (startWalk s c tenant va) := by
  unfold startWalk
  extract_lets
  split
  · exact ⟨rfl, rfl⟩
  · split
    · exact ⟨rfl, rfl⟩
    · split <;> exact ⟨rfl, rfl⟩
theorem sameMem_parkTlb (g : Gang) (i : Instr) (e : Mask) (va : W64) : SameMem s (parkTlb s g i e va) :=
  (sameMem_putCur s _).trans (sameMem_startWalk _ _ _ _)
theorem sameMem_parkExec (g : Gang) (i : Instr) (e : Mask) (c : Cause) : SameMem s (parkExec s g i e c) := sameMem_putCur s _
theorem sameMem_takeTable (stk : Nat) : SameMem s (takeTable s stk).2 := ⟨rfl, rfl⟩

/-! ### Operations that write -/

theorem inv_wr (pa n v : Nat) (h : Inv s) : Inv (s.wr pa n v) := ⟨memWrite_wf s.mem pa (leBytes n v) h.1, h.2⟩
theorem inv_wrBytes (pa : Nat) (bs : List Byte) (h : Inv s) : Inv (s.wrBytes pa bs) := ⟨memWrite_wf _ _ _ h.1, h.2⟩
theorem inv_wrPte (at_ : Nat) (e : W64) (h : Inv s) : Inv (s.wrPte at_ e) := inv_wr s _ _ _ h
theorem inv_putUnit (t pa : Nat) (bs : List Byte) (h : Inv s) : Inv (putUnit s t pa bs) := by
  unfold putUnit
  split
  · exact inv_wrBytes s _ _ h
  · exact inv_of_same (SameMem.trans (t := { s with free := s.free + 1 }) ⟨rfl, rfl⟩ (sameMem_send _ _)) h
theorem inv_writeVirt (t : Nat) (va : W64) (bs : List Byte) (h : Inv s) : Inv (writeVirt s t va bs) := by
  unfold writeVirt
  generalize walk s t va = w
  cases w with
  | leaf e n => exact inv_putUnit s _ _ _ h
  | notPresent => exact h
  | malformed => exact h
theorem inv_splitLeaf (lvl tbl : Nat) (e : W64) (h : Inv s) : Inv (splitLeaf s lvl tbl e) :=
  inv_foldl _ _ (fun t _ ht => inv_wrPte t _ _ ht) s h
theorem inv_leafSlot (fuel lvl tbl va stk : Nat) (s : State) (h : Inv s) : Inv (leafSlot s fuel lvl tbl va stk).2 := by
  induction fuel generalizing s lvl tbl with
  | zero => exact h
  | succ n ih =>
    unfold leafSlot
    dsimp only
    split
    · exact ih _ _ s h
    · apply ih
      have h1 := inv_wrPte _ (tbl + 8 * levelIndex va lvl) (BitVec.ofNat 64 ((takeTable s stk).1 + 1)) (inv_of_same (sameMem_takeTable s stk) h)
      split
      · exact inv_splitLeaf _ _ _ _ h1
      · exact h1
theorem inv_putLeaf (tenant va : Nat) (e : W64) (h : Inv s) : Inv (putLeaf s tenant va e) := inv_wrPte _ _ _ (inv_leafSlot _ _ _ _ _ s h)
theorem inv_memClear (pa n : Nat) (h : Inv s) : Inv { s with mem := memClear s.mem pa n } := ⟨memClear_wf _ _ _ h.1, h.2⟩
theorem inv_memMove (a b n : Nat) (h : Inv s) : Inv { s with mem := memMove s.mem a b n } := ⟨memMove_wf _ _ _ _ h.1, h.2⟩
theorem inv_writeRecord (c ctx : Nat) (r : TrapRec) (i : Nat) (t : State) (h : Inv s) (hw : writeRecord s c ctx r = some (i, t)) : Inv t := by
  unfold writeRecord at hw
  split at hw
  · exact nomatch hw
  · dsimp only at hw
    split at hw
    · exact nomatch hw
    · obtain ⟨-, rfl⟩ := Prod.mk.inj (Option.some.inj hw)
      exact inv_of_same (sameMem_modCore _ _ _) (inv_wrBytes s _ _ h)
theorem inv_stopGang (c g : Nat) (r : TrapRec) (lanes : Mask) (resume : W64) (h : Inv s) : Inv (stopGang s c g r lanes resume) := by
  unfold stopGang
  split
  · exact h
  · rename_i x _
    have h0 : Inv (if x.member4.isSome then dissolveYoke s c else s) := by
      split
      · exact inv_of_same (sameMem_dissolveYoke s c) h
      · exact h
    extract_lets s0
    split
    · rename_i i s1 hw
      exact inv_of_same (sameMem_modGang _ _ _ _) (inv_writeRecord _ _ _ _ _ _ h0 hw)
    · exact inv_of_same (sameMem_modGang _ _ _ _) h0
theorem inv_abortRegion (g : Gang) (lane : Nat) (h : Inv s) : Inv (abortRegion s g lane) :=
  inv_stopGang _ _ _ _ _ _ (inv_of_same (sameMem_rollbackVirtual s _ _) h)
theorem inv_takeTrapAt (code : BitVec 8) (lane : Nat) (infos : List W64) (h : Inv s) : Inv (takeTrapAt s code lane infos) := by
  unfold takeTrapAt
  split
  · exact inv_of_same (sameMem_fwTrap s code infos) h
  · split
    · exact h
    · split
      · exact inv_abortRegion s _ _ h
      · split
        · exact inv_of_same (sameMem_rollback s _ _) h
        · exact inv_stopGang s _ _ _ _ _ h
/-- Taking a trap keeps the invariant. -/
theorem inv_takeTrap (code : BitVec 8) (lane : Nat) (infos : List W64) (h : Inv s) : Inv (takeTrap s code lane infos) := by
  unfold takeTrap
  split
  · exact inv_takeTrapAt _ _ _ _ (inv_of_same (sameMem_eccFound s infos) h)
  · exact inv_takeTrapAt s _ _ _ h
theorem inv_userOp (k : Gang → State) (h : Inv s) (hk : ∀ g, s.curGang? = some g → Inv (k g)) : Inv (userOp s k) := by
  unfold userOp; split
  · exact inv_takeTrap s _ _ _ h
  · split
    · exact h
    · exact hk _ ‹_›
theorem inv_privOp (gd : Guard) (k : Gang → State) (h : Inv s) (hk : ∀ g, s.curGang? = some g → Inv (k g)) : Inv (privOp s gd k) := by
  unfold privOp; split
  · exact h
  · extract_lets e
    split
    · exact hk _ ‹_›
    · exact inv_takeTrap s _ _ _ h
theorem inv_collectiveOp (gd : Guard) (k : Gang → Mask → State) (h : Inv s) (hk : ∀ g e, s.curGang? = some g → Inv (k g e)) : Inv (collectiveOp s gd k) := by
  unfold collectiveOp
  refine inv_userOp s _ h fun g hg => ?_
  extract_lets e
  split
  · exact hk g e hg
  · exact inv_takeTrap s _ _ _ h
/-! ### The loader's writes, and the caches' lines -/

theorem inv_writeRange (tenant va : Nat) (bs : List Byte) (h : Inv s) : Inv (writeRange s tenant va bs) := by
  unfold writeRange
  exact inv_foldl _ _ (fun t _ ht => inv_writeVirt t _ _ _ ht) s h
theorem inv_writeChanged (tenant va : Nat) (old new : List Byte) (h : Inv s) : Inv (writeChanged s tenant va old new) := by
  unfold writeChanged
  refine inv_foldl _ _ (fun t a ht => ?_) s h
  split
  · exact ht
  · exact inv_writeVirt t _ _ _ ht
theorem inv_placeSections (tenant base : Nat) (raw : List Byte) (h : Inv s) : Inv (placeSections s tenant base raw) := by
  unfold placeSections
  refine inv_foldl _ _ (fun t a ht => ?_) _ (inv_writeRange _ _ _ _ (inv_writeChanged s _ _ _ _ h))
  split
  · exact inv_wrBytes t _ _ ht
  · exact ht
theorem sameMem_evictLines (ls : List L2Line) : SameMem s (evictLines s ls) := ⟨rfl, rfl⟩
theorem sameMem_l2Fill (pa home : Nat) (dirty : Bool) : SameMem s (s.l2Fill pa home dirty) := by
  unfold State.l2Fill
  split
  · exact SameMem.rfl' s
  · exact ⟨rfl, rfl⟩
theorem sameMem_writeSliceCfg (die slice : Nat) (v : W64) : SameMem s (writeSliceCfg s die slice v) := by
  unfold writeSliceCfg
  extract_lets
  split <;> exact ⟨rfl, rfl⟩
theorem inv_putPlace (c slot lane home : Nat) (l : Loc) (bs : List Byte) (h : Inv s) : Inv (putPlace s c slot lane home l bs) := by
  unfold putPlace
  split
  · split
    · exact h
    · split
      · exact inv_of_same (sameMem_l2Fill _ _ _ _) ⟨memWrite_wf _ _ _ h.1, h.2⟩
      · exact inv_of_same (by unfold sendWrite State.ask; exact (SameMem.trans ⟨rfl, rfl⟩ (sameMem_send _ _))) h
  · exact inv_of_same (sameMem_modGang s _ _ _) h
  · exact inv_of_same (sameMem_modCore s _ _) h
end

end Sys2Proof.Machine
end

