-- ==== Sys2Proof/Laws/Commands.lean ====
section
/-! SUPPORT. The shapes of services, of the commands of the journal and of wakes: what `serve`, `runCmd` and `wake` can do, said once. -/

namespace Sys2Proof.Machine

section
variable (s : State)

theorem serve_gone (r : SvcReq) (w : List W64 → List (Nat × W64)) (act : List W64 → State → Nat × List (Nat × W64) × State)
    (h : s.requests.contains r = false) : serve r s w act = s := by
  unfold serve; rw [h]; rfl
theorem serve_outstanding (r : SvcReq) (w : List W64 → List (Nat × W64)) (act : List W64 → State → Nat × List (Nat × W64) × State)
    (h : Outstanding s r) :
    serve r s w act = (let o := act (argsOf s r) s
      if o.1 = stOK ∧ (o.2.2.awaits.filter fun a => a.req == some r).any (fun a => a.acks != 0) then o.2.2 else finishRequest o.2.2 r o.1 o.2.1) := by
  have hc : s.requests.contains r = true := List.contains_iff_mem.mpr h.1
  have hm : (s.awaits.filter fun a => a.req == some r) = [] :=
    List.filter_eq_nil_iff.mpr fun a ha hp => h.2 a ha (eq_of_beq hp)
  unfold serve
  rw [hc]
  dsimp only
  rw [hm]
  rfl
theorem serve_acked (r : SvcReq) (w : List W64 → List (Nat × W64)) (act : List W64 → State → Nat × List (Nat × W64) × State)
    (h : r ∈ s.requests) (ha : ∃ a, a ∈ s.awaits ∧ a.req = some r) (hz : ∀ a, a ∈ s.awaits → a.req = some r → a.acks = 0) :
    serve r s w act = finishRequest s r stOK (w (argsOf s r)) := by
  have hc : s.requests.contains r = true := List.contains_iff_mem.mpr h
  have hall : (s.awaits.filter fun a => a.req == some r).all (fun a => a.acks == 0) = true :=
    List.all_eq_true.mpr fun a hm => by
      obtain ⟨h1, h2⟩ := List.mem_filter.mp hm
      rw [hz a h1 (eq_of_beq h2)]; rfl
  unfold serve
  rw [hc]
  dsimp only
  cases hl : s.awaits.filter fun a => a.req == some r with
  | nil =>
    obtain ⟨a, h1, h2⟩ := ha
    have hin : a ∈ s.awaits.filter fun a => a.req == some r := List.mem_filter.mpr ⟨h1, by rw [h2]; exact beq_self_eq_true _⟩
    rw [hl] at hin; exact nomatch hin
  | cons a l =>
    rw [hl] at hall
    dsimp only
    rw [hall]
    rfl

/-- A waiting command whose turn it is runs on its tenant; any other command changes nothing. -/
theorem runCmd_runs (c : CmdRef) (e : JEntry) (m : JCmd) (k : State → Nat → JCmd → State) (h : CmdRuns s c e m) :
    runCmd s c k = k s (s.fn e.fn).tenant m := by
  unfold runCmd
  rw [h.1]
  dsimp only
  rw [h.2.1, h.2.2]
  rfl
theorem runCmd_waits (c : CmdRef) (e : JEntry) (m : JCmd) (k : State → Nat → JCmd → State) (h : s.cmd? c = some (e, m))
    (hw : m.state ≠ .waiting ∨ inOrder s c e = false) : runCmd s c k = s := by
  unfold runCmd
  rw [h]
  dsimp only
  apply if_neg
  rw [Bool.and_eq_true]
  rintro ⟨q1, q2⟩
  rcases hw with hw | hw
  · exact hw (eq_of_beq q1)
  · rw [hw] at q2; exact nomatch q2

/-- Deciding a command that is decided already, or that no journal entry holds, changes nothing. -/
theorem decide_unknown (entry index : Nat) (st : Status) (v : W64) (h : s.entry? entry = none) : s.decide entry index st v = s := by
  unfold State.decide; rw [h]

end

end Sys2Proof.Machine
end

