-- ==== Sys2Proof/Laws/Elements.lean ====
section
/-! SUPPORT. Packed elements: what reading an element of a packed value gives, and the values of the element-wise operations. -/

namespace Sys2Proof.Machine

theorem elemWidth_pos (t : Ty) : 0 < elemWidth t := by cases t <;> decide

theorem elems_fit (t : Ty) : elemWidth t * elemsOf t ≤ 64 := by cases t <;> decide

/-- The number that packing makes, element by element. -/
theorem packSum_elem (w : Nat) (es : List Nat) (i : Nat) (hi : i < es.length) :
    es.foldr (fun e acc => e % 2 ^ w + 2 ^ w * acc) 0 / 2 ^ (w * i) % 2 ^ w = es[i] % 2 ^ w := by
  induction es generalizing i with
  | nil => simp at hi
  | cons e r ih =>
    have hpos : 0 < 2 ^ w := Nat.two_pow_pos w
    have hlt : e % 2 ^ w < 2 ^ w := Nat.mod_lt _ hpos
    cases i with
    | zero => simp
    | succ i =>
      have h := ih i (by simpa using hi)
      rw [List.foldr_cons, Nat.mul_succ, Nat.add_comm (w * i) w, Nat.pow_add, ← Nat.div_div_eq_div_mul,
        Nat.add_mul_div_left _ _ hpos, Nat.div_eq_of_lt hlt, Nat.zero_add, h, List.getElem_cons_succ]

theorem packSum_lt (w : Nat) (es : List Nat) :
    es.foldr (fun e acc => e % 2 ^ w + 2 ^ w * acc) 0 < 2 ^ (w * es.length) := by
  induction es with
  | nil => simp
  | cons e r ih =>
    have hpos : 0 < 2 ^ w := Nat.two_pow_pos w
    have hlt : e % 2 ^ w < 2 ^ w := Nat.mod_lt _ hpos
    rw [List.foldr_cons, List.length_cons, Nat.mul_succ, Nat.pow_add, Nat.mul_comm (2 ^ (w * r.length))]
    calc e % 2 ^ w + 2 ^ w * _ < 2 ^ w + 2 ^ w * _ := Nat.add_lt_add_right hlt _
      _ = 2 ^ w * (_ + 1) := by rw [Nat.mul_add, Nat.mul_one, Nat.add_comm]
      _ ≤ 2 ^ w * 2 ^ (w * r.length) := Nat.mul_le_mul_left _ ih

theorem elemAt_packElems (w : Nat) (es : List Nat) (i : Nat) (hi : i < es.length) (hfit : w * es.length ≤ 64) :
    elemAt w (packElems w es) i = es[i] % 2 ^ w := by
  have hlt : es.foldr (fun e acc => e % 2 ^ w + 2 ^ w * acc) 0 < 2 ^ 64 :=
    Nat.lt_of_lt_of_le (packSum_lt w es) (Nat.pow_le_pow_right (by omega) hfit)
  rw [elemAt, packElems, BitVec.toNat_ofNat, Nat.mod_eq_of_lt hlt, packSum_elem w es i hi]

theorem elemAt_zipElems (t : Ty) (op : Nat → Nat → Nat) (a b : W64) (i : Nat) (hi : i < elemsOf t) :
    elemAt (elemWidth t) (zipElems t op a b) i
      = op (elemAt (elemWidth t) a i) (elemAt (elemWidth t) b i) % 2 ^ elemWidth t := by
  have hl : ((List.range (elemsOf t)).map fun k => op (elemAt (elemWidth t) a k) (elemAt (elemWidth t) b k)).length = elemsOf t := by
    simp
  rw [zipElems, elemAt_packElems _ _ _ (by rw [hl]; exact hi) (by rw [hl]; exact elems_fit t)]
  simp

theorem intBits_lt (w : Nat) (z : Int) : intBits w z < 2 ^ w := by
  have hp : (0 : Int) < 2 ^ w := by exact_mod_cast Nat.two_pow_pos w
  have h1 := Int.emod_nonneg z (Int.ne_of_gt hp)
  have h2 := Int.emod_lt_of_pos z hp
  have : ((intBits w z : Nat) : Int) < ((2 ^ w : Nat) : Int) := by
    rw [intBits, Int.toNat_of_nonneg h1]; push_cast; exact h2
  exact_mod_cast this

/-- Element `i` of an element-wise integer operation is the exact result modulo 2^w (R108). -/
theorem elemAt_intOp (t : Ty) (op : Int → Int → Int) (a b : W64) (i : Nat) (hi : i < elemsOf t) :
    elemAt (elemWidth t) (intOp t op a b) i
      = intBits (elemWidth t) (op (intOf (isSigned t) (elemWidth t) (elemAt (elemWidth t) a i))
          (intOf (isSigned t) (elemWidth t) (elemAt (elemWidth t) b i))) := by
  rw [intOp]
  rw [elemAt_zipElems t _ a b i hi, Nat.mod_eq_of_lt (intBits_lt _ _)]

theorem elemAt_lt (w : Nat) (v : W64) (i : Nat) : elemAt w v i < 2 ^ w := Nat.mod_lt _ (Nat.two_pow_pos w)

/-- The bits of an integer stand for the integer when it is in range. -/
theorem intOf_intBits (signed : Bool) (w : Nat) (z : Int) (hw : 0 < w) (h1 : intMin signed w ≤ z) (h2 : z ≤ intMax signed w) :
    intOf signed w (intBits w z) = z := by
  have hpow : (2 : Int) ^ w = 2 * 2 ^ (w - 1) := by
    obtain ⟨n, rfl⟩ : ∃ n, w = n + 1 := ⟨w - 1, by omega⟩
    rw [Nat.add_sub_cancel, Int.pow_succ, Int.mul_comm]
  have hq : (0 : Int) < 2 ^ (w - 1) := by exact_mod_cast Nat.two_pow_pos (w - 1)
  have hcast : (((2 ^ w : Nat)) : Int) = 2 ^ w := by push_cast; rfl
  have hlt := intBits_lt w z
  have hnn : 0 ≤ z % 2 ^ w := Int.emod_nonneg z (by omega)
  have hb : ((intBits w z : Nat) : Int) = z % 2 ^ w := by rw [intBits, Int.toNat_of_nonneg hnn]
  unfold intOf
  simp only [Nat.mod_eq_of_lt hlt]
  cases signed with
  | false =>
    simp only [intMin, intMax, Bool.false_and, Bool.false_eq_true, if_false] at h1 h2 ⊢
    rw [hb, Int.emod_eq_of_lt h1 (by omega)]
  | true =>
    simp only [intMin, intMax, if_true, Bool.true_and, decide_eq_true_eq] at h1 h2 ⊢
    by_cases hz : 0 ≤ z
    · have hm : z % 2 ^ w = z := Int.emod_eq_of_lt hz (by omega)
      rw [if_neg (by
        intro hge
        have : ((2 ^ w : Nat) : Int) ≤ 2 * ((intBits w z : Nat) : Int) := by exact_mod_cast hge
        omega)]
      rw [hb, hm]
    · have hm : z % 2 ^ w = z + 2 ^ w := by
        rw [← Int.add_emod_right, Int.emod_eq_of_lt (by omega) (by omega)]
      rw [if_pos (by
        have : ((2 ^ w : Nat) : Int) ≤ 2 * ((intBits w z : Nat) : Int) := by omega
        exact_mod_cast this)]
      rw [hb, hm]; omega

/-- Clamping to a type's range. -/
theorem intClamp_fst (signed : Bool) (w : Nat) (z : Int) :
    (intClamp signed w z).1 = max (intMin signed w) (min (intMax signed w) z) := by
  have hq : (0 : Int) < 2 ^ (w - 1) := by exact_mod_cast Nat.two_pow_pos (w - 1)
  have hr : (0 : Int) < 2 ^ w := by exact_mod_cast Nat.two_pow_pos w
  have hle : intMin signed w ≤ intMax signed w := by
    cases signed <;> simp only [intMin, intMax, if_true, if_false, Bool.false_eq_true] <;> omega
  unfold intClamp
  split
  · simp only; omega
  · split <;> simp only <;> omega

theorem intClamp_snd (signed : Bool) (w : Nat) (z : Int) :
    (intClamp signed w z).2 = true ↔ z < intMin signed w ∨ intMax signed w < z := by
  unfold intClamp
  split
  · simp; omega
  · split
    · simp; omega
    · simp; omega

end Sys2Proof.Machine
end

