-- ==== Sys2Proof/Laws/Rejoin.lean ====
section
/-! SUPPORT. Rejoin sets: what the release and the evaluation of a set do to its lanes (R162 to R165). -/

namespace Sys2Proof.Machine
theorem charge_rest (g : Gang) (s : State) : g.chargeOnce s = { g with region := { g.region with energy := (g.chargeOnce s).region.energy } } := by
  unfold Gang.chargeOnce; split <;> rfl
/-- a lane of the gang after a change of arch and base -/
theorem mapBoth_lane (g : Gang) (m : Mask) (f : Nat → Fibre → Fibre) (l : Nat) (h : m.getLsbD l = true → ∃ x, mfind g.arch.fibres l = some x) :
    (g.mapBoth m f).lane l = if m.getLsbD l then f l (g.lane l) else g.lane l := mapLanes_lane g m f l h
theorem found_of (g : Gang) (l : Nat) (h : (g.lane l).status ≠ .absent) : ∃ x, mfind g.arch.fibres l = some x := by
  have e2 : g.lane l = (mfind g.arch.fibres l).getD Fibre.absent := mget_eq_mfind _ _ _
  rw [e2] at h
  cases hf : mfind g.arch.fibres l with
  | some x => exact ⟨x, rfl⟩
  | none => rw [hf] at h; exact absurd rfl h
theorem mapBoth_lane_out (g : Gang) (m : Mask) (f : Nat → Fibre → Fibre) (l : Nat) (h : m.getLsbD l = false) :
    (g.mapBoth m f).lane l = g.lane l := mapLanes_out g m f l h
theorem release_lane_in (g : Gang) (m : Mask) (l : Nat) (h : m.getLsbD l = true) (hl : (g.lane l).status ≠ .absent) :
    (g.release m).lane l = { g.lane l with status := .ready, pc := g.nextOf l } := by
  show (g.mapBoth m _).lane l = _
  rw [mapBoth_lane _ _ _ _ fun _ => found_of g l hl]; simp [h]
theorem release_lane_out (g : Gang) (m : Mask) (l : Nat) (h : m.getLsbD l = false) : (g.release m).lane l = g.lane l :=
  mapBoth_lane_out g m _ l h
theorem find_dropWaits (m : Mask) (ws : List Wait) (l : Nat) (h : m.getLsbD l = false) (hl : l < 32) :
    ((dropWaits m ws).find? fun w => w.mask.getLsbD l).map (fun w => w.next) = (ws.find? fun w => w.mask.getLsbD l).map fun w => w.next := by
  unfold dropWaits
  induction ws with
  | nil => rfl
  | cons w r ih =>
    simp only [List.map_cons, List.filter_cons]
    have hb : (w.mask &&& ~~~m).getLsbD l = w.mask.getLsbD l := by
      rw [BitVec.getLsbD_and, BitVec.getLsbD_not, h]; cases w.mask.getLsbD l <;> simp [hl]
    by_cases hw : w.mask.getLsbD l = true
    · have hne : ((w.mask &&& ~~~m) != 0) = true := by
        rw [bne_iff_ne]; intro h0; rw [h0, hw] at hb; simp at hb
      rw [if_pos hne]
      simp only [List.find?_cons, hb, hw]
      rfl
    · have hw' : w.mask.getLsbD l = false := by simpa using hw
      by_cases hne : ((w.mask &&& ~~~m) != 0) = true
      · rw [if_pos hne]; simp only [List.find?_cons, hb, hw']; exact ih
      · rw [if_neg hne]; simp only [List.find?_cons, hw']; exact ih
theorem release_nextOf (g : Gang) (m : Mask) (l : Nat) (h : m.getLsbD l = false) (hl : l < 32) : (g.release m).nextOf l = g.nextOf l := by
  have e : (g.release m).nextOf l = ((((dropWaits m g.waits).find? fun w => w.mask.getLsbD l).map fun w => w.next).getD ((g.release m).lane l).pc) := rfl
  rw [e, find_dropWaits m g.waits l h hl, release_lane_out g m l h]; rfl
/-- Release of a set: its arrived fibres. -/
theorem releaseSet_in (g : Gang) (j l : Nat) (h : (g.arriveOf j).getLsbD l = true) (hl : (g.lane l).status ≠ .absent) :
    SameRegs ((g.releaseSet j).lane l) { g.lane l with status := .ready, pc := g.nextOf l } := by
  have e : (g.releaseSet j).lane l = ((g.release (g.arriveOf j)).mapBoth (g.arriveOf j) fun _ f => (f.learn (g.clocks (g.arriveOf j))).tick).lane l := rfl
  rw [e, mapBoth_lane, if_pos h, release_lane_in g _ l h hl]
  · rfl
  · intro _
    apply found_of
    rw [release_lane_in g _ l h hl]; simp
theorem releaseSet_out (g : Gang) (j l : Nat) (h : (g.arriveOf j).getLsbD l = false) : (g.releaseSet j).lane l = g.lane l := by
  have e : (g.releaseSet j).lane l = ((g.release (g.arriveOf j)).mapBoth (g.arriveOf j) fun _ f => (f.learn (g.clocks (g.arriveOf j))).tick).lane l := rfl
  rw [e, mapBoth_lane_out _ _ _ _ h, release_lane_out g _ l h]
theorem sameRegs_refl (x : Fibre) : SameRegs x x := rfl
theorem setBecomes_evalSet (g : Gang) (d : Nat) (member arrive out : Mask) (hd : d ≠ 0) (ho : ∀ l, l < 32 → out.getLsbD l = true → arrive.getLsbD l = false)  :
    SetBecomes g ((({ g.release out with member := mset g.member d member, arrive := mset g.arrive d arrive } : Gang)).evalSet d) d member arrive out := by
  let k : Gang := { g.release out with member := mset g.member d member, arrive := mset g.arrive d arrive }
  have hm : k.memberOf d = member := by show (if d = 0 then _ else mget 0 (mset g.member d member) d) = _; rw [if_neg hd, mget_mset_same]
  have ha : k.arriveOf d = arrive := mget_mset_same _ _ _ _
  have hr : k.releases d = true ↔ arrive ≠ 0 ∧ member &&& ~~~arrive = 0 := by
    unfold Gang.releases; rw [hm, ha]; simp
  have hk (l : Nat) : k.lane l = (g.release out).lane l := rfl
  have hn (l : Nat) : k.nextOf l = (g.release out).nextOf l := rfl
  by_cases h : k.releases d = true
  · have he : Gang.evalSet k d = k.releaseSet d := by unfold Gang.evalSet; rw [if_pos h]
    show SetBecomes g (Gang.evalSet k d) d member arrive out
    rw [he]
    have hrel := hr.mp h
    refine ⟨rfl, mget_mset_same _ _ _ _, fun _ => mget_mset_same _ _ _ _, fun q => absurd hrel q, ?_, ?_⟩
    · intro j hj
      refine ⟨mget_mset_other _ _ _ _ _ hj, ?_⟩
      show mget 0 (mset (mset g.arrive d arrive) d 0) j = _
      rw [mget_mset_other _ _ _ _ _ hj, mget_mset_other _ _ _ _ _ hj]; rfl
    · intro l hl
      refine ⟨fun hf ha' => ?_, fun hf => ?_⟩
      · by_cases hA : arrive.getLsbD l = true
        · have hO : out.getLsbD l = false := by
            cases hq : out.getLsbD l with
            | false => rfl
            | true => exact absurd hA (by rw [ho l hl hq]; decide)
          have h1 := releaseSet_in k d l (by rw [ha]; exact hA) (by rw [hk, release_lane_out g out l hO]; exact ha')
          rw [hk, hn, release_lane_out g out l hO, release_nextOf g out l hO hl] at h1
          exact h1
        · have hA' : arrive.getLsbD l = false := by simpa using hA
          have hO : out.getLsbD l = true := by rcases hf with q | q; exact q; exact absurd q.2 hA
          rw [releaseSet_out k d l (by rw [ha]; exact hA'), hk, release_lane_in g out l hO ha']
          exact sameRegs_refl _
      · have hO : out.getLsbD l = false := by
          cases hq : out.getLsbD l with | false => rfl | true => exact absurd (.inl hq) hf
        have hA : arrive.getLsbD l = false := by
          cases hq : arrive.getLsbD l with | false => rfl | true => exact absurd (.inr ⟨hrel, hq⟩) hf
        rw [releaseSet_out k d l (by rw [ha]; exact hA), hk, release_lane_out g out l hO]
  · have he : Gang.evalSet k d = k := by unfold Gang.evalSet; rw [if_neg h]
    show SetBecomes g (Gang.evalSet k d) d member arrive out
    rw [he]
    have hrel : ¬ (arrive ≠ 0 ∧ member &&& ~~~arrive = 0) := fun q => h (hr.mpr q)
    refine ⟨rfl, mget_mset_same _ _ _ _, fun q => absurd q hrel, fun _ => mget_mset_same _ _ _ _, ?_, ?_⟩
    · intro j hj
      exact ⟨mget_mset_other _ _ _ _ _ hj, mget_mset_other _ _ _ _ _ hj⟩
    · intro l hl
      refine ⟨fun hf ha' => ?_, fun hf => ?_⟩
      · have hO : out.getLsbD l = true := by rcases hf with q | q; exact q; exact absurd q.1 hrel
        rw [hk, release_lane_in g out l hO ha']; exact sameRegs_refl _
      · have hO : out.getLsbD l = false := by
          cases hq : out.getLsbD l with | false => rfl | true => exact absurd (.inl hq) hf
        rw [hk, release_lane_out g out l hO]
theorem setOp_some (s : State) (g : Gang) (gd : Guard) (k : Gang → Mask → Gang) (hg : Issues s g) (hf : s.inFirmware = false) (h : execLanes s g gd ≠ 0) :
    setOp s gd k = s.putCur (movedOn s g (k g (execLanes s g gd))) := by
  have hc : s.curGang? = some g := hg
  unfold setOp; rw [userOp_user s _ g hf hc]; dsimp only; rw [if_neg h, retireWith_moves s _ g hc]; rfl
theorem setOp_none (s : State) (g : Gang) (gd : Guard) (k : Gang → Mask → Gang) (hg : Issues s g) (hf : s.inFirmware = false) (h : execLanes s g gd = 0) :
    setOp s gd k = s.putCur (movedOn s g g) := by
  have hc : s.curGang? = some g := hg
  unfold setOp; rw [userOp_user s _ g hf hc]; dsimp only; rw [if_pos h, retireWith_moves s _ g hc]; rfl

end Sys2Proof.Machine
end

