-- ==== Sys2Proof/Tests/Slice0.lean ====
section
/-! SUPPORT. Tests of the model: words written out from the spec's encodings, ill-formed terms that the checks refuse, worked values of
the spec on one instruction each, and for each statement of Obligations a state and operands that meet its hypotheses. -/

namespace Sys2Proof.Tests

open Sys2Proof Sys2Proof.Machine

/-! ### Decoding: one word for each ZN-V instruction, from R31 to R34 and the opcode tables R49 to R56 -/

/-- The guard that always holds. -/
def always : Guard := { neg := false, pred := 15 }
/-- Format-A fields under the guard that always holds. -/
def fA (m : BitVec 4) (t : Ty) (d a b : Nat) : AForm := { mod := m, ty := t, g := always, d := d, a := a, b := b }
/-- Format-I fields. -/
def fI (m : BitVec 4) (t : Ty) (d a : Nat) (imm : BitVec 14) : IForm := { mod := m, ty := t, g := always, d := d, a := a, imm := imm }
/-- Format-C fields. -/
def fC (m : BitVec 4) (t : Ty) (d a b c : Nat) (e : BitVec 18) : CForm :=
  { mod := m, ty := t, g := always, d := d, a := a, b := b, c := c, ext := e }
/-- Format-L fields. -/
def fL (m : BitVec 4) (t : Ty) (d a b : Nat) (lit : BitVec 32) : LForm := { mod := m, ty := t, g := always, d := d, a := a, b := b, lit := lit }

/-- Parcels decode to an instruction without prefixes, as long as they are, and the encoder writes them. -/
def reads (ws : List (BitVec 32)) (i : Instr) : Bool :=
  decide (decodeParcels ws = .ok i ws.length 0 (pairAt ws 0)) && decide (encode i = ws)

theorem test_decode_integer_1 :
    reads [0x00803C00, 0x10008003] (.add (fA 0 .s32 1 2 3)) &&
    reads [0x01003C00, 0x1000BFFD] (.addI (fI 0 .s32 1 2 0x3ffd)) &&
    reads [0x01803C00, 0x10008003] (.sub (fA 0 .s32 1 2 3)) &&
    reads [0x02003C00, 0x1000BFFD] (.subI (fI 0 .s32 1 2 0x3ffd)) &&
    reads [0x02803C00, 0x10008003] (.mul (fA 0 .s32 1 2 3)) &&
    reads [0x03003C00, 0x1000BFFD] (.mulI (fI 0 .s32 1 2 0x3ffd)) &&
    reads [0x03803C00, 0x10008003] (.mulh (fA 0 .s32 1 2 3)) &&
    reads [0x04003C00, 0x10008003, 0x00100000] (.madd (fC 0 .s32 1 2 3 4 0x0)) &&
    reads [0x04803C00, 0x10008003] (.div (fA 0 .s32 1 2 3)) &&
    reads [0x05003C00, 0x10008003] (.rem (fA 0 .s32 1 2 3)) &&
    reads [0x05803C00, 0x10008000] (.abs (fA 0 .s32 1 2 0)) &&
    reads [0x06003C00, 0x10008000] (.neg (fA 0 .s32 1 2 0)) &&
    reads [0x06803C00, 0x10008003] (.min (fA 0 .s32 1 2 3)) &&
    reads [0x07003C00, 0x1000BFFD] (.minI (fI 0 .s32 1 2 0x3ffd)) &&
    reads [0x07803C00, 0x10008003] (.max (fA 0 .s32 1 2 3)) &&
    reads [0x08003C00, 0x1000BFFD] (.maxI (fI 0 .s32 1 2 0x3ffd)) &&
    reads [0x08803C00, 0x10008003] (.and (fA 0 .s32 1 2 3)) &&
    reads [0x09003C00, 0x1000BFFD] (.andI (fI 0 .s32 1 2 0x3ffd)) &&
    reads [0x09803C00, 0x10008003] (.or (fA 0 .s32 1 2 3)) &&
    reads [0x0A003C00, 0x1000BFFD] (.orI (fI 0 .s32 1 2 0x3ffd)) &&
    reads [0x0A803C00, 0x10008003] (.xor (fA 0 .s32 1 2 3)) &&
    reads [0x0B003C00, 0x1000BFFD] (.xorI (fI 0 .s32 1 2 0x3ffd)) &&
    reads [0x0B803C00, 0x10008003] (.andn (fA 0 .s32 1 2 3)) &&
    reads [0x0C003C00, 0x10008000] (.not (fA 0 .s32 1 2 0)) &&
    reads [0x0C803C00, 0x10008003] (.shl (fA 0 .s32 1 2 3)) &&
    reads [0x0D003C00, 0x1000803F] (.shlI (fI 0 .s32 1 2 0x3f)) := by decide

theorem test_decode_integer_2 :
    reads [0x0D803C00, 0x10008003] (.shr (fA 0 .s32 1 2 3)) &&
    reads [0x0E003C00, 0x1000803F] (.shrI (fI 0 .s32 1 2 0x3f)) &&
    reads [0x0E803C00, 0x10008003] (.sar (fA 0 .s32 1 2 3)) &&
    reads [0x0F003C00, 0x1000801F] (.sarI (fI 0 .s32 1 2 0x1f)) &&
    reads [0x0F803C00, 0x10008003] (.rotl (fA 0 .s32 1 2 3)) &&
    reads [0x10003C00, 0x10008005] (.rotlI (fI 0 .s32 1 2 0x5)) &&
    reads [0x10983C00, 0x10008003, 0x00100000] (.funnel (fC 3 .s32 1 2 3 4 0x0)) &&
    reads [0x11003C00, 0x10008003] (.bfx (fA 0 .s32 1 2 3)) &&
    reads [0x11803C00, 0x10009FFF] (.bfxI (fI 0 .s32 1 2 0x1fff)) &&
    reads [0x12003C00, 0x10008003, 0x00100000] (.bfi (fC 0 .s32 1 2 3 4 0x0)) &&
    reads [0x12803C00, 0x10008000] (.popc (fA 0 .s32 1 2 0)) &&
    reads [0x13003C00, 0x10008000] (.clz (fA 0 .s32 1 2 0)) &&
    reads [0x13803C00, 0x10008000] (.ctz (fA 0 .s32 1 2 0)) &&
    reads [0x14003C00, 0x10008000] (.brev (fA 0 .s32 1 2 0)) &&
    reads [0x1487BC00, 0x10008003, 0x00100000] (.prmt (fC 0 .b32 1 2 3 4 0x0)) &&
    reads [0x15003C00, 0x10008003, 0x00100001] (.sel (fC 0 .s32 1 2 3 4 0x1)) &&
    reads [0x15803C00, 0x10008000] (.mov (fA 0 .s32 1 2 0)) &&
    reads [0x16003C00, 0x10000000, 0xFEDCBA98] (.movi (fL 0 .s32 1 0 0 0xfedcba98)) &&
    reads [0x16803C00, 0x10008003, 0x00003F02] (.lea (fC 0 .s32 1 2 3 0 0x3f02)) &&
    reads [0x17003C00, 0x1000BFFD] (.leaI (fI 0 .s32 1 2 0x3ffd)) &&
    reads [0x17803C00, 0x10008003] (.addsat (fA 0 .s32 1 2 3)) &&
    reads [0x18003C00, 0x10008003] (.subsat (fA 0 .s32 1 2 3)) := by decide

theorem test_decode_predicate :
    reads [0x20283C00, 0x10008003] (.cmp (fA 5 .s32 1 2 3)) &&
    reads [0x20903C00, 0x1000BFFD] (.cmpI (fI 2 .s32 1 2 0x3ffd)) &&
    reads [0x21723C00, 0x10008003] (.fcmp (fA 14 .fp32 1 2 3)) &&
    reads [0x21803C00, 0x1000800B] (.pand (fA 0 .s32 1 2 11)) &&
    reads [0x22003C00, 0x1000800B] (.por (fA 0 .s32 1 2 11)) &&
    reads [0x22803C00, 0x1000800B] (.pxor (fA 0 .s32 1 2 11)) &&
    reads [0x23003C00, 0x10008000] (.pnot (fA 0 .s32 1 2 0)) &&
    reads [0x23803C00, 0x10000000] (.pmov (fA 0 .s32 1 0 0)) &&
    reads [0x24003C00, 0x1000800B, 0x00100000] (.psel (fC 0 .s32 1 2 11 4 0x0)) := by decide

theorem test_decode_floating :
    reads [0x401A3C00, 0x10008003] (.fadd (fA 3 .fp32 1 2 3)) &&
    reads [0x40823C00, 0x10008003] (.fsub (fA 0 .fp32 1 2 3)) &&
    reads [0x41023C00, 0x10008003] (.fmul (fA 0 .fp32 1 2 3)) &&
    reads [0x41823C00, 0x10008003, 0x00100000] (.ffma (fC 0 .fp32 1 2 3 4 0x0)) &&
    reads [0x42023C00, 0x10008003] (.fmin (fA 0 .fp32 1 2 3)) &&
    reads [0x42823C00, 0x10008003] (.fmax (fA 0 .fp32 1 2 3)) &&
    reads [0x43023C00, 0x10008003] (.fdiv (fA 0 .fp32 1 2 3)) &&
    reads [0x43823C00, 0x10008000] (.fsqrt (fA 0 .fp32 1 2 0)) &&
    reads [0x44023C00, 0x10008000] (.frcp (fA 0 .fp32 1 2 0)) &&
    reads [0x44823C00, 0x10008000] (.frsq (fA 0 .fp32 1 2 0)) &&
    reads [0x45023C00, 0x10008000] (.fexp2 (fA 0 .fp32 1 2 0)) &&
    reads [0x45823C00, 0x10008000] (.flog2 (fA 0 .fp32 1 2 0)) &&
    reads [0x46023C00, 0x10008000] (.fsin (fA 0 .fp32 1 2 0)) &&
    reads [0x46823C00, 0x10008000] (.fcos (fA 0 .fp32 1 2 0)) &&
    reads [0x47023C00, 0x10008000] (.ftanh (fA 0 .fp32 1 2 0)) &&
    reads [0x47823C00, 0x10008000] (.fclass (fA 0 .fp32 1 2 0)) &&
    reads [0x48023C00, 0x10008003] (.fscale (fA 0 .fp32 1 2 3)) &&
    reads [0x48823C00, 0x10008000] (.frnd (fA 0 .fp32 1 2 0)) &&
    reads [0x49203C00, 0x10008000, 0x00000005] (.cvt (fC 4 .s32 1 2 0 0 0x5)) &&
    reads [0x49823C00, 0x10008003] (.fcopysign (fA 0 .fp32 1 2 3)) &&
    reads [0x4A023C00, 0x10008000, 0xFEDCBA98] (.faddL (fL 0 .fp32 1 2 0 0xfedcba98)) &&
    reads [0x4A823C00, 0x10008000, 0xFEDCBA98] (.fmulL (fL 0 .fp32 1 2 0 0xfedcba98)) := by decide

theorem test_decode_packed :
    reads [0x60043C00, 0x10008003, 0x00100001] (.dot8 (fC 0 .s8x4 1 2 3 4 0x1)) &&
    reads [0x60853C00, 0x10008003, 0x00100000] (.dot4 (fC 0 .s4x8 1 2 3 4 0x0)) &&
    reads [0x6102BC00, 0x10008003, 0x00100000] (.dot2 (fC 0 .fp16 1 2 3 4 0x0)) &&
    reads [0x61843C00, 0x10008003] (.pack (fA 0 .s8x4 1 2 3)) &&
    reads [0x62043C00, 0x10008000] (.unpack (fA 0 .s8x4 1 2 0)) &&
    reads [0x62823C00, 0x10008003, 0x00000002] (.scl (fC 0 .fp32 1 2 3 0 0x2)) &&
    reads [0x63043C00, 0x10008003, 0x00000006] (.qnt (fC 0 .s8x4 1 2 3 0 0x6)) &&
    reads [0x63843C00, 0x10008003, 0x00100006] (.qntsr (fC 0 .s8x4 1 2 3 4 0x6)) &&
    reads [0x64023C00, 0x00008000] (.hist (fA 0 .fp32 0 2 0)) &&
    reads [0x64803C00, 0x100000BF] (.hclip (fI 0 .s32 1 0 0xbf)) := by decide

theorem test_decode_memory :
    reads [0x80103C00, 0x1000BFFD] (.ldI (fI 2 .s32 1 2 0x3ffd)) &&
    reads [0x80803C00, 0x10008000, 0x00011FF8] (.ldC (fC 0 .s32 1 2 0 0 0x11ff8)) &&
    reads [0x81003C00, 0x1000BFFD] (.stI (fI 0 .s32 1 2 0x3ffd)) &&
    reads [0x81803C00, 0x10008000, 0x0001A010] (.stC (fC 0 .s32 1 2 0 0 0x1a010)) &&
    reads [0x8207BC00, 0x1000BFFD] (.ldrow (fI 0 .b32 1 2 0x3ffd)) &&
    reads [0x8287BC00, 0x1000BFFD] (.strow (fI 0 .b32 1 2 0x3ffd)) &&
    reads [0x8307BC00, 0x10008003, 0x00100000] (.rotm (fC 0 .b32 1 2 3 4 0x0)) &&
    reads [0x83803C00, 0x10008000] (.pres (fA 0 .s32 1 2 0)) &&
    reads [0x84003C00, 0x10008003, 0x0000A003] (.atom (fC 0 .s32 1 2 3 0 0xa003)) &&
    reads [0x84803C00, 0x10008003, 0x00122002] (.cas (fC 0 .s32 1 2 3 4 0x22002)) &&
    reads [0x8501BC00, 0x10008003, 0x0012D005] (.cas128 (fC 0 .n64 1 2 3 4 0x2d005)) &&
    reads [0x85823C00, 0x00008003, 0x00008000] (.fatom (fC 0 .fp32 0 2 3 0 0x8000)) &&
    reads [0x86003C00, 0x00000000, 0x00025000] (.fence (fC 0 .s32 0 0 0 0 0x25000)) &&
    reads [0x86803C00, 0x00000000, 0x00011021] (.fencex (fC 0 .s32 0 0 0 0 0x11021)) &&
    reads [0x87003C00, 0x0000BFFD] (.pref (fI 0 .s32 0 2 0x3ffd)) &&
    reads [0x87803C00, 0x30008000, 0x00000013] (.shw (fC 0 .s32 3 2 0 0 0x13)) &&
    reads [0x88083C00, 0x10038000] (.ldq (fA 1 .s32 1 14 0)) &&
    reads [0x88803C00, 0xF0008000] (.stq (fA 0 .s32 15 2 0)) := by decide

theorem test_decode_control_1 :
    reads [0xA0003C00, 0x00000000, 0xFEDCBA98] (.bra (fL 0 .s32 0 0 0 0xfedcba98)) &&
    reads [0xA0803C00, 0x00008000] (.brx (fA 0 .s32 0 2 0)) &&
    reads [0xA1003C00, 0x00000000, 0xFEDCBA98] (.call (fL 0 .s32 0 0 0 0xfedcba98)) &&
    reads [0xA1803C00, 0x00008000] (.callx (fA 0 .s32 0 2 0)) &&
    reads [0xA2003C00, 0x00000000] (.ret (fA 0 .s32 0 0 0)) &&
    reads [0xA2803C00, 0x00000000] (.exit (fA 0 .s32 0 0 0)) &&
    reads [0xA3003C00, 0x10008003, 0x00100110] (.spawn (fC 0 .s32 1 2 3 4 0x110)) &&
    reads [0xA3803C00, 0x00008003, 0x00100010] (.fork (fC 0 .s32 0 2 3 4 0x10)) &&
    reads [0xA4003C00, 0x00008000] (.join (fA 0 .s32 0 2 0)) &&
    reads [0xA4803C00, 0x70000000] (.jenter (fA 0 .s32 7 0 0)) &&
    reads [0xA5003C00, 0x70000000] (.jquit (fA 0 .s32 7 0 0)) &&
    reads [0xA5803C00, 0x0001C000] (.jwait (fA 0 .s32 0 7 0)) &&
    reads [0xA6003C00, 0x1001C000] (.jread (fA 0 .s32 1 7 0)) &&
    reads [0xA6803C00, 0x70008000] (.jinit (fA 0 .s32 7 2 0)) &&
    reads [0xA7003C00, 0x70000000] (.jclr (fA 0 .s32 7 0 0)) &&
    reads [0xA7803C00, 0x00000009] (.bar (fI 0 .s32 0 0 0x9)) &&
    reads [0xA8083C00, 0x00008000, 0x00000005] (.barn (fC 1 .s32 0 2 0 0 0x5)) &&
    reads [0xA8803C00, 0x00008FFF] (.syscall (fI 0 .s32 0 2 0xfff)) &&
    reads [0xA9003C00, 0x10000018] (.getid (fI 0 .s32 1 0 0x18)) &&
    reads [0xA9803C00, 0x00000000] (.nop (fA 0 .s32 0 0 0)) &&
    reads [0xAA003C00, 0x00003FFD] (.trap (fI 0 .s32 0 0 0x3ffd)) &&
    reads [0xAA803C00, 0x00003FFD] (.bkpt (fI 0 .s32 0 0 0x3ffd)) &&
    reads [0xAC183C00, 0x10008003, 0x00100005] (.shfl (fC 3 .s32 1 2 3 4 0x5)) &&
    reads [0xAC903C00, 0x10008000] (.vote (fA 2 .s32 1 2 0)) &&
    reads [0xAD003C00, 0x10008000] (.ballot (fA 0 .s32 1 2 0)) &&
    reads [0xAD983C00, 0x10008000] (.greduce (fA 3 .s32 1 2 0)) := by decide

theorem test_decode_control_2 :
    reads [0xAE403C00, 0x10008000] (.gscan (fA 8 .s32 1 2 0)) &&
    reads [0xAE803C00, 0x10000000] (.elect (fA 0 .s32 1 0 0)) := by decide

theorem test_decode_engine :
    reads [0xC0003C00, 0x00000064] (.oclaim (fI 0 .s32 0 0 0x64)) &&
    reads [0xC0803C00, 0x00000000, 0xFEDCBA98] (.orelease (fL 0 .s32 0 0 0 0xfedcba98)) &&
    reads [0xC102BC01, 0xE0000000, 0x00000017] (.oload (fC 0 .fp16 30 0 0 0 0x17)) &&
    reads [0xC1A63C00, 0x3001001F, 0x00100000] (.mma (fC 4 .e4m3x4 3 4 31 4 0x0)) &&
    reads [0xC2063C00, 0x3001001F, 0x0013FFFF] (.mmas (fC 0 .e4m3x4 3 4 31 4 0x3ffff)) &&
    reads [0xC2ACBC00, 0x30010000, 0x00100000] (.mmag (fC 5 .n8x4 3 4 0 4 0x0)) &&
    reads [0xC307BC00, 0x10008003, 0x00000000] (.accrd (fC 0 .b32 1 2 3 0 0x0)) &&
    reads [0xC387BC00, 0x30008003, 0x00000000] (.accwr (fC 0 .b32 3 2 3 0 0x0)) &&
    reads [0xC4003C00, 0x00000005] (.accz (fI 0 .s32 0 0 0x5)) &&
    reads [0xC4803C00, 0x00010000] (.actlut (fA 0 .s32 0 4 0)) &&
    reads [0xC5003C00, 0x0000BFFD] (.seqrun (fI 0 .s32 0 2 0x3ffd)) &&
    reads [0xC6403C00, 0x00008000, 0x00002005] (.copy (fC 8 .s32 0 2 0 0 0x2005)) &&
    reads [0xC6803C00, 0x00008003, 0x00002005] (.copyg (fC 0 .s32 0 2 3 0 0x2005)) &&
    reads [0xC8003C00, 0x00008003] (.nreg (fA 0 .s32 0 2 3)) &&
    reads [0xC8C03C00, 0x00008003, 0x00000023] (.nwant (fC 8 .s32 0 2 3 0 0x23)) &&
    reads [0xC9003C00, 0x00008000, 0x00000001] (.npub (fC 0 .s32 0 2 0 0 0x1)) &&
    reads [0xC9803C00, 0x00008000] (.ndrop (fA 0 .s32 0 2 0)) &&
    reads [0xCA003C00, 0x00008000] (.nwait (fA 0 .s32 0 2 0)) &&
    reads [0xCC003C00, 0x10008003, 0x00002006] (.bulk (fC 0 .s32 1 2 3 0 0x2006)) &&
    reads [0xCC803C00, 0x00008003, 0x00000001] (.armt (fC 0 .s32 0 2 3 0 0x1)) &&
    reads [0xCD003C00, 0x00008000] (.arwait (fA 0 .s32 0 2 0)) &&
    reads [0xCE003C00, 0x10008000] (.yoke (fA 0 .s32 1 2 0)) &&
    reads [0xCE803C00, 0x00000000] (.unyoke (fA 0 .s32 0 0 0)) &&
    reads [0xCF003C00, 0x10008000] (.migrate (fA 0 .s32 1 2 0)) &&
    reads [0xCF803C00, 0x00000027] (.cbar (fI 0 .s32 0 0 0x27)) := by decide

theorem test_decode_system :
    reads [0xE0003C00, 0x10003113] (.srd (fI 0 .s32 1 0 0x3113)) &&
    reads [0xE0803C00, 0x00008009] (.swr (fI 0 .s32 0 2 0x9)) &&
    reads [0xE1103C00, 0x00008000] (.eret (fA 2 .s32 0 2 0)) &&
    reads [0xE1883C00, 0x00008003, 0x00100000] (.tlbinv (fC 1 .s32 0 2 3 4 0x0)) &&
    reads [0xE2003C00, 0x00008003] (.ctxsv (fA 0 .s32 0 2 3)) &&
    reads [0xE2803C00, 0x00008003] (.ctxld (fA 0 .s32 0 2 3)) &&
    reads [0xE3083C00, 0x10008000] (.eclr (fA 1 .s32 1 2 0)) &&
    reads [0xE3803C00, 0x00000000] (.halt (fA 0 .s32 0 0 0)) &&
    reads [0xE4003C00, 0x00008000] (.wfi (fA 0 .s32 0 2 0)) &&
    reads [0xE4803C00, 0x00008ABC] (.kcall (fI 0 .s32 0 2 0xabc)) := by decide

/-! ### WellFormed refuses a term for each check (R38 to R46, R62) -/

/-- An instruction is refused with exactly one fault. -/
def refuses (i : Instr) (reason field : Nat) : Bool := decide (fieldFaultsOf i = [(reason, field)])

theorem test_wellFormed_sound (i : Instr) (r f : Nat) (h : refuses i r f = true) : ¬ WellFormed i := by
  simp [refuses] at h; simp [WellFormed, h]
theorem test_refuses_guard : refuses (.add { fA 0 .s32 1 2 3 with g := { neg := false, pred := 13 } }) 3 3 = true := by decide
theorem test_refuses_guard_neg15 : refuses (.add { fA 0 .s32 1 2 3 with g := { neg := true, pred := 15 } }) 3 3 = true := by decide
theorem test_refuses_type : refuses (.add (fA 0 .fp32 1 2 3)) 4 2 = true := by decide
theorem test_refuses_type_b32_atom : refuses (.atom (fC 0 .b32 1 2 3 0 0x8000)) 4 2 = true := by decide
theorem test_refuses_mod : refuses (.add (fA 1 .s32 1 2 3)) 5 1 = true := by decide
theorem test_refuses_condition_code : refuses (.fcmp (fA 7 .fp32 1 2 3)) 5 1 = true := by decide
theorem test_refuses_round_mode : refuses (.fadd (fA 4 .fp32 1 2 3)) 5 1 = true := by decide
theorem test_refuses_unused_field : refuses (.abs (fA 0 .s32 1 2 3)) 6 6 = true := by decide
theorem test_refuses_unused_d : refuses (.nop (fA 0 .s32 1 0 0)) 6 4 = true := by decide
theorem test_refuses_immediate : refuses (.shlI (fI 0 .s32 1 2 64)) 6 6 = true := by decide
theorem test_refuses_extension : refuses (.madd (fC 0 .s32 1 2 3 4 1)) 6 8 = true := by decide
theorem test_refuses_system_register : refuses (.srd (fI 0 .s32 1 0 0x000A)) 6 6 = true := by decide
theorem test_refuses_register : refuses (.add (fA 0 .s32 (2 ^ 32) 2 3)) 7 4 = true := by decide
theorem test_refuses_predicate : refuses (.pand (fA 0 .s32 12 0 0)) 7 4 = true := by decide
theorem test_refuses_set : refuses (.jwait (fA 0 .s32 0 8 0)) 7 5 = true := by decide
theorem test_refuses_j0_destination : refuses (.jenter (fA 0 .s32 0 0 0)) 7 4 = true := by decide
theorem test_refuses_shape : refuses (.shw (fC 0 .s32 4 1 0 0 0)) 7 4 = true := by decide
theorem test_refuses_accumulator : refuses (.accrd (fC 0 .b32 1 4 2 0 0)) 7 5 = true := by decide
theorem test_refuses_slot : refuses (.actlut (fA 0 .s32 0 32 0)) 7 5 = true := by decide
theorem test_refuses_queue : refuses (.ldq (fA 0 .s32 1 16 0)) 7 5 = true := by decide
theorem test_refuses_special_register : refuses (.getid (fI 0 .s32 1 0 25)) 7 6 = true := by decide
theorem test_refuses_prefix : refuses (.jwait (fA 0 .s32 0 16384 0)) 8 10 = true := by decide
theorem test_refuses_order : refuses (.ldC (fC 0 .s32 1 2 0 0 (3 <<< 15))) 9 8 = true := by decide
theorem test_refuses_scope : refuses (.ldC (fC 0 .s32 1 2 0 0 (1 <<< 15 ||| 6 <<< 12))) 9 8 = true := by decide
theorem test_refuses_plain_with_scope : refuses (.stC (fC 0 .s32 1 2 0 0 (1 <<< 12))) 9 8 = true := by decide
theorem test_refuses_failure_order : refuses (.cas (fC 0 .s32 1 2 3 4 (1 <<< 15 ||| 2))) 9 8 = true := by decide
/-- R62's own example: two faults, and the decoder reports the lower reason. -/
theorem test_lowest_reason : decodeParcels [0x00823400, 0x7000C00C] = .bad 3 3 2 0x008234007000C00C := by decide
/-- R63: a truncated instruction reports truncation alone, missing parcels as zero. -/
theorem test_truncated : decodeParcels [0xFF000040, 0x00000000, 0xFF400000] = .bad 0x0A 0 3 0xFF00004000000000 := by decide
/-- R56, R62: a native-only opcode in a ZN-V stream. -/
theorem test_native_only : decodeParcels [0xF0003C00, 0] = .bad 2 0 2 0xF0003C0000000000 := by decide

/-! ### Worked values of the spec -/

/-- R108 to R110: the spec's own table and examples. -/
theorem test_div : (divT .s32 7 0xFFFFFFFE, remT .s32 7 0xFFFFFFFE, divT .s32 0xFFFFFFF9 2, remT .s32 0xFFFFFFF9 2) =
    (0xFFFFFFFD, 1, 0xFFFFFFFD, 0xFFFFFFFF) := by decide
theorem test_div_corners : (divT .s32 5 0, remT .n32 5 0, divT .s32 0x80000000 0xFFFFFFFF, remT .s32 0x80000000 0xFFFFFFFF,
    divT .n32 0x80000000 0xFFFFFFFF, remT .n32 0x80000000 0xFFFFFFFF, divT .s64 0 0) =
    (0xFFFFFFFF, 5, 0x80000000, 0, 0, 0x80000000, 0xFFFFFFFFFFFFFFFF) := by decide
theorem test_addsat : (satT .s8x4 (· + ·) 0x7F800102 0x0180FF7F, satFlag .s8x4 (· + ·) 0x7F800102 0x0180FF7F,
    addT .s8x4 0x7F800102 0x0180FF7F) = (0x7F80007F, flSAT, 0x80000081) := by decide
theorem test_mulh : (mulhT .s32 0x80000000 0x80000000, mulhT .n32 0xFFFFFFFF 0xFFFFFFFF) = (0x40000000, 0xFFFFFFFE) := by decide
theorem test_funnel : (funnelW 32 false false 0x12345678 0x9ABCDEF0 8, funnelW 32 true false 0x12345678 0x9ABCDEF0 8,
    funnelW 32 false false 0x12345678 0x9ABCDEF0 40, funnelW 32 false true 0x12345678 0x9ABCDEF0 40) =
    (0x789ABCDE, 0x3456789A, 0x12345678, 0x789ABCDE) := by decide
theorem test_bfx : (bfxW 32 true 8 4 0xF00, bfxW 32 false 8 4 0xF00) = (0xFFFFFFFF, 0xF) := by decide
theorem test_prmt : prmt 0x88776655 0x04030201 0xEB04 = 0x00FF5501 := by decide
/-- R100: the spec's own table of conversions. -/
theorem test_cvt_fp16_overflow : cvtT .fp32 .fp16 0 0x477FF000 = (0x7C00, flOF ||| flNX) := by decide
theorem test_cvt_bf16_ties : (cvtT .fp32 .bf16 0 0x3F808000, cvtT .fp32 .bf16 0 0x3F818000) = ((0x3F80, flNX), (0x3F82, flNX)) := by decide
theorem test_cvt_s32 : (cvtT .fp32 .s32 2 0xC0200000, cvtT .fp32 .s32 1 0x4F32D05E) = ((0xFFFFFFFD, flNX), (0x7FFFFFFF, flNV)) := by decide
/-- R132: FEXP2 of 3.0. -/
theorem test_fexp2 : fexp2T .fp32 0 0x40400000 = (0x41000000, 0) := by decide
set_option maxRecDepth 20000 in
/-- R132: FTANH of 10.0 in two modes. -/
theorem test_ftanh : (ftanhT .fp32 0 0x41200000, ftanhT .fp32 1 0x41200000) = ((0x3F800000, flNX), (0x3F7FFFFF, flNX)) := by decide
/-- R132's table: FRCP, FRSQ and FLOG2 of special operands. -/
theorem test_specials : (frcpT .fp32 0 0x80000000, frsqT .fp32 0 0xFF800000, flog2T .fp32 0 0x3F800000, flog2T .fp32 0 0) =
    ((0xFF800000, flDZ), (0x7FC00000, flNV), (0, 0), (0xFF800000, flDZ)) := by decide
/-- R80: SHA3-256 of no bytes, as its standard gives it. -/
theorem test_sha3 : sha3 [] = 0x4a43f8804b0ad882fa493be44dff80f562d661a05647c15166d71ebff8c6ffa7 := by decide +kernel
/-- R136 to R140: the spec's examples of DOT2, DOT8, PACK and QNT. -/
theorem test_dot2 : dotFloatT .fp16 2 .rne 0x40003C00 0x42004400 0x3F000000 = (0x41280000, 0) := by decide
theorem test_dot8 : (dotT (fC 0 .s8x4 0 1 2 3 0) 0x04030201 0xFF02FD01 10, dotT (fC 0 .s8x4 0 1 2 3 1) 0x04030201 0xFF02FD01 10) =
    ((7, 0), (0x607, 0)) := by decide
theorem test_pack : packT .e2m1x8 1 0 0x40200000 0xC0E00000 = (0xF400, flSAT ||| flNX) := by decide
theorem test_qnt : qntT (fC 0 .e4m3x4 0 1 2 0 0) 0x83 0 0x42C80000 = (0x4C, flNX) := by decide
set_option maxRecDepth 20000 in
/-- R145: the spec's example of HCLIP. -/
theorem test_hclip : (hclipOf [(32, 990), (35, 8), (40, 2)] 0, hclipOf [(32, 990), (35, 8), (40, 2)] 50, hclipOf [(32, 990), (35, 8), (40, 2)] 99) =
    (0, 3, 8) := by decide

/-! ### A small state: core 0 runs context 3 of tenant 1, one gang of a block with live fibres in lanes 0 and 31 -/

/-- The fibre of lane `l`. -/
def fib (l : Nat) : Fibre :=
  { Fibre.absent with
    uid := l + 1, status := .ready, pc := 0x1000, stackSize := 64, job := 1, launchNo := 1, name := .launched 0 0 0 l, entry := 0x1000
    fn := 0x1000, home := 5, launch := 7, preds := 0x801
    v := [(1, BitVec.ofNat 32 (l + 7)), (2, 3), (3, 0x103)], x := [(1, 0x1010), (2, 0x00FF000000000040), (3, 0x1FFFF)] }
/-- The gang in slot 0. -/
def gang : Gang :=
  { Gang.empty with
    uid := 2, ctx := 3, tenant := 1, arch := { GArch.empty with fibres := [(0, fib 0), (31, fib 31)] }
    base := { GArch.empty with fibres := [(0, fib 0), (31, fib 31)] }, block := some 5, launch := 7, home := 5 }
/-- Its block. -/
def block : Block :=
  { uid := 5, launch := 7, ctx := 3, x := 0, y := 0, z := 0, linear := 0, gangs := [0], bars := [], barCount := 16, counters := [], queues := []
    queueClock := [], rowBase := 0, rows := 16, oBase := 0, oCount := 8, accBase := 0, accCount := 4, claims := [], exited := false }
/-- The kernel, 64 bytes of code at 0x1000 with a function at 0x1010, and the launch. -/
def kern : Kernel :=
  { entry := 0x1000, fibres := 64, vregs := 32, xregs := 16, scratch := 16, stack := 64, acc := 4, slots := 8, bars := 4, restartable := true
    adapter := false, params := 0, consts := 0, shapes := [], affinity := 0xFFFF, exported := true }
def image : Image :=
  { tenant := 1, handle := 1, base := 0x1000, bytes := [], code := List.replicate 64 0, kernels := [kern]
    funcs := [{ entry := 0x1000, isKernel := true, vregs := 32, xregs := 16 }, { entry := 0x1010, isKernel := false, vregs := 32, xregs := 16 }]
    shapes := [], metadata := [], bodies := [], isPublic := false, hasNative := false, native := []
    signed := false, malformed := false }
def launch : Launch :=
  { uid := 7, tenant := 1, ctx := 3, job := 1, number := 1, image := image, kernel := 0, transl := 0, gx := 2, gy := 1, gz := 1, paramVa := 0
    paramBytes := [], paramPage := 0, constVa := 0, constBytes := [], constPage := 0, consts := [], adapter := 0, adapterTiles := 0
    state := .running, nextBlock := 1, blocksDone := 0, spawned := 0, outcome := none, code := 0, cause := 0, restarted := false
    blockCancel := [], entry := 0, index := 0, node := 0, preds := [], fns := [(0x1000, 0x1000)], phase := 0, graph := 0, clock := [], start := []
    closing := 0 }
def job : Job :=
  { tenant := 1, number := 1, openTick := 0, closed := false, completed := false, nextLaunch := 2, nextSerial := 1, phase := 0, bad := []
    clock := [] }
/-- User slot 0 runs context 3. -/
def slotRun : UserSlot := { UserSlot.empty with ctx := 3, state := .running, trapbase := 0x40000 }
/-- Core 0 with a gang in slot 0. -/
def coreWith (g : Gang) (b : Block) : Core :=
  { Core.reset with gangs := [(0, g)], blocks := [b], slot0 := slotRun, running := some 0, credit := 64 }
/-- The state of a core, the PC group of lanes 0 and 31 of its gang issuing at 0x1000. -/
def on (k : Core) : State :=
  { State.reset with
    cur := { Issue.none with lanes := 0x80000001, pc := 0x1000, head := 0x1000, next := 0x1008, bits := 0x1234 }
    cores := [(0, k)], launches := [launch], jobs := [job], bootStage := 4 }
/-- The same with the gang of the tests, or another, in the block of the tests. -/
def user (g : Gang := gang) : State := on (coreWith g block)
/-- The firmware fibre issues on a core. -/
def firmOn (k : Core) : State := { on k with cur := { Issue.none with gang := 32, lanes := 1, pc := 0, head := 0, next := 8, bits := 0x1234 } }
/-- The same on the core of the tests. -/
def firm : State := firmOn (coreWith gang block)
/-- The place of the gang as an event names it. -/
def here : AtGang := { core := 0, gang := 0 }
/-- The first parked instruction of the gang. -/
def item0 : AtItem := { core := 0, gang := 0, item := 0 }

theorem test_issues : Issues (user) gang := rfl
theorem test_exec_lanes : execLanes user gang always = 0x80000001 ∧ gang.live = 0x80000001 ∧ execLanes user gang { neg := false, pred := 1 } = 0 := by
  decide
theorem test_firmware_runs : FirmwareRuns firm always := by constructor <;> decide

/-- The lanes of the group. -/
theorem lanes_two (l : Nat) (h : (0x80000001 : Mask).getLsbD l = true) : l = 0 ∨ l = 31 := by
  by_cases hl : l < 32
  · revert h; revert l; decide
  · simp [BitVec.getLsbD_of_ge _ _ (by omega : 32 ≤ l)] at h
/-- A property of both lanes holds of every lane of EXEC. -/
theorem lanes_all {p : Nat → Prop} (h0 : p 0) (h1 : p 31) : ∀ l, (0x80000001 : Mask).getLsbD l = true → p l := by
  intro l h; rcases lanes_two l h with rfl | rfl <;> assumption

/-! ### One instruction, one step -/

/-- The fibre of a lane after an instruction. -/
def laneAfter (i : Instr) (s : State) (l : Nat) : Option Fibre :=
  match exec i s with
  | .next t => t.curGang?.map fun g => g.lane l
  | _ => none
/-- A property of the state after an instruction. -/
def after {β : Type} (i : Instr) (s : State) (p : State → β) : Option β :=
  match exec i s with
  | .next t => some (p t)
  | _ => none
/-- The spec's gang of R149 and R192: live fibres in lanes given with their v3. -/
def gangOf (ls : List (Nat × W32)) : Gang :=
  { gang with arch := { gang.arch with fibres := ls.map fun q => (q.1, { fib q.1 with v := [(3, q.2)] }) } }
/-- That gang issues for a mask of lanes. -/
def userOf (ls : List (Nat × W32)) (m : Mask) : State :=
  let s := user (gangOf ls)
  { s with cur := { s.cur with lanes := m } }

/-- R7, R108: each lane of EXEC gets its own sum and moves on; a false guard only moves the lane on (R38). -/
theorem test_add_lanes : (laneAfter (.add (fA 0 .s32 4 1 2)) user 31).map (fun x => (x.rv 4, x.pc)) = some (41, 0x1008) := by decide
theorem test_add_guard : (laneAfter (.add { fA 0 .s32 4 1 2 with g := { neg := true, pred := 0 } }) user 0).map (fun x => (x.rv 4, x.pc))
    = some (0, 0x1008) := by decide
/-- R7: a source that is also the destination is read first. -/
theorem test_sub_same : (laneAfter (.sub (fA 0 .s32 1 1 1)) user 31).map (fun x => x.rv 1) = some 0 := by decide
/-- R107, R108: the immediate 0x3FFF is sign-extended to -1, and the product wraps in 32 bits. -/
theorem test_mulI_wraps : (laneAfter (.mulI (fI 0 .n32 4 3 0x3FFF)) (userOf [(0, 0x40000001)] 1) 0).map (fun x => x.rv 4) = some 0xBFFFFFFF := by decide
/-- R118's example: LEA.S32 with a negative index, shift 2 and offset 16. -/
theorem test_lea : (laneAfter (.lea (fC 0 .s32 3 1 3 0 (16 * 16 + 2)))
    (user { gangOf [(0, 0xFFFFFFFD)] with arch := { GArch.empty with fibres := [(0, { fib 0 with v := [(3, 0xFFFFFFFD)], x := [(1, 0x0000010000000000)] })] } }) 0).map
      (fun x => x.rx 3) = some 0x0000010000000004 := by decide
/-- R120: CMP.lt.S32 of a negative immediate. -/
theorem test_cmpI : (laneAfter (.cmpI (fI 2 .s32 2 1 0x3FFF)) user 0).map (fun x => x.rp 2) = some false := by decide
/-- R123's example: PMOV.set keeps bits 0 to 11 only. -/
theorem test_pmov_set : (laneAfter (.pmov (fA 1 .s32 0 3 0)) (userOf [(0, 0xFFFFF002)] 1) 0).map (fun x => x.preds) = some 2 := by decide
/-- R149's example: GSCAN.add over lanes 0, 1 and 3, inclusive and exclusive. -/
theorem test_gscan : ([0, 1, 3].map fun l => (laneAfter (.gscan (fA 0 .n32 4 3 0)) (userOf [(0, 5), (1, 7), (3, 9)] 0xB) l).map fun x => x.rv 4)
    = [some 5, some 12, some 21] := by decide
theorem test_gscan_exclusive :
    ([0, 1, 3].map fun l => (laneAfter (.gscan (fA 8 .n32 4 3 0)) (userOf [(0, 5), (1, 7), (3, 9)] 0xB) l).map fun x => x.rv 4)
    = [some 0, some 5, some 12] := by decide
/-- R147: SHFL by the index in b, with the source lane in EXEC and not. -/
theorem test_shfl : (laneAfter (.shfl (fC 0 .n32 4 3 3 1 5)) (userOf [(0, 3), (3, 0)] 0x9) 0).map (fun x => (x.rv 4, x.rp 1)) = some (0, true)
    ∧ (laneAfter (.shfl (fC 0 .n32 4 3 3 1 5)) (userOf [(0, 3), (3, 1)] 0x9) 3).map (fun x => (x.rv 4, x.rp 1)) = some (1, false) := by decide
/-- R148: BALLOT and ELECT. -/
theorem test_ballot : (laneAfter (.ballot (fA 0 .s32 4 11 0)) user 0).map (fun x => x.rv 4) = some 0x80000001 := by decide
theorem test_elect : ([0, 31].map fun l => (laneAfter (.elect (fA 0 .s32 2 0 0)) user l).map fun x => x.rp 2) = [some true, some false] := by decide
/-- R153: BRA from the head parcel. -/
theorem test_bra : (laneAfter (.bra (fL 0 .s32 0 0 0 4)) user 31).map (fun x => x.pc) = some 0x1010 := by decide
/-- R153, R306: a branch out of the code section takes PROT 0x83 and stops the gang with a record in the first entry. -/
theorem test_bra_prot : after (.bra (fL 0 .s32 0 0 0 0x7FFFFFFF)) user (fun t =>
    (t.curGang?.bind (fun g => g.stop)).map (fun st => (st.record.code, st.record.infos, st.entry, st.record.pc)))
    = some (some (0x08, [0x200000FFC, 0x83], some 0, 0x1000)) := by decide
/-- R305, R306: the record's first byte and the instruction's PC lie at TRAPBASE. -/
theorem test_trap_record : after (.trap (fI 0 .s32 0 0 0x155)) user (fun t =>
    (memNat t.mem 0x40000 1, memNat t.mem 0x40008 8, memNat t.mem (0x40000 + 56) 8, (t.core 0).slot0.trapvalid, (t.core 0).event))
    = some (0x12, 0x1000, 0x155, 1, 1) := by decide
/-- R155, R157: CALL keeps v0 to v15 only, RET brings the rest back. -/
theorem test_call : (laneAfter (.call (fL 0 .s32 0 0 0 4)) user 0).map (fun x => (x.pc, x.callers.length, x.rv 1)) = some (0x1010, 1, 7) := by decide
theorem test_ret_empty : after (.ret (fA 0 .s32 0 0 0)) user (fun t => (t.curGang?.bind (fun g => g.stop)).map (fun st => st.record.infos))
    = some (some [0, 0x82]) := by decide
/-- R164: JENTER makes members, JWAIT parks until all have come. -/
theorem test_jenter : after (.jenter (fA 0 .s32 7 0 0)) user (fun t => t.curGang?.map fun g => g.memberOf 7) = some (some 0x80000001) := by decide
theorem test_jwait : (laneAfter (.jwait (fA 0 .s32 0 7 0))
    { (user { gang with member := [(7, 0x80000001)] }) with cur := { (user).cur with lanes := 1 } } 0).map (fun x => x.status)
    = some (.parked (.jwait 7)) := by decide
/-- R174: GETID reads the lane's own number. -/
theorem test_getid : (laneAfter (.getid (fI 0 .s32 4 0 0)) user 31).map (fun x => x.rv 4) = some 31 := by decide
/-- R192's example on the block's scratchpad: three lanes add to one word. -/
theorem test_atom :
    (let s := userOf [(0, 3), (2, 4), (5, 5)] 0x25
     let t := s.modCore 0 fun k => { k with scratch := [(64, 10)] }
     ([0, 2, 5].map fun l => (laneAfter (.atom (fC 0 .s32 4 2 3 0 0x8000)) t l).map fun x => x.rv 4,
      after (.atom (fC 0 .s32 4 2 3 0 0x8000)) t fun u => mget 0 (u.core 0).scratch 64)) = ([some 10, some 13, some 17], some 22) := by decide
/-- R185: LD of the block's scratchpad, and ST gated until its region commits. -/
theorem test_ld : (laneAfter (.ldI (fI 0 .s32 4 2 0)) (user.modCore 0 fun k => { k with scratch := [(64, 0x78), (65, 0x56)] }) 0).map (fun x => x.rv 4)
    = some 0x5678 := by decide
theorem test_st_gated : after (.stI (fI 0 .s32 1 2 0)) user (fun t => (mget 0 (t.core 0).scratch 64, t.curGang?.map fun g => g.region.stores.length))
    = some (0, some 2) := by decide
/-- R57: SRD in a user context takes PROT 0x80; R294: in the firmware context it reads. -/
theorem test_srd_user : after (.srd (fI 0 .s32 4 0 1)) user (fun t => (t.curGang?.bind (fun g => g.stop)).map (fun st => (st.record.code, st.record.infos)))
    = some (some (0x08, [0x1234, 0x80])) := by decide
theorem test_srd_firmware : after (.srd (fI 0 .s32 4 0 1)) firm (fun t => ((t.core 0).fw.rx 4, (t.core 0).fw.pc)) = some (256, 8) := by decide
/-- R308: ERET mode 1 retries. -/
theorem test_eret_retry :
    (let st : Stop := { record := trapRecord user gang (fib 0) 0x12 false false 0x1000 [], entry := some 0, lanes := 1, resume := 0x1008 }
     let k := coreWith { gang with stop := some st } block
     after (.eret (fA 1 .s32 0 1 0)) (firmOn { k with slot0 := { slotRun with trapvalid := 1 } })
       (fun t => ((mfind (t.core 0).gangs 0).map fun g => (g.stop, (g.lane 0).pc), (t.core 0).slot0.trapvalid))) = some (some (none, 0x1000), 0) := by decide
/-- R294: WFI with an event pending goes on, HALT stops issue. -/
theorem test_halt : after (.halt (fA 0 .s32 0 0 0)) firm (fun t => (t.core 0).halted) = some true := by decide
/-- R276: SHW writes a field of the shadow half. -/
theorem test_shw : after (.shw (fC 0 .s32 3 1 0 0 2)) user (fun t => t.curGang?.map fun g => ((g.hShadow 3).ext, (g.hActive 3).ext)) = some (some ([(0, 7)], [])) := by
  decide
/-- R245: ACCZ becomes a command of the region, with its PC. -/
theorem test_accz : after (.accz (fI 0 .s32 0 0 5)) user (fun t => t.curGang?.map fun g => g.region.cmds.map fun m => (m.imm, m.pc)) = some (some [(5, 0x1000)]) := by
  decide
/-- R491: a collective instruction with a part of j0 takes ICONV. -/
theorem test_iconv : after (.accz (fI 0 .s32 0 0 5)) { user with cur := { (user).cur with lanes := 1 } }
    (fun t => (t.curGang?.bind (fun g => g.stop)).map (fun st => (st.record.code, st.record.infos))) = some (some (0x03, [0x8000000100000001])) := by decide
/-- R409: a kick that is newer moves C; one that is not is ignored. -/
theorem test_kick :
    (let q : Queue := { Queue.reset with enabled := true, size := 64, c := 10, k := 10 }
     let s : State := { State.reset with fns := [(1, { Fn.reset with queues := [(0, q)] })] }
     (after (.kick { fn := 1, page := 0, offset := 0, bytes := 4, value := 14 * 65536 }) s (fun t => (t.queue 1 0).c),
      after (.kick { fn := 1, page := 0, offset := 0, bytes := 4, value := 9 * 65536 }) s (fun t => (t.queue 1 0).c))) = (some 14, some 10) := by decide
/-- R29, R293: the parcels that withFetchWord places run as the first instruction after reset: MOVI.S32 v9, #0x12345678. -/
theorem test_first_step :
    (match step (State.reset.withFetchWord 96 0x123456789000000016003C00) with
     | .next t => some ((t.core 0).fw.rv 9, (t.core 0).fw.pc)
     | _ => none) = some (0x12345678, 12) := by decide

/-! ### Hypotheses that are met: for each statement of Obligations, a state and operands for each of its clauses -/

/-! Integer and predicate instructions. `test_issues` is the state of every statement whose one premise is `Issues s g`. -/

theorem test_meets_IntegerArithmeticCompletes : Issues user gang ∧ (execLanes user gang always).getLsbD 31 = true := ⟨rfl, by decide⟩
theorem test_meets_IntegerElements : (isFloat .s8x4 = false ∧ 3 < elemsOf .s8x4) ∧ (isFloat .s64 = false ∧ 0 < elemsOf .s64) := by decide
theorem test_meets_DivisionAndSaturation :
    Issues user gang ∧ (isFloat .s32 = false ∧ elemsOf .s32 = 1)
    ∧ intOf (isSigned .s32) (elemWidth .s32) (0 : W64).toNat = 0
    ∧ (isSigned .s32 = true ∧ intOf (isSigned .s32) 32 (0x80000000 : W64).toNat = -(2 ^ 31) ∧ intOf (isSigned .s32) 32 (0xFFFFFFFF : W64).toNat = -1)
    ∧ (intOf (isSigned .n32) 32 (0xFFFFFFFF : W64).toNat ≠ 0 ∧ isSigned .n32 = false)
    ∧ (isFloat .n8x4 = false ∧ 3 < elemsOf .n8x4) := ⟨rfl, by decide⟩
theorem test_meets_BitwiseAndShifts : Issues user gang ∧ 0 < 64 := ⟨rfl, by decide⟩
theorem test_meets_FieldInstructions :
    Issues user gang ∧ (0 < 32 ∧ 0xFFFFFFFF < 2 ^ 32) ∧ (32 ≤ 32 ∨ 0 = 0) ∧ (31 < 32 ∧ 0 < 1 ∧ 31 < 32 ∧ 0 < 64) := ⟨rfl, by decide⟩
theorem test_meets_BitCounts : Issues user gang ∧ (0 < 32 ∧ 0 < 2 ^ 32 ∧ (0 : Nat) = 0) ∧ (0x80000000 < 2 ^ 32 ∧ 0x80000000 ≠ 0) := ⟨rfl, by decide⟩
theorem test_meets_MovesAndAddresses : Issues user gang ∧ 3 < 4 := ⟨rfl, by decide⟩
theorem test_meets_PredicateInstructions :
    Issues user gang ∧ ((5 : BitVec 4).toNat < 6 ∧ isFloat .n64 = false ∧ elemsOf .n64 = 1) ∧ 11 < 12 := ⟨rfl, by decide⟩

/-! Floating, packed and gang instructions -/

theorem test_meets_FloatingCompletes : Issues user gang ∧ (execLanes user gang always).getLsbD 0 = true := ⟨rfl, by decide⟩
theorem test_meets_NanResultsAndMinMax :
    (Ty.fp16, fmtOf .fp16) ∈ [(Ty.fp64, fp64), (.fp32, fp32), (.fp16, fp16), (.bf16, bf16)]
    ∧ (let w := elemWidth .fp16
       let mag := fun v : W64 => v.toNat % 2 ^ (w - 1)
       let inf := 2 ^ (w - 1) - 2 ^ (fmtOf .fp16).m
       -- the first signalling and the first quiet NaN
       (inf < mag 0x7C01 ∧ (mag 0x7C01).testBit ((fmtOf .fp16).m - 1) = false)
       ∧ (inf < mag 0x7E00 ∧ (mag 0x7E00).testBit ((fmtOf .fp16).m - 1) = true)
       -- infinities of both signs, zeros, and the least and greatest negative finite values
       ∧ (mag 0x7C00 = inf ∧ mag 0xFC00 = inf ∧ (0x7C00 : W64).toNat.testBit 15 ≠ (0xFC00 : W64).toNat.testBit 15)
       ∧ (mag 0 = 0 ∧ mag 0x8000 = 0)
       ∧ (0 < mag 0x8001 ∧ mag 0xFBFF < inf ∧ (0xFBFF : W64).toNat.testBit 15 = true)
       ∧ (0xFFFF : W64).toNat < 2 ^ w) := by decide
theorem test_meets_CompareCopysignClass :
    Issues user gang ∧ (Ty.bf16, fmtOf .bf16) ∈ [(Ty.fp64, fp64), (.fp32, fp32), (.fp16, fp16), (.bf16, bf16)]
    ∧ (0xFFFF : W64).toNat < 2 ^ elemWidth .bf16
    ∧ (let mag := fun v : W64 => v.toNat % 2 ^ 15
       let inf := 2 ^ 15 - 2 ^ (fmtOf .bf16).m
       mag 0xFF80 ≤ inf ∧ inf < mag 0xFF81 ∧ (mag 0xFF81).testBit ((fmtOf .bf16).m - 1) = false
       ∧ (mag 0xFFC0).testBit ((fmtOf .bf16).m - 1) = true) := ⟨rfl, by decide⟩
theorem test_meets_PackedInstructions :
    Issues user gang ∧ Ty.s8x4 ∈ [Ty.s8x4, .n8x4, .s4x8, .n4x8] ∧ (1 : BitVec 4).getLsbD 0 = true
    ∧ ((0x7FFFFFFF : W32).toInt + 1 ≥ 2 ^ 31 ∧ (0x80000000 : W32).toInt - 1 < -(2 ^ 31)) ∧ 3 < 4 := ⟨rfl, by decide⟩
theorem test_meets_ScalesAndHistogram :
    Issues user gang ∧ ((gang.lane 8).status = .absent ∧ (gang.lane 0).status ≠ .absent) ∧ 99 ≤ 99
    ∧ (execLanes user gang always ≠ 0 ∧ (user).inFirmware = false ∧ (0x80 : BitVec 14).getLsbD 7 = true)
    ∧ (let upto := fun j : Nat => ((List.range (j + 1)).map fun i => (mget 0 [(63, (1 : W32))] i).toNat).sum
       upto 63 ≠ 0 ∧ upto 62 = 0) := ⟨rfl, by decide⟩
theorem test_meets_LaneExchangeAndReduction :
    Issues user gang ∧ Ty.n64 ∈ [Ty.s32, .n32, .s64, .n64] ∧ (13 : BitVec 4).toNat % 8 = 5 := ⟨rfl, by decide⟩

/-! Control flow and rejoin sets -/

/-- The gang with its two fibres changed. -/
def gangWith (p : Fibre → Fibre) : Gang :=
  { gang with arch := { gang.arch with fibres := [(0, p (fib 0)), (31, p (fib 31))] } }
/-- A guard that never holds, fields of format A for one register, and a state whose gang differs. -/
def never : Guard := { neg := true, pred := 0 }
def fD (d a : Nat) : AForm := fA 0 .s32 d a 0

theorem in_code (l : Nat) (t : W64) (hl : l = 0 ∨ l = 31) (h1 : 0x1000 ≤ t.toNat) (h2 : t.toNat < 0x1040) (h3 : t.toNat % 4 = 0) :
    InCode user (gang.lane l) t := by
  refine ⟨by omega, h3, .inr ⟨launch, ?_, ?_, ?_⟩⟩
  · rcases hl with rfl | rfl <;> rfl
  · exact h1
  · exact h2
theorem test_meets_Branches :
    (Issues user gang ∧ ∀ l, (execLanes user gang always).getLsbD l = true → InCode user (gang.lane l) ((user).cur.head + 4 * (15 : W32).signExtend 64))
    ∧ LowestOf (execLanes user gang always) (fun k => ¬ InCode user (gang.lane k) ((user).cur.head + 4 * (0x80000000 : W32).signExtend 64)) 0
    ∧ (∀ l, (execLanes user gang always).getLsbD l = true → InCode user (gang.lane l) ((gang.lane l).rx 1))
    ∧ LowestOf (execLanes user gang always) (fun k => ¬ InCode user (gang.lane k) ((gang.lane k).rx 3)) 0 :=
  ⟨⟨rfl, lanes_all (in_code 0 _ (.inl rfl) (by decide) (by decide) (by decide)) (in_code 31 _ (.inr rfl) (by decide) (by decide) (by decide))⟩,
    ⟨by decide, fun h => absurd h.1 (by decide), fun k hk => absurd hk (by omega)⟩,
    lanes_all (in_code 0 _ (.inl rfl) (by decide) (by decide) (by decide)) (in_code 31 _ (.inr rfl) (by decide) (by decide) (by decide)),
    ⟨by decide, fun h => absurd h.2.1 (by decide), fun k hk => absurd hk (by omega)⟩⟩
/-- A fibre with 255 callers. -/
def full (x : Fibre) : Fibre :=
  { x with callers := List.replicate 255 { ret := 0x1010, v := [], x := [], nret := 0, nbase := [], fn := 0x1000 } }
set_option maxRecDepth 4000 in
theorem test_meets_CallsAndReturns :
    (Issues user gang ∧ ∀ l, (execLanes user gang always).getLsbD l = true →
      InCode user (gang.lane l) 0x1010 ∧ IsEntry user (gang.lane l) 0x1010 false ∧ (gang.lane l).callers.length < 255)
    -- out of the code section, not a function's entry, and a 256th activation
    ∧ ¬ InCode user (gang.lane 0) 3
    ∧ (InCode user (gang.lane 0) 0x1000 ∧ ¬ IsEntry user (gang.lane 0) 0x1000 false)
    ∧ (Issues (user (gangWith full)) (gangWith full) ∧ InCode (user (gangWith full)) ((gangWith full).lane 0) 0x1010
        ∧ IsEntry (user (gangWith full)) ((gangWith full).lane 0) 0x1010 false ∧ ¬ ((gangWith full).lane 0).callers.length < 255)
    -- returns: into code, and with no caller
    ∧ (∃ a r, ((gangWith full).lane 31).callers = a :: r ∧ InCode (user (gangWith full)) ((gangWith full).lane 31) a.ret)
    ∧ LowestOf (execLanes user gang always) (fun k => (gang.lane k).callers = []) 0
    -- a gang without native words
    ∧ (∀ q, (user).curGang?.bind (translOf user) = some q → q.words = []) := by
  have code (g : Gang) (l : Nat) (t : W64) (h : (user g).launch? (g.lane l).launch = some launch) (h0 : t.toNat < 2 ^ 56)
      (h1 : 0x1000 ≤ t.toNat) (h2 : t.toNat < 0x1040) (h3 : t.toNat % 4 = 0) : InCode (user g) (g.lane l) t :=
    ⟨h0, h3, .inr ⟨launch, h, h1, h2⟩⟩
  refine ⟨⟨rfl, lanes_all ⟨in_code 0 _ (.inl rfl) (by decide) (by decide) (by decide), ?_, by decide⟩
      ⟨in_code 31 _ (.inr rfl) (by decide) (by decide) (by decide), ?_, by decide⟩⟩,
    fun h => absurd h.2.1 (by decide), ⟨in_code 0 _ (.inl rfl) (by decide) (by decide) (by decide), ?_⟩,
    ⟨rfl, code _ _ _ rfl (by decide) (by decide) (by decide) (by decide), ?_, by decide⟩,
    ⟨_, _, rfl, code _ _ _ rfl (by decide) (by decide) (by decide) (by decide)⟩,
    ⟨by decide, rfl, fun k hk => absurd hk (by omega)⟩, fun q h => nomatch (show (none : Option Transl) = some q from h)⟩
  · show ∃ q, q ∈ image.funcs ∧ _; exact ⟨image.funcs[1], by decide, rfl, .inr rfl⟩
  · show ∃ q, q ∈ image.funcs ∧ _; exact ⟨image.funcs[1], by decide, rfl, .inr rfl⟩
  · show ¬ ∃ q, q ∈ image.funcs ∧ q.entry = 0x1000 ∧ (false = true ∨ q.isKernel = false); decide
  · show ∃ q, q ∈ image.funcs ∧ _; exact ⟨image.funcs[1], by decide, rfl, .inr rfl⟩
theorem test_meets_ExitAndSpawn :
    (Issues user gang ∧ (user).inFirmware = false)
    ∧ (∀ l, (execLanes user gang always).getLsbD l = true →
        InCode user (gang.lane l) ((gang.lane l).rx 1) ∧ IsEntry user (gang.lane l) ((gang.lane l).rx 1) true)
    ∧ execLanes user gang never = 0
    ∧ LowestOf (execLanes user gang always) (fun k => ¬ (InCode user (gang.lane k) ((gang.lane k).rx 3)
        ∧ IsEntry user (gang.lane k) ((gang.lane k).rx 3) true)) 0
    ∧ (gang.lane 31).status ≠ .absent := by
  refine ⟨⟨rfl, rfl⟩, lanes_all ⟨in_code 0 _ (.inl rfl) (by decide) (by decide) (by decide), ?_⟩
      ⟨in_code 31 _ (.inr rfl) (by decide) (by decide) (by decide), ?_⟩, by decide,
    ⟨by decide, fun h => absurd h.1.2.1 (by decide), fun k hk => absurd hk (by omega)⟩, by decide⟩
  all_goals show ∃ q, q ∈ image.funcs ∧ _; exact ⟨image.funcs[1], by decide, rfl, .inl rfl⟩
/-- A gang with members of j7 of whom some have arrived. -/
def joined (m a : Mask) : Gang := { gang with member := [(7, m)], arrive := if a = 0 then [] else [(7, a)] }
theorem test_meets_RejoinSets :
    (Issues user gang ∧ (user).inFirmware = false ∧ execLanes user gang never = 0)
    ∧ (execLanes user gang always ≠ 0 ∧ (fD 7 0).d ≠ 0)
    ∧ (Issues (user (joined 3 2)) (joined 3 2) ∧ (joined 3 2).arriveOf 7 &&& ~~~(0x80000001 : Mask) ≠ 0
        ∧ mget 0 (joined 3 2).member 7 &&& ~~~(0x80000001 : Mask) &&& ~~~((joined 3 2).arriveOf 7 &&& ~~~(0x80000001 : Mask)) = 0)
    ∧ (joined 3 0).arriveOf 7 = 0 ∧ (joined 3 2).arriveOf 7 ≠ 0 := ⟨⟨rfl, rfl, by decide⟩, by decide, ⟨rfl, by decide, by decide⟩, by decide⟩
theorem test_meets_JoinWait :
    -- no member waits; one of two members waits; the last member waits
    (Issues user gang ∧ (user).inFirmware = false ∧ execLanes user gang always &&& gang.memberOf 7 = 0 ∧ gang.arriveOf 7 = 0)
    ∧ (Issues (user (joined 3 0)) (joined 3 0) ∧ execLanes (user (joined 3 0)) (joined 3 0) always &&& (joined 3 0).memberOf 7 = 1
        ∧ (joined 3 0).memberOf 7 &&& ~~~((joined 3 0).arriveOf 7 ||| 1) ≠ 0)
    ∧ (Issues (user (joined 3 2)) (joined 3 2) ∧ execLanes (user (joined 3 2)) (joined 3 2) always &&& (joined 3 2).memberOf 7 = 1
        ∧ (joined 3 2).memberOf 7 &&& ~~~((joined 3 2).arriveOf 7 ||| 1) = 0)
    -- examinations: no fibre waits at JWAIT, and one does while another runs
    ∧ (∀ h, mfind ((user).core 0).gangs 0 = some h → ∀ l, (h.lane l).jwaitSet = none)
    ∧ (let h := { gang with arch := { gang.arch with fibres := [(0, { fib 0 with status := .parked (.jwait 7) }), (31, fib 31)] } }
       (h.lane 0).jwaitSet = some 7 ∧ 31 < 32 ∧ (h.lane 31).status ≠ .absent ∧ (h.lane 31).jwaitSet = none ∧ (h.lane 31).atBarrier = false) := by
  refine ⟨⟨rfl, rfl, by decide, by decide⟩, ⟨rfl, by decide, by decide⟩, ⟨rfl, by decide, by decide⟩, ?_, by decide⟩
  intro h hh l; obtain rfl : gang = h := Option.some.inj hh
  by_cases h0 : l = 0
  · subst h0; rfl
  by_cases h1 : l = 31
  · subst h1; rfl
  have e : gang.lane l = Fibre.absent := by
    simp [Gang.lane, GArch.lane, gang, mget, mfind, Ne.symm h0, Ne.symm h1]
  rw [e]; rfl
/-- Phases of barrier slot 2, of the parity form and of the named form. -/
def phase (barn : Bool) (count total : Nat) (m : Mask) : BarPhase :=
  { BarPhase.fresh barn count with total := total, parked := if m = 0 then [] else [(0, m)] }
def blockAt (p : BarPhase) : Block := { block with bars := [(2, p)] }
/-- The state with that phase open. -/
def barred (p : BarPhase) : State := on (coreWith gang (blockAt p))
theorem test_meets_BlockBarriers :
    (Issues user gang ∧ (user).inFirmware = false ∧ (user).blockOf? (user).cur.core gang = some block
      ∧ execLanes user gang never = 0 ∧ execLanes user gang always ≠ 0 ∧ ((mfind block.bars 2).getD (BarPhase.fresh false 0)).barn = false)
    ∧ (let s := barred (phase true 3 0 0); Issues s gang ∧ s.blockOf? 0 gang = some (blockAt (phase true 3 0 0))
        ∧ countLanes (execLanes s gang always) ≤ (phase true 3 0 0).count - (phase true 3 0 0).arrivals)
    -- the evaluation: too few, all, the count reached, and one that can still be reached
    ∧ (let t (p : BarPhase) := barred p; let b (p : BarPhase) := blockAt p
       (∀ p, ((t p).core 0).block? 5 = some (b p) ∧ mfind (b p).bars 2 = some p)
        ∧ (phase false 0 0 1).arrivals ≠ liveOf (t (phase false 0 0 1)) 0 (b (phase false 0 0 1))
        ∧ ((phase false 0 0 0x80000001).arrivals = liveOf (t (phase false 0 0 0x80000001)) 0 (b (phase false 0 0 0x80000001))
            ∧ (phase false 0 0 0x80000001).arrivals ≠ 0)
        ∧ ((phase true 2 2 0).arrivals ≠ 0 ∧ (phase true 2 2 0).count ≤ (phase true 2 2 0).arrivals)
        ∧ ((phase true 3 1 1).arrivals < 3 ∧ 3 - (phase true 3 1 1).arrivals ≤ liveOf (t (phase true 3 1 1)) 0 (b (phase true 3 1 1)) - (phase true 3 1 1).parkedCount))
    ∧ (block.gangs.Nodup ∧ 0 ∈ block.gangs ∧ (0 : Nat) ≠ fwSlot ∧ fwSlot ∉ block.gangs ∧ (user).gang? 0 0 = some gang
        ∧ (mget 0 (phase false 0 0 0x80000001).parked 0).getLsbD 31 = true ∧ (gang.lane 31).status ≠ .absent) :=
  ⟨⟨rfl, rfl, rfl, by decide⟩, ⟨rfl, rfl, by decide⟩, ⟨fun _ => ⟨rfl, rfl⟩, by decide⟩, by decide⟩
theorem test_meets_IdentityAndTraps :
    Issues user gang ∧ execLanes user gang never = 0 ∧ execLanes user gang always ≠ 0 ∧ 31 < 32 := ⟨rfl, by decide⟩

/-! Traps, privilege and the firmware's instructions -/

/-- The user state with another slot. -/
def slotted (g : Gang) (u : UserSlot) : State := on { coreWith g block with slot0 := u }
theorem test_meets_TrapEntryAndRecord :
    (Issues user gang ∧ (user).inFirmware = false ∧ gang.member4 = none ∧ (user).curCore.slotFor gang.ctx = some 0
      ∧ gang.region.instrs = 0 ∧ gang.inNative = false ∧ (0x12 : BitVec 8) ≠ tcECC)
    ∧ (slotRun.trapvalid.getLsbD 0 = false)
    ∧ (let u := { slotRun with trapvalid := 0x7FFFFFFFFFFFFFFF }
       Issues (slotted gang u) gang ∧ u.trapvalid.getLsbD 63 = false ∧ ∀ j, j < 63 → u.trapvalid.getLsbD j = true)
    ∧ (let u := { slotRun with trapvalid := BitVec.allOnes 64 }
       Issues (slotted gang u) gang ∧ (slotted gang u).curCore.slotOf 0 = u)
    ∧ (let g := { gang with region := { gang.region with instrs := 1 } }; Issues (user g) g ∧ g.region.instrs ≠ 0)
    ∧ (let r := trapRecord user gang (fib 0) 0x12 false false 0x1000 []; r.name = .launched 0 0 0 0) :=
  ⟨⟨rfl, by decide⟩, by decide, ⟨rfl, by decide⟩, ⟨rfl, by decide⟩, ⟨rfl, by decide⟩, rfl⟩
theorem test_meets_PrivilegeChecks :
    (Issues user gang ∧ (user).inFirmware = false ∧ execLanes user gang never = 0 ∧ execLanes user gang always ≠ 0)
    ∧ firm.inFirmware = true ∧ firmwareLacks (.ldq (fD 1 1)) = true := ⟨⟨rfl, rfl, by decide⟩, by decide⟩
theorem test_meets_SystemRegisters :
    FirmwareRuns firm always ∧ (1 : Nat) < 2 ∧ slotRun.state = .running ∧ UserSlot.empty.state = .empty ∧ Core.reset.mbox = [] :=
  ⟨test_firmware_runs, by decide⟩
/-- Core 0 with a gang stopped in entry 5 of the trap table, its fibre's v1 naming entry and slot. -/
def halted (mode : BitVec 4) : Stop :=
  { record := trapRecord user gang (fib 0) 0x12 false (mode = 15) 0x1000 [], entry := some 5, lanes := 1, resume := 0x1008 }
def stopped : Gang := { gang with stop := some (halted 0) }
def stoppedCore : Core := { coreWith stopped block with slot0 := { slotRun with trapvalid := 0x20 }, fw := { Core.reset.fw with v := [(1, 5)] } }
theorem test_meets_TrapReturn :
    (FirmwareRuns firm always ∧ (slotRun.trapvalid.getLsbD 0 = false))
    ∧ (let s := firmOn stoppedCore
       FirmwareRuns s always ∧ (s.curCore.slotOf 0).state ≠ .empty ∧ (s.curCore.slotOf 0).trapvalid.getLsbD ((s.curCore.fw.rv 1).toNat % 64) = true
        ∧ stoppedAt s.curCore (s.curCore.slotOf 0).ctx.toNat 5 = some (0, stopped) ∧ stopped.stop = some (halted 0)
        ∧ mfind s.curCore.gangs 0 = some stopped ∧ stopped.deferred = [] ∧ (0 : BitVec 4).toNat % 4 < 2 ∧ (2 : BitVec 4).toNat % 4 = 2)
    ∧ (let g := { stopped with deferred := [{ code := 0x0E, infos := [1] }] }
       let s := firmOn { stoppedCore with gangs := [(0, g)] }
       FirmwareRuns s always ∧ stoppedAt s.curCore 3 5 = some (0, g) ∧ g.stop = some (halted 0) ∧ g.deferred ≠ [])
    ∧ stoppedAt { stoppedCore with gangs := [] } 3 5 = none
    ∧ ((gang.lane 31).status ≠ .absent ∧ (halted 15).record.deferred = true ∧ (halted 0).record.deferred = false
        ∧ (halted 0).lanes.getLsbD 0 = true ∧ (halted 0).lanes.getLsbD 31 = false ∧ (stopped.base.lane 0).status ≠ .absent) :=
  ⟨⟨test_firmware_runs, by decide⟩, ⟨⟨rfl, by decide⟩, by decide, by decide, rfl, rfl, rfl, rfl, by decide⟩, ⟨⟨rfl, by decide⟩, rfl, rfl, by decide⟩,
    rfl, by decide⟩
/-- The firmware fibre with registers, over a save area of context 9 at 0x50000. -/
def firmWith (v : TMap W32) (x : TMap W64) : State :=
  let s := firmOn { coreWith gang block with fw := { Core.reset.fw with v := v, x := x }, event := 3 }
  { s with mem := memWrite s.mem 0x50000 [0x43, 0x58, 0x54, 0x46, 9, 0, 1, 0] }
theorem test_meets_FirmwareInstructions :
    (FirmwareRuns (firmWith [(1, 1)] []) always ∧ (firmWith [(1, 1)] []).curCore.event &&& ((1 : W32).setWidth 5) ≠ 0
      ∧ (firmWith [(1, 4)] []).curCore.event &&& ((4 : W32).setWidth 5) = 0)
    ∧ ((firmWith [(2, 1)] [(1, 0x50000)]).curCore.slotOf 1).state = .empty ∧ ((firmWith [(2, 0)] []).curCore.slotOf 0).state = .running
    ∧ ((0x50000 : W64).toNat % 2 ^ 16 = 0 ∧ (0x50040 : W64).toNat % 2 ^ 16 ≠ 0)
    -- addresses that firmware may name: the first and the last area of stack 0's pages, and none in a stack's unused range
    ∧ (OwnAddr firm 0 ∧ OwnAddr firm 0xFFFFFF0000 ∧ ¬ OwnAddr firm 0x10000000000 ∧ ¬ OwnAddr firm 0x10000000000000)
    ∧ (let s := firmWith [(2, 1)] [(1, 0x50000)]
       s.rd 0x50000 4 = 0x46545843 ∧ s.rd 0x50006 1 = Config.stepping.toNat ∧ s.rd 0x50007 1 = 0 ∧ s.rd 0x50004 2 < 4096
        ∧ (∀ b, b < 40 → memByte s.mem (0x50000 + 24 + b) = 0) ∧ (s.curCore.slotOf 0).ctx.toNat ≠ s.rd 0x50004 2)
    ∧ firm.rd 0x60000 4 ≠ 0x46545843 ∧ (firmWith [] [(2, 1)]).curCore.fw.rx 2 ≠ 0 ∧ firm.curCore.fw.rx 2 = 0 :=
  ⟨⟨⟨rfl, by decide⟩, by decide, by decide⟩, by decide, by decide, by decide, by unfold OwnAddr; decide, by decide, by decide, by decide, by decide⟩

/-! Memory -/

/-- The state with the lines of some addresses in the L2 of die 0. -/
def cached (pas : List Nat) (s : State) : State :=
  s.modDie 0 fun d => { d with l2 := pas.foldl (fun m p => mset m (l2Key p 0) [{ line := p / 512, valid := 0xFF, dirty := 0, pinned := false }]) d.l2 }

/-- The state with page 2 mapped to physical page 16, readable and writable, in a window of tenant 1, and `x1` of both fibres there. -/
def pageGang : Gang := gangWith fun x => { x with x := [(1, 0x20010)] }
def mapped (pte : W64 := 0x10000C) : State :=
  let s := on { coreWith pageGang block with tlb := [{ tenant := 1, ctx := none, va := 0x20000, size := 65536, pte := pte }], laneCache := [(0, [(1, 16)])] }
  cached [0x100010] { s with mem := memWrite (memWrite s.mem 32 [1]) 45 [1] }
/-- The firmware fibre with `x1` at a physical address, and the scratchpad's two kinds of place. -/
def firmAt : State := cached [0x30000] (firmWith [] [(1, 0x30000)])
def firmGang : Gang := firmAt.curCore.fwGang

theorem test_issues_mapped : Issues mapped pageGang ∧ Issues firmAt firmGang ∧ execLanes mapped pageGang always = 0x80000001
    ∧ execLanes firmAt firmGang always = 1 := ⟨rfl, rfl, by decide⟩
/-- The word at `x1` of each fibre lies in that page. -/
theorem test_mapped_found (l : Nat) (hl : l = 0 ∨ l = 31) : checkAccess mapped 0 pageGang l 0x20010 4 0 0x100 false = .mem [0x100010] false 0 none := by
  rcases hl with rfl | rfl <;> decide
theorem test_meets_AccessChecks :
    ((0x0100000000000000 : W64).toNat / 2 ^ 56 ≠ 0) ∧ (2 ^ 48 - 1 < 2 ^ 48 ∧ (mapped).inFirmware = false)
    ∧ (∃ e, ((mapped).core 0).tlbFind pageGang.tenant pageGang.ctx 0x2FFFC = some e ∧ pteR e.pte = true ∧ pteW e.pte = true
        ∧ apertureAt mapped pageGang.tenant 0x2FFFC = none ∧ (mapped).live.getLsbD (pkgOf 0x10FFFC) = true
        ∧ windowPass mapped pageGang.tenant 7 0x10FFFC = true ∧ (mapped).uncorrectable (pteT e.pte) 0x10FFFC 4 = false ∧ ¬ (pteHome e.pte = 2)
        ∧ { mapped with flaws := [.sector 0x43FF] }.uncorrectable (pteT e.pte) 0x10FFFC 4 = true)
    ∧ pteR 0x100008 = false ∧ pteW 0x100004 = false ∧ windowPass user 1 7 0x10FFFC = false
    ∧ (pteHome 0x10020C = 2 ∧ { mapped with live := 0 }.live.getLsbD (pkgOf 0x10FFFC) = false)
    -- a page without a translation, which the lane comes to for the first time or after its fault
    ∧ (((mapped).core 0).tlbFind pageGang.tenant pageGang.ctx 0x30000 = none ∧ 3 ∉ (mapped).cur.pf
        ∧ 3 ∈ { (mapped).cur with pf := [3] }.pf)
    -- the ends of a stack slice of 64 bytes and of a window of 1,024 bytes, and rows without an error
    ∧ ((pageGang.lane 0).stackSize < 64 + 4 ∧ ¬ (pageGang.lane 0).stackSize < 60 + 4 ∧ (windowOf mapped 0 pageGang).2 < 1024 + 4
        ∧ 1020 + 4 ≤ (windowOf mapped 0 pageGang).2 ∧ ∀ r, r < 32 → Flaw.row 0 r ∉ (mapped).flaws)
    -- physical addresses of the firmware: the last word of a stack, one not aligned, and one past the stack
    ∧ (firm.inFirmware = true ∧ (firm.self * 2 ^ 48 + (2 ^ 40 - 4)) % 4 = 0 ∧ firm.self < 16 ∧ firm.uncorrectable false (2 ^ 40 - 4) 4 = false)
    ∧ ((0x30001 : W64).toNat % 4 ≠ 0 ∧ (0x10000000000 : W64).toNat % 4 = 0 ∧ (0x10000000000 : W64).toNat < 0x00FE000000000000
        ∧ ¬ OwnAddr firm 0x10000000000) :=
  ⟨by decide, by decide, ⟨_, rfl, by decide⟩, by decide, by decide, by decide, by decide, by decide, by decide, by decide, by unfold OwnAddr; decide⟩

/-- The arguments of LD.N32, ST.N32 and ATOM.add.N32 at `x1`. -/
def ldArgs : LoadArgs :=
  { g := always, n := 4, op := 0x100, order := 0, scope := 0, policy := 0, ea := fun x => x.rx 1 + 0, write := fun x bs => x.wt .n32 4 (loadExtend .n32 (ofLe bs)) }
def stArgs (order : BitVec 3) : StoreArgs :=
  { g := always, n := 4, op := 0x102, order := order, scope := 0, ea := fun x => x.rx 1, data := fun x => leBytes 4 (x.rv 3).toNat }

set_option maxRecDepth 20000 in
/-- Premises of a load of the page, and of the block's scratchpad at `x2`. -/
theorem test_meets_Loads :
    ((∀ l, (execLanes mapped pageGang always).getLsbD l = true →
        Performs mapped pageGang l (ldArgs.ea (pageGang.lane l)) 4 0 true (ldArgs.found mapped pageGang l))
      ∧ needsTicket mapped 0 0 = false
      ∧ ∀ l, (execLanes mapped pageGang always).getLsbD l = true →
        ∀ r, r ∈ readsOf mapped pageGang l (lowEa mapped 4 (ldArgs.ea (pageGang.lane l))) 4 (ldArgs.found mapped pageGang l) 0 0 →
          (mapped).findRace (pageGang.lane l).clock r = none)
    ∧ (Performs user gang 31 0x00FF000000000040 4 0 true (laneFound user gang 31 0x00FF000000000040 4 0 0x100 false (apertureRule true 4 0 0)))
    ∧ (∀ l, (execLanes mapped pageGang always).getLsbD l = true → ∀ code infos, presCheck mapped pageGang l ((pageGang.lane l).rx 1) ≠ .fault code infos)
    ∧ (pkgOf 0x100010 = (mapped).self ∧ pageGang.buffered = [] ∧ ∀ i, i < 4 → (mapped).inMeta (0x100010 + i) = false)
    ∧ 63 < 64 ∧ (List.replicate 64 (0 : Byte)).length = 64
    -- PRES below the apertures and in the scratchpad
    ∧ ((0x20010 : W64).toNat < 0x00FF000000000000 ∧ presCheck user gang 31 0x00FF000000000040 = .here (.scratch 64)) := by
  refine ⟨⟨lanes_all ⟨.inr ⟨_, _, _, _, test_mapped_found 0 (.inl rfl)⟩, by decide⟩
      ⟨.inr ⟨_, _, _, _, test_mapped_found 31 (.inr rfl)⟩, by decide⟩, rfl, ?_⟩,
    ⟨.inl ⟨.scratch 64, by decide⟩, by decide⟩, lanes_all ?_ ?_, ⟨by decide, by decide, by decide⟩, by decide, by decide, by decide⟩
  · exact lanes_all (by decide) (by decide)
  · intro c i h; exact nomatch h
  · intro c i h; exact nomatch h
theorem test_meets_Stores :
    (∀ l, (execLanes mapped pageGang always).getLsbD l = true →
        Performs mapped pageGang l ((stArgs 0).ea (pageGang.lane l)) 4 0 false ((stArgs 0).found mapped pageGang l))
    ∧ ((mapped).inFirmware = false ∧ isRelease 0 = false ∧ (∀ q, q ∈ (mapped).curCore.aliases → q.gang ≠ (mapped).cur.gang)
        ∧ (∀ p, pageGang.spec = some p → p.isOpen = false) ∧ pageGang.region.instrs = 0)
    -- a release at GPU scope, which performs at once, and the firmware's store
    ∧ (isRelease 3 = true ∧ needsTicket mapped 3 0 = false ∧ Performs mapped pageGang 31 0x20010 4 0 false ((stArgs 3).found mapped pageGang 31)
        ∧ Untracked ((stArgs 3).found mapped pageGang 31))
    ∧ (firmAt.inFirmware = true ∧ Performs firmAt firmGang 0 ((stArgs 0).ea (firmGang.lane 0)) 4 0 false ((stArgs 0).found firmAt firmGang 0)
        ∧ Untracked ((stArgs 0).found firmAt firmGang 0))
    ∧ Memory.wf [(5, (1 : Byte))] = true ∧ 63 < 64 := by
  have f (a : BitVec 3) (l : Nat) (hl : l = 0 ∨ l = 31) (ha : a = 0 ∨ a = 3) :
      (stArgs a).found mapped pageGang l = .mem [0x100010] false 0 none := by
    rcases hl with rfl | rfl <;> rcases ha with rfl | rfl <;> decide
  have q : (stArgs 0).found firmAt firmGang 0 = .mem [0x30000] false 0 none := by decide
  refine ⟨lanes_all ⟨.inr ⟨_, _, _, _, f 0 0 (.inl rfl) (.inl rfl)⟩, by decide⟩ ⟨.inr ⟨_, _, _, _, f 0 31 (.inr rfl) (.inl rfl)⟩, by decide⟩,
    ⟨rfl, by decide, by decide, by decide, rfl⟩,
    ⟨by decide, by decide, ⟨.inr ⟨_, _, _, _, f 3 31 (.inr rfl) (.inr rfl)⟩, by decide⟩, ?_⟩,
    ⟨rfl, ⟨.inr ⟨_, _, _, _, q⟩, by decide⟩, ?_⟩, by decide⟩
  · intro _ _ _ h; rw [f 3 31 (.inr rfl) (.inr rfl)] at h; exact nomatch h
  · intro _ _ _ h; rw [q] at h; exact nomatch h
theorem test_meets_Atomics :
    (∀ l, (execLanes mapped pageGang always).getLsbD l = true →
        let f := laneFound mapped pageGang l ((pageGang.lane l).rx 1) 4 2 0x108 false apertureAtomic
        Performs mapped pageGang l ((pageGang.lane l).rx 1) 4 2 true f ∧ Untracked f ∧ f = .mem [0x100010] false 0 none)
    ∧ needsTicket mapped 4 0 = false ∧ (4 : BitVec 3).toNat ≠ 5 ∧ pkgOf 0x100010 = (mapped).self ∧ pageGang.buffered = []
    ∧ ∀ i, i < 4 → (mapped).inMeta (0x100010 + i) = false := by
  have f (l : Nat) (hl : l = 0 ∨ l = 31) : laneFound mapped pageGang l 0x20010 4 2 0x108 false apertureAtomic = .mem [0x100010] false 0 none := by
    rcases hl with rfl | rfl <;> decide
  refine ⟨lanes_all ?_ ?_, by decide, by decide, by decide, by decide, by decide⟩
  · refine ⟨⟨.inr ⟨_, _, _, _, f 0 (.inl rfl)⟩, by decide⟩, ?_, f 0 (.inl rfl)⟩
    intro _ _ _ h; rw [show (pageGang.lane 0).rx 1 = 0x20010 from rfl, f 0 (.inl rfl)] at h; exact nomatch h
  · refine ⟨⟨.inr ⟨_, _, _, _, f 31 (.inr rfl)⟩, by decide⟩, ?_, f 31 (.inr rfl)⟩
    intro _ _ _ h; rw [show (pageGang.lane 31).rx 1 = 0x20010 from rfl, f 31 (.inr rfl)] at h; exact nomatch h
theorem test_meets_FatomAndFences :
    (Issues mapped pageGang ∧ (mapped).inFirmware = false ∧ ∀ l, (execLanes mapped pageGang always).getLsbD l = true → pkgOf 0x100010 = (mapped).self
      ∧ ∃ home, laneFound mapped pageGang l ((pageGang.lane l).rx 1) (elemWidth .fp32 / 8) 2 0x10B true apertureAtomic = .mem [0x100010] false home none)
    ∧ ((fib 31).name = .launched 0 0 0 31 ∧ (user).launch? (fib 31).launch = some launch) ∧ ({ fib 31 with name := .spawned 3 }).name = .spawned 3
    ∧ execLanes user gang never = 0
    ∧ (needsTicket user 3 0 = false ∧ (user).awaitsAcks 0 0 = false ∧ ∀ k, k < 5 → classBusy user 0 0 gang k = false) :=
  ⟨⟨rfl, rfl, lanes_all ⟨by decide, 0, by decide⟩ ⟨by decide, 0, by decide⟩⟩, ⟨rfl, rfl⟩, rfl, by decide, by decide⟩
/-- A gang whose q3 and q1 hold entries. -/
def queued (n : Nat) : Gang := { gang with queues := [(1, List.replicate n 9), (3, List.replicate n 9)] }
theorem test_meets_QueuesAndShapes :
    (Issues user gang ∧ (user).inFirmware = false ∧ execLanes user gang never = 0 ∧ execLanes user gang always ≠ 0)
    ∧ (let g := { gang with arch := { gang.arch with fibres := (List.range 17).map fun l => (l, fib l) } }
       let s := { user g with cur := { (user g).cur with lanes := 0x1FFFF } }
       Issues s g ∧ 16 < countLanes (execLanes s g always))
    ∧ (Issues (user (queued 2)) (queued 2) ∧ countLanes (execLanes (user (queued 2)) (queued 2) always) ≤ (queueOf (user (queued 2)) 0 (queued 2) 3).length)
    ∧ (queueOf (user (queued 1)) 0 (queued 1) 3).length < 2
    ∧ (∀ u, gang.block = some u → ∃ b, (user).curCore.block? u = some b)
    ∧ ((queueOf user 0 gang 6).length + 2 ≤ 16)
    ∧ (let b := { block with queues := [(6, List.replicate 15 9)] }
       Issues (on (coreWith gang b)) gang ∧ 16 < (queueOf (on (coreWith gang b)) 0 gang 6).length + 2)
    ∧ (19 < 20 ∧ 5 < 6 ∧ 19 = 4 + 3 * 5) :=
  ⟨⟨rfl, by decide⟩, ⟨rfl, by decide⟩, ⟨rfl, by decide⟩, by decide, fun u h => ⟨block, by obtain rfl : 5 = u := Option.some.inj h; rfl⟩, by decide,
    ⟨rfl, by decide⟩, by decide⟩

/-! Engines -/

/-- A shape half of one element of 32 bits, 64 bytes into the block's window. -/
def oneTile (r : BitVec 3) : Shape := { Shape.zero with base := 0x00FF000000000040, fmt := 1, rank := r, ext := [(0, 1), (1, 1)] }
/-- A gang that holds operand slots 0 to 3 and such shapes, its low lane's registers as given. -/
def engGang (v : TMap W32) (x : TMap W64) (claimed : Mask := 0xF) : Gang :=
  { gang with
    claimed := claimed
    arch := { gang.arch with fibres := [(0, { fib 0 with v := v, x := x }), (31, fib 31)], hAct := [(0, oneTile 1), (1, oneTile 2#3), (2, oneTile 1), (3, oneTile 1)] } }
/-- A gang of tasks. -/
def freeGang : Gang := { gangWith fun x => { x with name := .spawned 3 } with block := some 5 }
theorem test_meets_CollectiveChecks :
    (Issues user gang ∧ (user).inFirmware = false ∧ collective (.accz (fI 0 .s32 0 0 0)) = some always)
    ∧ execLanes { user with cur := { (user).cur with lanes := 1 } } gang always ≠ gang.live ∧ execLanes user gang never ≠ gang.live
    ∧ (Issues (user freeGang) freeGang ∧ execLanes (user freeGang) freeGang always = freeGang.live
        ∧ matrixInstr (.accz (fI 0 .s32 0 0 0)) = true ∧ freeGang.isFree = true) := ⟨⟨rfl, rfl, rfl⟩, by decide, by decide, ⟨rfl, by decide⟩⟩
/-- The fields of products without output, and the state whose image has a metadata section for one pattern. -/
def productF : CForm := fC 0 .s8x4 0 0 0 0 0
def withMetadata (g : Gang) : State := { user g with launches := [{ launch with image := { image with metadata := List.replicate 2048 0 } }] }
/-- The one element of the tile lies in the window. -/
theorem test_tile_in_window : tileAddrCheck (oneTile 2#3) 8 1024 0 128 128 = none := by
  unfold tileAddrCheck
  rw [if_neg (by decide)]
  simp only [List.findSome?_eq_none_iff]
  intro i _ j _
  have e : (oneTile 2#3).inExtent ((oneTile 2#3).tileIdx i j) = (decide ((j : Int) < 1) && decide ((i : Int) < 1)) := by
    simp [Shape.inExtent, Shape.tileIdx, Shape.rankOf, oneTile, Shape.zero, Shape.originOf, Shape.extOf, mget, List.range, List.range.loop]
  unfold Shape.tileAddr
  simp only [e]
  by_cases h : j = 0 ∧ i = 0
  · obtain ⟨rfl, rfl⟩ := h; decide
  · rw [if_neg (by simp; omega)]
/-- What an OLOAD's check needs of a gang that holds slot 0 and such a shape. -/
theorem test_oload_checked (s : State) (g : Gang) (m : EngCmd) (hk : m.kind = .oload) (hs : tileAddrCheck m.shape 8 1024 0 128 128 = none) (ht : m.ty = .s8x4) (hd : m.d = 0)
    (he : m.ext = 0) (hw : gangWindow s 0 g = 1024) (hc : tileCheck g 0 4 = none) : matrixCheck s 0 g m = none := by
  have q : tileQuarters .s8x4 false = 4 := by decide
  have w : elemWidth .s8x4 = 8 := rfl
  simp [matrixCheck, oloadCheck, hk, hs, ht, hd, he, hw, firstFail, bitsOf, q, w, hc]
theorem test_metadata : metadataOf (withMetadata (engGang [] [])) (engGang [] []) = List.replicate 2048 0 := rfl
/-- What a pattern's check needs. -/
theorem test_pattern_checked (m : EngCmd) (h : m.imm = 0) : patternCheck (withMetadata (engGang [] [])) (engGang [] []) m = none := by
  have w : leAt (List.replicate 2048 (0 : Byte)) 0 4 = 0 := by decide
  have b (l : List Byte) (hl : metadataOf (withMetadata (engGang [] [])) (engGang [] []) = l) (h0 : leAt l 0 4 = 0) (h1 : l.length = 2048) :
      patternCheck (withMetadata (engGang [] [])) (engGang [] []) m = none := by
    unfold patternCheck streamWord
    rw [hl, h, h0, h1]
    rfl
  exact b _ test_metadata w (List.length_replicate ..)
theorem test_mmas_checked : matrixCheck (withMetadata (engGang [] [])) 0 (engGang [] [])
    (productCmd (withMetadata (engGang [] [])) productF .mmas (engGang [] []) 0x80000001) = none := by
  unfold matrixCheck productCheck
  simp only [productCmd]
  rw [test_pattern_checked _ rfl]
  decide
theorem test_meets_MatrixInstructions :
    (let g := engGang [] []
     Issues (user g) g ∧ (user g).inFirmware = false ∧ g.isFree = false ∧ execLanes (user g) g always = g.live)
    ∧ (let g := engGang [] []
       matrixCheck (user g) 0 (g.sw 0 1) { EngCmd.blank (user g) (g.sw 0 1) g.live .oload with
         ty := .s8x4, mod := 0, d := 0, ext := 0, shape := (g.sw 0 1).hActive 1 } = none)
    ∧ (let g := engGang [] []
       let s := withMetadata g
       Issues s g ∧ matrixCheck s 0 g (productCmd s productF .mma g g.live) = none ∧ matrixCheck s 0 g (productCmd s productF .mmas g g.live) = none
        ∧ matrixCheck s 0 g (productCmd s productF .mmag g g.live) = none)
    ∧ ((engGang [] []).claimed ≠ 0 ∧ (engGang [] [] 0).claimed = 0 ∧ (user (engGang [] [] 0)).blockOf? 0 (engGang [] [] 0) = some block
        ∧ block.claims = [] ∧ heldSlots (user (engGang [] [] 0)) 0 block &&& claimMask 0x60 = 0)
    ∧ (let g := engGang [] [] 0
       let b := { block with claims := [{ gang := 1, mask := 1 }] }
       Issues (on (coreWith g b)) g ∧ (on (coreWith g b)).blockOf? 0 g = some b ∧ ¬ (b.claims = [] ∧ heldSlots (on (coreWith g b)) 0 b &&& 3 = 0))
    ∧ ((engGang [] []).claimed.getLsbD 3 = true ∧ (0xF : W32) &&& ~~~(engGang [] []).claimed = 0 ∧ (0x1F : W32) &&& ~~~(engGang [] []).claimed ≠ 0)
    ∧ (0 < 4 ∧ (8 : BitVec 4).getLsbD 3 = true ∧ (7 : BitVec 4).getLsbD 3 = false) := by
  refine ⟨⟨rfl, by decide⟩, ?_, ⟨rfl, by decide +kernel, test_mmas_checked, by decide +kernel⟩, by decide, ⟨rfl, rfl, by decide⟩, by decide, by decide⟩
  exact test_oload_checked _ _ _ rfl test_tile_in_window rfl rfl rfl (by decide) (by decide)
/-- The state with name space 2 of tenant 1 described: one tile of one 32-bit element. -/
def named (g : Gang) : State :=
  let s := user g
  { s with mem := memWrite (memWrite (memWrite s.mem 128 [1, 1, 5, 0]) 136 [1]) 160 [1] }
theorem test_meets_CopyNamedFabric :
    (let g := engGang [(1, 2), (2, 7)] [(1, 0x0020000000000003), (2, 0x00FF000000000040)]
     let s := named g
     Issues s g ∧ s.inFirmware = false ∧ execLanes s g always = g.live ∧ slotFree g 5 = true ∧ nameCheck s 0 g ((g.lane 0).rx 1) (g.hActive 2) 1 = none
      ∧ nameCheck s 0 g ((g.lane 0).rx 1) (g.hActive 2) 0 = none ∧ ((g.lane 0).rv 2).toNat % 65536 ≠ 0
      ∧ nameDesc s g.tenant (((g.lane 0).rv 1).toNat % 4096) ≠ none
      ∧ noCounters s 0 g = false
      ∧ bulkCheck s 0 g { EngCmd.blank s g 1 .bulk with d := 7, ext := 2, addr := (g.lane 0).rx 2, shape := { (g.hActive 3) with base := (g.lane 0).rx 1 } } = none)
    ∧ (slotFree { gang with interests := [(5, { Interest.none with state := .pending })] } 5 = false ∧ nameDesc user 1 3 = none)
    ∧ execLanes user gang never = 0 := ⟨⟨rfl, by decide⟩, by decide, by decide⟩
/-- A gang whose low lane and lane 31 name interest slot 7 by v1, in a state, and a block whose counter 7 is armed. -/
def wanting (st : IState) : Gang := { gangWith fun x => { x with v := [(1, 7)] } with interests := [(7, { Interest.none with state := st })] }
def counting (value target : W64) (armed : Bool) : Block := { block with counters := [(7, { ArrCounter.zero with value := value, target := target, armed := armed })] }
theorem test_meets_NamedAndCounterWaits :
    (∀ st, Issues (user (wanting st)) (wanting st)) ∧ (user).inFirmware = false ∧ execLanes user gang never = 0
    ∧ LowestOf (execLanes (user (wanting .free)) (wanting .free) always)
        (fun k => (mget Interest.none (wanting .free).interests (((wanting .free).lane k).rv 1).toNat).state = .free) 0
    ∧ (∀ l, (execLanes (user (wanting .arrived)) (wanting .arrived) always).getLsbD l = true →
        (mget Interest.none (wanting .arrived).interests ((((wanting .arrived).lane l).rv 1).toNat % 32)).state = .arrived)
    ∧ (mget Interest.none (wanting .pending).interests ((((wanting .pending).lane 31).rv 1).toNat % 32)).state = .pending
    ∧ (let g := { gang with home := 9 }; Issues (user g) g ∧ noCounters (user g) 0 g = true ∧ execLanes (user g) g always ≠ 0)
    ∧ (let g := wanting .free
       let s := fun b => on (coreWith g b)
       (∀ b, Issues (s b) g ∧ homeBlock? (s b) 0 g = if b.uid = 5 then some b else none)
        ∧ noCounters (s (counting 1 2 false)) 0 g = false ∧ (counterOf (s (counting 1 2 false)) 0 g 7).armed = false
        ∧ ((counterOf (s (counting 1 2 true)) 0 g 7).armed = true ∧ (counterOf (s (counting 1 2 true)) 0 g 7).value.toNat < 2)
        ∧ (counterOf (s (counting 2 2 true)) 0 g 7).target.toNat ≤ (counterOf (s (counting 2 2 true)) 0 g 7).value.toNat) := by
  refine ⟨fun _ => rfl, rfl, by decide, ⟨by decide, by decide, fun k hk => absurd hk (by omega)⟩, lanes_all (by decide) (by decide), by decide,
    ⟨rfl, by decide⟩, ⟨fun b => ⟨rfl, ?_⟩, by decide⟩⟩
  show List.find? (fun b => b.uid == 5) [b] = _
  by_cases h : b.uid = 5 <;> simp [h]
/-- A task's gang with `x1` in a page homed on this core's scratchpad, and without a mapping. -/
def migrant : Gang := { gangWith fun x => { x with name := .spawned 3, x := [(1, 0x20010), (2, 0x00FE000000000000)] } with block := some 5 }
theorem test_meets_ClusterInstructions :
    (Issues user gang ∧ (user).inFirmware = false ∧ execLanes user gang always = gang.live ∧ gang.member4 = none ∧ gang.isFree = false)
    ∧ (let g := { gang with member4 := some 1 }; Issues (user g) g ∧ g.member4 ≠ none ∧ execLanes (user g) g always ≠ 0)
    ∧ (let g := { migrant with member4 := some 1 }; Issues (user g) g ∧ g.isFree = true ∧ g.member4 ≠ none ∧ execLanes (user g) g always = g.live)
    ∧ (let k := { coreWith migrant block with tlb := [{ tenant := 1, ctx := none, va := 0x20000, size := 65536, pte := 0x10020C }] }
       let s := on k
       Issues s migrant ∧ migrant.isFree = true ∧ migrant.member4 = none ∧ migrant.q2 = [] ∧ classBusy s 0 0 migrant 4 = false
        ∧ (∀ q, q ∈ migrant.interests → q.2.state ≠ .pending)
        ∧ s.curCore.tlbFind 1 3 0x20010 = some { tenant := 1, ctx := none, va := 0x20000, size := 65536, pte := 0x10020C }
        ∧ pkgOf (ptePa 0x10020C + 16) = s.self ∧ pteHome 0x10020C = 2 ∧ pteHomeSel 0x10020C = s.cur.core
        ∧ 0x00FE000000000000 ≤ ((migrant.lane 0).rx 2).toNat ∧ ((migrant.lane 0).rx 2).toNat < 2 ^ 56)
    -- CBAR: a full entry table, an empty one, another count, one of three gangs, and the last gang of one
    ∧ (let full : Cluster := { Cluster.empty with entries := (List.range 32).map fun i => (100 + i, []) }
       full.phases 3 = none ∧ 32 ≤ full.entries.length ∧ Cluster.empty.phases 3 = none ∧ Cluster.empty.entries.length < 32)
    ∧ (let k : Cluster := { Cluster.empty with entries := [(3, [(2, { count := 3, gangs := [40], clock := [] })])] }
       k.phases 3 ≠ none ∧ ∀ ps, k.phases 3 = some ps → ∃ p, mfind ps 2 = some p ∧ p.count ≠ 4 ∧ p.count = 3 ∧ p.gangs.length + 1 < 3)
    ∧ (1 ≤ 0 + 1 ∧ (∀ w, w ∈ gang.waits → w.mask.getLsbD 31 = false)) :=
  ⟨⟨rfl, rfl, by decide⟩, ⟨rfl, by decide⟩, ⟨rfl, by decide⟩, ⟨rfl, by decide⟩, by decide,
    ⟨by decide, fun ps h => by obtain rfl := Option.some.inj h; exact ⟨_, rfl, by decide⟩⟩, by decide⟩

/-! New work, services, long words, and what happens on a core -/

/-- The gang of the page with `x2` at a page of services and `x3` at the function 0x1000. -/
def forkGang : Gang := gangWith fun x => { x with x := [(1, 0x1000), (2, 0x20040), (3, 0x20010)] }
def onPage2 (g : Gang) : State :=
  let s := on { coreWith g block with tlb := [{ tenant := 1, ctx := none, va := 0x20000, size := 65536, pte := 0x10000C }], laneCache := [(0, [(1, 16)])] }
  cached [0x100010, 0x100040] { s with mem := memWrite (memWrite s.mem 32 [1]) 45 [1] }
/-- A gang whose only fibre is lane 0. -/
def loneGang (x : TMap W64) : Gang := { gang with arch := { gang.arch with fibres := [(0, { fib 0 with x := x })] } }
theorem test_fork_place (l : Nat) (hl : l = 0 ∨ l = 31) :
    laneFound (onPage2 forkGang) forkGang l 0x20010 8 2 0x147 false apertureAtomic = .mem [0x100010] false 0 none := by
  rcases hl with rfl | rfl <;> decide
theorem test_meets_ForkAndJoin :
    (let s := onPage2 forkGang
     Issues s forkGang ∧ s.inFirmware = false ∧ execLanes s forkGang always = 0x80000001 ∧ execLanes s forkGang never = 0
      ∧ (∀ l, (execLanes s forkGang always).getLsbD l = true → InCode s (forkGang.lane l) ((forkGang.lane l).rx 1)
          ∧ IsEntry s (forkGang.lane l) ((forkGang.lane l).rx 1) true ∧ (forkGang.lane l).rx 1 = (forkGang.lane 0).rx 1)
      ∧ (let f := laneFound s forkGang 0 ((forkGang.lane 0).rx 3) 8 2 0x147 false apertureAtomic
         Performs s forkGang 0 ((forkGang.lane 0).rx 3) 8 2 true f ∧ Untracked f ∧ f = .mem [0x100010] false 0 none)
      ∧ pkgOf 0x100010 = s.self ∧ (∀ i, i < 8 → s.inMeta (0x100010 + i) = false) ∧ forkGang.buffered = [] ∧ s.curCore.deque.length < 256)
    -- a join counter that has reached zero, and one that has not
    ∧ (let s := onPage2 forkGang
       let f (l : Nat) := laneFound s forkGang l ((forkGang.lane l).rx 3) 8 0 0x148 false (apertureRule true 8 0 2)
       (∀ l, (execLanes s forkGang always).getLsbD l = true → Performs s forkGang l ((forkGang.lane l).rx 3) 8 2 true (f l) ∧ Untracked (f l))
        ∧ ofLe (readFound s 0 forkGang 0 8 (f 0)) = 0
        ∧ ofLe (readFound { s with mem := memWrite s.mem 0x100010 [1] } 0 forkGang 0 8 (f 0)) ≠ 0) := by
  have q (l : Nat) (hl : l = 0 ∨ l = 31) :
      laneFound (onPage2 forkGang) forkGang l 0x20010 8 0 0x148 false (apertureRule true 8 0 2) = .mem [0x100010] false 0 none := by
    rcases hl with rfl | rfl <;> decide
  have u (l : Nat) (hl : l = 0 ∨ l = 31) :
      Untracked (laneFound (onPage2 forkGang) forkGang l 0x20010 8 0 0x148 false (apertureRule true 8 0 2)) := by
    intro _ _ _ h; rw [q l hl] at h; exact nomatch h
  refine ⟨⟨rfl, rfl, by decide, by decide, lanes_all ⟨⟨by decide, by decide, .inr ⟨launch, rfl, by decide, by decide⟩⟩, ?_, rfl⟩
      ⟨⟨by decide, by decide, .inr ⟨launch, rfl, by decide, by decide⟩⟩, ?_, rfl⟩,
      ⟨⟨.inr ⟨_, _, _, _, test_fork_place 0 (.inl rfl)⟩, by decide⟩, ?_, test_fork_place 0 (.inl rfl)⟩, by decide⟩,
    lanes_all ⟨⟨.inr ⟨_, _, _, _, q 0 (.inl rfl)⟩, by decide⟩, u 0 (.inl rfl)⟩ ⟨⟨.inr ⟨_, _, _, _, q 31 (.inr rfl)⟩, by decide⟩, u 31 (.inr rfl)⟩,
    by decide, by decide⟩
  · show ∃ q, q ∈ image.funcs ∧ _; exact ⟨image.funcs[0], by decide, rfl, .inl rfl⟩
  · show ∃ q, q ∈ image.funcs ∧ _; exact ⟨image.funcs[0], by decide, rfl, .inl rfl⟩
  · intro _ _ _ h; rw [show (forkGang.lane 0).rx 3 = 0x20010 from rfl, test_fork_place 0 (.inl rfl)] at h; exact nomatch h
theorem test_meets_ServiceCalls :
    (let g := loneGang [(1, 0x20040)]
     let s := { onPage2 g with cur := { (onPage2 g).cur with lanes := 1 } }
     Issues s g ∧ execLanes s g always = laneBit 0 ∧ execLanes s g never = 0 ∧ s.inFirmware = false ∧ s.awaitsAcks 0 0 = false
      ∧ ¬ (((g.lane 0).rx 1).toNat % 64 ≠ 0 ∨ 2 ^ 56 ≤ ((g.lane 0).rx 1).toNat ∨ ((g.lane 0).rx 1).toNat / 2 ^ 49 = 0x7F)
      ∧ pkgOf 0x100040 = s.self ∧ pkgOf (0x100040 + 56) = s.self ∧ s.inMeta (0x100040 + 56) = false ∧ s.flaws = []
      ∧ laneFound s g 0 ((g.lane 0).rx 1) 64 1 0x151 false (apertureRule false 64 1 3) = .mem [0x100040] false 0 none
      ∧ accessWait s 0 g 0 (lowEa s 64 ((g.lane 0).rx 1)) 64 0 false (.mem [0x100040] false 0 none) = none
      ∧ ∀ q, q ∈ s.requests → q.place ≠ .glob g.tenant 0x20040)
    ∧ LowestOf (execLanes user gang always) (fun l => ((gang.lane l).rx 1).toNat % 64 ≠ 0 ∨ 2 ^ 56 ≤ ((gang.lane l).rx 1).toNat) 0
    -- the last block of a window of 1,024 bytes and of a stack slice of 64 bytes, and the first past each
    ∧ (let room (ea : W64) : Nat := if ea.getLsbD 48 = true then (windowOf user 0 gang).2 else (gang.lane 0).stackSize
       (0x00FF0000000003C0 : W64).toNat / 2 ^ 49 = 0x7F ∧ ¬ room 0x00FF0000000003C0 < 0x3C0 + 64 ∧ room 0x00FF000000000400 < 0x400 + 64
        ∧ ¬ room 0x00FE000000000000 < 0 + 64 ∧ room 0x00FE000000000040 < 64 + 64)
    ∧ (FirmwareRuns (firmWith [] [(1, 0x30040)]) always ∧ (0x30040 : W64).toNat % 64 = 0 ∧ (0x30040 : W64).toNat < 2 ^ 52
        ∧ (0x30040 : W64).toNat / 2 ^ 48 = firm.self ∧ (0x30040 : W64).toNat / 2 ^ 40 % 256 = 0
        ∧ ∀ q, q ∈ (firmWith [] [(1, 0x30040)]).requests → q.place ≠ .phys 0x30040)
    ∧ ((0x10000000000 : W64).toNat / 2 ^ 40 % 256 ≠ 0 ∧ (0x30041 : W64).toNat % 64 ≠ 0) :=
  ⟨⟨rfl, by decide⟩, ⟨by decide, .inl (by decide), fun k hk => absurd hk (by omega)⟩, by decide, ⟨⟨rfl, by decide⟩, by decide⟩, by decide⟩

/-- Words: an empty one, one with a branch back by 1 word, one with ADD.S32 on native registers 1, 2 and 3, and one with a bad header. -/
def emptyWord : LWord := { header := 0, s0 := 0, s1 := 0, v0 := 0, v1 := 0, m := 0, e := 0, b := 0 }
def branchWord : LWord :=
  { emptyWord with e := 0xFF000000FFFFFFFF, b := BitVec.ofNat 64 (0x140 * 2 ^ 55 + 15 * 2 ^ 42 + 7 * 2 ^ 39) }
def addWord : LWord := { emptyWord with s0 := BitVec.ofNat 64 (0x001 * 2 ^ 55 + 15 * 2 ^ 42 + 7 * 2 ^ 39 + 1 * 2 ^ 27 + 2 * 2 ^ 18 + 3 * 2 ^ 9) }
/-- The gang runs a translation. -/
def resident : Transl :=
  { key := 1, tenant := 1, isPublic := false, glaze := false, generation := 1, resident := 0xFFFF, words := [emptyWord, branchWord, addWord]
    entries := [(0x1000, 0)], side := [], maps := [], infos := [], windows := [], unhoisted := [], cuts := none, fallbacks := [], origins := [], lastUse := 0 }
def nativeGang : Gang := { gang with inNative := true, words := 4 }
def native : State := { user nativeGang with kiln := [resident] }
theorem test_meets_LongWords :
    (Issues native nativeGang ∧ (native).inFirmware = false ∧ groupLanes native nativeGang ≠ 0)
    ∧ waitsForResult addWord { nativeGang with pend := [{ due := 9, interlocked := true, lane := 0, dest := .reg 2, value := 1 }] } 1 (fun _ => 0) = true
    ∧ (∀ w, w ∈ [emptyWord, branchWord, addWord] → waitsForResult w nativeGang 0x80000001 (fun _ => 0) = false
        ∧ lowestReason (w.staticFaults ++ issueFaults w (nativeGang.atIssue 0x80000001) 0x80000001 (fun _ => 0)) = none ∧ w.commit = false)
    ∧ lowestReason ({ emptyWord with header := 1 }.staticFaults ++ issueFaults { emptyWord with header := 1 } nativeGang 1 (fun _ => 0)) = some (7, 0)
    ∧ (nativeGang.replay = false ∧ nativeGang.stop = none ∧ emptyWord.ops = [])
    ∧ (∃ x, branchWord.ops = [x] ∧ x.op = 0x140 ∧ x.leaf = 7 ∧ translOf native nativeGang ≠ none ∧ x.third = 0xFFFFFFFF)
    ∧ (∃ x, addWord.ops = [x] ∧ x.op = 0x001 ∧ x.raw.ty = .s32 ∧ x.leaf = 7 ∧ x.hold = 0 ∧ x.d = 1 ∧ x.a = 2 ∧ x.raw.b = 3)
    ∧ (let p : PendWrite := { due := 4, interlocked := false, lane := 0, dest := .reg 511, value := 1 }
       p.due ≤ nativeGang.words ∧ p.lane < 32 ∧ ∃ x, mfind nativeGang.arch.fibres p.lane = some x) :=
  ⟨⟨rfl, rfl, by decide⟩, by decide, by decide, by decide, by decide, ⟨_, rfl, by decide⟩, ⟨_, rfl, by decide⟩, ⟨by decide, by decide, _, rfl⟩⟩

/-- The gang with one parked instruction. -/
def waitFor (i : Instr) (c : Cause) : Wait :=
  { mask := 1, instr := i, pc := 0x1000, head := 0x1000, next := 0x1008, bits := 0, cause := c, va := 0x20010, since := 0, ticket := 0, pf := []
    charged := false }
def waitGang (i : Instr) (c : Cause) : Gang := { gangWith fun x => { x with status := .parked c } with waits := [waitFor i c] }
def walkReq : WalkReq := { core := 0, tenant := 1, va := 0x20010 }
/-- Tables at 0x100000 (root), 0x110000, 0x120000 and 0x130000, whose leaf for page 2 is `e`. -/
def tables (e : W64) : State :=
  let w (m : List Host.Cell) (a : Nat) (v : W64) := memWrite m a (leBytes 8 v.toNat)
  { user with mem := w (w (w (w (w (user).mem 0 0x100000) 0x100000 0x110001) 0x110000 0x120001) 0x120000 0x130001) 0x130010 e }
theorem test_no_join_owed (e : W64) : NoJoinOwed (tables e) := by intro q h; simp [tables, user, on, State.reset] at h
def stoppedNow : Stop := { halted 0 with entry := none }
theorem test_meets_CoreProgress :
    (∀ i c, Waiting (user (waitGang i c)) item0 (waitFor i c))
    ∧ ((opOf (.ldI (fI 0 .s32 1 1 0))).isSome = true ∧ fabricSC (.fence (fC 0 .s32 0 0 0 0 0)) = false)
    ∧ ((user).gang? 0 0 = some gang ∧ (gang.lane 31).status ≠ .absent)
    -- a region with one store to commit
    ∧ (let st : GStore := { loc := .phys 0x100010, home := 0, bytes := [7], tracked := false, acc := { pa := 0x100010, len := 1, party := partyOf gang 0 0 (fib 0), path := .lane, kind := .write, order := 0, scope := 0, ea := 0x20010, pc := 0x1000, epoch := 0 } }
       let g := { gang with region := { Region.empty with instrs := 1, stores := [st] } }
       (user g).gang? 0 0 = some g ∧ g.region.isEmpty = false ∧ (∀ q, q ∈ g.region.stores → q.tracked = false) ∧ g.region.exits = 0
        ∧ g.region.samples = [] ∧ (let h := g.mapLanes g.stalled fun _ f => { f with status := .ready }
                                   commitStall ((user g).setGang 0 0 h) 0 0 h = none))
    ∧ (let p : PendWrite := { due := 9, interlocked := true, lane := 0, dest := .reg 511, value := 1 }
       let g := { waitGang (.nop (fD 0 0)) .result with pend := [p], waits := [] }
       (user g).gang? 0 0 = some g ∧ (g.lane p.lane).status = .parked .result)
    -- walks: a leaf, a page that is not present, a malformed entry
    ∧ (mget [] ((tables 0x20000F).die 0).walkCaches (walkerSlice 1 0x20010) = [] ∧ (∀ e, walkStart (tables e) 0 1 0x20010 = (0, (tables e).root 1))
        ∧ farPte (tables 0x20000F) 4 0 ((tables 0x20000F).root 1) 0x20010 = none ∧ NoJoinOwed (tables 0x20000F) ∧ ((tables 0x20000F).core 0).gangs.length ≤ 32
        ∧ walkAt (tables 0x20000F) 0x20010 (0, (tables 0x20000F).root 1) = .leaf 0x20000F 65536
        ∧ walkAt (tables 0) 0x20010 (0, (tables 0).root 1) = .notPresent ∧ walkAt (tables 0x20008F) 0x20010 (0, (tables 0x20008F).root 1) = .malformed
        ∧ ∃ q, q ∈ ((tables 0).core 0).gangs ∧ q.2.tenant = 1 ∧ q.2.ctx = 3)
    -- a walk that starts below the root, from the walker's cache
    ∧ (let s := (tables 0x20000F).modDie 0 fun d => { d with walkCaches := [(walkerSlice 1 0x20010, [{ tenant := 1, lvl := 2, idx := 0, tbl := 0x130000 }])] }
       walkStart s 0 1 0x20010 = (3, 0x130000) ∧ farPte s 1 3 0x130000 0x20010 = none ∧ walkAt s 0x20010 (3, 0x130000) = .leaf 0x20000F 65536)
    -- a walker that is idle, one with 32 walks and one with any number of waiting requests, none of them for the page
    ∧ (let other (n : Nat) : Walk := { slice := walkerSlice 1 0x20010, tenant := 2, page := 2, waiters := List.replicate n 0 }
       let load (ws : List Walk) : Nat := ws.foldl (fun n w => n + w.waiters.length) 0
       ((user).die 0).walks = [] ∧ load [] < 4096 ∧ (∀ w, w ∈ List.replicate 32 (other 0) → w.tenant ≠ 1) ∧ 32 ≤ (List.replicate 32 (other 0)).length
        ∧ (List.replicate 31 (other 0)).length < 32 ∧ ∀ n, load [other n] = n)
    ∧ (∀ q, q ∈ ((user).core 0).gangs → ∀ w, w ∈ q.2.waits → w.cause ≠ .presence) :=
  ⟨fun _ _ => ⟨rfl, fun g h => by obtain rfl := Option.some.inj h; rfl⟩, by decide, ⟨rfl, by decide⟩, ⟨rfl, by decide⟩, ⟨rfl, by decide⟩,
    ⟨by decide, fun _ => rfl, by decide, test_no_join_owed _, by decide, by decide, by decide, by decide, _, List.mem_cons_self, rfl, rfl⟩, by decide,
    ⟨by decide, by decide, by intro w h; rw [List.eq_of_mem_replicate h]; decide, by decide, by decide,
      fun n => by simp⟩, by decide⟩
theorem test_meets_CoreReports :
    (let g := { gang with stop := some stoppedNow }
     (user g).gang? 0 0 = some g ∧ g.notices = [] ∧ g.stop = some stoppedNow ∧ stoppedNow.entry = none ∧ ((user g).core 0).slotFor g.ctx = some 0
      ∧ (((user g).core 0).slotOf 0).trapvalid.getLsbD 0 = false)
    ∧ (let g := { gang with deferred := [{ code := 0x0E, infos := [1] }] }
       (user g).gang? 0 0 = some g ∧ g.stop = none ∧ g.live ≠ 0 ∧ g.region.isEmpty = true)
    ∧ (let k := { coreWith gang block with inval := some { tenant := 1, base := 0, len := 65536, all := false, acks := 0 }
                                           fwWait := some { waitFor (.wfi (fD 0 1)) .tlb with mask := 1 }, event := 1, fw := { Core.reset.fw with v := [(1, 1)] } }
       (firmOn k).core 0 = k ∧ k.fw.status ≠ .absent ∧ k.event &&& (k.fw.rv 1).setWidth 5 ≠ 0)
    ∧ ((firm.core 0).mbox.length < 16
        ∧ 16 ≤ ((firmOn { coreWith gang block with mbox := List.replicate 16 (1, 2, 0, 0) }).core 0).mbox.length) :=
  ⟨⟨rfl, by decide⟩, ⟨rfl, by decide⟩, ⟨rfl, by decide⟩, by decide⟩

/-! The engines run their commands -/

/-- A command of a kind, stamped 1, of the gang of the tests. -/
def cmdOf (k : CmdKind) : EngCmd := { EngCmd.blank user gang 0x80000001 k with stamp := 1 }
/-- The gang with commands at the heads of its orders. -/
def running (m0 m2 : List EngCmd) : Gang := { gang with q0 := m0, q2 := m2, claimed := 0xF }
def runState (m : EngCmd) : State := user (running [m] [])
/-- A tile's rows keep no command waiting while no fill is outstanding. -/
theorem test_no_wait (m : EngCmd) : matrixWait (runState m) 0 (running [m] []) m = none := by
  have h : ((runState m).core 0).fills = [] := rfl
  have t : ((runState m).core 0).gangs.any (fun (p : Nat × Gang) => tokenHeld p.2 1) = false := rfl
  simp [matrixWait, h, t]
theorem test_matrix_at (m : EngCmd) (h : (m.kind != .seqrun) = true) : MatrixAt (runState m) here (running [m] []) block m := by
  have e : matrixHead (runState m) 0 0 = some m := by
    exact if_pos ⟨rfl, rfl⟩
  have g : (runState m).gang? 0 0 = some (running [m] []) := rfl
  have f : matrixFlawed (runState m) 0 (running [m] []) block m = false := by
    have h0 : (runState m).flaws = [] := rfl
    unfold matrixFlawed State.rowFlawed
    simp only [h0]
    split <;> simp
  refine ⟨by decide, rfl, by show gang.live ≠ 0; decide, rfl, ?_, fun _ => rfl, f⟩
  show matrixReady (runState m) 0 0 = some m
  unfold matrixReady
  rw [e, g]
  simp only [test_no_wait, h]
  rfl
/-- A body of one ACCZ that runs at the start of the first loop only. -/
def bodyBytes : List Byte :=
  [1, 0, 0, 0, 2, 0] ++ List.replicate 26 0 ++ (encodeBytes (.accz (fI 0 .s32 0 0 3))).take 8 ++ List.replicate 4 0 ++ [1, 0] ++ List.replicate 114 0
def seqAt (i : Nat) : SeqPos := { body := 0, h0 := Shape.zero, h1 := Shape.zero, vals := [], iter := [i, 0, 0, 0, 0, 0], entry := 0, mmas := [] }
def sequenced (i : Nat) : State :=
  { runState { cmdOf .seqrun with seq := some (seqAt i) } with launches := [{ launch with image := { image with bodies := [bodyBytes] } }] }
theorem test_meets_MatrixEngineCommands :
    (∀ k, k ∈ [CmdKind.oload, .mma, .mmas, .mmag, .accrd, .accwr, .accz, .actlut, .orelease] →
      MatrixAt (runState (cmdOf k)) here (running [cmdOf k] []) block (cmdOf k))
    ∧ cwOut 0x20 = true ∧ cwOut 0 = false ∧ 127 < 128 ∧ (∀ n, n < accKey block 0 0 0 ∨ accKey block 0 0 0 ≤ n)
    ∧ (let g := waitGang (.accrd (fC 0 .s32 0 0 0 0 0)) .result
       (g.lane 31).status = .parked .result)
    ∧ (let b := { block with claims := [{ gang := 0, mask := 0xF0 }] }
       let s := on (coreWith gang b)
       (s.core 0).blocks[0]? = some b ∧ (s.core 0).block? b.uid = some b ∧ heldSlots s 0 b &&& 0xF0 = 0 ∧ s.gang? 0 0 = some gang)
    -- a sequencer run at a position that runs and at one that does not
    ∧ (let m (i : Nat) := { cmdOf .seqrun with seq := some (seqAt i) }
       (∀ i, (sequenced i).gang? 0 0 = some (running [m i] []) ∧ (sequenced i).blockOf? 0 (running [m i] []) = some block)
        ∧ seqHead (sequenced 0) 0 0 = some (m 0, seqAt 0) ∧ seqHead (sequenced 1) 0 0 = some (m 1, seqAt 1)
        ∧ (seqEntry (seqBody (sequenced 0) (running [m 0] []) (seqAt 0)) 0).active (seqBody (sequenced 0) (running [m 0] []) (seqAt 0)) (seqAt 0).iter = true
        ∧ (seqEntry (seqBody (sequenced 1) (running [m 1] []) (seqAt 1)) 0).active (seqBody (sequenced 1) (running [m 1] []) (seqAt 1)) (seqAt 1).iter = false
        ∧ ∃ x, seqForm (sequenced 0) 0 (running [m 0] []) (m 0) (seqAt 0) = some (x, false) ∧ x.kind = .accz
            ∧ matrixCheck (sequenced 0) 0 (running [m 0] []) x = none ∧ matrixWait (sequenced 0) 0 (running [m 0] []) x = none
            ∧ matrixFlawed (sequenced 0) 0 (running [m 0] []) block x = false) := by
  refine ⟨?_, by decide, by decide, by decide, fun n => by omega, by decide, ⟨rfl, rfl, by decide, rfl⟩,
    ⟨fun i => ⟨rfl, rfl⟩, by decide, by decide, by decide, by decide, _, rfl, by decide⟩⟩
  intro k hk
  apply test_matrix_at
  revert hk; cases k <;> decide
/-- A COPY between the window at byte 64 and the page at 0x20010 of one 32-bit element, and a BULK of none. -/
def copyOne (out : Bool) : EngCmd :=
  { cmdOf .copy with ext := if out then 2 else 0, addr := 0x00FF000000000040, shape := { Shape.zero with base := 0x20010, fmt := 1, rank := 1, ext := [(0, 1)] } }
def transferGang : Gang := { pageGang with q2 := [copyOne false], claimed := 0 }
def transfers : State := onPage2 transferGang
/-- The step of a copy command that moves one element, and one that faults. -/
def goes (e : EngStep) : Bool := match e with | .go _ => true | _ => false
def faults (e : EngStep) : Bool := match e with | .fault _ _ => true | _ => false
def ends (e : EngStep) : Bool := match e with | .last => true | _ => false
theorem go_of (e : EngStep) (h : goes e = true) : ∃ u, e = .go u := by cases e <;> first | exact ⟨_, rfl⟩ | exact nomatch h
theorem fault_of (e : EngStep) (h : faults e = true) : ∃ c i, e = .fault c i := by cases e <;> first | exact ⟨_, _, rfl⟩ | exact nomatch h
theorem last_of (e : EngStep) (h : ends e = true) : e = .last := by cases e <;> first | rfl | exact nomatch h
theorem test_copy_moves : ∃ u, CopyMoves 0 0 1 transfers (copyOne false) u := by
  obtain ⟨u, h⟩ := go_of (copyStep transfers 0 0 (copyOne false)) (by decide +kernel)
  have e : u = (match copyStep transfers 0 0 (copyOne false) with | .go u => u | _ => transfers) := by rw [h]
  refine ⟨u, u, h, last_of _ ?_, rfl⟩
  subst e; decide +kernel
/-- A memory that holds a space's routing entry and its publication record. -/
def routed (g : Gang) : State := { named g with mem := memWrite (named g).mem 16 [1] }
theorem test_meets_EngineTransfers :
    (transfers.gang? 0 0 = some transferGang ∧ transferGang.live ≠ 0 ∧ copyHead transfers 0 0 = some (copyOne false) ∧ copyCount (copyOne false) = 1)
    ∧ (∃ code infos, copyStep transfers 0 0 { copyOne false with addr := 0x0100000000000000 } = .fault code infos)
    ∧ (let m := { cmdOf .bulk with addr := 0x00FF000000000040 }
       let s := user gang |>.modCore 0 fun k => { k with fabricQ := [m] }
       fabricHead s 0 0 = some m ∧ bulkCount m = 0 ∧ bulkStep s 0 0 m = .last ∧ m.put = false ∧ { m with mod := 1 }.put = true)
    -- one byte of the window and one of the page as an engine finds them
    ∧ (Inv transfers ∧ EngineAt transfers 0 0 0 transferGang (copyOne false) 0x20010 4 0 (fun i => .phys (0x100010 + i))
        ∧ EngineAt transfers 0 0 0 transferGang (copyOne false) 0x00FF000000000040 4 1 (fun i => .scratch (64 + i)))
    ∧ (∀ i j, i < 4 → j < 4 → Loc.scratch (64 + i) = .scratch (64 + j) → i = j)
    -- the heads of the named-data order
    ∧ (let m (k : CmdKind) : EngCmd := { cmdOf k with addr := 0x0020000000000003, d := 7, shape := oneTile 1 }
       let s (k : CmdKind) := (routed (wanting .pending)).modCore 0 fun x => { x with namedQ := [m k] }
       (∀ k, (s k).gang? 0 0 = some (wanting .pending)) ∧ (∀ k, k ∈ [CmdKind.nreg, .nwant, .npub, .ndrop] → namedReady (s k) 0 0 = some (m k))
        ∧ (∀ k, (s k).gangByUid (m k).party.gangUid = some (wanting .pending) ∧ (s k).gangPlace (m k).party.gangUid = some (0, 0))
        ∧ (mget Interest.none (wanting .pending).interests 7).state = .pending
        ∧ (∀ n q, (q : Nat × W32) = (7, 0) → (q.1 == n && (mget Interest.none (wanting .pending).interests n).state != .free
            && (mget Interest.none (wanting .pending).interests n).serial == q.2) = decide (n = 7))
        ∧ npubWaits (s .npub) 0 (m .npub) = false ∧ nameDesc (s .npub) 1 (nameSpace 0x0020000000000003) ≠ none)
    ∧ (let m := { cmdOf .bulk with addr := 0x00FF000000000040, d := 7, ext := 2, words := [(0, 16)], shape := { (oneTile 1) with ext := [(0, 32)] } }
       let u : BulkUnit := { gang := 0, block := 5, off := 16, bytes := List.replicate 64 1, counter := some 7, owner := 1, clock := [] }
       let s := user gang |>.modCore 0 fun k => { k with fabricQ := [m], units := [u] }
       (s.core 0).units[0]? = some u ∧ (s.core 0).fabricQ.find? (fun x => x.stamp == u.owner) = some m ∧ homeBlock? s 0 gang = some block
        ∧ 8 ≤ bulkWidth m ∧ u.bytes.length = 16 * (bulkWidth m / 8) ∧ m.addr.toNat % 2 ^ 48 + (u.off + 16) * 4 < 2 ^ 48 ∧ m.cnt = true
        ∧ (mget 0 m.words (u.off / unitElems m)).toNat + 16 = elemsInUnit m (u.off / unitElems m)) := by
  refine ⟨⟨rfl, by decide, by decide, by decide⟩, ?_, ⟨by decide, by decide, last_of _ (by decide +kernel), by decide, by decide⟩,
    ⟨⟨by decide, by decide⟩, ?_, ?_⟩, ?_, ⟨fun _ => rfl, by decide, fun _ => ⟨rfl, rfl⟩, by decide, ?_, by decide, by decide⟩, ⟨rfl, by decide⟩⟩
  · exact fault_of _ (by decide +kernel)
  · intro i hi
    refine .inr ⟨0x100010 + i, 0, rfl, ?_, ?_⟩
    · have : i = 0 ∨ i = 1 ∨ i = 2 ∨ i = 3 := by omega
      rcases this with rfl | rfl | rfl | rfl <;> decide
    · have : i = 0 ∨ i = 1 ∨ i = 2 ∨ i = 3 := by omega
      rcases this with rfl | rfl | rfl | rfl <;> decide
  · intro i hi
    refine .inl ⟨?_, fun pa h => nomatch h⟩
    have : i = 0 ∨ i = 1 ∨ i = 2 ∨ i = 3 := by omega
    rcases this with rfl | rfl | rfl | rfl <;> decide
  · intro i j _ _ h; injection h with h; omega
  · intro n q hq; subst hq
    by_cases h : n = 7
    · subst h; rfl
    · simp [wanting, mget, mfind, Interest.none, h, Ne.symm h]

/-! Named data on its way, and scheduling -/

def want7 : Interest := { Interest.none with state := .pending, name := 0x0020000000000003, serial := 4, until_ := 100, shape := oneTile 1 }
def wantGang : Gang := { gang with interests := [(7, want7)] }
def who : Consumer := { pkg := 0, core := 0, ctx := 3, gang := 0, slot := 7, serial := 4 }
def arrival : ArrivalMsg := { consumer := who, tenant := 1, name := 0x0020000000000003, bytes := [1, 2, 3, 4], clock := [] }
def entryAt (h : Holder) (fs : List (Face × Nat × Bool)) (held : List (Nat × List Byte × TMap Nat)) : FenEntry :=
  { holder := h, tenant := 1, name := 0x0020000000000003, faces := fs, sentUntil := 100, held := held, forwarded := [] }
/-- A state whose rendezvous of the name is a tarn of die 0 that holds the last tile. -/
def published : State :=
  { named wantGang with mem := memWrite (named wantGang).mem 0 [0, 0, 1, 0]
                        dies := [(0, { Die.reset with tarns := [{ die := 0, slice := 0, tenant := 1, name := 0x0020000000000000, bytes := [9], clock := [], keepUntil := 0, lastUse := 0, holds := [] }] })] }
theorem test_meets_NamedDataEvents :
    ((named wantGang).gang? 0 0 = some wantGang ∧ (want7.state = .pending ∧ want7.serial = who.serial ∧ wantGang.ctx = who.ctx ∧ (named wantGang).ticks < 100)
      ∧ nameDesc (named wantGang) 1 (nameSpace want7.name) ≠ none ∧ ¬ (Interest.none.state = .pending))
    ∧ (let s := { named wantGang with ticks := 100 }
       s.gang? 0 0 = some wantGang ∧ (mget Interest.none wantGang.interests 7).until_ ≤ s.ticks)
    -- an interest that the tarn answers, and one that is kept, with and without a further holder
    ∧ (∃ x, tarnTile published 0 1 0x0020000000000000 = some x)
    ∧ (tarnTile (named wantGang) 0 1 0x0020000000000003 = none ∧ fenEntry (named wantGang) (.dieRelay 1) 1 0x0020000000000003 = none
        ∧ holderFull (named wantGang) (.dieRelay 1) = false ∧ 0 < want7.until_)
    -- a relay with no room left
    ∧ (let e := { entryAt (.dieRelay 1) [] [] with name := 5 }
       let s := { named wantGang with fen := List.replicate (Config.holderRoom (.dieRelay 1) + 1) e }
       fenEntry s (.dieRelay 1) 1 0x0020000000000003 = none ∧ holderFull s (.dieRelay 1) = true ∧ who.gang ≠ 32 ∧ s.gang? who.core who.gang = some wantGang
        ∧ (mget Interest.none wantGang.interests who.slot).state = .pending ∧ (mget Interest.none wantGang.interests who.slot).serial = who.serial)
    ∧ (let s := { named wantGang with mem := memWrite (memWrite (named wantGang).mem 16 [0, 2]) 0x210 [0x21] }
       nextHolder s 1 0x0020000000000003 (.dieRelay 0) = some (.rendezvous 1 (rendezvousSlice 0x0020000000000003)))
    ∧ (let e := entryAt (.dieRelay 0) [(.consumer who, 100, false)] []
       fenEntry { user with fen := [e] } (.dieRelay 0) 1 0x0020000000000003 = some e
        ∧ (∀ f, f ∈ e.faces → f.2.2 = false ∧ (∃ c, f.1 = .consumer c) ∧ (f.1, 5) ∉ e.forwarded)
        ∧ (e.faces.any fun f => f.1 == .consumer who) = true
        ∧ (e.held.filter fun h => h.1 == who.serial.toNat) = []
        ∧ ((entryAt (.dieRelay 0) [(.consumer who, 100, true)] [(4, [1], [])]).held.filter fun h => h.1 == who.serial.toNat) ≠ []
        ∧ (e.faces.filter fun f => !(f.1 == Face.consumer who && f.2.1 + 64 ≤ 164 && !f.2.2)) = []
        ∧ (e.faces.filter fun f => !(f.1 == Face.consumer who && f.2.1 + 64 ≤ 163 && !f.2.2)) ≠ []) := by
  refine ⟨⟨rfl, by decide⟩, ⟨rfl, by decide⟩, ⟨_, rfl⟩, ⟨by decide, by decide, decide_eq_false (Nat.not_lt_zero _), by decide⟩,
    ⟨List.find?_eq_none.mpr ?_, decide_eq_true ?_, by decide, rfl, by decide⟩, by decide, ⟨rfl, ?_, by decide⟩⟩
  · intro x hx; rw [List.eq_of_mem_replicate hx]; decide
  · have f (n : Nat) (e : FenEntry) (h : (e.holder == .dieRelay 1) = true) :
        ((List.replicate n e).filter fun x => x.holder == .dieRelay 1) = List.replicate n e :=
      List.filter_eq_self.mpr fun x hx => by rw [List.eq_of_mem_replicate hx]; exact h
    show _ < (List.filter _ (List.replicate _ _)).length
    rw [f _ _ (by decide), List.length_replicate]; exact Nat.lt_succ_self _
  intro f hf
  obtain rfl := List.mem_singleton.mp hf
  exact ⟨rfl, ⟨who, rfl⟩, by decide⟩
def binOf (n : Nat) : Bin :=
  { ctx := 3, entry := 0x1000, home := 5, fibres := (List.range n).map fun i => { fib 0 with name := .spawned (i + 1) }, opened := 0, closed := false }
def binned (n : Nat) (gs : TMap Gang) : State := on { coreWith gang block with gangs := gs, bins := [binOf n] }
def taskOf : Task :=
  { uid := 9, ctx := 3, launch := 7, home := 5, entry := 0x1000, args := [[(0, 1)], [(0, 2)]], join := 0x20010, party := partyOf gang 0 0 (fib 0), clock := [] }
def yokeGang (u : Nat) : Gang := { waitGang (.yoke (fD 4 1)) .yoke with uid := u }
/-- Core 0's cluster with a gang on each core that waits to be yoked under key 6. -/
def yoking : State :=
  { user with
    cores := (List.range 4).map fun c => (c, coreWith (yokeGang (c + 2)) block)
    clusters := [(0, { Cluster.empty with waiting := (List.range 4).map fun c => (c, 0, 6, 0) })] }
theorem test_meets_SchedulingEvents :
    ((binned 32 [(0, gang)]).core 0).bins[0]? = some (binOf 32) ∧ binDue (binned 32 [(0, gang)]) (binOf 32) = true
    ∧ ((residentOn (binned 32 [(0, gang)]) 0 3 && hasRoom (binned 32 [(0, gang)]) 0 1 (launchResident (binned 32 [(0, gang)]) 7)) = true)
    ∧ ((residentOn (binned 32 ((List.range 32).map fun i => (i, gang))) 0 3
        && hasRoom (binned 32 ((List.range 32).map fun i => (i, gang))) 0 1 (launchResident (binned 32 []) 7)) = false)
    ∧ (let s := on { coreWith gang block with deque := [taskOf] }; (s.core 0).deque.find? (canTake s 0) = some taskOf)
    ∧ (let m : Migration := { src := 0, dst := 1, slot := 31, gang := migrant, block := none, arrives := 0 }
       { user with migrations := [m] }.migrations[0]? = some m ∧ m.slot ≠ 32)
    ∧ (∃ ms, yokeReady yoking 0 6 = some ms ∧ (∀ q, q ∈ ms → q.2 ≠ 32) ∧ ms = [(0, 0), (1, 0), (2, 0), (3, 0)])
    ∧ (∀ q, q ∈ [(0, 0), (1, 0), (2, 0), (3, 0)] → ∃ g, yoking.gang? q.1 q.2 = some g ∧ (g.waits.find? fun w => w.cause == .yoke) = some (waitFor (.yoke (fD 4 1)) .yoke))
    ∧ (∃ q, q ∈ (yoking.cluster 0).waiting ∧ q.1 = 0 ∧ q.2.1 = 0 ∧ q.2.2.2 + 65536 ≤ { yoking with ck := 65536 }.ck)
    ∧ ((∀ m, m ∈ ((user).cluster 0).members → m.1 ≠ 0 % 4) ∧ ((user).core 0).slotRunnable 0 = true ∧ ((user).core 0).slotRunnable 1 = false
        ∧ (((user).core 0).slotOf 0).pass.toNat ≤ 2 ^ 31)
    ∧ (overrun gang = false ∨ overrun gang = true) ∧ overrun { gang with yieldCtr := 0 } = true ∧ overrun { gang with yieldCtr := 1 } = false
    ∧ (Core.reset.failed = false ∧ (({ Core.reset with ckcount := 63 } : Core).ckcount.toNat % 64 + 1) / 64 = 1)
    ∧ (let m : Move := { slot := 0, saving := true, addr := 0x50000, until_ := 0 }
       let s := on { coreWith gang block with moves := [m], slot0 := { slotRun with state := .saving } }
       ((s.core 0).moves.find? fun x => x.slot == 0 && x.saving) = some m ∧ saveBlocked s 0 3 = false ∧ m.until_ ≤ s.ck)
    ∧ (let m : Move := { slot := 1, saving := false, addr := 0x50000, until_ := 0 }
       let s := on { coreWith gang block with moves := [m], slot1 := { UserSlot.empty with state := .loading, ctx := 9 } }
       ((s.core 0).moves.find? fun x => x.slot == 1 && !x.saving) = some m ∧ (∀ r, r ∈ s.heldReplies → r.ctx ≠ 9)
        ∧ (freeSlots s 0).head? = some 1)
    -- an area that names what was saved: one gang
    ∧ (let v := savedOf user 0 0 7
       let s := { user with saved := [v], mem := memWrite (user).mem 0x50040 [7] }
       (s.saved.find? fun v => v.uid == s.rd (fwPhys 0x50000 + 64) 8 && v.ctx == 3) = some v ∧ ∃ i g, v.gangs = [(i, g)]) := by
  refine ⟨rfl, by decide, by decide, by decide +kernel, by decide, ⟨rfl, by decide⟩, ⟨_, rfl, by decide, by decide⟩, ?_, ⟨(0, 0, 6, 0), by decide⟩, by decide, by decide,
    by decide, by decide, by decide, ⟨rfl, by decide⟩, ⟨rfl, by decide⟩, ⟨by decide, _, _, rfl⟩⟩
  intro q hq
  simp only [List.mem_cons, List.not_mem_nil, or_false] at hq
  rcases hq with rfl | rfl | rfl | rfl <;> exact ⟨_, rfl, rfl⟩

/-! Services, the host's queues, the kiln, security and the fabric -/

/-- Tenant 1's tables with its windows, a request of seven argument words, and a state where it is the outstanding one. -/
def windowed (e : W64) : State := { tables e with mem := memWrite (memWrite (tables e).mem 32 [1]) 45 [1] }
def reqOf (ctx : Nat) (as : List W64) : SvcReq := { service := 1, stk := 0, tenant := 1, ctx := ctx, place := .stack 1 0, args := as }
def asking (s : State) (r : SvcReq) : State := { s with requests := [r] }
theorem outstanding (s : State) (r : SvcReq) (h : s.awaits = []) : Outstanding (asking s r) r :=
  ⟨List.mem_cons_self, fun a ha => by
    have e : (asking s r).awaits = s.awaits := rfl
    rw [e, h] at ha; exact nomatch ha⟩
def copyNow (l : Launch) : Launch := { l with paramPage := 1, paramVa := 0x20000 }
/-- Whether NSPACE_SET finds a legal descriptor image at 0x20000; none where it cannot read it. -/
def nspaceReads (s : State) : Option Bool :=
  match bringRange s 1 0x20000 64 false with
  | .ok u => some (descImageOk ((List.range 64).map fun i => BitVec.ofNat 8 (readVirt u 1 ((0x20000 : W64) + BitVec.ofNat 64 i) 1)))
  | .fault _ => none
theorem test_meets_Services :
    -- a request of a user fibre and one of firmware are outstanding, and their arguments are their own
    (∀ e ctx as, Outstanding (asking (windowed e) (reqOf ctx as)) (reqOf ctx as) ∧ argsOf (asking (windowed e) (reqOf ctx as)) (reqOf ctx as) = as)
    -- PAGE_MAP and PAGE_ATTR: attributes, the range's bounds, a launch page, pages free and none, a page of the tenant's
    ∧ (attrOf 0x7FFF = none ∧ attrOf 3 = some (true, true, false, 0, 0) ∧ attrOf 0x8000 = none ∧ (3 : Nat) ≠ fwCtx
        ∧ (0x20000 % 2 ^ 16 = 0 ∧ 2 ^ 16 % 2 ^ 16 = 0 ∧ globalEnd - 2 ^ 16 + 2 ^ 16 ≤ globalEnd) ∧ ¬ (0x20001 % 2 ^ 16 = 0)
        ∧ ¬ (globalEnd + 2 ^ 16 ≤ globalEnd))
    ∧ (holdsLaunchPage { user with launches := [copyNow launch] } 1 0x20000 (2 ^ 16) = true ∧ holdsLaunchPage (windowed 0x20000F) 1 0x20000 (2 ^ 16) = false)
    ∧ (leafAt (windowed 0) 1 0x20000 = none ∧ freePage (windowed 0) 1 (2 ^ 16) (homeStacks 0 0) = some 0x10000 ∧ pinRoom (windowed 0) 0x10000 0 0 = true
        ∧ freePage (tables 0) 1 (2 ^ 16) (homeStacks 0 0) = none)
    ∧ (rangeInWindows (windowed 0x20000F) 1 0x20000 (2 ^ 16) = true ∧ rangeInWindows (tables 0x20000F) 1 0x20000 (2 ^ 16) = false
        ∧ (match ownLeaf (windowed 0x20000F) 1 0x20000 with
           | some (l, _) => decide ((3 : BitVec 15).toNat / 8 % 4 = pteHome l.pte ∧ pteHomeSel l.pte = 0)
           | none => false) = true)
    -- NSPACE_SET: an image of zeros describes no space and is legal; one of rank 7 is not; one that cannot be read
    ∧ (0x20000 + 64 ≤ globalEnd ∧ globalEnd - 64 + 64 ≤ globalEnd ∧ globalEnd < globalEnd - 63 + 64 ∧ nspaceReads (windowed 0x20000F) = some true
        ∧ nspaceReads { windowed 0x20000F with mem := memWrite (windowed 0x20000F).mem 0x200001 [7] } = some false
        ∧ nspaceReads (windowed 0) = none)
    -- SAMPLE_CFG
    ∧ (bitsOf (0x20000 : W64) 0 6 = 0 ∧ bitsOf (0x20001 : W64) 0 6 ≠ 0 ∧ ringSize 64 = true ∧ ringSize 65536 = true ∧ ringSize 32 = false ∧ ringSize 65 = false
        ∧ 0x20000 + 64 * (64 + 1) ≤ globalEnd ∧ rangeInWindows (windowed 0) 1 0x20000 (64 * (64 + 1)) = true)
    -- the kiln's services
    ∧ (0x20001 % 2 ^ 16 ≠ 0 ∧ 0x20001 / 2 ^ 16 % 2 ^ 8 ≠ 0 ∧ 0x20000 % 2 ^ 16 = 0)
    ∧ (fwRangeOk user 0 512 = true ∧ fwRangeOk user (2 ^ 40 - 512) 512 = true ∧ fwRangeOk user (2 ^ 40 - 511) 512 = false)
    ∧ (let s := { user with fns := [(1, { (user).fn 1 with ide := [(1, IdeStream.insecure)] })] }
       mfind (s.fn (3 / 2)).ide (3 % 2) = some IdeStream.insecure)
    ∧ (let s := { user with keys := [({ peer := 1, tenant := 1, tx := true }, KeySlots.none)] }
       (s.keySlots { peer := 17 % 16, tenant := 17 / 16, tx := true }).isSome = true)
    ∧ (({ user with cores := [(0, { Core.reset with halted := true })] }.core 0).halted = true ∧ ((user).core 0).halted = false)
    -- a request whose invalidation every package has acknowledged
    ∧ (let r := reqOf 3 []
       let a : Await := { tag := 5000, acks := 0, req := some r, cmd := none, moved := none }
       let s := { asking user r with awaits := [a] }
       r ∈ s.requests ∧ (∃ a, a ∈ s.awaits ∧ a.req = some r) ∧ ∀ a, a ∈ s.awaits → a.req = some r → a.acks = 0) := by
  refine ⟨fun e ctx as => ⟨outstanding _ _ rfl, rfl⟩, by decide, by decide, by decide +kernel, by decide +kernel, by decide +kernel, by decide +kernel, by decide,
    by decide, by decide, by decide, by decide, ⟨List.mem_cons_self, ⟨_, List.mem_cons_self, rfl⟩, fun a ha _ => by rw [List.mem_singleton.mp ha]⟩⟩

/-- A queue of 64 slots with 1 position of it read: its slot 0 at 0x1000 is a 64-byte buffer at 0x2000 that the device reads, or writes. -/
def ringQ : Queue := { Queue.reset with enabled := true, size := 64, ring := 0x1000, c := 1 }
def fnWith (q : Nat) (x : Queue) : Fn := { (user).fn 0 with status := 4, queues := [(q, x)] }
def hosted (q : Nat) (x : Queue) (flags : Nat) : State :=
  { user with
    fns := [(0, fnWith q x)], witnessRing := some (0x8000, 64)
    hostMem := memWrite (user).hostMem 0x1000 (leBytes 8 0x2000 ++ leBytes 4 64 ++ leBytes 2 7 ++ leBytes 2 flags) }
/-- The records of a batch of one JOB_OPEN. -/
def openRec : BitVec 512 := 0x10
def beginRec : BitVec 512 := BitVec.ofNat 512 (1 + 2 ^ 64)
def commitRec : BitVec 512 := BitVec.ofNat 512 (2 + 2 ^ 64 + 2 ^ 128 + 2 ^ 160 * (crc32c (recBytes openRec)).toNat)
def oneBatch : Batch := { seq := 1, recs := [openRec], bad := none, held := 2 }
def doneRec : CRec := { kind := 1, status := 0, flags := 0, seq := 1, index := 1, value := 1, time := 0 }
/-- A journal entry of one command of function 0. -/
def jcmd (bits : BitVec 512) (st : CmdState) : JCmd :=
  { bits := bits, state := st, status := .ok, value := 0, restarted := false, launches := [], params := [], job := 1 }
def entryOf (m : JCmd) : JEntry := { uid := 0, fn := 0, queue := 0, seq := 1, cmds := [m], copy0 := true, copy1 := true, usedWritten := true, time := 0 }
theorem test_meets_SluiceEvents :
    -- kicks to positions 1 and N beyond, and ones that are ignored
    (let s := hosted 0 { ringQ with c := 0 } 0x8000
     (s.queue 0 0).enabled = true ∧ bitsOf (0x00010000 : W64) 0 16 = 0 ∧ bitsOf (0x80000000 : W64) 31 1 = 1 ∧ bitsOf (0x00010001 : W64) 0 16 ≠ 0 ∧ (4 : Nat) ≠ 0)
    -- a descriptor that is read
    ∧ (let s := hosted 0 ringQ 0x8000
       let q := (s.queue 0 0).fed
       q.unread = [] ∧ q.ready = none ∧ q.k ≠ q.c ∧ (q.k + 1) % (2 * q.size) = q.c ∧ slotAvail s 0 q = true ∧ sluiceOpen s 0 q = true)
    -- BEGIN first with no batch open, and COMMIT of a batch that is valid and of one that is not
    ∧ (let s := hosted 0 { ringQ with k := 1, unread := [some beginRec] } 0
       let q := s.queue 0 0
       nextRecord q beginRec = true ∧ q.open_ = none ∧ q.unread.tail = [] ∧ q.k = q.c)
    ∧ (let s := hosted 0 { ringQ with k := 1, unread := [some commitRec], open_ := some oneBatch } 0
       let q := s.queue 0 0
       let b := { oneBatch with held := 3 }
       nextRecord q commitRec = true ∧ q.open_ = some oneBatch ∧ batchVerdict s (s.fn 0).tenant b commitRec = none
        ∧ batchVerdict s (s.fn 0).tenant b 2 = some (1, 2))
    ∧ (let s := hosted 0 { ringQ with ready := some oneBatch } 0
       (s.queue 0 0).ready = some oneBatch ∧ acceptOk s 0 (s.queue 0 0) oneBatch = true)
    -- a completion record into a buffer of 64 bytes, alone and with another to follow, and into one of 32
    ∧ (let s := hosted 1 { ringQ with recs := [doneRec, doneRec] } 0x8002
       let q := s.queue 0 1
       let at0 := q.slotAddr q.k
       recordReady s 0 1 = true ∧ q.partBuf = none ∧ q.recs = doneRec :: [doneRec] ∧ (memNat s.hostMem (at0 + 14) 2).testBit 1 = true
        ∧ (memNat s.hostMem (at0 + 14) 2).testBit 2 = false ∧ 64 ≤ memNat s.hostMem (at0 + 8) 4)
    ∧ (({ doneRec with kind := 2 } : CRec).kind ≠ 1 ∧ 32 < 64)
    -- features, the operator's requests, a reset with every command decided
    ∧ (featuresNeeded &&& featuresNeeded = featuresNeeded ∧ featuresNeeded &&& ~~~(featuresOffered 1) = 0 ∧ (0 : W64) &&& featuresNeeded ≠ featuresNeeded
        ∧ (featuresNeeded ||| 1) &&& ~~~(featuresOffered 1) ≠ 0)
    ∧ (512 ≤ 512 ∧ 63 ≤ 63 ∧ ringSize 4096 = true ∧ 4095 ≤ 4095 ∧ 5200 ≤ 5200 ∧ 4096 ≤ 4096 ∧ 65535 ≤ 65535)
    ∧ (let s := { user with journal := [entryOf (jcmd openRec .decided)] }
       (∀ q, q ∈ allCmds s → q.1.fn = 0 → q.2.2.isDecided = true) ∧ allCmds s ≠ [] ∧ (s.fn 0).resetting = false) := by
  refine ⟨by decide, by decide +kernel, by decide +kernel, by decide +kernel, by decide +kernel, by decide +kernel, by decide, by decide, by decide, ?_, by decide, by decide⟩
  decide

/-- A state whose journal holds one waiting command of a record, of function 0 of tenant 1, over the tables of tenant 1. -/
def commandState (bits : BitVec 512) (st : CmdState := .waiting) (e : W64 := 0x20000F) : State :=
  { windowed e with fns := [(0, { (user).fn 0 with status := 4, tenant := 1 })], journal := [entryOf (jcmd bits st)], launches := [] }
def ref1 : CmdRef := { entry := 0, index := 1 }
/-- Bytes of a record. -/
def field (lo v : Nat) : Nat := v * 2 ^ (8 * lo)
def rec512 (fs : List (Nat × Nat)) : BitVec 512 := BitVec.ofNat 512 ((fs.map fun f => field f.1 f.2).sum)
def arrives (b : Brought) : Bool := match b with | .ok _ => true | .fault _ => false
theorem runs_command (bits : BitVec 512) (e : W64) : CmdRuns (commandState bits .waiting e) ref1 (entryOf (jcmd bits .waiting)) (jcmd bits .waiting) := by
  refine ⟨rfl, rfl, ?_⟩
  simp only [inOrder, List.all_eq_true]
  intro q hq
  have h : q = (entryOf (jcmd bits .waiting), 1, jcmd bits .waiting) := by
    have : allCmds (commandState bits .waiting e) = [(entryOf (jcmd bits .waiting), 1, jcmd bits .waiting)] := rfl
    rw [this] at hq; exact List.mem_singleton.mp hq
  subst h; rfl
theorem brought_ok (b : Brought) (h : arrives b = true) : ∃ u, b = .ok u := by cases b <;> first | exact ⟨_, rfl⟩ | exact nomatch h
theorem brought_fault (b : Brought) (h : arrives b = false) : ∃ c, b = .fault c := by cases b <;> first | exact ⟨_, rfl⟩ | exact nomatch h
def isLeft {α β : Type} (x : Sum α β) : Bool := match x with | .inl _ => true | .inr _ => false
theorem left_of {α β : Type} (x : Sum α β) (h : isLeft x = true) : ∃ c, x = .inl c := by cases x <;> first | exact ⟨_, rfl⟩ | exact nomatch h
/-- The launch of the tests as it waits to start, and as it is placed. -/
def starting (k : Kernel) : Launch := { launch with state := .waiting, nextBlock := 0, image := { image with kernels := [k] } }
def launchState (l : Launch) : State := { commandState 0 .running with launches := [l] }
/-- An image of 136 bytes with 8 bytes of code and a zero-fill section at an offset, a record that loads it at 0x20000, and the state
whose memory holds it there. -/
def smallImage (z : Nat) : List Byte :=
  [0x5A, 0x4B, 0x49, 0x31, 1, 0] ++ List.replicate 10 0 ++ leBytes 8 2 ++ leBytes 8 64 ++ leBytes 8 136 ++ List.replicate 24 0
    ++ leBytes 8 1 ++ leBytes 8 128 ++ leBytes 8 8 ++ leBytes 8 2 ++ leBytes 8 3 ++ leBytes 8 z ++ leBytes 8 64 ++ leBytes 8 0 ++ List.replicate 8 0
def loadRec : BitVec 512 := rec512 [(16, 0x20000), (24, 136)]
def loadState (z : Nat) : State := { commandState loadRec with mem := memWrite (commandState loadRec).mem 0x200000 (smallImage z) }
/-- Whether the image is well formed where it was read, and its zero-fill range is brought or not. -/
def imageLoads (s : State) : Option Bool :=
  match bringRange s 1 (recNat loadRec 16 8) (recNat loadRec 24 8) false with
  | .ok u =>
    let z := zeroFill (virtBytes u 1 (recNat loadRec 16 8) (recNat loadRec 24 8)) (recNat loadRec 16 8)
    if (imageAt u 1 loadRec).malformed then none else some (arrives (bringRange u 1 z.1 z.2 false))
  | .fault _ => none
def placing : Launch := { launch with state := .placing, nextBlock := 1, fns := [] }
theorem test_meets_CommandsAndLaunches :
    -- a command that is decided, and one that runs
    (∀ r, (commandState r).cmd? ref1 = some (entryOf (jcmd r .waiting), jcmd r .waiting) ∧ (jcmd r .waiting).isDecided = false
      ∧ ((commandState r).fn 0).resetting = false ∧ CmdRuns (commandState r) ref1 (entryOf (jcmd r .waiting)) (jcmd r .waiting))
    ∧ (phaseDone (commandState 0) 1 1 0 = true ∧ phaseDone (launchState launch) 1 1 0 = false)
    -- reads and writes of tenant memory that are made and that fail
    ∧ ((∃ u, bringRange (commandState 0) 1 0x20000 64 false = .ok u) ∧ (∃ u, bringRange (commandState 0) 1 0x20000 64 true = .ok u)
        ∧ (∃ c, bringRange (commandState 0 .waiting 0) 1 0x20000 64 false = .fault c) ∧ ∃ c, bringPage (commandState 0 .waiting 0) 1 0x20000 false = .fault c)
    -- IMAGE_LOAD: a malformed image, a good one, and one whose zero-fill range fails
    ∧ ((imageAt (commandState 0) 1 loadRec).malformed = true ∧ imageLoads (loadState 0x88) = some true ∧ imageLoads (loadState 0x10000) = some false)
    -- CANCEL of a kernel, of a replay, of a job that runs and of one that has ended; a block that is cancelled and one that is not
    ∧ (let ls := [launch]
       ((ls.filter fun l => l.state != .done && l.outcome.isNone) ≠ [] ∧ ([{ launch with state := .done }].filter fun l => l.state != .done && l.outcome.isNone) = [])
        ∧ (ls.find? fun l => (l.tenant == 1 && l.job == 1) && l.number == 1) = some launch
        ∧ (launch.state == .done || launch.outcome.isSome || launch.blockCancel.contains 1 || blockEnded (launchState launch) launch 1) = false
        ∧ ({ launch with blockCancel := [1] } : Launch).blockCancel.contains 1 = true)
    -- HCOPY both ways
    ∧ (recNat (rec512 [(2, 1)]) 2 2 = 1 ∧ recNat (rec512 [(0, 0x60)]) 2 2 ≠ 1)
    -- PAGE_MIGRATE: a page that is not there, no page to go to, a page to go to
    ∧ (leafAt (commandState 0 .waiting 0) 1 0x20000 = none ∧ (∃ u, bringPage (commandState 0) 1 0x20000 false = .ok u)
        ∧ (match leafAt (commandState 0) 1 0x20000 with
           | some l => (pageTarget (commandState 0) 1 l (some 1) none).isSome && (pageTarget (commandState 0) 1 l (some 5) (some (1, 0))).isNone
           | none => false) = true)
    ∧ (jcmd (rec512 [(0, 0x50)]) .running).state = .running ∧ recOp (rec512 [(0, 0x50)]) = opPageMigrate
    ∧ (jcmd 0 .waiting).launches = []
    -- a graph of the tenant that a replay names
    ∧ (let r := rec512 [(0, 0x32), (8, 1), (12, 9)]
       let s := { commandState r with graphs := [{ tenant := 1, handle := 9, id := 5, nodes := [(rec512 [(0, 0x30)], 0)] }] }
       ((envOf s 1 fun u i => cmdBefore u i ref1).graphs.find? fun g => g.1 == recNat r 12 2) = some (recNat r 12 2, 5, [(rec512 [(0, 0x30)], 0)]))
    -- LAUNCH_START: in its turn, with a failed predecessor, with no such kernel, with blocks that are read and ones that are not
    ∧ ((launchState (starting kern)).launch? 7 = some (starting kern) ∧ launchTurn (launchState (starting kern)) (starting kern) = true
        ∧ depFails (launchState (starting kern)) (starting kern) = false
        ∧ (let l := { starting kern with preds := [8] }
           let s := { launchState l with launches := [l, { launch with uid := 8, state := .done, outcome := some .failed }] }
           launchTurn s l = true ∧ depFails s l = true)
        ∧ ({ starting kern with kernel := 1 } : Launch).kern = none ∧ (starting kern).kern = some kern ∧ (starting kern).paramPage = 0
        ∧ ({ starting kern with paramPage := 1 } : Launch).paramPage ≠ 0
        ∧ (∃ t ps cs, readBlocks (launchState (starting kern)) (starting kern) kern = .inr (t, ps, cs))
        ∧ (let k := { kern with params := 8 }
           ∃ c, readBlocks { launchState (starting k) with pager := [] } (starting k) k = .inl c))
    -- BLOCK_PLACE
    ∧ (placing.kern = some kern ∧ placing.outcome = none ∧ placing.nextBlock < placing.blocks ∧ placing.blockCancel.contains placing.nextBlock = false
        ∧ coreFor { launchState placing with cores := [(0, { coreWith gang block with gangs := [], blocks := [] })] } placing kern 128 placing.nextBlock = some 0
        ∧ residentOn { launchState placing with cores := [(0, { coreWith gang block with gangs := [], blocks := [] })] } 0 placing.ctx = true)
    -- DISPATCH_QUANTUM with a tenant that can run and with none
    ∧ (let s := { launchState (starting kern) with tenants := [(1, { (user).tenant 1 with tickets := 100 })] }
       ((s.tenants.map fun p => p.1).filter fun t => runnableTenant s t) ≠ [])
    ∧ (let t (b : Bool) : Tenant := { (user).tenant 1 with tickets := 100, runnable := b, pass := if b then 7 else 0 }
       let s := { launchState (starting kern) with
         launches := [starting kern, { starting kern with uid := 8, tenant := 2 }], tenants := [(1, t true), (2, t false)] }
       runnableTenant s 1 = true ∧ runnableTenant s 2 = true ∧ (s.tenant 1).runnable = true ∧ (s.tenant 2).runnable = false
        ∧ (s.tenant 2).pass < (s.tenant 1).pass)
    ∧ (let s := { user with launches := [], tenants := [] }
       ((s.tenants.map fun p => p.1).filter fun t => runnableTenant s t) = []) := by
  refine ⟨fun r => ⟨rfl, rfl, rfl, runs_command r _⟩, by decide,
    ⟨brought_ok _ (by decide +kernel), brought_ok _ (by decide +kernel), brought_fault _ (by decide +kernel), brought_fault _ (by decide +kernel)⟩, by decide +kernel, by decide,
    by decide +kernel, ⟨by decide +kernel, brought_ok _ (by decide +kernel), by decide +kernel⟩, rfl, by decide +kernel, rfl, by decide +kernel, ?_, by decide +kernel, by decide +kernel, by decide +kernel, by decide⟩
  refine ⟨by decide, by decide +kernel, by decide, by decide +kernel, by decide, by decide, by decide, by decide, ⟨_, _, _, rfl⟩, ?_⟩
  exact left_of _ (by decide +kernel)

/-- The translation of the tests under the key of its launch, and a kiln that holds it. -/
def keyed : Transl := { resident with key := launchKey launch }
def holding (glaze : Nat) : State := { user with kiln := [keyed], glazeth := glaze, newestCounts := [] }
theorem newest_is (glaze : Nat) : newestEntry (holding glaze) keyed.key keyed.tenant = some 0 := by
  have m : maySees keyed 1 = true := by decide
  have k : (holding glaze).kiln = [keyed] := rfl
  have t : keyed.tenant = 1 := rfl
  simp [newestEntry, k, m, t, List.range, List.range.loop]
theorem kernel_is (glaze : Nat) : kernelId (launchKey launch) 0 ∈ kernelIdsOf (holding glaze) keyed.key := by
  have k : (holding glaze).launches = [launch] := rfl
  have n : launch.kernel = 0 := rfl
  simp [kernelIdsOf, k, n, keyed]
def image0 (svn : Nat) : StageImage := { bytes := [1], svn := svn, sig := [], chain := [] }
theorem test_meets_KilnAndHealth :
    -- BISQUE_COMPLETE with no entry of the program, and with one
    ((∀ l, l ∈ (user).launches → l.state ≠ .kilnWait) ∧ newestEntry user resident.key resident.tenant = none
      ∧ (user).kiln.foldl (fun a y => if y.resident = 0 then a else a + y.words.length) 0 + resident.words.length ≤ 2 ^ 26)
    ∧ (newestEntry (holding 8) keyed.key keyed.tenant = some 0 ∧ (holding 8).kiln[0]? = some keyed)
    -- GLAZE_COMPLETE called for, and not
    ∧ ((kernelIdsOf (holding 0) keyed.key).any (isHot (holding 0)) = true ∧ (keyed.unhoisted.all fun pc => keyed.unhoisted.contains pc) = true
        ∧ (holding 0).kiln.foldl (fun a y => if y.resident = 0 then a else a + y.words.length) 0 + keyed.words.length ≤ 2 ^ 26)
    ∧ (({ keyed with unhoisted := [0x1000] } : Transl).unhoisted.all fun pc => keyed.unhoisted.contains pc) = false
    -- a gang that waits for the kiln
    ∧ (let g := waitGang (.nop (fD 0 0)) .kiln
       (user g).gang? 0 0 = some g ∧ (0 : Nat) ≠ 32 ∧ 31 < 32 ∧ (g.lane 31).status = .parked .kiln ∧ ∃ x, mfind g.base.fibres 31 = some x)
    -- refreshes: forced, deferred for the eighth time, and not deferred
    ∧ (let d (n : Nat) (f : List Nat) : State := { user with dies := [(0, { Die.reset with refresh := [(65537, n)], forced := f })] }
       ((d 8 [65537]).die (1 / 4)).forced.contains (1 * 65536 + 1) = true
        ∧ ((d 7 []).die (1 / 4)).forced.contains (1 * 65536 + 1) = false ∧ mget 0 ((d 7 []).die (1 / 4)).refresh 65537 < 8
        ∧ 8 ≤ mget 0 ((d 8 []).die (1 / 4)).refresh 65537 ∧ (65537 : Nat) / 65536 = 1 ∧ (65537 : Nat) % 65536 = 1)
    -- units that fail
    ∧ (15 < 16)
    -- boot: an image above the greatest security version number fails, and one passes when its chain and signature hold
    ∧ (∀ n, stageOk (powerUp user) 1 (image0 (2 ^ 16 + n)) = false)
    ∧ (∀ i, i < 4 → Config.chainOk Config.rootDigest [] = true → Config.mldsaVerify (Config.chainKey []) [] [1] = true →
        stageOk (powerUp user) i (image0 65535) = true)
    -- a throttle window above the budget, below 85% of it for the tenth time, and between
    ∧ (let b := 1000 * dieBudget user
       b < b + 1 ∧ 1050 < 1051 ∧ 100 * 0 ≤ 85 * b ∧ 950 ≤ 950 ∧ { Die.reset with coolWindows := 9 }.coolWindows = 9 ∧ Die.reset.coolWindows ≠ 9 ∧ 950 < 951) := by
  refine ⟨⟨?_, by decide, by decide⟩, ⟨newest_is 8, rfl⟩, ⟨?_, by decide, by decide⟩, by decide, ⟨rfl, by decide, by decide, by decide, _, rfl⟩, by decide, by decide,
    ?_, ?_, by decide⟩
  · intro l hl
    have k : (user).launches = [launch] := rfl
    rw [k] at hl; obtain rfl := List.mem_singleton.mp hl; decide
  · exact List.any_eq_true.mpr ⟨_, kernel_is 0, decide_eq_true (Nat.zero_le _)⟩
  · intro n
    have h : decide ((image0 (2 ^ 16 + n)).svn < 2 ^ 16) = false := decide_eq_false (by simp only [image0]; omega)
    simp only [stageOk, h, Bool.and_false]
  · intro i _ h1 h2
    have e : (powerUp user).minSvn = [] := rfl
    simpa [stageOk, image0, h1, e, mget] using h2
def ideOpen (r : Spdm) : State := { user with spdm := [(1, r)], fns := [(2, { (user).fn 2 with ide := [(1, { IdeStream.insecure with txSet := some 1 })] })] }
def keysAt (k : KeySlots) (now : Nat) : State := { user with ticks := now, keys := [({ peer := 1, tenant := 1, tx := true }, k)] }
theorem test_meets_SecurityEvents :
    (((ideOpen Spdm.reset).responder 1).established = false ∧ ((ideOpen { Spdm.reset with session := some 5, established := true }).responder 1).established = true
      ∧ ∀ q, q ∈ allCmds (ideOpen Spdm.reset) → q.1.fn = 2 → q.2.2.isDecided = true)
    ∧ (Config.spdmFinishOk 5 [] = true ∨ Config.spdmFinishOk 5 [] = false)
    -- key slots: at the end of the old slot's time and before it, at 2^38 and 2^40 flits and below
    ∧ (let r : StreamRef := { peer := 1, tenant := 1, tx := true }
       (∀ k n, (keysAt k n).keySlots r = some k) ∧ ({ KeySlots.none with oldUntil := some 9 } : KeySlots).oldUntil = some 9
        ∧ 9 ≤ (keysAt KeySlots.none 9).ticks ∧ (keysAt KeySlots.none 8).ticks < 9
        ∧ KeySlots.none.flits < 2 ^ 38 ∧ 2 ^ 38 ≤ ({ KeySlots.none with flits := 2 ^ 38 } : KeySlots).flits ∧ KeySlots.none.refreshing = false
        ∧ 2 ^ 40 ≤ ({ KeySlots.none with flits := 2 ^ 40 } : KeySlots).flits) := by
  refine ⟨by decide, ?_, ⟨fun _ _ => rfl, by decide⟩⟩
  cases Config.spdmFinishOk 5 [] <;> simp

/-- Two packages, this one 0 and its peer over port 0 the other. -/
def paired (l : Link) : State := { user with npkg := 2, live := 3, links := [(0, l)] }
def upLink : Link := { Link.reset with state := .up }
/-- A header group of zeros but for its CRC. -/
def zeroBody : List (BitVec 512) := List.replicate 15 0
def crcZero : BitVec 64 := crc64 (List.replicate 56 0 ++ zeroBody.flatMap fun f => leBytes 64 f.toNat)
def zeroGroup : GroupMsg := { port := 0, header := BitVec.ofNat 512 (crcZero.toNat * 2 ^ 448), body := zeroBody, packets := [] }
set_option exponentiation.threshold 512 in
theorem bits_low (c : BitVec 64) (lo n : Nat) (h : lo + n ≤ 448) : bitsOf (BitVec.ofNat 512 (c.toNat * 2 ^ 448)) lo n = 0 := by
  have e : c.toNat * 2 ^ 448 % 2 ^ 512 = c.toNat * 2 ^ 448 := Nat.mod_eq_of_lt (by
    have := c.isLt; calc c.toNat * 2 ^ 448 < 2 ^ 64 * 2 ^ 448 := Nat.mul_lt_mul_of_pos_right this (Nat.two_pow_pos _)
      _ = 2 ^ 512 := by rw [← Nat.pow_add])
  have d : c.toNat * 2 ^ 448 = 2 ^ lo * (2 ^ n * (c.toNat * 2 ^ (448 - lo - n))) := by
    have : 2 ^ 448 = 2 ^ lo * (2 ^ n * 2 ^ (448 - lo - n)) := by rw [← Nat.pow_add, ← Nat.pow_add]; congr 1; omega
    rw [this]; simp only [Nat.mul_left_comm]
  simp only [bitsOf, BitVec.toNat_ofNat]
  rw [e, d, Nat.mul_div_cancel_left _ (Nat.two_pow_pos _), Nat.mul_mod_right]
set_option exponentiation.threshold 512 in
theorem bits_top (c : BitVec 64) : bitsOf (BitVec.ofNat 512 (c.toNat * 2 ^ 448)) 448 64 = c.toNat := by
  have e : c.toNat * 2 ^ 448 % 2 ^ 512 = c.toNat * 2 ^ 448 := Nat.mod_eq_of_lt (by
    have := c.isLt; calc c.toNat * 2 ^ 448 < 2 ^ 64 * 2 ^ 448 := Nat.mul_lt_mul_of_pos_right this (Nat.two_pow_pos _)
      _ = 2 ^ 512 := by rw [← Nat.pow_add])
  simp only [bitsOf, BitVec.toNat_ofNat]
  rw [e, Nat.mul_div_cancel _ (Nat.two_pow_pos _), Nat.mod_eq_of_lt c.isLt]
theorem group_ok_of (g : GroupMsg) (h1 : (g.body.length == 15) = true)
    (h2 : ∀ n, n < 15 → (headByte g.header n / 32 == 0 && headByte g.header n % 4 != 3) = true) (h3 : (headByte g.header 16 / 16 == 0) = true)
    (h4 : (headByte g.header 18 / 16 % 8 == 0) = true) (h5 : (headByte g.header 21 / 16 == 0) = true) (h6 : bitsOf g.header 176 272 = 0)
    (h7 : BitVec.ofNat 64 (bitsOf g.header 448 64) = crc64 (groupBytes g)) : groupOk g = true := by
  have h8 : ((List.range 15).all fun i => headByte g.header i / 32 == 0 && headByte g.header i % 4 != 3) = true :=
    List.all_eq_true.mpr fun n hn => h2 n (List.mem_range.mp hn)
  unfold groupOk
  extract_lets h
  rw [h1, h8, h3, h4, h5, h6, h7]
  simp
theorem zero_group_ok : groupOk zeroGroup = true := by
  have hb (n : Nat) (h : n ≤ 55) : headByte zeroGroup.header n = 0 := bits_low crcZero (8 * n) 8 (by omega)
  have ht : bitsOf zeroGroup.header 448 64 = crcZero.toNat := bits_top crcZero
  have hm : bitsOf zeroGroup.header 176 272 = 0 := bits_low crcZero 176 272 (by omega)
  have hl : (leBytes 64 zeroGroup.header.toNat).take 56 = List.replicate 56 0 := by
    apply List.ext_getElem
    · simp [leBytes]
    · intro i h1 h2
      have hi : i < 56 := by simpa using h2
      have hz := hb i (by omega)
      simp only [headByte, bitsOf] at hz
      simp only [leBytes, List.getElem_take, List.getElem_map, List.getElem_range, List.getElem_replicate]
      apply BitVec.eq_of_toNat_eq
      simpa using hz
  have hk (n : Nat) (h : n < 15) : (headByte zeroGroup.header n / 32 == 0 && headByte zeroGroup.header n % 4 != 3) = true := by
    rw [hb n (by omega)]; rfl
  have hc : crc64 (groupBytes zeroGroup) = crcZero := by unfold groupBytes; rw [hl]; rfl
  exact group_ok_of zeroGroup (by decide) hk (by rw [hb 16 (by omega)]; rfl) (by rw [hb 18 (by omega)]; rfl) (by rw [hb 21 (by omega)]; rfl) hm
    (by rw [hc, ht, BitVec.ofNat_toNat, BitVec.setWidth_eq])
def packet (addr : Nat) : Packet := { Packet.blank with src := 1, addr := addr, size := 4, tag := 3, tenant := 1, name := 0x0020000000000003 }
def asked (gang_ : Nat) : Remote := { tag := 3, core := 0, gang := gang_, lane := 0, pkg := 1, isWrite := false, atomic := false, engine := false, data := none, own := [] }
def sent : Packet := { Packet.blank with dst := 1, seq := 4, tenant := 1 }
theorem test_meets_FabricPackets :
    -- a group over a link that is off, a bad one, a good one in order and one out of order
    ((paired Link.reset).link 0).isOn = false
    ∧ (((paired upLink).link 0).isOn = true ∧ (paired upLink).peerOf 0 < (paired upLink).npkg)
    ∧ groupOk { zeroGroup with body := [] } = false
    ∧ (groupOk zeroGroup = true ∧ groupSeq zeroGroup.header = upLink.expect ∧ groupSeq zeroGroup.header ≠ { upLink with expect := 1 }.expect)
    -- an idle group; timers at their limits and just before
    ∧ (upLink.resendFrom = none ∧ upLink.unacked.length < 2048 ∧ (∀ n, n < 2048 → (List.replicate n (0 : Nat)).length < 2048))
    ∧ (let l := { upLink with episode := some (0, 0) }
       l.episode = some (0, 0) ∧ 0 + 20 ≤ { paired l with ticks := 20 }.ticks ∧ { paired l with ticks := 19 }.ticks < 0 + 20)
    ∧ (upLink.lastHeader + 100 ≤ { paired upLink with ticks := 100 }.ticks ∧ { paired upLink with ticks := 99 }.ticks < upLink.lastHeader + 100)
    ∧ (let l := { Link.reset with state := .training }
       l.state = .training ∧ l.trainedAt + 100000 ≤ { paired l with ticks := 100000 }.ticks ∧ { paired l with ticks := 99999 }.ticks < l.trainedAt + 100000
        ∧ 0 ≤ 14 ∧ (paired l).peerOf 0 < (paired l).npkg ∧ Link.reset.state = .down)
    -- requests to this package and to another, answers that are awaited and ones that are not
    ∧ (pkgOf (packet 0x30000).addr = (paired upLink).self ∧ pkgOf (packet (2 ^ 48)).addr ≠ (paired upLink).self ∧ (packet 0).contribution = none)
    ∧ ((paired upLink).remote? 3 = none
        ∧ (let s := { paired upLink with remotes := [asked 0] }
           s.remote? 3 = some (asked 0) ∧ (asked 0).gang ≠ walkerGang ∧ s.gang? 0 0 = some gang
            ∧ (({ s with cores := [(0, { coreWith gang block with fabricQ := [cmdOf .bulk] })] } : State).core 0).fabricQ.find? (fun x => x.gang == 0)
                = some (cmdOf .bulk)
            ∧ s.laneGone (asked 0) = false ∧ gang.live ≠ 0))
    -- named data on its way
    ∧ (let s := { named gang with mem := memWrite (memWrite (named gang).mem 16 [0, 2]) 0x210 [1] }
       routeOf s 1 (nameSpace (packet 0).name) = some (s.self, 0) ∧ nameDesc s 1 (nameSpace (packet 0).name) ≠ none
        ∧ (packet 0).op / 16 = 0 ∧ { packet 0 with op := 16 }.op / 16 = 1 ∧ { packet 0 with op := 33 }.op / 16 = 2)
    -- a packet that is due to be sent again and one that is not
    ∧ (let t : Stream := { Stream.fresh 1 1 false with unacked := [(sent, 0, 0)] }
       let s (n : Nat) := { paired upLink with streams := [t], ticks := n }
       (∀ n, ((s n).stream 1 1 false).unacked.find? (fun x => x.1.seq == 4) = some (sent, 0, 0))
        ∧ resendDue (s 200) (sent, 0, 0) = true ∧ resendDue (s 199) (sent, 0, 0) = false ∧ (s 200).isHeld 1 1 = false
        ∧ (s 200).routeTo 1 false = some (0, 0, false)) := by
  have q : groupSeq zeroGroup.header = 0 := by
    have h : bitsOf zeroGroup.header 120 12 = 0 := bits_low crcZero 120 12 (by omega)
    simp [groupSeq, h]
  refine ⟨by decide, by decide, ?_, ⟨zero_group_ok, q, by rw [q]; decide⟩, ⟨by decide, by decide, fun n h => by simpa using h⟩, by decide, by decide, by decide, by decide,
    by decide, by decide, ⟨fun _ => rfl, by decide⟩⟩
  simp [groupOk]
def askGang (e : BitVec 18) (t : Nat) : Gang := { waitGang (.fence (fC 0 .s32 0 0 0 0 e)) .fence with waits := [{ waitFor (.fence (fC 0 .s32 0 0 0 0 e)) .fence with ticket := t }] }
theorem test_meets_FabricManagement :
    -- a fence at fabric scope that asks for its ticket, here and elsewhere, and one that has it
    (∃ w, waitOf (user (askGang 0x2D000 0)) item0 = some w ∧ item0.gang ≠ 32 ∧ w.cause = .fence ∧ w.ticket = 0 ∧ fabricSC w.instr = true ∧ (user).highsOwed = 0)
    ∧ (user).hostPkg = (user).self ∧ { user with self := 1, npkg := 2, live := 3 }.hostPkg ≠ { user with self := 1 }.self
    ∧ (∃ w, waitOf (user (askGang 0x2D000 1)) item0 = some w ∧ ¬ (w.ticket = 0))
    -- messages of each kind
    ∧ (∀ b : Mgmt, ({ packet 0 with body := b } : Packet).body = b)
    ∧ { user with keys := [({ peer := 1, tenant := 1, tx := true }, KeySlots.none)] }.keySlots { peer := (packet 0).src, tenant := 1, tx := true } = some KeySlots.none
    -- heartbeats and suspicion
    ∧ ((paired Link.reset).peers.contains 1 = true ∧ (paired Link.reset).upTo 1 = false ∧ (paired upLink).upTo 1 = true ∧ (paired upLink).peers.contains 2 = false)
    ∧ (let s (n : Nat) := { paired upLink with lastHeard := [(1, 0)], ticks := n }
       ((s 1000).peers.filter fun j => (mfind (s 1000).lastHeard j).isSome) = [1] ∧ (s 1000).silent 1 = true ∧ (s 999).silent 1 = false)
    ∧ (let s := { paired upLink with npkg := 3, live := 7, lastHeard := [(1, 0), (2, 500)], ticks := 1000 }
       s.silent 1 = true ∧ s.silent 2 = false ∧ s.peers.contains 1 = true ∧ (1 : Nat) < 16)
    ∧ (0 = (paired upLink).self ∧ 1 ≠ (paired upLink).self) :=
  ⟨⟨_, rfl, by decide⟩, by decide, by decide, ⟨_, rfl, by decide⟩, fun _ => rfl, by decide, by decide, by decide, by decide, by decide⟩

/-! The machine as a whole -/

def addI1 : Instr := .add (fA 0 .s32 4 1 2)
theorem test_meets_EncodingFaults :
    -- an opcode between two rows, a native-only one, the last; a form of three parcels and one of two
    (0x031 ≠ 0x1FE ∧ (∀ r, r ∈ [(0x001, 0x030), (0x040, 0x048)] → ¬ (r.1 ≤ 0x031 ∧ 0x031 ≤ r.2)) ∧ ¬ (0x1E0 ≤ 0x1DF) ∧ 0x1E0 ≤ 0x1EB ∧ ¬ (0x1FF ≤ 0x1EB))
    ∧ ((BitVec.ofNat 32 (0x1FE * 2 ^ 23)).toNat / 2 ^ 23 = 0x1FE ∧ (BitVec.ofNat 32 (0x001 * 2 ^ 23)).toNat / 2 ^ 23 ≠ 0x1FE)
    ∧ ([BitVec.ofNat 32 (0x001 * 2 ^ 23)].length < partLength 0x001 ∧ [BitVec.ofNat 32 (0x008 * 2 ^ 23), 0].length < partLength 0x008)
    ∧ (∃ b, decodeBytes [] = .bad 0x0A 0 0 b) := by
  refine ⟨by decide, by decide, by decide, ⟨_, rfl⟩⟩
theorem test_meets_DecodeEncode :
    (∀ a b, a < 512 → b < 512 → ∃ p, partsOf (.add (fA 0 .s32 511 a b)) = some p)
    ∧ WellFormed (.add (fA 0 .s32 511 511 511)) ∧ WellFormed (.ffma { fC 1 .fp32 1 2 3 4 0 with a := 65535 })
    ∧ decodeParcels [0x00803C00, 0x7000C00C] = .ok (.add (fA 0 .s32 7 3 12)) 2 0 0x00803C007000C00C :=
  ⟨fun _ _ _ _ => ⟨_, rfl⟩, by decide, by decide, by decide⟩
/-- The firmware fibre of core 0 about to run ADD, and the gang of the tests about to. -/
def turn0 (skip : Bool) : Turn := { core := 0, ck := 1, ticks := 0, skipDue := skip, flaws := [], busy := [] }
def firmTurn : State :=
  { on { Core.reset with credit := 64 } with powered := true, sched := [turn0 true], mem := memWrite (user).mem 0 (encodeBytes addI1) }
def codeLaunch : Launch := { launch with image := { image with code := encodeBytes addI1 ++ List.replicate 20 0 } }
def userTurn : State :=
  { on { coreWith gang block with credit := 0, tlb := [{ tenant := 1, ctx := none, va := 0, size := 65536, pte := 0x100010 }] } with
    powered := true, sched := [turn0 true], launches := [codeLaunch], mem := (mapped).mem }
theorem test_meets_StepRunsDecoded :
    -- an event at the head of the agenda
    (let s := { firmTurn with agenda := [.jobOpen ref1] }
     s.powered = true ∧ s.tripped = false ∧ s.agenda = .jobOpen ref1 :: [] ∧ IsStep (.jobOpen ref1) (.jobOpen ref1))
    -- a turn with nothing to run, one with something due, and ones with an instruction of the firmware and of a user
    ∧ (∃ t, nextIssue { firmTurn with cores := [] } = (t, none))
    ∧ (let s := { user { gang with region := { Region.empty with instrs := 1 } } with powered := true, sched := [turn0 false] }
       ∃ t e, nextIssue s = (t, some (.event e)))
    ∧ (∃ t u, nextIssue firmTurn = (t, some (.instr addI1)) ∧ exec addI1 t = .next u ∧ t.inFirmware = true)
    ∧ (∃ t u, nextIssue userTurn = (t, some (.instr addI1)) ∧ exec addI1 t = .next u ∧ t.inFirmware = false)
    ∧ (let s1 := flushAcks (meetFlaws (growPools (passTime { firmTurn with sched := [] } (turn0 true))))
       firmTurn.agenda = [] ∧ firmTurn.sched = [turn0 true] ∧ 4 ≤ s1.bootStage ∧ (s1.core 0).halted = false ∧ (s1.core 0).failed = false
        ∧ (s1.core 0).fw.status = .ready ∧ 64 ≤ (s1.core 0).credit
        ∧ ∃ bits, decodeBytes (memRead s1.mem ((s1.core 0).fw.pc.toNat % 2 ^ 52) 28) = .ok addI1 2 0 bits)
    ∧ (translOf userTurn gang = none ∧ gang.inNative = false ∧ gang.nextLane = some 0 ∧ standAlone addI1 = false ∧ gang.region.instrs = 0
        ∧ ((reachPc userTurn (gang.lane 0).launch (gang.lane 0).pc (gang.lane 0).fn).launch? 7).map (fun x => x.outcome) = (userTurn.launch? 7).map (fun x => x.outcome)
        ∧ fetchStop (reachPc userTurn (gang.lane 0).launch (gang.lane 0).pc (gang.lane 0).fn) 0 gang (gang.lane 0) (4 * 2) = none
        ∧ ∃ bits, decodeBytes (fetchBytes userTurn (gang.lane 0)) = .ok addI1 2 0 bits) := by
  refine ⟨⟨rfl, rfl, rfl, rfl⟩, ⟨_, rfl⟩, ⟨_, _, rfl⟩, ⟨_, _, rfl, rfl, by decide +kernel⟩, ⟨_, _, rfl, rfl, by decide +kernel⟩, ?_, ?_⟩
  · exact ⟨rfl, rfl, by decide, rfl, rfl, rfl, by decide, _, rfl⟩
  · exact ⟨rfl, rfl, by decide, by decide, rfl, by decide, by decide +kernel, _, rfl⟩
theorem test_meets_NothingIsRefused :
    (firmTurn.powered = true ∧ firmTurn.tripped = false) ∧ ({ firmTurn with agenda := [.boot []] } : State).agenda = .boot [] :: []
    ∧ { firmTurn with powered := false }.powered = false ∧ { firmTurn with tripped := true }.tripped = true := by decide
theorem test_meets_StepKeepsInv : Inv firmTurn ∧ ∃ t, step firmTurn = .next t := ⟨⟨by decide, by decide⟩, _, rfl⟩
/-- R440, R442: a decay at 2^20 ticks, a report at 2^30, and neither in between. -/
theorem test_periodic :
    periodic State.reset (2 ^ 20 - 1) (2 ^ 20) = [.sketchDecay] ∧ periodic State.reset (2 ^ 30 - 1) (2 ^ 30) = [.sketchDecay, .errorCountReport]
    ∧ periodic State.reset (2 ^ 20) (2 ^ 20 + 99) = [] := by decide
/-- R432: a copy on stack 0 goes to a die that neither failed nor holds the other copy, and one that still stands does not move. -/
theorem test_journal_moves : journalMove State.reset 0 0 4 = 8 ∧ journalMove State.reset 0 4 0 = 4 := by decide
/-- R417: a block in a save area has not completed, and cancelling it marks its gang there. -/
theorem test_cancel_saved_block :
    let b : Block := { block with launch := 7, linear := 1, uid := 5, exited := false }
    let v : Saved := { uid := 1, current := true, core := 0, ctx := 1, regs := UserSlot.empty, gangs := [(0, { gang with home := 5 })]
                       blocks := [b], scratch := [], fills := [], opmem := [], acc := [], hist := [], bins := [], namedQ := [], fabricQ := []
                       heads := [], answers := [] }
    let l : Launch := { launch with uid := 7, nextBlock := 2 }
    let s : State := { user with saved := [v], launches := [l] }
    blockEnded s l 1 = false ∧ blockEnded { s with saved := [] } l 1 = true
    ∧ (cancelBlock s l 1).allGangs.any (fun g => g.cancel && g.home == 5) = true := by decide

end Sys2Proof.Tests
end

/-! ### Privilege and what the firmware lacks (R57, R491, R492) -/

section
namespace Sys2Proof.Machine

/-- Every instruction of R492 but FATOM begins with the check of `userOp`. -/
theorem exec_userOp_of_firmwareLacks (s : State) (i : Instr) (hl : firmwareLacks i = true) (hf : ∀ f, i ≠ .fatom f) :
    ∃ k, exec i s = .next (userOp s k) := by
  cases i with
  | fatom f => exact absurd rfl (hf f)
  -- control, sets and barriers (class 101)
  | exit f | spawn f | fork f | bar f | barn f | jenter f | jquit f | jwait f | jread f | jinit f | jclr f => exact ⟨_, rfl⟩
  -- shapes and queues (class 100)
  | shw f | ldq f | stq f => exact ⟨_, rfl⟩
  -- the matrix engine, the copy engines, named data, bulk and the cluster (class 110)
  | oclaim f | orelease f | oload f | mma f | mmas f | mmag f | accrd f | accwr f | accz f | actlut f | seqrun f
  | copy f | copyg f | nreg f | nwant f | npub f | ndrop f | nwait f | bulk f | armt f | arwait f
  | yoke f | unyoke f | migrate f | cbar f => exact ⟨_, rfl⟩
  | _ => exact nomatch hl

/-- FATOM meets the same PROT by a check of its own. -/
theorem execFatom_firmware (s : State) (f : CForm) (h : s.inFirmware = true) :
    execFatom f s = .next (fwTrap s tcPROT [s.cur.bits, 0x8F]) := by
  have hg : s.curGang? = some s.curCore.fwGang := if_pos (eq_of_beq h)
  unfold execFatom
  rw [hg]
  dsimp only
  rw [if_pos h, takeTrap_firmware s _ _ _ (by decide) h]

/-- The firmware fibre takes PROT with 0x8F at each instruction that it lacks. -/
theorem exec_firmwareLacks (s : State) (i : Instr) (h : s.inFirmware = true) (hl : firmwareLacks i = true) :
    exec i s = .next (fwTrap s tcPROT [s.cur.bits, 0x8F]) := by
  by_cases hf : ∃ f, i = .fatom f
  · obtain ⟨f, rfl⟩ := hf
    exact execFatom_firmware s f h
  · obtain ⟨k, hk⟩ := exec_userOp_of_firmwareLacks s i hl (not_exists.mp hf)
    rw [hk, userOp_firmware s k h]

/-- Settles O23: the ten privileged instructions begin with the check of `privOp`, those of R492 with that of `userOp` (FATOM with
its own). -/
theorem privilegeChecks : Obligations.PrivilegeChecks := by
  unfold Obligations.PrivilegeChecks
  refine ⟨fun s g hg hu => ?_, exec_firmwareLacks⟩
  have prot (gd : Guard) (k : Gang → State) := congrArg (Host.Outcome.next (φ := Fault) (ρ := Refusal)) (privOp_user s gd k g hu hg)
  exact ⟨fun f => ⟨prot f.g _, prot f.g _, prot f.g _⟩,
    fun f => ⟨prot f.g _, prot f.g _, prot f.g _, prot f.g _, prot f.g _, prot f.g _⟩, fun f => prot f.g _⟩

end Sys2Proof.Machine
end

/-! ### What is no instruction (R30, R36, R49 to R63, R495) -/

section
namespace Sys2Proof

/-- The opcode is bits [31:23] of a head parcel (R29, R31). -/
theorem headOp_eq_div (p : BitVec 32) : headOp p = p.toNat / 2 ^ 23 := by
  have hp : p.toNat < 2 ^ 32 := p.isLt
  rw [headOp, BitVec.extractLsb'_toNat, Nat.shiftRight_eq_div_pow]
  omega

theorem headOp_lt (p : BitVec 32) : headOp p < 512 := (p.extractLsb' 23 9).isLt

/-- The opcode of a last part is that of its head parcel. -/
theorem opcode_append (h l : BitVec 32) : ((h ++ l : BitVec 64).extractLsb' 55 9).toNat = headOp h := by
  rw [BitVec.extractLsb'_append_eq_of_le (by decide)]
  rfl

/-- The opcode numbers that the map of R49 to R56 assigns, as ranges with both ends. -/
def assignedRanges : List (Nat × Nat) :=
  [(0x001, 0x030), (0x040, 0x048), (0x080, 0x095), (0x0C0, 0x0C9), (0x100, 0x111), (0x140, 0x155), (0x158, 0x15D), (0x180, 0x18A),
    (0x18C, 0x18D), (0x190, 0x194), (0x198, 0x19A), (0x19C, 0x19F), (0x1C0, 0x1C9)]

/-- The opcodes of the formats with a third parcel, C and L (R30). -/
def longOpcodes : List Nat :=
  [0x008, 0x021, 0x024, 0x029, 0x02A, 0x02C, 0x02D, 0x048, 0x083, 0x092, 0x094, 0x095, 0x0C0, 0x0C1, 0x0C2, 0x0C5, 0x0C6, 0x0C7, 0x101,
    0x103, 0x106, 0x108, 0x109, 0x10A, 0x10B, 0x10C, 0x10D, 0x10F, 0x140, 0x142, 0x146, 0x147, 0x150, 0x158, 0x181, 0x182, 0x183, 0x184,
    0x185, 0x186, 0x187, 0x18C, 0x18D, 0x191, 0x192, 0x198, 0x199, 0x1C3]

/-- The map has no entry outside its ranges: a check of the 512 opcodes. -/
theorem opcodeMap_eq_none : ∀ o, o < 512 → ¬ (∃ r, r ∈ assignedRanges ∧ r.1 ≤ o ∧ o ≤ r.2) → opcodeMap o = none := by
  have h : ∀ o, o < 512 → (∃ r, r ∈ assignedRanges ∧ r.1 ≤ o ∧ o ≤ r.2) ∨ (opcodeMap o).isNone = true := by decide +kernel
  exact fun o ho hn => Option.isNone_iff_eq_none.mp ((h o ho).resolve_left hn)

/-- Three parcels are exactly the opcodes of `longOpcodes`: a check of the 512 opcodes. -/
theorem partLength_eq_ite : ∀ o, o < 512 → partLength o = if o ∈ longOpcodes then 3 else 2 := by decide +kernel

/-- An opcode that the map does not assign has two parcels. -/
theorem partLength_of_none {o : Nat} (h : opcodeMap o = none) : partLength o = 2 := by
  unfold partLength
  rw [h]

/-- A last part whose opcode is not assigned: one more of the prefixes, a native-only opcode, or no opcode at all. -/
theorem decodePart_of_none (ps : List (BitVec 64)) (h l third : BitVec 32) (len headAt : Nat) (bits : BitVec 64)
    (hm : opcodeMap (headOp h) = none) :
    decodePart ps (h ++ l) third len headAt bits
      = if headOp h = 0x1FE then .bad 8 10 len bits else if nativeOnly (headOp h) then .bad 2 0 len bits else .bad 1 0 len bits := by
  simp only [decodePart, opcode_append, hm]

/-- The first two parcels, the second as zero where it is missing (R63). -/
theorem pairAt_zero (h : BitVec 32) (r : List (BitVec 32)) : pairAt (h :: r) 0 = h ++ r.headD 0 := by cases r <;> rfl

/-- An instruction without prefixes (R30): truncated, or its last part decoded. -/
theorem decodeParcels_noPrefix (h : BitVec 32) (r : List (BitVec 32)) (hh : headOp h ≠ 0x1FE) :
    decodeParcels (h :: r)
      = if (h :: r).length < partLength (headOp h) then .bad 0x0A 0 (h :: r).length (h ++ r.headD 0)
        else decodePart [] (h ++ r.headD 0) (r.getD 1 0) (partLength (headOp h)) 0 (h ++ r.headD 0) := by
  rw [← pairAt_zero]
  exact if_pos hh

/-- An instruction with one of the prefixes, of either kind (R495). -/
theorem decodeParcels_onePrefix (h l k : BitVec 32) (r : List (BitVec 32)) (hh : headOp h = 0x1FE) (hk : headOp k ≠ 0x1FE) :
    decodeParcels (h :: l :: k :: r)
      = if (k :: r).length < partLength (headOp k) then .bad 0x0A 0 (h :: l :: k :: r).length (h ++ l)
        else decodePart [h ++ l] (k ++ r.headD 0) (r.getD 1 0) (2 + partLength (headOp k)) 2 (h ++ l) := by
  have h3 : ¬ (h :: l :: k :: r).length < 3 := by simp
  have hlen : (h :: l :: k :: r).length < 2 + partLength (headOp k) ↔ (k :: r).length < partLength (headOp k) := by
    simp only [List.length_cons]; omega
  rw [← pairAt_zero k]
  exact (if_neg (not_not_intro hh)).trans ((if_neg h3).trans ((if_pos hk).trans (ite_congr (propext hlen) (fun _ => rfl) fun _ => rfl)))

/-- An instruction with two prefixes (R495). -/
theorem decodeParcels_twoPrefixes (h l k m n : BitVec 32) (r : List (BitVec 32)) (hh : headOp h = 0x1FE) (hk : headOp k = 0x1FE) :
    decodeParcels (h :: l :: k :: m :: n :: r)
      = if (n :: r).length < partLength (headOp n) then .bad 0x0A 0 (h :: l :: k :: m :: n :: r).length (h ++ l)
        else decodePart [h ++ l, k ++ m] (n ++ r.headD 0) (r.getD 1 0) (4 + partLength (headOp n)) 4 (h ++ l) := by
  have h3 : ¬ (h :: l :: k :: m :: n :: r).length < 3 := by simp
  have h5 : ¬ (h :: l :: k :: m :: n :: r).length < 5 := by simp
  have hlen : (h :: l :: k :: m :: n :: r).length < 4 + partLength (headOp n) ↔ (n :: r).length < partLength (headOp n) := by
    simp only [List.length_cons]; omega
  rw [← pairAt_zero n]
  exact (if_neg (not_not_intro hh)).trans ((if_neg h3).trans ((if_neg (not_not_intro hk)).trans ((if_neg h5).trans
    (ite_congr (propext hlen) (fun _ => rfl) fun _ => rfl))))

/-- Parcels that end in the first of the prefixes or right after it (R63). -/
theorem decodeParcels_endsAfterOnePrefix (h : BitVec 32) (r : List (BitVec 32)) (hh : headOp h = 0x1FE) (hr : r.length < 2) :
    decodeParcels (h :: r) = .bad 0x0A 0 (h :: r).length (h ++ r.headD 0) := by
  rw [← pairAt_zero]
  exact (if_neg (not_not_intro hh)).trans (if_pos (Nat.succ_lt_succ hr))

/-- Parcels that end in the second of two prefixes or right after it (R63). -/
theorem decodeParcels_endsAfterTwoPrefixes (h l k : BitVec 32) (r : List (BitVec 32)) (hh : headOp h = 0x1FE) (hk : headOp k = 0x1FE)
    (hr : r.length < 2) : decodeParcels (h :: l :: k :: r) = .bad 0x0A 0 (h :: l :: k :: r).length (h ++ l) := by
  have h3 : ¬ (h :: l :: k :: r).length < 3 := by simp
  have h5 : (h :: l :: k :: r).length < 5 := by simp only [List.length_cons]; omega
  exact (if_neg (not_not_intro hh)).trans ((if_neg h3).trans ((if_neg (not_not_intro hk)).trans (if_pos h5)))

/-- An opcode that the map does not assign (R49 to R56): reason 0x02 where it is native-only, else 0x01. -/
theorem decodeParcels_unassigned (h l : BitVec 32) (r : List (BitVec 32)) (hh : headOp h ≠ 0x1FE) (hm : opcodeMap (headOp h) = none) :
    decodeParcels (h :: l :: r) = .bad (if 0x1E0 ≤ headOp h ∧ headOp h ≤ 0x1EB then 2 else 1) 0 2 (h ++ l) := by
  have hlen : ¬ (h :: l :: r).length < 2 := by simp
  rw [decodeParcels_noPrefix h (l :: r) hh, partLength_of_none hm, if_neg hlen, List.headD_cons, decodePart_of_none _ _ _ _ _ _ _ hm,
    if_neg hh]
  by_cases hn : 0x1E0 ≤ headOp h ∧ headOp h ≤ 0x1EB <;> simp [nativeOnly, hn]

/-- Three prefixes in a row (R36). -/
theorem decodeParcels_threePrefixes (h l k m n o : BitVec 32) (r : List (BitVec 32)) (hh : headOp h = 0x1FE) (hk : headOp k = 0x1FE)
    (hn : headOp n = 0x1FE) : decodeParcels (h :: l :: k :: m :: n :: o :: r) = .bad 8 10 6 (h ++ l) := by
  have hm : opcodeMap (headOp n) = none := by rw [hn]; rfl
  have hlen : ¬ (n :: o :: r).length < 2 := by simp
  rw [decodeParcels_twoPrefixes h l k m n (o :: r) hh hk, partLength_of_none hm, if_neg hlen, List.headD_cons,
    decodePart_of_none _ _ _ _ _ _ _ hm, if_pos hn]

namespace Machine

/-- What the issue of parcels with an encoding fault does: ILL for the lowest lane of the PC group (R60, R61). -/
theorem issueBytes_of_bad (s : State) (c slot : Nat) (lanes : Mask) (pc : W64) (bs : List Byte) (reason field parcels : Nat) (bits : W64)
    (hb : decodeBytes bs = .bad reason field parcels bits) :
    issueBytes s c slot lanes pc bs
      = (takeTrap { s with cur := issueAt c slot lanes pc parcels 0 bits false } tcILL (lowLane lanes)
          [bits, BitVec.ofNat 64 (reason + field * 256), lanes.setWidth 64], none) := by
  unfold issueBytes
  rw [hb]

/-- Settles O55: the decoder's cases by the number of prefixes, and the issue of what it rejects. -/
theorem encodingFaults : Obligations.EncodingFaults := by
  unfold Obligations.EncodingFaults
  simp only [← headOp_eq_div]
  refine ⟨?unassigned, ?threePrefixes, ?lengths, rfl, ?short, ?onePrefix, ?shortBehindOne, ?twoPrefixes, ?issue⟩
  case unassigned => exact fun h l r hh ha => decodeParcels_unassigned h l r hh (opcodeMap_eq_none _ (headOp_lt h) ha)
  case threePrefixes => exact decodeParcels_threePrefixes
  case lengths =>
    intro o ho
    rw [partLength_eq_ite o ho]
    by_cases hl : o ∈ longOpcodes
    · rw [if_pos hl]
      exact ⟨iff_of_true rfl hl, iff_of_false (by decide) (not_not_intro hl)⟩
    · rw [if_neg hl]
      exact ⟨iff_of_false (by decide) hl, iff_of_true rfl hl⟩
  case short => exact fun h r hh hr => (decodeParcels_noPrefix h r hh).trans (if_pos hr)
  case onePrefix =>
    exact fun h hh => ⟨decodeParcels_endsAfterOnePrefix h [] hh (by decide), fun l => decodeParcels_endsAfterOnePrefix h [l] hh Nat.one_lt_two⟩
  case shortBehindOne => exact fun h l k r hh hk hr => (decodeParcels_onePrefix h l k r hh hk).trans (if_pos hr)
  case twoPrefixes =>
    exact fun h l k m hh hk => ⟨decodeParcels_endsAfterTwoPrefixes h l k [] hh hk Nat.two_pos,
      decodeParcels_endsAfterTwoPrefixes h l k [m] hh hk Nat.one_lt_two,
      fun n r hr => (decodeParcels_twoPrefixes h l k m n r hh hk).trans (if_pos hr)⟩
  case issue =>
    intro s c slot lanes pc bs reason field parcels bits hb
    have hw : (BitVec.ofNat 32 lanes).setWidth 64 = BitVec.ofNat 64 (lanes % 2 ^ 32) := BitVec.eq_of_toNat_eq (by simp)
    exact ⟨_, rfl, rfl, rfl, rfl, rfl, by rw [issueBytes_of_bad s c slot _ pc bs reason field parcels bits hb, hw]⟩

end Machine
end Sys2Proof
end

/-! ### NaN results, FMIN and FMAX (R94, R98, R128) -/

section
namespace Sys2Proof.Machine

/-! #### The formats with infinities and a NaN payload, by their codes (R93, R94) -/

/-- The magnitude code of a register value: all bits of its format but the sign. -/
def magOf (t : Ty) (v : W64) : Nat := v.toNat % 2 ^ (elemWidth t - 1)

/-- The sign of a register value. -/
def negOf (t : Ty) (v : W64) : Bool := v.toNat.testBit (elemWidth t - 1)

/-- The magnitude code of the infinities: all exponent bits, no fraction bit. -/
def infCode (t : Ty) : Nat := 2 ^ (elemWidth t - 1) - 2 ^ (fmtOf t).m

/-- The codes above infinity are the NaNs. -/
abbrev NanCode (t : Ty) (v : W64) : Prop := infCode t < magOf t v

/-- A NaN whose highest fraction bit is 0 is signalling. -/
abbrev SigCode (t : Ty) (v : W64) : Prop := NanCode t v ∧ (magOf t v).testBit ((fmtOf t).m - 1) = false

/-- What FP64, FP32, FP16 and BF16 have in common. -/
structure IeeeFormat (t : Ty) : Prop where
  width : (fmtOf t).w = elemWidth t
  inf : (fmtOf t).inf = some (infCode t)
  unflushed : (fmtOf t).flush = false
  unsaturated : (fmtOf t).sat = false
  fraction : 0 < (fmtOf t).m
  infPos : 0 < infCode t
  minExp : (fmtOf t).emin - (fmtOf t).m ≤ 0

/-- The types that the obligations on floating values speak of, out of the list that pairs them with their formats. -/
theorem ieeeType_cases {t : Ty} (h : (t, fmtOf t) ∈ [(Ty.fp64, fp64), (.fp32, fp32), (.fp16, fp16), (.bf16, bf16)]) :
    t = .fp64 ∨ t = .fp32 ∨ t = .fp16 ∨ t = .bf16 := by
  simp only [List.mem_cons, Prod.mk.injEq, List.not_mem_nil, or_false] at h
  exact h.imp And.left (Or.imp And.left (Or.imp And.left And.left))

theorem ieeeFormat_of_cases {t : Ty} (h : t = .fp64 ∨ t = .fp32 ∨ t = .fp16 ∨ t = .bf16) : IeeeFormat t := by
  obtain rfl | rfl | rfl | rfl := h <;> constructor <;> decide

/-- The finite value of a magnitude code (R93): subnormal or normal. -/
def FFmt.finOf (f : FFmt) (neg : Bool) (c : Nat) : FVal :=
  if c / 2 ^ f.m = 0 then .fin neg (c % 2 ^ f.m) (f.emin - f.m)
  else .fin neg (2 ^ f.m + c % 2 ^ f.m) ((c / 2 ^ f.m : Nat) - f.bias - f.m)

theorem FFmt.finOf_eq_fin (f : FFmt) (neg : Bool) (c : Nat) : ∃ n e, f.finOf neg c = .fin neg n e := by
  unfold FFmt.finOf
  split
  · exact ⟨_, _, rfl⟩
  · exact ⟨_, _, rfl⟩

theorem testBit_top_eq_false_iff (c m : Nat) (hm : 0 < m) : c.testBit (m - 1) = false ↔ c % 2 ^ m < 2 ^ (m - 1) := by
  have hpow : 2 ^ m = 2 ^ (m - 1) * 2 := (Nat.two_pow_pred_mul_two hm).symm
  have hsplit : c % 2 ^ m = c % 2 ^ (m - 1) + 2 ^ (m - 1) * (c / 2 ^ (m - 1) % 2) := by rw [hpow, Nat.mod_mul]
  have hlow : c % 2 ^ (m - 1) < 2 ^ (m - 1) := Nat.mod_lt _ (Nat.two_pow_pos _)
  rw [Nat.testBit_eq_decide_div_mod_eq, decide_eq_false_iff_not, hsplit]
  obtain h | h := Nat.mod_two_eq_zero_or_one (c / 2 ^ (m - 1)) <;> rw [h] <;> omega

section
variable {t : Ty} (ht : IeeeFormat t)
include ht

/-- The value of a register operand by its magnitude code. -/
theorem floatOf_eq (v : W64) :
    floatOf t v
      = if NanCode t v then .nan (decide (SigCode t v))
        else if magOf t v = infCode t then .inf (negOf t v) else (fmtOf t).finOf (negOf t v) (magOf t v) := by
  have hw : v.toNat % 2 ^ elemWidth t % 2 ^ (elemWidth t - 1) = magOf t v := Nat.mod_mod_of_dvd _ (Nat.pow_dvd_pow 2 (Nat.sub_le _ _))
  have hs : (v.toNat % 2 ^ elemWidth t).testBit (elemWidth t - 1) = negOf t v := by
    rw [Nat.testBit_mod_two_pow, decide_eq_true (Nat.sub_lt (elemWidth_pos t) Nat.one_pos), Bool.true_and, negOf]
  unfold floatOf decodeFloat FFmt.signBit
  simp only [ht.width, hw, hs, ht.inf, ht.unflushed, decide_eq_true_eq]
  by_cases hn : NanCode t v
  · rw [if_pos hn, if_pos hn]
    simp [SigCode, hn, testBit_top_eq_false_iff _ _ ht.fraction]
  · rw [if_neg hn, if_neg hn]
    by_cases hi : magOf t v = infCode t
    · simp [hi]
    · simp [hi, Ne.symm hi, FFmt.finOf, apply_ite Prod.fst]

theorem floatOf_nan {v : W64} (h : NanCode t v) : floatOf t v = .nan (decide (SigCode t v)) := by
  rw [floatOf_eq ht, if_pos h]

theorem floatOf_inf {v : W64} (h : magOf t v = infCode t) : floatOf t v = .inf (negOf t v) := by
  rw [floatOf_eq ht, if_neg (by omega), if_pos h]

theorem floatOf_fin {v : W64} (h : magOf t v < infCode t) : floatOf t v = (fmtOf t).finOf (negOf t v) (magOf t v) := by
  rw [floatOf_eq ht, if_neg (by omega), if_neg (by omega)]

theorem floatOf_zero {v : W64} (h : magOf t v = 0) : floatOf t v = .fin (negOf t v) 0 ((fmtOf t).emin - (fmtOf t).m) := by
  rw [floatOf_fin ht (h ▸ ht.infPos), h, FFmt.finOf, Nat.zero_div, if_pos rfl, Nat.zero_mod]

/-- A value that is no NaN has the sign of its bits. -/
theorem floatOf_notNan {v : W64} (h : ¬ NanCode t v) :
    floatOf t v = .inf (negOf t v) ∨ ∃ n e, floatOf t v = .fin (negOf t v) n e := by
  by_cases hi : magOf t v = infCode t
  · exact .inl (floatOf_inf ht hi)
  · rw [floatOf_fin ht (Nat.lt_of_le_of_ne (Nat.le_of_not_lt h) hi)]
    exact .inr ((fmtOf t).finOf_eq_fin _ _)

theorem isNan_floatOf (v : W64) : (floatOf t v).isNan = decide (NanCode t v) := by
  by_cases hn : NanCode t v
  · rw [floatOf_nan ht hn, decide_eq_true hn]
    rfl
  · rw [decide_eq_false hn]
    obtain h | ⟨n, e, h⟩ := floatOf_notNan ht hn <;> rw [h] <;> rfl

theorem sigFlag_floatOf (v : W64) : (floatOf t v).sigFlag = flagIf (decide (SigCode t v)) flNV := by
  by_cases hn : NanCode t v
  · rw [floatOf_nan ht hn, FVal.sigFlag]
  · rw [decide_eq_false fun h : SigCode t v => hn h.1]
    obtain h | ⟨n, e, h⟩ := floatOf_notNan ht hn <;> rw [h] <;> rfl

theorem negative_floatOf {v : W64} (h : ¬ NanCode t v) : (floatOf t v).negative = negOf t v := by
  obtain h | ⟨n, e, h⟩ := floatOf_notNan ht h <;> rw [h] <;> rfl

end

/-! #### Operations whose result is a NaN (R98, R127 to R130, R132) -/

/-- The canonical NaN of a type's format, with NV exactly if `sig` is true. -/
def nanOut (t : Ty) (sig : Bool) : W64 × W32 := (BitVec.ofNat 64 (fmtOf t).nanBits, flagIf sig flNV)

theorem nanOut_signalling (t : Ty) {p : Prop} [Decidable p] (h : p) : (nanOut t (decide p)).2 = flNV := by
  rw [decide_eq_true h]
  rfl

theorem nanOut_quiet (t : Ty) {p : Prop} [Decidable p] (h : ¬ p) : (nanOut t (decide p)).2 = 0 := by
  rw [decide_eq_false h]
  rfl

theorem sumVals_nan (md : RMode) (a b : FVal) (h : a.isNan = true ∨ b.isNan = true) :
    sumVals md [a, b] = (.nan false, a.sigFlag ||| b.sigFlag) := by
  have hany : [a, b].any FVal.isNan = true := by simpa using h
  rw [sumVals, if_pos hany]
  simp

/-- Product and quotient of two operands of which one is a NaN. -/
theorem mulVals_divVals_nan (f : FFmt) (md : RMode) (a b : FVal) (h : a.isNan = true ∨ b.isNan = true) :
    mulVals a b = (.nan false, a.sigFlag ||| b.sigFlag) ∧ divVals f md a b = (f.nanBits, a.sigFlag ||| b.sigFlag) := by
  cases a with
  | nan s => exact ⟨rfl, rfl⟩
  | inf n | fin n k e =>
    cases b with
    | nan s => exact ⟨congrArg (Prod.mk _) (BitVec.or_comm _ _), congrArg (Prod.mk _) (BitVec.or_comm _ _)⟩
    | inf _ | fin _ _ _ => simp [FVal.isNan] at h

/-- Infinities of opposite signs have no sum (R98, R127). -/
theorem sumVals_opposedInf (md : RMode) (n : Bool) : sumVals md [.inf n, .inf !n] = invalid := by cases n <;> rfl

theorem isNan_flip (v : FVal) : v.flip.isNan = v.isNan := by cases v <;> rfl
theorem sigFlag_flip (v : FVal) : v.flip.sigFlag = v.sigFlag := by cases v <;> rfl

theorem flagIf_or_flagIf (p q : Bool) (fl : W32) : flagIf p fl ||| flagIf q fl = flagIf (p || q) fl := by
  cases p <;> cases q <;> simp [flagIf]

/-- A NaN that an operation gives leaves it as the canonical NaN of the format. -/
theorem finish_nan (f : FFmt) (md : RMode) (s : Bool) (fl : W32) (hs : f.sat = false) :
    finish f md (.nan s, fl) = (f.nanBits, flagIf s flNV ||| fl) := by
  simp [finish, convFloat, hs]

section
variable {t : Ty} (ht : IeeeFormat t)
include ht

/-- The flags of two operands: NV exactly if one is a signalling NaN. -/
theorem sigFlags_floatOf (a b : W64) :
    (floatOf t a).sigFlag ||| (floatOf t b).sigFlag = flagIf (decide (SigCode t a ∨ SigCode t b)) flNV := by
  rw [sigFlag_floatOf ht, sigFlag_floatOf ht, flagIf_or_flagIf, Bool.decide_or]

theorem finish_nanOut (md : RMode) (a b : W64) :
    asReg (finish (fmtOf t) md (.nan false, (floatOf t a).sigFlag ||| (floatOf t b).sigFlag)) = nanOut t (decide (SigCode t a ∨ SigCode t b)) := by
  rw [finish_nan _ _ _ _ ht.unsaturated, sigFlags_floatOf ht]
  exact congrArg (Prod.mk _) (BitVec.zero_or ..)

theorem isNan_either {a b : W64} (h : NanCode t a ∨ NanCode t b) : (floatOf t a).isNan = true ∨ (floatOf t b).isNan = true := by
  simpa only [isNan_floatOf ht, decide_eq_true_eq] using h

theorem faddT_nan (m : BitVec 4) {a b : W64} (h : NanCode t a ∨ NanCode t b) : faddT t m a b = nanOut t (decide (SigCode t a ∨ SigCode t b)) := by
  rw [faddT, sumVals_nan _ _ _ (isNan_either ht h)]
  exact finish_nanOut ht _ a b

theorem fsubT_nan (m : BitVec 4) {a b : W64} (h : NanCode t a ∨ NanCode t b) : fsubT t m a b = nanOut t (decide (SigCode t a ∨ SigCode t b)) := by
  rw [fsubT, sumVals_nan _ _ _ (by rw [isNan_flip]; exact isNan_either ht h), sigFlag_flip]
  exact finish_nanOut ht _ a b

theorem fmulT_nan (m : BitVec 4) {a b : W64} (h : NanCode t a ∨ NanCode t b) : fmulT t m a b = nanOut t (decide (SigCode t a ∨ SigCode t b)) := by
  rw [fmulT, (mulVals_divVals_nan (fmtOf t) (arithMode t m) _ _ (isNan_either ht h)).1]
  exact finish_nanOut ht _ a b

theorem fdivT_nan (m : BitVec 4) {a b : W64} (h : NanCode t a ∨ NanCode t b) : fdivT t m a b = nanOut t (decide (SigCode t a ∨ SigCode t b)) := by
  rw [fdivT, (mulVals_divVals_nan _ _ _ _ (isNan_either ht h)).2, sigFlags_floatOf ht]
  rfl

section
variable {a : W64} (h : NanCode t a)
include h

theorem fsqrtT_nan (m : BitVec 4) : fsqrtT t m a = nanOut t (decide (SigCode t a)) := by
  rw [fsqrtT, floatOf_nan ht h]
  rfl

theorem frcpT_nan (m : BitVec 4) : frcpT t m a = nanOut t (decide (SigCode t a)) := by
  rw [frcpT, floatOf_nan ht h]
  exact congrArg (Prod.mk _) (BitVec.or_zero ..)

theorem frsqT_nan (m : BitVec 4) : frsqT t m a = nanOut t (decide (SigCode t a)) := by
  rw [frsqT, floatOf_nan ht h]
  rfl

theorem fscaleT_nan (m : BitVec 4) (k : Int) : fscaleT t m a k = nanOut t (decide (SigCode t a)) := by
  rw [fscaleT, floatOf_nan ht h, finish_nan _ _ _ _ ht.unsaturated]
  exact congrArg (Prod.mk _) (BitVec.or_zero ..)

theorem frndT_nan (m : BitVec 4) : frndT t m a = nanOut t (decide (SigCode t a)) := by
  rw [frndT, floatOf_nan ht h]
  rfl

end

/-- The result of an invalid operation on values. -/
theorem finish_invalid (md : RMode) : asReg (finish (fmtOf t) md invalid) = nanOut t true := by
  rw [invalid, finish_nan _ _ _ _ ht.unsaturated]
  rfl

theorem fdivT_infInf (m : BitVec 4) {a b : W64} (ha : magOf t a = infCode t) (hb : magOf t b = infCode t) :
    fdivT t m a b = nanOut t true := by
  rw [fdivT, floatOf_inf ht ha, floatOf_inf ht hb]
  rfl

theorem fdivT_zeroZero (m : BitVec 4) {a b : W64} (ha : magOf t a = 0) (hb : magOf t b = 0) : fdivT t m a b = nanOut t true := by
  rw [fdivT, floatOf_zero ht ha, floatOf_zero ht hb]
  rfl

theorem faddT_opposedInf (m : BitVec 4) {a b : W64} (ha : magOf t a = infCode t) (hb : magOf t b = infCode t) (hs : negOf t a ≠ negOf t b) :
    faddT t m a b = nanOut t true := by
  rw [faddT, floatOf_inf ht ha, floatOf_inf ht hb, Bool.eq_not.mpr hs.symm, sumVals_opposedInf, finish_invalid ht]

theorem fsubT_alikeInf (m : BitVec 4) {a b : W64} (ha : magOf t a = infCode t) (hb : magOf t b = infCode t) (hs : negOf t a = negOf t b) :
    fsubT t m a b = nanOut t true := by
  rw [fsubT, floatOf_inf ht ha, floatOf_inf ht hb, ← hs, FVal.flip, sumVals_opposedInf, finish_invalid ht]

theorem fmulT_zeroInf (m : BitVec 4) {a b : W64} (ha : magOf t a = 0) (hb : magOf t b = infCode t) :
    fmulT t m a b = nanOut t true ∧ fmulT t m b a = nanOut t true := by
  rw [fmulT, fmulT, floatOf_zero ht ha, floatOf_inf ht hb]
  exact ⟨finish_invalid ht _, finish_invalid ht _⟩

end

/-! #### The order of values read from the bits (R93, R128) -/

/-- A finite magnitude in units of the smallest subnormal. -/
def FFmt.units (f : FFmt) (c : Nat) : Nat :=
  if c / 2 ^ f.m = 0 then c % 2 ^ f.m else (2 ^ f.m + c % 2 ^ f.m) * 2 ^ (c / 2 ^ f.m - 1)

theorem FFmt.units_zero (f : FFmt) : f.units 0 = 0 := by simp [FFmt.units]

/-- To the next code either the fraction grows, or it wraps and the exponent grows. -/
theorem FFmt.units_lt_succ (f : FFmt) (c : Nat) : f.units c < f.units (c + 1) := by
  have hpos : 0 < 2 ^ f.m := Nat.two_pow_pos f.m
  have hr : c % 2 ^ f.m < 2 ^ f.m := Nat.mod_lt c hpos
  unfold FFmt.units
  by_cases hd : 2 ^ f.m ∣ c + 1
  · have hq : (c + 1) / 2 ^ f.m = c / 2 ^ f.m + 1 := Nat.succ_div_of_dvd hd
    rw [hq, if_neg (Nat.succ_ne_zero _), Nat.mod_eq_zero_of_dvd hd, Nat.add_zero, Nat.add_sub_cancel]
    by_cases h0 : c / 2 ^ f.m = 0
    · rw [if_pos h0, h0, Nat.pow_zero, Nat.mul_one]
      exact hr
    · rw [if_neg h0]
      calc (2 ^ f.m + c % 2 ^ f.m) * 2 ^ (c / 2 ^ f.m - 1)
          < (2 ^ f.m * 2) * 2 ^ (c / 2 ^ f.m - 1) := Nat.mul_lt_mul_of_pos_right (by omega) (Nat.two_pow_pos _)
        _ = 2 ^ f.m * 2 ^ (c / 2 ^ f.m) := by rw [Nat.mul_assoc, Nat.mul_comm 2, Nat.two_pow_pred_mul_two (Nat.pos_of_ne_zero h0)]
  · have hq : (c + 1) / 2 ^ f.m = c / 2 ^ f.m := Nat.succ_div_of_not_dvd hd
    have hm : (c + 1) % 2 ^ f.m = c % 2 ^ f.m + 1 := by
      have h1 := Nat.div_add_mod (c + 1) (2 ^ f.m)
      have h2 := Nat.div_add_mod c (2 ^ f.m)
      rw [hq] at h1
      omega
    rw [hq, hm]
    split
    · exact Nat.lt_succ_self _
    · exact Nat.mul_lt_mul_of_pos_right (Nat.lt_succ_self _) (Nat.two_pow_pos _)

theorem FFmt.units_lt_of_lt (f : FFmt) {c d : Nat} (h : c < d) : f.units c < f.units d := by
  induction h with
  | refl => exact f.units_lt_succ c
  | step _ ih => exact Nat.lt_trans ih (f.units_lt_succ _)

/-- Magnitudes are ordered as their codes. -/
theorem FFmt.units_lt_iff (f : FFmt) (c d : Nat) : f.units c < f.units d ↔ c < d := by
  refine ⟨fun h => ?_, f.units_lt_of_lt⟩
  obtain hlt | rfl | hgt := Nat.lt_trichotomy c d
  · exact hlt
  · exact absurd h (Nat.lt_irrefl _)
  · exact absurd h (Nat.lt_asymm (f.units_lt_of_lt hgt))

/-- A finite value as significand and exponent, at or above the exponent of the smallest subnormal. -/
theorem FFmt.finOf_units (f : FFmt) (neg : Bool) (c : Nat) :
    ∃ n e, f.finOf neg c = .fin neg n e ∧ f.emin - f.m ≤ e ∧ n * 2 ^ (e - (f.emin - f.m)).toNat = f.units c := by
  unfold FFmt.finOf FFmt.units
  split <;> rename_i h
  · exact ⟨_, _, rfl, Int.le_refl _, by simp⟩
  · obtain ⟨q, hq⟩ := Nat.exists_eq_succ_of_ne_zero h
    have he : ((q.succ : Nat) : Int) - f.bias - f.m - (f.emin - f.m) = q := by
      unfold FFmt.emin
      omega
    rw [hq]
    exact ⟨_, _, rfl, by omega, by rw [he, Int.toNat_natCast, Nat.succ_sub_one]⟩

/-- A magnitude with a sign. -/
def withSign (neg : Bool) (n : Nat) : Int := if neg then -(n : Int) else n

/-- The order of signed magnitudes, carried along a map that keeps 0 and the order of magnitudes. -/
theorem withSign_lt_iff {u : Nat → Nat} (hu : ∀ c d, u c < u d ↔ c < d) (h0 : u 0 = 0) (p q : Bool) (c d : Nat) :
    withSign p (u c) < withSign q (u d) ↔ withSign p c < withSign q d := by
  have hlt := hu c d
  have hgt := hu d c
  have hc := hu 0 c
  have hd := hu 0 d
  rw [h0] at hc hd
  cases p <;> cases q <;> simp only [withSign, if_true, Bool.false_eq_true, if_false] <;> omega

theorem withSign_bounds (p : Bool) (c : Nat) : -(c : Int) ≤ withSign p c ∧ withSign p c ≤ c := by
  unfold withSign
  split <;> omega

/-- A magnitude below another one has the lesser signed value exactly if the other one is positive. -/
theorem withSign_lt_of_lt (p q : Bool) {c d : Nat} (h : c < d) : decide (withSign p c < withSign q d) = !q := by
  have hb := withSign_bounds p c
  cases q
  · exact decide_eq_true (show withSign p c < (d : Int) by omega)
  · exact decide_eq_false (show ¬ withSign p c < -(d : Int) by omega)

/-- A magnitude above another one has the lesser signed value exactly if it is negative. -/
theorem withSign_lt_of_gt (p q : Bool) {c d : Nat} (h : d < c) : decide (withSign p c < withSign q d) = p := by
  have hb := withSign_bounds q d
  cases p
  · exact decide_eq_false (show ¬ (c : Int) < withSign q d by omega)
  · exact decide_eq_true (show -(c : Int) < withSign q d by omega)

/-- Equal magnitudes other than 0 differ by their signs alone. -/
theorem withSign_lt_same (p q : Bool) {c : Nat} (h : 0 < c) : decide (withSign p c < withSign q c) = (p && !q) := by
  match p, q with
  | true, false => exact decide_eq_true (show -(c : Int) < c by omega)
  | false, true => exact decide_eq_false (show ¬ (c : Int) < -(c : Int) by omega)
  | true, true | false, false => exact decide_eq_false (Int.lt_irrefl _)

/-- A finite value at a common scale, in units of a smaller one. -/
theorem scaleTo_mul (neg : Bool) (n : Nat) {e q r : Int} (hq : q ≤ e) (hr : r ≤ q) :
    scaleTo (.fin neg n e) q * (2 ^ (q - r).toNat : Nat) = withSign neg (n * 2 ^ (e - r).toNat) := by
  have he : (e - r).toNat = (e - q).toNat + (q - r).toNat := by omega
  rw [scaleTo, withSign, he, Nat.pow_add, ← Nat.mul_assoc, Int.mul_assoc, ← Int.natCast_mul]
  cases neg
  · exact Int.one_mul _
  · exact Int.neg_one_mul _

/-- Finite values are ordered as their magnitudes in units of any exponent that is not above theirs and not above 0. -/
theorem ltVals_fin (p q : Bool) (n k : Nat) {e g r : Int} (he : r ≤ e) (hg : r ≤ g) (h0 : r ≤ 0) :
    ltVals (.fin p n e) (.fin q k g) = decide (withSign p (n * 2 ^ (e - r).toNat) < withSign q (k * 2 ^ (g - r).toNat)) := by
  show decide (scaleTo _ (min (min 0 e) g) < scaleTo _ (min (min 0 e) g)) = _
  rw [← scaleTo_mul p n (q := min (min 0 e) g) (by omega) (by omega),
    ← scaleTo_mul q k (q := min (min 0 e) g) (by omega) (by omega)]
  exact decide_eq_decide.mpr (Int.mul_lt_mul_right (Int.natCast_pos.mpr (Nat.two_pow_pos _))).symm

/-- FMIN's choice: the lesser operand, and of two that are equal one with a sign. -/
theorem minPicksA_false (a b : FVal) :
    minPicksA false a b = if ltVals a b then true else if ltVals b a then false else a.negative || !b.negative := rfl

/-- FMAX's choice is FMIN's with the operands exchanged. -/
theorem minPicksA_true (a b : FVal) : minPicksA true a b = minPicksA false b a := rfl

/-- The place of a register value in the order of FMIN and FMAX, in which -0 is below +0. -/
def orderKey (t : Ty) (v : W64) : Int := if negOf t v then -(magOf t v : Int) - 1 else magOf t v

section
variable {t : Ty} (ht : IeeeFormat t)
include ht

/-- Values that are no NaNs are ordered as their signed magnitude codes. -/
theorem ltVals_floatOf {a b : W64} (ha : ¬ NanCode t a) (hb : ¬ NanCode t b) :
    ltVals (floatOf t a) (floatOf t b) = decide (withSign (negOf t a) (magOf t a) < withSign (negOf t b) (magOf t b)) := by
  obtain ha | ha := Nat.lt_or_eq_of_le (Nat.le_of_not_lt ha) <;> obtain hb | hb := Nat.lt_or_eq_of_le (Nat.le_of_not_lt hb)
  case inl.inl =>
    obtain ⟨n, e, hn, hne, hnu⟩ := (fmtOf t).finOf_units (negOf t a) (magOf t a)
    obtain ⟨k, g, hk, hkg, hku⟩ := (fmtOf t).finOf_units (negOf t b) (magOf t b)
    rw [floatOf_fin ht ha, floatOf_fin ht hb, hn, hk, ltVals_fin _ _ _ _ hne hkg ht.minExp, hnu, hku]
    exact decide_eq_decide.mpr (withSign_lt_iff (fmtOf t).units_lt_iff (fmtOf t).units_zero _ _ _ _)
  case inl.inr =>
    obtain ⟨n, e, hn⟩ := (fmtOf t).finOf_eq_fin (negOf t a) (magOf t a)
    rw [floatOf_fin ht ha, floatOf_inf ht hb, hn]
    exact (withSign_lt_of_lt _ _ (hb ▸ ha)).symm
  case inr.inl =>
    obtain ⟨k, g, hk⟩ := (fmtOf t).finOf_eq_fin (negOf t b) (magOf t b)
    rw [floatOf_inf ht ha, floatOf_fin ht hb, hk]
    exact (withSign_lt_of_gt _ _ (ha ▸ hb)).symm
  case inr.inr =>
    rw [floatOf_inf ht ha, floatOf_inf ht hb, ha, hb]
    exact (withSign_lt_same _ _ ht.infPos).symm

/-- FMIN takes its first operand exactly if that is not above the second. -/
theorem minPicksA_floatOf {a b : W64} (ha : ¬ NanCode t a) (hb : ¬ NanCode t b) :
    minPicksA false (floatOf t a) (floatOf t b) = decide (orderKey t a ≤ orderKey t b) := by
  rw [minPicksA_false, ltVals_floatOf ht ha hb, ltVals_floatOf ht hb ha, negative_floatOf ht ha, negative_floatOf ht hb]
  rw [Bool.eq_iff_iff]
  cases hna : negOf t a <;> cases hnb : negOf t b <;> simp [withSign, orderKey, hna, hnb] <;> omega

end

section
variable {t : Ty} (ht : IeeeFormat t)
include ht

/-- The square root of a negative finite value is invalid (R98, R127). -/
theorem fsqrtT_negative (m : BitVec 4) {a : W64} (h0 : 0 < magOf t a) (hi : magOf t a < infCode t) (hs : negOf t a = true) :
    fsqrtT t m a = nanOut t true := by
  obtain ⟨n, e, hfin, -, hn⟩ := (fmtOf t).finOf_units true (magOf t a)
  have hpos : 0 < (fmtOf t).units (magOf t a) := (fmtOf t).units_zero ▸ (fmtOf t).units_lt_of_lt h0
  have hne : n ≠ 0 := by
    rintro rfl
    rw [Nat.zero_mul] at hn
    omega
  rw [fsqrtT, floatOf_fin ht hi, hs, hfin]
  dsimp only
  rw [if_neg hne, if_pos rfl]
  rfl

/-- FMIN and FMAX: which operand is the result, and the flags (R128). -/
theorem fminmaxT_eq (isMax : Bool) (a b : W64) :
    fminmaxT isMax t a b
      = (if NanCode t a then if NanCode t b then BitVec.ofNat 64 (fmtOf t).nanBits else b
         else if NanCode t b then a
         else if (if isMax then orderKey t b ≤ orderKey t a else orderKey t a ≤ orderKey t b) then a else b,
         flagIf (decide (SigCode t a ∨ SigCode t b)) flNV) := by
  unfold fminmaxT
  simp only [isNan_floatOf ht, sigFlags_floatOf ht, decide_eq_true_eq]
  by_cases ha : NanCode t a
  · rw [if_pos ha, if_pos ha]
  · by_cases hb : NanCode t b
    · rw [if_neg ha, if_neg ha, if_pos hb, if_pos hb]
    · rw [if_neg ha, if_neg ha, if_neg hb, if_neg hb]
      cases isMax
      · simp only [minPicksA_floatOf ht ha hb, decide_eq_true_eq, Bool.false_eq_true, if_false]
      · simp only [minPicksA_true, minPicksA_floatOf ht hb ha, decide_eq_true_eq, if_true]

end

/-- Settles O10: every NaN result is `nanOut`, and FMIN and FMAX choose by the order of signed magnitude codes. -/
theorem nanResultsAndMinMax : Obligations.NanResultsAndMinMax := by
  unfold Obligations.NanResultsAndMinMax
  refine ⟨fun t m a b k hmem => ?nans, fun t a b hmem _ _ => ?minmax⟩ <;>
    have hcases := ieeeType_cases hmem <;> have ht := ieeeFormat_of_cases hcases
  case nans =>
    intro w mag inf canon nan sig
    have hcanon : BitVec.ofNat 64 (fmtOf t).nanBits = canon := by obtain rfl | rfl | rfl | rfl := hcases <;> rfl
    have hinvalid : nanOut t true = (canon, flNV) := congrArg (·, flNV) hcanon
    refine ⟨fun h => ?two, fun h => ?one, fun ha hb => ⟨?quotient, fun hs => ?difference, fun hs => ?sum⟩, fun ha hb => ?product,
      fun ha hb => ?zeroQuotient, fun h0 hi hs => ?root⟩
    case two =>
      rw [faddT_nan ht m h, fsubT_nan ht m h, fmulT_nan ht m h, fdivT_nan ht m h]
      refine ⟨hcanon, hcanon, hcanon, hcanon, fun hs => ?_, fun ha hb => ?_⟩
      · have hflag := nanOut_signalling t hs
        exact ⟨hflag, hflag, hflag, hflag⟩
      · have hflag := nanOut_quiet t (not_or.mpr ⟨ha, hb⟩)
        exact ⟨hflag, hflag, hflag, hflag⟩
    case one =>
      rw [fsqrtT_nan ht h, frcpT_nan ht h, frsqT_nan ht h, fscaleT_nan ht h, frndT_nan ht h, fminmaxT_eq ht, fminmaxT_eq ht]
      refine ⟨hcanon, hcanon, hcanon, hcanon, hcanon, fun hb => ?_, fun hs => ?_, fun hs => ?_⟩
      · exact ⟨((if_pos h).trans (if_pos hb)).trans hcanon, ((if_pos h).trans (if_pos hb)).trans hcanon⟩
      · have hflag := nanOut_signalling t hs
        exact ⟨hflag, hflag, hflag, hflag, hflag⟩
      · have hflag := nanOut_quiet t hs
        exact ⟨hflag, hflag, hflag, hflag, hflag⟩
    case quotient => exact (fdivT_infInf ht m ha hb).trans hinvalid
    case difference => exact (fsubT_alikeInf ht m ha hb hs).trans hinvalid
    case sum => exact (faddT_opposedInf ht m ha hb hs).trans hinvalid
    case product => exact (fmulT_zeroInf ht m ha hb).imp (·.trans hinvalid) (·.trans hinvalid)
    case zeroQuotient => exact (fdivT_zeroZero ht m ha hb).trans hinvalid
    case root => exact (fsqrtT_negative ht m h0 hi hs).trans hinvalid
  case minmax =>
    simp only [fminmaxT_eq ht]
    refine ⟨fun ha hb => ?_, fun ha hb => ?_, fun ha hb => ?_, fun _ => ⟨fun hs => ?_, fun hs => ?_⟩⟩
    · exact ⟨(if_pos ha).trans (if_neg hb), (if_pos ha).trans (if_neg hb)⟩
    · exact ⟨(if_neg ha).trans (if_pos hb), (if_neg ha).trans (if_pos hb)⟩
    · exact ⟨(if_neg ha).trans (if_neg hb), (if_neg ha).trans (if_neg hb)⟩
    · exact nanOut_signalling t hs
    · exact nanOut_quiet t hs

end Sys2Proof.Machine
end

/-! ### Block scales and the exponent histogram (R103, R139, R142 to R145) -/

section
namespace Sys2Proof.Machine

/-- R103's map, with the byte select and the element of R135. -/
theorem laneScale_eq (f : CForm) (g : Gang) (l : Nat) :
    laneScale f g l
      = let k := (l * (if f.ty = .fp32 then 1 else elemsOf f.ty) + f.ext.toNat / 4 % 8) / 32
        if (g.lane (8 * k % 32)).status = .absent then 0xFF
        else ((g.lane (8 * k % 32)).rv f.b).toNat / 2 ^ (8 * ((f.ext.toNat % 4 + k / 4) % 4)) % 256 := by
  simp [laneScale, blockScale, scaleCount, groupIndex, sclSel, sclElem, bitsOf]

/-- A scale that is a NaN (R139): the canonical NaN, and NV among the flags. -/
theorem sclT_nanScale (f : CForm) (a : W32) : (sclT f 0xFF a).1 = 0x7FC00000 ∧ (sclT f 0xFF a).2 &&& flNV = flNV := by
  refine ⟨rfl, ?_⟩
  show (flNV ||| _ ||| _) &&& flNV = flNV
  generalize flagIf _ _ = x
  generalize FVal.sigFlag _ = y
  ext i hi
  simp only [BitVec.getElem_and, BitVec.getElem_or]
  cases flNV[i] <;> simp

/-- HIST completes: the bins join the counts of the region, and the lanes only move on. -/
theorem execHist_completes (s : State) (g : Gang) (f : AForm) (hg : Issues s g) :
    ∃ h, exec (.hist f) s = .next (s.putCur h) ∧ LanesMove s g h f.g (fun _ x => x)
      ∧ h = { g with arch := { g.arch with fibres := h.arch.fibres }
                     region := { g.region with
                       energy := h.region.energy
                       hist := if s.inFirmware then []
                         else g.region.hist
                           ++ (lanesOf (execLanes s g f.g)).filterMap fun l => histBin (floatOf f.ty (f.va (g.lane l))) } } := by
  have hc : s.curGang? = some g := hg
  refine ⟨_, by rw [show exec (.hist f) s = execHist f s from rfl, execHist, hc], ?lanes, rfl⟩
  case lanes =>
    intro l
    show (g.advance (groupLanes s g) s.cur.next).lane l = _
    rw [Gang.advance, mapLanes_lane g _ _ l (group_found s g l)]
    by_cases he : (execLanes s g f.g).getLsbD l = true
    · rw [if_pos he, if_pos (exec_in_group s g f.g l he)]
    · rw [if_neg he]

/-- HCLIP completes: what a lane instruction does, and with `.clr` the histogram of the context cleared (R144, R145). -/
theorem execHclip_completes (s : State) (g : Gang) (f : IForm) (hg : Issues s g) :
    ∃ h, exec (.hclip f) s
          = .next (if f.imm.getLsbD 7 = true ∧ execLanes s g f.g ≠ 0 ∧ s.inFirmware = false then
                     (s.putCur h).modCore s.cur.core fun k => { k with hist := mset k.hist g.ctx [] }
                   else s.putCur h)
        ∧ LanesMove s g h f.g
            (fun _ x => x.wv f.d (hclipOf (if s.inFirmware then [] else mget [] s.curCore.hist g.ctx) (f.imm.toNat % 128)))
        ∧ FlagsRise s g h f.g (fun _ _ => 0) ∧ GangRestKept g h := by
  have hc : s.curGang? = some g := hg
  have hp : bitsOf f.imm 0 7 = f.imm.toNat % 128 := by simp [bitsOf]
  obtain ⟨h, hs, hrest⟩ := laneOp_result s f.g 3 1
    (fun _ _ x => x.wv f.d (hclipOf (if s.inFirmware then [] else mget [] s.curCore.hist g.ctx) (f.imm.toNat % 128)))
    (fun _ _ _ => 0) g hg
  refine ⟨h, ?_, hrest⟩
  rw [show exec (.hclip f) s = execHclip f s from rfl, execHclip, hc]
  dsimp only
  rw [hp, hs]
  simp [and_assoc]

/-- The running total of a histogram up to bin `j`. -/
def histUpto (h : TMap W32) (j : Nat) : Nat := ((List.range (j + 1)).map fun i => (mget 0 h i).toNat).sum

theorem histUpto_succ (h : TMap W32) (j : Nat) : histUpto h (j + 1) = histUpto h j + (mget 0 h (j + 1)).toNat := by
  rw [histUpto, List.range_succ, List.map_append, List.sum_append]
  rfl

/-- HCLIP's scan of the bins: the total, and the first bin at which the running total reaches `t`. -/
theorem histScan_eq (h : TMap W32) (t n : Nat) :
    (List.range (n + 1)).foldl (fun (acc : Nat × Option Nat) j =>
        let c := acc.1 + (mget 0 h j).toNat
        (c, if acc.2.isSome then acc.2 else if t ≤ c then some j else none)) (0, none)
      = (histUpto h n, (List.range (n + 1)).find? fun j => decide (t ≤ histUpto h j)) := by
  induction n with
  | zero => simp [histUpto, List.find?_singleton]
  | succ n ih =>
    rw [List.range_succ, List.foldl_append, ih, List.find?_append, List.foldl_cons, List.foldl_nil, ← histUpto_succ]
    cases (List.range (n + 1)).find? fun j => decide (t ≤ histUpto h j) with
    | some j => rfl
    | none => simp [List.find?_singleton]

theorem histTotal_eq (h : TMap W32) : (List.range 64).foldl (fun acc j => acc + (mget 0 h j).toNat) 0 = histUpto h 63 := by
  rw [histUpto, List.sum_eq_foldl, List.foldl_map]

/-- HCLIP's result on an empty histogram (R145). -/
theorem hclipOf_empty (h : TMap W32) (p : Nat) (h0 : histUpto h 63 = 0) : hclipOf h p = 0x80000000 := by
  unfold hclipOf
  rw [histTotal_eq]
  exact if_pos h0

/-- HCLIP's result on a histogram with counts: the first bin whose running total reaches the percentile (R145). -/
theorem hclipOf_first (h : TMap W32) (p j : Nat) (h0 : histUpto h 63 ≠ 0)
    (hj : (List.range 64).find? (fun j => decide ((histUpto h 63 * (9900 + p) + 9999) / 10000 ≤ histUpto h j)) = some j) :
    hclipOf h p = BitVec.ofInt 32 ((j : Int) - 32) := by
  unfold hclipOf
  rw [histTotal_eq]
  dsimp only
  rw [if_neg h0, histScan_eq h _ 63, hj]
  rfl

/-- The percentile never exceeds the total, so that some bin reaches it. -/
theorem exists_firstBin (h : TMap W32) (p : Nat) (hp : p ≤ 99) :
    ∃ j, (List.range 64).find? (fun j => decide ((histUpto h 63 * (9900 + p) + 9999) / 10000 ≤ histUpto h j)) = some j := by
  have ht : (histUpto h 63 * (9900 + p) + 9999) / 10000 ≤ histUpto h 63 := by
    have : histUpto h 63 * (9900 + p) ≤ histUpto h 63 * 9999 := Nat.mul_le_mul_left _ (by omega)
    omega
  exact Option.isSome_iff_exists.mp (List.find?_isSome.mpr ⟨63, by decide, decide_eq_true ht⟩)

/-- Settles O13: the scale map, and HIST and HCLIP by what their scans of lanes and bins give. -/
theorem scalesAndHistogram : Obligations.ScalesAndHistogram := by
  unfold Obligations.ScalesAndHistogram
  refine ⟨⟨fun f g l => ?scale, sclT_nanScale⟩, execHist_completes, fun v => ?bin, execHclip_completes, fun h p hp => ?clip⟩
  case scale =>
    rw [laneScale_eq]
    exact ⟨fun ha => if_pos ha, fun ha => if_neg ha⟩
  case bin => cases v <;> rfl
  case clip =>
    obtain ⟨j, hj⟩ := exists_firstBin h p hp
    obtain ⟨hreach, hlt, hleast⟩ := List.find?_range_eq_some.mp hj
    refine ⟨hclipOf_empty h p, fun h0 => ⟨j, List.mem_range.mp hlt, hclipOf_first h p j h0 hj, of_decide_eq_true hreach, fun i hi => ?_⟩⟩
    exact Nat.lt_of_not_le (of_decide_eq_false ((Bool.not_eq_true' _).mp (hleast i hi)))

end Sys2Proof.Machine
end

/-! ### Integer values as bits, and integer arithmetic (R92, R108 to R110) -/

section
namespace Sys2Proof.Machine

/-! #### Integers as bit vectors -/

theorem intOf_signed (w n : Nat) : intOf true w n = (BitVec.ofNat w n).toInt := by
  rw [intOf, BitVec.toInt_eq_toNat_cond, BitVec.toNat_ofNat]
  by_cases h : 2 * (n % 2 ^ w) < 2 ^ w
  · rw [if_pos h, if_neg (by rw [Bool.true_and, decide_eq_true_eq]; omega)]
  · rw [if_neg h, if_pos (by rw [Bool.true_and, decide_eq_true_eq]; omega), Int.natCast_pow]
    rfl

theorem intOf_unsigned (w n : Nat) : intOf false w n = (n % 2 ^ w : Nat) := by simp [intOf]

theorem intBits_eq (w : Nat) (z : Int) : intBits w z = (BitVec.ofInt w z).toNat := by
  rw [intBits, BitVec.toNat_ofInt]
  push_cast
  rfl

theorem intBits_natCast (w n : Nat) : intBits w n = n % 2 ^ w := by
  rw [intBits_eq, BitVec.ofInt_natCast, BitVec.toNat_ofNat]

/-- Reading bits as an integer, signed or not, keeps the bits. -/
theorem intBits_intOf (signed : Bool) (w n : Nat) : intBits w (intOf signed w n) = n % 2 ^ w := by
  cases signed with
  | true => rw [intOf_signed, intBits_eq, BitVec.ofInt_toInt, BitVec.toNat_ofNat]
  | false => rw [intOf_unsigned, intBits_natCast, Nat.mod_mod]

theorem natCast_intBits (w : Nat) (z : Int) : (intBits w z : Int) = z % 2 ^ w :=
  Int.toNat_of_nonneg (Int.emod_nonneg z (Int.pow_ne_zero (by decide)))

/-- An integer is congruent to the one that its wrapped bits stand for. -/
theorem intOf_intBits_emod (signed : Bool) (w : Nat) (z : Int) : intOf signed w (intBits w z) % 2 ^ w = z % 2 ^ w := by
  rw [← natCast_intBits, intBits_intOf, Nat.mod_eq_of_lt (intBits_lt w z), natCast_intBits]

theorem elemAt_zero (w : Nat) (v : W64) : elemAt w v 0 = v.toNat % 2 ^ w := by simp [elemAt]

/-- An operand of a scalar type stands for the same integer as its element 0. -/
theorem intOf_elemAt_zero (signed : Bool) (w : Nat) (v : W64) : intOf signed w (elemAt w v 0) = intOf signed w v.toNat := by
  rw [elemAt_zero, intOf, intOf, Nat.mod_mod]

/-! #### Sums, differences, products and orders, element by element (R108) -/

/-- Settles O2: an element-wise operation wraps the exact result on each element; MADD's product is wrapped before its sum, which
keeps the sum modulo 2^w. -/
theorem integerElements : Obligations.IntegerElements := by
  unfold Obligations.IntegerElements
  intro t a b c i _ hi w el
  have elem (op : Int → Int → Int) (p q : W64) := elemAt_intOp t op p q i hi
  refine ⟨elem _ a b, elem _ a b, elem _ a b, elem _ a b, ?madd, elem _ a b, elem _ a b, elem _ a 0, elem _ a 0⟩
  have hsum := elem (· + ·) (mulT t a b) c
  have hprod := elem (· * ·) a b
  rw [addT, hsum, mulT, hprod, intBits]
  exact congrArg Int.toNat ((Int.emod_add_cancel_right _).mpr (intOf_intBits_emod _ _ _))

/-! #### Quotient, remainder and saturation (R109, R110) -/

section
variable (t : Ty) (a b : W64) (h1 : elemsOf t = 1)
include h1

/-- A scalar integer operation is the exact result on the operands, wrapped. -/
theorem elemAt_intOp_scalar (op : Int → Int → Int) :
    elemAt (elemWidth t) (intOp t op a b) 0
      = intBits (elemWidth t) (op (intOf (isSigned t) (elemWidth t) a.toNat) (intOf (isSigned t) (elemWidth t) b.toNat)) := by
  rw [elemAt_intOp t op a b 0 (h1 ▸ Nat.one_pos), intOf_elemAt_zero, intOf_elemAt_zero]

/-- DIV and REM of a scalar type are R110's results on the operands. -/
theorem elemAt_divT_remT {q r : Int}
    (h : divRem (isSigned t) (elemWidth t) (intOf (isSigned t) (elemWidth t) a.toNat) (intOf (isSigned t) (elemWidth t) b.toNat)
      = (q, r)) :
    elemAt (elemWidth t) (divT t a b) 0 = intBits (elemWidth t) q
      ∧ elemAt (elemWidth t) (remT t a b) 0 = intBits (elemWidth t) r := by
  rw [divT, remT, elemAt_intOp_scalar t a b h1, elemAt_intOp_scalar t a b h1, h]
  exact ⟨rfl, rfl⟩

end

theorem divRem_zero (signed : Bool) (w : Nat) (x : Int) : divRem signed w x 0 = (2 ^ w - 1, x) := if_pos rfl

theorem divRem_overflow (w : Nat) : divRem true w (-(2 ^ (w - 1))) (-1) = (-(2 ^ (w - 1)), 0) := by
  rw [divRem, if_neg (by decide), if_pos ⟨rfl, rfl, rfl⟩]

theorem divRem_truncates {signed : Bool} {w : Nat} {x y : Int} (h0 : y ≠ 0)
    (hov : ¬ (signed = true ∧ x = -(2 ^ (w - 1)) ∧ y = -1)) :
    divRem signed w x y = (Int.tdiv x y, x - Int.tdiv x y * y) := by
  rw [divRem, if_neg h0, if_neg hov]

theorem intBits_allOnes (w : Nat) : intBits w (2 ^ w - 1) = 2 ^ w - 1 := by
  have h : ((2 ^ w - 1 : Nat) : Int) = 2 ^ w - 1 := by
    rw [Int.natCast_sub Nat.one_le_two_pow, Int.natCast_pow]
    rfl
  rw [← h, intBits_natCast, Nat.mod_eq_of_lt (Nat.sub_lt (Nat.two_pow_pos w) Nat.one_pos)]

/-- The least and greatest value of a type are in its range. -/
theorem intMin_le_intMax (signed : Bool) (w : Nat) : intMin signed w ≤ intMax signed w := by
  have h1 : (0 : Int) < 2 ^ (w - 1) := Int.pow_pos (by decide)
  have h2 : (0 : Int) < 2 ^ w := Int.pow_pos (by decide)
  cases signed <;> simp only [intMin, intMax, if_true, if_false, Bool.false_eq_true] <;> omega

/-- An element of ADDSAT and SUBSAT stands for the exact result clamped to the type's range. -/
theorem intOf_elemAt_satT (t : Ty) (op : Int → Int → Int) (a b : W64) (i : Nat) (hi : i < elemsOf t) :
    intOf (isSigned t) (elemWidth t) (elemAt (elemWidth t) (satT t op a b) i)
      = max (intMin (isSigned t) (elemWidth t)) (min (intMax (isSigned t) (elemWidth t))
          (op (intOf (isSigned t) (elemWidth t) (elemAt (elemWidth t) a i)) (intOf (isSigned t) (elemWidth t) (elemAt (elemWidth t) b i)))) := by
  have hle := intMin_le_intMax (isSigned t) (elemWidth t)
  rw [satT, elemAt_zipElems t _ a b i hi, Nat.mod_eq_of_lt (intBits_lt _ _), satElem, intClamp_fst,
    intOf_intBits _ _ _ (elemWidth_pos t) (by omega) (by omega)]

/-- Settles O3: the three cases of R110 are those of `divRem`; ADDSAT and SUBSAT are `intClamp` on each element. -/
theorem divisionAndSaturation : Obligations.DivisionAndSaturation := by
  unfold Obligations.DivisionAndSaturation
  refine ⟨fun t a b _ h1 => ?division,
    fun s g f hg => ⟨laneResult_of hg _ _ _ _ rfl rfl rfl, laneResult_of hg _ _ _ _ rfl rfl rfl⟩, fun t a b op _ => ?saturation⟩
  case division =>
    intro w x y
    refine ⟨fun hy => ?zero, fun hs hx hy => ?overflow, fun h0 hov => ?regular,
      fun s g f hg => ⟨laneResult_of hg _ _ _ _ rfl rfl rfl, laneResult_of hg _ _ _ _ rfl rfl rfl⟩⟩
    case zero =>
      obtain ⟨hq, hr⟩ := elemAt_divT_remT t a b h1 ((congrArg _ hy).trans (divRem_zero ..))
      exact ⟨hq.trans (intBits_allOnes w), hr.trans ((intBits_intOf ..).trans (elemAt_zero w a).symm)⟩
    case overflow =>
      have hcase : divRem (isSigned t) w x y = (x, 0) := by rw [hs, hy, hx, divRem_overflow]
      obtain ⟨hq, hr⟩ := elemAt_divT_remT t a b h1 hcase
      exact ⟨hq.trans ((intBits_intOf ..).trans (elemAt_zero w a).symm), hr.trans (intBits_natCast w 0)⟩
    case regular => exact elemAt_divT_remT t a b h1 (divRem_truncates h0 hov)
  case saturation =>
    intro w lo hi e
    refine ⟨fun i hi => intOf_elemAt_satT t op a b i hi, ?flag⟩
    cases hany : (List.range (elemsOf t)).any fun i => (satElem t op (elemAt w a i) (elemAt w b i)).2 with
    | true =>
      obtain ⟨i, hi, hclamps⟩ := List.any_eq_true.mp hany
      exact .inl ⟨congrArg (flagIf · flSAT) hany, i, List.mem_range.mp hi, (intClamp_snd ..).mp hclamps⟩
    | false =>
      refine .inr ⟨congrArg (flagIf · flSAT) hany, fun i hi => ?_⟩
      have hkeeps := mt (intClamp_snd ..).mpr (List.any_eq_false.mp hany i (List.mem_range.mpr hi))
      exact ⟨Int.le_of_not_gt fun h => hkeeps (.inl h), Int.le_of_not_gt fun h => hkeeps (.inr h)⟩

end Sys2Proof.Machine
end

/-! ### Bitwise instructions, shifts, fields and bit counts (R111 to R115) -/

section
namespace Sys2Proof.Machine

/-! #### Shifts and rotates are those of bit vectors (R112) -/

section
variable {w : Nat} (a : BitVec w) (n : Nat)

theorem shlW_toNat : shlW w a.toNat n = (a <<< n).toNat := by
  unfold shlW
  split
  · rw [BitVec.toNat_shiftLeft, Nat.shiftLeft_eq]
  · rw [BitVec.shiftLeft_eq_zero (by omega), BitVec.toNat_zero]

theorem shrW_toNat : shrW w a.toNat n = (a >>> n).toNat := by
  unfold shrW
  split
  · rw [BitVec.toNat_ushiftRight, Nat.shiftRight_eq_div_pow, Nat.mod_eq_of_lt a.isLt]
  · rw [BitVec.ushiftRight_eq_zero (by omega), BitVec.toNat_zero]

/-- A count below the width divides the signed value; from the width on every bit is the sign. -/
theorem sarW_toNat : sarW w a.toNat n = (a.sshiftRight n).toNat := by
  unfold sarW
  split
  case isTrue => rw [BitVec.sshiftRight, intBits_eq, intOf_signed, BitVec.ofNat_toNat, BitVec.setWidth_eq, Int.shiftRight_eq_div_pow]; rfl
  case isFalse h =>
    have hsign : a.toNat / 2 ^ (w - 1) % 2 = 1 ↔ a.msb = true := by
      rw [BitVec.msb_eq_getLsbD_last, BitVec.getLsbD, Nat.testBit_eq_decide_div_mod_eq, decide_eq_true_eq]
    have hfill : a.sshiftRight n = if a.msb then BitVec.allOnes w else 0#w := by
      ext i hi
      rw [BitVec.getElem_sshiftRight, dif_neg (by omega)]
      cases a.msb <;> simp
    rw [hfill]
    cases hm : a.msb with
    | true => rw [if_pos (hsign.mpr hm), if_pos rfl, BitVec.toNat_allOnes]
    | false => rw [if_neg (by rw [hsign, hm]; decide), if_neg (by decide), BitVec.toNat_zero]

/-- The two parts of a rotation have no bit in common. -/
theorem rotlW_toNat (hw : 0 < w) : rotlW w a.toNat n = (a.rotateLeft n).toNat := by
  have hk : n % w < w := Nat.mod_lt n hw
  have hsplit : 2 ^ w = 2 ^ (w - n % w) * 2 ^ (n % w) := by rw [← Nat.pow_add, Nat.sub_add_cancel (Nat.le_of_lt hk)]
  have hlow : a.toNat / 2 ^ (w - n % w) < 2 ^ (n % w) := Nat.div_lt_of_lt_mul (hsplit ▸ a.isLt)
  have hhigh : a.toNat * 2 ^ (n % w) % 2 ^ w = 2 ^ (n % w) * (a.toNat % 2 ^ (w - n % w)) := by
    rw [hsplit, Nat.mul_mod_mul_right, Nat.mul_comm]
  rw [rotlW, BitVec.toNat_rotateLeft, Nat.shiftLeft_eq, Nat.shiftRight_eq_div_pow, Nat.mod_eq_of_lt a.isLt, hhigh,
    Nat.two_pow_add_eq_or_of_lt hlow]

end

/-- Settles O4: the bitwise instructions and shifts are lane operations, and the shifts those of bit vectors. -/
theorem bitwiseAndShifts : Obligations.BitwiseAndShifts := by
  unfold Obligations.BitwiseAndShifts
  refine ⟨fun s g hg => ⟨?_, ?_, ?_, ?_, ?_, ?_, ?_, ?_⟩, fun s g hg => ⟨?_, ?_, ?_, ?_, ?_, ?_, ?_, ?_⟩,
    fun w a n hw => ⟨shlW_toNat a n, shrW_toNat a n, sarW_toNat a n, rotlW_toNat a n hw⟩⟩
  -- the completion of each instruction: its meaning is a `laneOp`
  all_goals exact fun f => laneResult_of hg _ _ _ _ rfl rfl rfl

/-! #### Fields (R113, R114) -/

theorem funnelW_eq (w : Nat) (hi modw : Bool) {a b : Nat} (n : Nat) (ha : a < 2 ^ w) (hb : b < 2 ^ w) :
    funnelW w hi modw a b n
      = if hi then (a * 2 ^ w + b) * 2 ^ (if modw then n % w else min n w) / 2 ^ w % 2 ^ w
        else (a * 2 ^ w + b) / 2 ^ (if modw then n % w else min n w) % 2 ^ w := by
  rw [funnelW, Nat.mod_eq_of_lt ha, Nat.mod_eq_of_lt hb]

/-- The bits of an integer of `k` bits read from `n` and written in `w` bits: those of `n`, then the sign or 0. -/
theorem testBit_intBits_intOf (signed : Bool) {w k j : Nat} (n : Nat) (hk : 0 < k) (hj : j < w) :
    (intBits w (intOf signed k n)).testBit j = if j < k then n.testBit j else signed && n.testBit (k - 1) := by
  cases signed with
  | false =>
    rw [intOf_unsigned, intBits_natCast, Nat.testBit_mod_two_pow, Nat.testBit_mod_two_pow]
    rw [decide_eq_true hj, Bool.true_and, Bool.false_and]
    by_cases h : j < k
    · rw [if_pos h, decide_eq_true h, Bool.true_and]
    · rw [if_neg h, decide_eq_false h, Bool.false_and]
  | true =>
    rw [intBits_eq, intOf_signed, ← BitVec.signExtend, BitVec.testBit_toNat, BitVec.getLsbD_signExtend, BitVec.msb_eq_getLsbD_last,
      BitVec.getLsbD_ofNat, BitVec.getLsbD_ofNat]
    rw [decide_eq_true hj, decide_eq_true (Nat.sub_lt hk Nat.one_pos), Bool.true_and]
    by_cases h : j < k
    · rw [if_pos h, if_pos h, decide_eq_true h, Bool.true_and]
    · rw [if_neg h, if_neg h]

/-- A field outside the value. -/
theorem bfxW_outside {w pos wid : Nat} (signed : Bool) (a : Nat) (h : w ≤ pos ∨ wid = 0) : bfxW w signed pos wid a = 0 := if_pos h

/-- A field inside the value, cut at its top. -/
theorem bfxW_inside {w pos wid : Nat} (signed : Bool) (a : Nat) (hpos : pos < w) (hwid : 0 < wid) :
    bfxW w signed pos wid a = intBits w (intOf signed (min wid (w - pos)) (a / 2 ^ pos)) := if_neg (by omega)

theorem testBit_bfxW {w pos wid j : Nat} (signed : Bool) (a : Nat) (hpos : pos < w) (hwid : 0 < wid) (hj : j < w) :
    (bfxW w signed pos wid a).testBit j
      = if j < min wid (w - pos) then a.testBit (pos + j) else signed && a.testBit (pos + min wid (w - pos) - 1) := by
  have hk : 0 < min wid (w - pos) := by omega
  rw [bfxW_inside signed a hpos hwid, testBit_intBits_intOf signed _ hk hj, Nat.testBit_div_two_pow, Nat.testBit_div_two_pow,
    Nat.add_comm j, Nat.add_comm _ pos, Nat.add_sub_assoc hk]

theorem bfiW_outside {w pos wid : Nat} (a b : Nat) (h : w ≤ pos ∨ wid = 0) : bfiW w pos wid a b = a := if_pos h

/-- The mask of a field of `k` bits at `pos`. -/
def fieldMask (pos k : Nat) : Nat := (2 ^ k - 1) * 2 ^ pos

theorem testBit_fieldMask (pos k j : Nat) : (fieldMask pos k).testBit j = decide (pos ≤ j ∧ j < pos + k) := by
  rw [fieldMask, Nat.testBit_mul_two_pow, Nat.testBit_two_pow_sub_one, ← Bool.decide_and]
  exact decide_eq_decide.mpr (by omega)

theorem fieldMask_lt {pos k w : Nat} (h : pos + k ≤ w) : fieldMask pos k < 2 ^ w :=
  Nat.lt_pow_two_of_testBit _ fun j hj => by
    rw [testBit_fieldMask]
    exact decide_eq_false (by omega)

theorem bfiW_inside {w pos wid : Nat} (a b : Nat) (hpos : pos < w) (hwid : 0 < wid) :
    bfiW w pos wid a b
      = (a &&& (2 ^ w - (fieldMask pos (min wid (w - pos)) + 1))) ||| (b * 2 ^ pos % 2 ^ w &&& fieldMask pos (min wid (w - pos))) := by
  rw [bfiW, if_neg (by omega), Nat.add_comm _ 1, ← Nat.sub_sub]
  rfl

theorem bfiW_lt {w pos wid a b : Nat} (hpos : pos < w) (hwid : 0 < wid) (ha : a < 2 ^ w) : bfiW w pos wid a b < 2 ^ w := by
  rw [bfiW_inside a b hpos hwid]
  exact Nat.or_lt_two_pow (Nat.lt_of_le_of_lt Nat.and_le_left ha) (Nat.and_lt_two_pow _ (fieldMask_lt (by omega)))

theorem testBit_bfiW {w pos wid j : Nat} (a b : Nat) (hpos : pos < w) (hwid : 0 < wid) (hj : j < w) :
    (bfiW w pos wid a b).testBit j
      = if pos ≤ j ∧ j < pos + min wid (w - pos) then b.testBit (j - pos) else a.testBit j := by
  rw [bfiW_inside a b hpos hwid, Nat.testBit_or, Nat.testBit_and, Nat.testBit_and,
    Nat.testBit_two_pow_sub_succ (fieldMask_lt (by omega)), testBit_fieldMask, Nat.testBit_mod_two_pow, Nat.testBit_mul_two_pow]
  by_cases h : pos ≤ j ∧ j < pos + min wid (w - pos)
  · simp [h, hj]
  · simp [h, hj]

theorem bitsOf_zero {w : Nat} (x : BitVec w) (n : Nat) : bitsOf x 0 n = x.toNat % 2 ^ n := by
  rw [bitsOf, Nat.pow_zero, Nat.div_one]

/-- Settles O5: FUNNEL by its joined value, BFX and BFI bit by bit. -/
theorem fieldInstructions : Obligations.FieldInstructions := by
  unfold Obligations.FieldInstructions
  refine ⟨fun s g hg => ⟨fun f => ?funnel, fun f => ?_, fun f => ?_, fun f => ?_⟩,
    fun w hi modw a b n _ ha hb => funnelW_eq w hi modw n ha hb, fun w pos wid a signed _ _ => ?bfx, fun w pos wid a b _ ha _ => ?bfi⟩
  case bfx =>
    refine ⟨bfxW_outside signed a, fun hpos hwid => ⟨?_, fun j => testBit_bfxW signed a hpos hwid⟩⟩
    rw [bfxW_inside signed a hpos hwid]
    exact intBits_lt _ _
  case bfi => exact ⟨bfiW_outside a b, fun hpos hwid => ⟨bfiW_lt hpos hwid ha, fun j => testBit_bfiW a b hpos hwid⟩⟩
  case funnel => exact laneResult_of hg _ _ _ _ rfl rfl rfl
  -- the completion of each instruction: its meaning is a `laneOp`
  all_goals exact laneResult_of hg _ _ _ _ rfl (by simp only [bitsOf_zero]; rfl) rfl

/-! #### Bit counts and reversal (R115) -/

theorem length_takeWhile_not {α : Type} (p : α → Bool) (l : List α) : (l.takeWhile fun x => !p x).length = l.findIdx p := by
  rw [List.takeWhile_eq_take_findIdx_not, List.length_take, Nat.min_eq_left List.findIdx_le_length]
  simp

theorem ctzW_eq_findIdx (w a : Nat) : ctzW w a = (List.range w).findIdx a.testBit := length_takeWhile_not ..

theorem clzW_eq_findIdx (w a : Nat) : clzW w a = (List.range w).reverse.findIdx a.testBit := length_takeWhile_not ..

theorem clzW_ctzW_zero (w : Nat) : clzW w 0 = w ∧ ctzW w 0 = w := by
  rw [clzW_eq_findIdx, ctzW_eq_findIdx, List.findIdx_eq_length_of_false fun i _ => Nat.zero_testBit i,
    List.findIdx_eq_length_of_false fun i _ => Nat.zero_testBit i, List.length_reverse, List.length_range]
  exact ⟨rfl, rfl⟩

section
variable {w a : Nat} (ha : a < 2 ^ w) (h0 : a ≠ 0)
include ha

theorem testBit_above {i : Nat} (hi : w ≤ i) : a.testBit i = false :=
  Nat.testBit_lt_two_pow (Nat.lt_of_lt_of_le ha (Nat.pow_le_pow_right (by decide) hi))

include h0

theorem exists_testBit_lt : ∃ i, i < w ∧ a.testBit i = true := by
  obtain ⟨i, hi⟩ := Nat.exists_testBit_of_ne_zero h0
  refine ⟨i, Nat.lt_of_not_le fun hw => ?_, hi⟩
  rw [testBit_above ha hw] at hi
  exact Bool.false_ne_true hi

/-- CTZ of a nonzero value is the place of its lowest one bit. -/
theorem ctzW_lowest : ctzW w a < w ∧ a.testBit (ctzW w a) = true ∧ ∀ i, i < ctzW w a → a.testBit i = false := by
  rw [ctzW_eq_findIdx]
  obtain ⟨i, hi, hbit⟩ := exists_testBit_lt ha h0
  have hlt := List.findIdx_lt_length.mpr ⟨i, List.mem_range.mpr hi, hbit⟩
  refine ⟨by rwa [List.length_range] at hlt, ?_, fun j hj => ?_⟩
  · simpa only [List.getElem_range] using List.findIdx_getElem (w := hlt)
  · simpa only [List.getElem_range] using List.not_of_lt_findIdx hj

/-- CLZ of a nonzero value counts the bits above its highest one bit. -/
theorem clzW_highest :
    clzW w a < w ∧ a.testBit (w - 1 - clzW w a) = true ∧ ∀ i, w - 1 - clzW w a < i → a.testBit i = false := by
  rw [clzW_eq_findIdx]
  obtain ⟨i, hi, hbit⟩ := exists_testBit_lt ha h0
  have hlt := List.findIdx_lt_length.mpr ⟨i, List.mem_reverse.mpr (List.mem_range.mpr hi), hbit⟩
  have hw : (List.range w).reverse.findIdx a.testBit < w := by rwa [List.length_reverse, List.length_range] at hlt
  refine ⟨hw, ?_, fun j hj => ?_⟩
  · simpa only [List.getElem_reverse, List.getElem_range, List.length_range] using List.findIdx_getElem (w := hlt)
  · by_cases hjw : j < w
    · have hbefore : w - 1 - j < (List.range w).reverse.findIdx a.testBit := by omega
      have hsame : w - 1 - (w - 1 - j) = j := by omega
      simpa only [List.getElem_reverse, List.getElem_range, List.length_range, hsame] using List.not_of_lt_findIdx hbefore
    · exact testBit_above ha (Nat.le_of_not_lt hjw)

end

/-- BREV after its first `n` bits. -/
def brevUpto (w a n : Nat) : Nat := (List.range n).foldl (fun acc i => if a.testBit i then acc + 2 ^ (w - 1 - i) else acc) 0

theorem brevUpto_succ (w a n : Nat) :
    brevUpto w a (n + 1) = if a.testBit n then brevUpto w a n + 2 ^ (w - 1 - n) else brevUpto w a n := by
  rw [brevUpto, List.range_succ, List.foldl_append]
  rfl

/-- The first `n` bits of BREV's operand fill its `n` highest bits and leave those below 0. -/
theorem brevUpto_bits (w a : Nat) : ∀ n, n ≤ w →
    2 ^ (w - n) ∣ brevUpto w a n ∧ ∀ i, (brevUpto w a n).testBit i = (decide (w - n ≤ i ∧ i < w) && a.testBit (w - 1 - i)) := by
  intro n
  induction n with
  | zero =>
    refine fun _ => ⟨Nat.dvd_zero _, fun i => ?_⟩
    rw [decide_eq_false (by omega), brevUpto, List.range_zero, List.foldl_nil, Nat.zero_testBit, Bool.false_and]
  | succ n ih =>
    intro hn
    obtain ⟨hdvd, hbits⟩ := ih (by omega)
    have hk : w - n = (w - 1 - n) + 1 := by omega
    have hk' : w - (n + 1) = w - 1 - n := by omega
    rw [brevUpto_succ, hk']
    cases hbit : a.testBit n with
    | false =>
      refine ⟨Nat.dvd_trans (Nat.pow_dvd_pow 2 (by omega)) hdvd, fun i => ?_⟩
      rw [if_neg Bool.false_ne_true, hbits]
      by_cases hi : i = w - 1 - n
      · have hback : w - 1 - i = n := by omega
        rw [hback, hbit, Bool.and_false, Bool.and_false]
      · exact congrArg (· && _) (decide_eq_decide.mpr (by omega))
    | true =>
      obtain ⟨q, hq⟩ := hdvd
      have hor : brevUpto w a n + 2 ^ (w - 1 - n) = brevUpto w a n ||| 2 ^ (w - 1 - n) := by
        rw [hq, hk, Nat.two_pow_add_eq_or_of_lt (Nat.pow_lt_pow_right (by decide) (Nat.lt_succ_self _))]
      rw [if_pos rfl]
      refine ⟨?_, fun i => ?_⟩
      · exact Nat.dvd_add (hq ▸ Nat.dvd_trans (Nat.pow_dvd_pow 2 (by omega)) (Nat.dvd_mul_right _ q)) (Nat.dvd_refl _)
      · rw [hor, Nat.testBit_or, hbits, Nat.testBit_two_pow]
        by_cases hi : i = w - 1 - n
        · have hback : w - 1 - i = n := by omega
          rw [hback, hbit, decide_eq_true hi.symm, decide_eq_true (show w - 1 - n ≤ i ∧ i < w by omega)]
          exact Bool.or_true _
        · rw [decide_eq_false (show ¬ w - 1 - n = i from fun h => hi h.symm), Bool.or_false]
          exact congrArg (· && _) (decide_eq_decide.mpr (by omega))

theorem testBit_brevW (w a i : Nat) : (brevW w a).testBit i = (decide (i < w) && a.testBit (w - 1 - i)) := by
  rw [show brevW w a = brevUpto w a w from rfl, (brevUpto_bits w a w (Nat.le_refl w)).2]
  exact congrArg (· && _) (decide_eq_decide.mpr (by omega))

theorem brevW_lt (w a : Nat) : brevW w a < 2 ^ w :=
  Nat.lt_pow_two_of_testBit _ fun i hi => by rw [testBit_brevW, decide_eq_false (Nat.not_lt.mpr hi), Bool.false_and]

/-- Settles O6: the counts are places of one bits, and the reversal moves each bit to its mirror image. -/
theorem bitCounts : Obligations.BitCounts := by
  unfold Obligations.BitCounts
  refine ⟨fun s g hg => ⟨?_, ?_, ?_, ?_⟩, fun w a _ ha => ⟨rfl, ?zero, clzW_highest ha, ctzW_lowest ha, brevW_lt w a, fun i hi => ?brev⟩⟩
  case zero =>
    rintro rfl
    exact clzW_ctzW_zero w
  case brev => rw [testBit_brevW, decide_eq_true hi, Bool.true_and]
  -- the completion of each instruction: its meaning is a `laneOp`
  all_goals exact fun f => laneResult_of hg _ _ _ _ rfl rfl rfl

end Sys2Proof.Machine
end

/-! ### Permutes, moves, addresses and predicates (R116 to R123) -/

section
namespace Sys2Proof.Machine

/-! #### PRMT's bytes (R116) -/

/-- Byte `j` of the pool: byte `j` of A for the lower four, byte `j - 4` of B for the upper. -/
theorem poolByte_eq (a b : W32) {j : Nat} (hj : j < 8) :
    bitsOf (b ++ a : BitVec 64) (8 * j) 8
      = if j < 4 then a.toNat / 2 ^ (8 * j) % 256 else b.toNat / 2 ^ (8 * (j - 4)) % 256 := by
  have ha : a.toNat < 2 ^ 32 := a.isLt
  have hjoin : (b ++ a : BitVec 64).toNat = 2 ^ 32 * b.toNat + a.toNat := by
    rw [BitVec.toNat_append, Nat.shiftLeft_eq, Nat.mul_comm, Nat.two_pow_add_eq_or_of_lt ha]
  rw [bitsOf, hjoin]
  split
  case isTrue h =>
    have hsplit : 2 ^ 32 * b.toNat = 2 ^ (8 * j) * (2 ^ 8 * (2 ^ (24 - 8 * j) * b.toNat)) := by
      rw [← Nat.mul_assoc, ← Nat.mul_assoc, ← Nat.pow_add, ← Nat.pow_add]
      congr 2
      omega
    rw [hsplit, Nat.mul_add_div (Nat.two_pow_pos _), Nat.mul_add_mod, show (2 : Nat) ^ 8 = 256 from rfl]
  case isFalse h =>
    have hsplit : 2 ^ (8 * j) = 2 ^ 32 * 2 ^ (8 * (j - 4)) := by
      rw [← Nat.pow_add]
      congr 1
      omega
    rw [hsplit, ← Nat.div_div_eq_div_mul, Nat.mul_add_div (Nat.two_pow_pos _), Nat.div_eq_of_lt ha, Nat.add_zero,
      show (2 : Nat) ^ 8 = 256 from rfl]

theorem prmtByte_eq (a b : W32) {nib : Nat} (h : nib < 16) :
    prmtByte a b nib
      = if nib < 8 then bitsOf (b ++ a : BitVec 64) (8 * (nib % 8)) 8
        else if 128 ≤ bitsOf (b ++ a : BitVec 64) (8 * (nib % 8)) 8 then 255 else 0 := by
  have hhigh : nib / 8 % 2 = 0 ↔ nib < 8 := by omega
  unfold prmtByte
  dsimp only
  by_cases hlow : nib < 8
  · rw [if_pos hlow, if_pos (hhigh.mpr hlow)]
  · rw [if_neg hlow, if_neg (mt hhigh.mp hlow)]

theorem prmtByte_lt (a b : W32) (nib : Nat) : prmtByte a b nib < 256 := by
  have hpool : bitsOf (b ++ a : BitVec 64) (8 * (nib % 8)) 8 < 256 := Nat.mod_lt _ (by decide)
  unfold prmtByte
  dsimp only
  split
  · exact hpool
  · split <;> decide

theorem foldr_bytes (es : List Nat) (h : ∀ e ∈ es, e < 2 ^ 8) :
    es.foldr (fun e acc => e + 256 * acc) 0 = es.foldr (fun e acc => e % 2 ^ 8 + 2 ^ 8 * acc) 0 := by
  induction es with
  | nil => exact List.foldr_nil
  | cons e r ih =>
    rw [List.foldr_cons, List.foldr_cons, Nat.mod_eq_of_lt (h e List.mem_cons_self), ← ih fun e he => h e (List.mem_cons_of_mem _ he),
      show (2 : Nat) ^ 8 = 256 from rfl]

/-- The bytes of PRMT's result, byte 0 first. -/
def prmtBytes (a b c : W32) : List Nat := (List.range 4).map fun k => prmtByte a b (bitsOf c (4 * k) 4)

theorem prmt_toNat (a b c : W32) : (prmt a b c).toNat = (prmtBytes a b c).foldr (fun e acc => e % 2 ^ 8 + 2 ^ 8 * acc) 0 := by
  have hlt (e : Nat) (he : e ∈ prmtBytes a b c) : e < 2 ^ 8 := by
    obtain ⟨k, -, rfl⟩ := List.mem_map.mp he
    exact prmtByte_lt ..
  rw [prmt, ← prmtBytes, foldr_bytes _ hlt, BitVec.toNat_ofNat]
  exact Nat.mod_eq_of_lt (packSum_lt 8 (prmtBytes a b c))

/-- Each byte of PRMT's result is the one of its selector nibble. -/
theorem prmt_byte (a b c : W32) {k : Nat} (hk : k < 4) :
    (prmt a b c).toNat / 2 ^ (8 * k) % 256 = prmtByte a b (bitsOf c (4 * k) 4) := by
  have hbyte : (prmtBytes a b c)[k]'hk = prmtByte a b (bitsOf c (4 * k) 4) := by simp [prmtBytes]
  rw [prmt_toNat, ← hbyte]
  exact (packSum_elem 8 (prmtBytes a b c) k hk).trans (Nat.mod_eq_of_lt (hbyte ▸ prmtByte_lt ..))

/-! #### MOVI and LEA (R117, R118) -/

theorem moviValue_eq (t : Ty) (lit : BitVec 32) :
    moviValue t lit = if t = .s64 then lit.signExtend 64 else lit.setWidth 64 := by
  cases t <;> rfl

theorem leaIndex_eq (f : CForm) (x : Fibre) :
    leaIndex f x
      = if f.ty = .s32 then (x.rv f.b).signExtend 64 else if f.ty = .n32 then (x.rv f.b).setWidth 64 else x.rx f.b := by
  unfold leaIndex
  cases f.ty <;> rfl

/-- Settles O7: PRMT byte by byte; the others are lane operations. -/
theorem movesAndAddresses : Obligations.MovesAndAddresses := by
  unfold Obligations.MovesAndAddresses
  refine ⟨fun s g hg => ⟨fun f => ?_, fun f => ?_, fun f => ?_, fun f => ?movi, fun f => ?lea, fun f => ?_⟩, fun a b c k hk => ?prmt⟩
  case movi => exact laneResult_of hg _ _ _ _ rfl (by simp only [moviValue_eq]) rfl
  case lea => exact laneResult_of hg _ _ _ _ rfl (by simp only [leaIndex_eq, bitsOf_zero]) rfl
  case prmt =>
    intro nib pool
    have hnib : nib < 16 := Nat.mod_lt _ (by decide)
    rw [prmt_byte a b c hk, show bitsOf c (4 * k) 4 = nib from rfl, prmtByte_eq a b hnib, poolByte_eq a b (Nat.mod_lt _ (by decide))]
  -- the completion of each instruction: its meaning is a `laneOp`
  all_goals exact laneResult_of hg _ _ _ _ rfl rfl rfl

/-! #### Compares and predicates (R120 to R123) -/

/-- The conditions of R42 that CMP has, by their codes. -/
theorem intCond_iff (x y : Int) (m : BitVec 4) (hm : m.toNat < 6) :
    intCond m x y = true ↔
      (m = 0 ∧ x = y) ∨ (m = 1 ∧ x ≠ y) ∨ (m = 2 ∧ x < y) ∨ (m = 3 ∧ x ≤ y) ∨ (m = 4 ∧ x > y) ∨ (m = 5 ∧ x ≥ y) := by
  obtain rfl | rfl | rfl | rfl | rfl | rfl : m = 0 ∨ m = 1 ∨ m = 2 ∨ m = 3 ∨ m = 4 ∨ m = 5 := by bv_omega
  all_goals simp [intCond]

/-- What a predicate reads after one is written. -/
theorem rp_wp (x : Fibre) {d : Nat} (n : Nat) (b : Bool) (hd : d < 12) : (x.wp d b).rp n = if n = d then b else x.rp n := by
  have hbit : (BitVec.ofNat 12 (2 ^ d)).getLsbD n = decide (n = d) := by
    rw [BitVec.getLsbD_ofNat, Nat.testBit_two_pow, ← Bool.decide_and]
    exact decide_eq_decide.mpr (by omega)
  have hpick : (if b then BitVec.ofNat 12 (2 ^ d) else 0).getLsbD n = (b && decide (n = d)) := by
    cases b
    · exact BitVec.getLsbD_zero
    · exact hbit
  rw [Fibre.rp, Fibre.wp, BitVec.getLsbD_or, BitVec.getLsbD_and, BitVec.getLsbD_not, hbit, hpick]
  by_cases h : n = d
  · simp [h]
  · by_cases h12 : n < 12
    · simp [h, h12, Fibre.rp]
    · simp [h, Fibre.rp, BitVec.getLsbD_of_ge _ _ (Nat.le_of_not_lt h12)]

/-- Settles O8: each instruction is a lane operation, CMP's condition that of its code, and `wp` writes one bit. -/
theorem predicateInstructions : Obligations.PredicateInstructions := by
  unfold Obligations.PredicateInstructions
  refine ⟨fun s g hg => ⟨?_, ?_, ?_, ?_, ?_, ?_, ?_, ?_, ?_⟩, fun m t a b hm _ _ => intCond_iff _ _ m hm,
    fun x d n b hd => ⟨rp_wp x n b hd, rfl⟩⟩
  -- the completion of each instruction: its meaning is a `laneOp`
  all_goals exact fun f => laneResult_of hg _ _ _ _ rfl rfl rfl

end Sys2Proof.Machine
end

/-! ### Floating compare, sign copying and classification (R42, R121, R131, R133) -/

section
namespace Sys2Proof.Machine

/-- The place of a register value in the order of FCMP, in which -0 equals +0. -/
def cmpKey (t : Ty) (v : W64) : Int := withSign (negOf t v) (magOf t v)

/-- The conditions of R42 that FCMP has, on two keys of which `un` says whether one belongs to a NaN. -/
def fcmpHolds (c : BitVec 4) (un : Prop) (x y : Int) : Prop :=
  match c.toNat with
  | 0 => ¬ un ∧ x = y
  | 1 => ¬ un ∧ x ≠ y
  | 2 => ¬ un ∧ x < y
  | 3 => ¬ un ∧ x ≤ y
  | 4 => ¬ un ∧ y < x
  | 5 => ¬ un ∧ y ≤ x
  | 6 => ¬ un
  | 8 => un ∨ x = y
  | 9 => un ∨ x ≠ y
  | 10 => un ∨ x < y
  | 11 => un ∨ x ≤ y
  | 12 => un ∨ y < x
  | 13 => un ∨ y ≤ x
  | _ => un

section
variable {t : Ty} (ht : IeeeFormat t)
include ht

theorem isNan_or (a b : W64) : ((floatOf t a).isNan || (floatOf t b).isNan) = decide (NanCode t a ∨ NanCode t b) := by
  rw [isNan_floatOf ht, isNan_floatOf ht, Bool.decide_or]

theorem fcmpT_fst (c : BitVec 4) (a b : W64) :
    (fcmpT c t a b).1 = true ↔ fcmpHolds c (NanCode t a ∨ NanCode t b) (cmpKey t a) (cmpKey t b) := by
  unfold fcmpT fcmpHolds
  simp only [isNan_or ht]
  by_cases hu : NanCode t a ∨ NanCode t b
  · simp only [hu, decide_true, Bool.not_true, Bool.false_and, Bool.true_or]
    match c.toNat with
    | 0 | 1 | 2 | 3 | 4 | 5 | 6 | 7 | 8 | 9 | 10 | 11 | 12 | 13 | n + 14 => simp
  · obtain ⟨ha, hb⟩ := not_or.mp hu
    have hlt : ltVals (floatOf t a) (floatOf t b) = decide (cmpKey t a < cmpKey t b) := ltVals_floatOf ht ha hb
    have hgt : ltVals (floatOf t b) (floatOf t a) = decide (cmpKey t b < cmpKey t a) := ltVals_floatOf ht hb ha
    simp only [hu, decide_false, Bool.not_false, Bool.true_and, hlt, hgt]
    match c.toNat with
    | 0 | 1 | 2 | 3 | 4 | 5 | 6 | 7 | 8 | 9 | 10 | 11 | 12 | 13 | n + 14 => simp <;> omega

theorem fcmpT_snd (c : BitVec 4) (a b : W64) :
    (fcmpT c t a b).2
      = if (2 ≤ c.toNat ∧ c.toNat ≤ 5 ∧ (NanCode t a ∨ NanCode t b)) ∨ SigCode t a ∨ SigCode t b then flNV else 0 := by
  have hordered : (decide (2 ≤ c.toNat) && decide (c.toNat ≤ 5) && decide (NanCode t a ∨ NanCode t b)) = true
      ↔ 2 ≤ c.toNat ∧ c.toNat ≤ 5 ∧ (NanCode t a ∨ NanCode t b) := by simp [and_assoc]
  unfold fcmpT
  simp only [isNan_or ht, sigFlags_floatOf ht]
  by_cases h : 2 ≤ c.toNat ∧ c.toNat ≤ 5 ∧ (NanCode t a ∨ NanCode t b)
  · rw [if_pos (hordered.mpr h), if_pos (.inl h)]
  · rw [if_neg (mt hordered.mp h)]
    by_cases hs : SigCode t a ∨ SigCode t b
    · rw [if_pos (.inr hs)]
      exact congrArg (flagIf · flNV) (decide_eq_true hs)
    · rw [if_neg (not_or.mpr ⟨h, hs⟩)]
      exact congrArg (flagIf · flNV) (decide_eq_false hs)

/-- FCOPYSIGN of a value that is no NaN joins its magnitude and the other's sign. -/
theorem fcopysignT_notNan {a : W64} (b : W64) (h : ¬ NanCode t a) :
    fcopysignT t a b = (BitVec.ofNat 64 (magOf t a + if negOf t b then 2 ^ (elemWidth t - 1) else 0), 0) := by
  unfold fcopysignT FFmt.signed FFmt.signBit
  dsimp only
  rw [ht.width]
  obtain hv | ⟨n, e, hv⟩ := floatOf_notNan ht h <;> rw [hv] <;> rfl

theorem fcopysignT_nan {a : W64} (b : W64) (h : NanCode t a) : fcopysignT t a b = nanOut t (decide (SigCode t a)) := by
  rw [fcopysignT, floatOf_nan ht h]
  rfl

end

/-- The class of a finite magnitude code (R133): zero, subnormal or normal. -/
theorem FFmt.finOf_class (f : FFmt) (neg : Bool) (c : Nat) :
    ∃ n e, f.finOf neg c = .fin neg n e ∧ (n = 0 ↔ c = 0) ∧ (c ≠ 0 → ((log2 n : Int) + e < f.emin ↔ c < 2 ^ f.m)) := by
  have hpos : 0 < 2 ^ f.m := Nat.two_pow_pos f.m
  unfold FFmt.finOf
  split <;> rename_i h
  · have hlt : c < 2 ^ f.m := (Nat.div_eq_zero_iff_lt hpos).mp h
    refine ⟨_, _, rfl, by rw [Nat.mod_eq_of_lt hlt], fun h0 => ⟨fun _ => hlt, fun _ => ?_⟩⟩
    have hlog : log2 c < f.m := (Nat.log2_lt h0).mpr hlt
    rw [Nat.mod_eq_of_lt hlt]
    omega
  · have hge : 2 ^ f.m ≤ c := Nat.le_of_not_lt fun hlt => h (Nat.div_eq_of_lt hlt)
    have hne : 2 ^ f.m + c % 2 ^ f.m ≠ 0 := by omega
    have hlog : f.m ≤ log2 (2 ^ f.m + c % 2 ^ f.m) := (Nat.le_log2 hne).mpr (Nat.le_add_right _ _)
    refine ⟨_, _, rfl, by omega, fun _ => ⟨fun hlow => ?_, fun hlt => by omega⟩⟩
    unfold FFmt.emin at hlow
    generalize c / 2 ^ f.m = q at h hlow
    omega

/-- The bit of a value's class in the mask of R133. -/
def classBit (t : Ty) (v : W64) : Nat :=
  if NanCode t v then (if (magOf t v).testBit ((fmtOf t).m - 1) then 9 else 8)
  else if magOf t v = infCode t then (if negOf t v then 0 else 7)
  else if magOf t v = 0 then (if negOf t v then 3 else 4)
  else if magOf t v < 2 ^ (fmtOf t).m then (if negOf t v then 2 else 5)
  else (if negOf t v then 1 else 6)

theorem fclassT_eq {t : Ty} (ht : IeeeFormat t) (a : W64) : fclassT t a = BitVec.ofNat 32 (2 ^ classBit t a) := by
  unfold fclassT classBit
  dsimp only
  by_cases hn : NanCode t a
  · rw [floatOf_nan ht hn, if_pos hn]
    by_cases hq : (magOf t a).testBit ((fmtOf t).m - 1) = true
    · simp [hq]
    · simp [hn, hq]
  · rw [if_neg hn]
    by_cases hi : magOf t a = infCode t
    · rw [floatOf_inf ht hi, if_pos hi]
    · obtain ⟨n, e, hv, hzero, hsub⟩ := (fmtOf t).finOf_class (negOf t a) (magOf t a)
      rw [floatOf_fin ht (by omega), hv, if_neg hi]
      dsimp only
      by_cases h0 : magOf t a = 0
      · rw [if_pos h0, if_pos (hzero.mpr h0)]
      · rw [if_neg h0, if_neg (mt hzero.mp h0)]
        by_cases hs : magOf t a < 2 ^ (fmtOf t).m
        · rw [if_pos hs, if_pos ((hsub h0).mpr hs)]
        · rw [if_neg hs, if_neg (mt (hsub h0).mp hs)]

/-- Settles O11: FCMP by the order of signed magnitude codes, FCOPYSIGN and FCLASS by the cases of the code. -/
theorem compareCopysignClass : Obligations.CompareCopysignClass := by
  unfold Obligations.CompareCopysignClass
  refine ⟨⟨fun s g f hg => laneResult_of hg _ _ _ _ rfl rfl rfl, fun c t a b hmem => ?compare⟩, fun t a b hmem _ => ?values,
    fun s g f hg => ⟨laneResult_of hg _ _ _ _ rfl rfl rfl, laneResult_of hg _ _ _ _ rfl rfl rfl⟩⟩ <;>
    have hcases := ieeeType_cases hmem <;> have ht := ieeeFormat_of_cases hcases
  case compare =>
    intro w mag inf nan sig key un p
    have hp : p ↔ fcmpHolds c un (key a) (key b) := fcmpT_fst ht c a b
    refine ⟨?_, ?_, ?_, ?_, ?_, ?_, ?_, ?_, ?_, ?_, ?_, ?_, ?_, ?_, fcmpT_snd ht c a b⟩
    all_goals
      rintro rfl
      exact hp
  case values =>
    intro w mag inf neg sig canon
    have hcanon : BitVec.ofNat 64 (fmtOf t).nanBits = canon := by obtain rfl | rfl | rfl | rfl := hcases <;> rfl
    refine ⟨fun h => fcopysignT_notNan ht b (Nat.not_lt.mpr h), fun h => ?_, fclassT_eq ht a⟩
    rw [fcopysignT_nan ht b h]
    exact ⟨hcanon, nanOut_signalling t, nanOut_quiet t⟩

end Sys2Proof.Machine
end

/-! ### Exchanges between lanes, reductions and scans (R147 to R149) -/

section
namespace Sys2Proof.Machine

/-- A result need agree with another one in the lanes of EXEC only. -/
theorem LaneResult.congr {i : Instr} {s : State} {g : Gang} {gd : Guard} {upd upd' : Nat → Fibre → Fibre} {flags : Nat → Fibre → W32}
    (h : LaneResult i s g gd upd flags)
    (heq : ∀ l, (execLanes s g gd).getLsbD l = true → upd l (g.lane l) = upd' l (g.lane l)) : LaneResult i s g gd upd' flags := by
  obtain ⟨k, hexec, hlanes, hrest⟩ := h
  refine ⟨k, hexec, fun l => ?_, hrest⟩
  rw [hlanes l]
  split
  case isTrue he => exact congrArg (fun y : Fibre => { y with pc := s.cur.next }) (heq l he)
  case isFalse => rfl

/-! #### SHFL, VOTE, BALLOT and ELECT (R147, R148) -/

theorem shflSource_fst (m sz l b : Nat) :
    (shflSource m sz l b).1
      = if m = 0 then l - l % sz + b % sz else if m = 1 then l - b else if m = 2 then l + b else l ^^^ (b % sz) := by
  match m with
  | 0 | 1 | 2 | n + 3 => rfl

/-- The source is used if the condition of `.lower` or `.higher` holds and `c` does. -/
theorem shflSource_snd_and (m sz l b : Nat) (c : Bool) :
    ((shflSource m sz l b).2 && c)
      = decide ((m = 1 → b ≤ l - (l - l % sz)) ∧ (m = 2 → b < l - l % sz + sz - l) ∧ c = true) := by
  match m with
  | 0 | 1 | 2 | n + 3 => simp [shflSource]

theorem getLsbD_predLanes (f : AForm) (s : State) (g : Gang) (k : Nat) :
    (predLanes f s g).getLsbD k = ((execLanes s g f.g).getLsbD k && (g.lane k).rp f.a) := by
  rw [predLanes, getLsbD_maskOf]
  by_cases hk : k < 32
  · rw [decide_eq_true hk, Bool.true_and]
  · rw [decide_eq_false hk, BitVec.getLsbD_of_ge _ _ (Nat.le_of_not_lt hk), Bool.false_and, Bool.false_and]

/-- The predicate is 1 throughout EXEC. -/
theorem predLanes_beq_exec (f : AForm) (s : State) (g : Gang) :
    (predLanes f s g == execLanes s g f.g) = (lanesOf (execLanes s g f.g)).all fun k => (g.lane k).rp f.a := by
  rw [Bool.eq_iff_iff, beq_iff_eq, List.all_eq_true, BitVec.eq_of_getLsbD_eq_iff]
  simp only [getLsbD_predLanes, mem_lanesOf, Bool.and_eq_left_iff_imp, and_imp]

/-- The predicate is 0 throughout EXEC. -/
theorem predLanes_beq_zero (f : AForm) (s : State) (g : Gang) :
    (predLanes f s g == 0) = (lanesOf (execLanes s g f.g)).all fun k => !(g.lane k).rp f.a := by
  rw [Bool.eq_iff_iff, beq_iff_eq, List.all_eq_true, BitVec.eq_of_getLsbD_eq_iff]
  simp [getLsbD_predLanes, mem_lanesOf]

/-- VOTE's modes. -/
theorem voteOf_eq (m : Nat) (exec yes : Mask) :
    voteOf m exec yes = if m = 0 then yes == exec else if m = 1 then !(yes == 0) else yes == exec || yes == 0 := by
  match m with
  | 0 | 1 | n + 2 => rfl

/-- A lane of a mask is its lowest one exactly if no lane below it is in the mask. -/
theorem eq_lowLane_iff {m : Mask} {l : Nat} (h : m.getLsbD l = true) : l = lowLane m ↔ ∀ k, k < l → m.getLsbD k = false := by
  have hl : l < 32 := Nat.lt_of_not_le fun hge => Bool.false_ne_true ((BitVec.getLsbD_of_ge m l hge).symm.trans h)
  have hfind : lowLane m = ((List.range 32).find? fun k => m.getLsbD k).getD 0 := by
    rw [lowLane, lanesOf, List.headD_eq_head?_getD, List.head?_filter]
  obtain ⟨j, hj⟩ := Option.isSome_iff_exists.mp (List.find?_isSome.mpr ⟨l, List.mem_range.mpr hl, h⟩)
  obtain ⟨hbit, -, hleast⟩ := List.find?_range_eq_some.mp hj
  rw [hfind, hj, Option.getD_some]
  constructor
  · rintro rfl k hk
    exact (Bool.not_eq_true' _).mp (hleast k hk)
  · intro hnone
    have hlj : ¬ l < j := fun hlt => by simpa [h] using hleast l hlt
    have hjl : ¬ j < l := fun hlt => Bool.false_ne_true ((hnone j hlt).symm.trans hbit)
    omega

section
variable {s : State} {g : Gang} (hg : Issues s g)
include hg

theorem execShfl_completes (f : CForm) :
    LaneResult (.shfl f) s g f.g fun l x =>
      let sz := 2 ^ (f.ext.toNat % 8)
      let b := (x.rv f.b).toNat
      let base := l - l % sz
      let m := f.mod.toNat % 4
      let src := if m = 0 then base + b % sz else if m = 1 then l - b else if m = 2 then l + b else l ^^^ (b % sz)
      let ok := (m = 1 → b ≤ l - base) ∧ (m = 2 → b < base + sz - l) ∧ (execLanes s g f.g).getLsbD src = true
      (x.wt f.ty f.d (f.va (if ok then g.lane src else x))).wp f.c (decide ok) := by
  refine laneResult_of hg _ _ _ _ rfl ?_ rfl
  have hmode : bitsOf f.mod 0 2 = f.mod.toNat % 4 := bitsOf_zero f.mod 2
  have hseg : bitsOf f.ext 0 3 = f.ext.toNat % 8 := bitsOf_zero f.ext 3
  funext l x
  simp only [hmode, hseg, shflSource_fst, shflSource_snd_and, decide_eq_true_eq]

theorem execVote_completes (f : AForm) :
    LaneResult (.vote f) s g f.g fun _ x =>
      let every := (lanesOf (execLanes s g f.g)).all fun k => (g.lane k).rp f.a
      let none := (lanesOf (execLanes s g f.g)).all fun k => !(g.lane k).rp f.a
      x.wp f.d (if f.mod.toNat % 4 = 0 then every else if f.mod.toNat % 4 = 1 then !none else every || none) := by
  refine laneResult_of hg _ _ _ _ rfl ?_ rfl
  have hmode : bitsOf f.mod 0 2 = f.mod.toNat % 4 := bitsOf_zero f.mod 2
  funext _ x
  rw [hmode, voteOf_eq, predLanes_beq_exec, predLanes_beq_zero]

theorem execElect_completes (f : AForm) :
    LaneResult (.elect f) s g f.g fun l x =>
      x.wp f.d (decide (∀ k, k < l → (execLanes s g f.g).getLsbD k = false)) := by
  have hlow : LaneResult (.elect f) s g f.g fun l x => x.wp f.d (l == lowLane (execLanes s g f.g)) :=
    laneResult_of hg _ _ _ _ rfl rfl rfl
  refine hlow.congr fun l he => congrArg _ ?_
  rw [Bool.eq_iff_iff, beq_iff_eq, decide_eq_true_eq]
  exact eq_lowLane_iff he

end

/-! #### Integer reductions (R149) -/

/-- The scalar integer types. -/
abbrev ScalarInt (t : Ty) : Prop := t ∈ [Ty.s32, .n32, .s64, .n64]

theorem ScalarInt.cases {t : Ty} (ht : ScalarInt t) : t = .s32 ∨ t = .n32 ∨ t = .s64 ∨ t = .n64 := by
  simpa only [ScalarInt, List.mem_cons, List.not_mem_nil, or_false] using ht

theorem ScalarInt.not_isFloat {t : Ty} (ht : ScalarInt t) : isFloat t = false := by
  obtain rfl | rfl | rfl | rfl := ht.cases <;> rfl

theorem ScalarInt.elemsOf_eq_one {t : Ty} (ht : ScalarInt t) : elemsOf t = 1 := by
  obtain rfl | rfl | rfl | rfl := ht.cases <;> rfl

theorem combine_int {f : AForm} (ht : ScalarInt f.ty) (scan : Bool) (g : Gang) (ls : List Nat) :
    combine f scan g ls = (foldInt f.ty (f.mod.toNat % 8) (ls.map fun l => f.va (g.lane l)), 0) := by
  have hop : bitsOf f.mod 0 3 = f.mod.toNat % 8 := bitsOf_zero f.mod 3
  unfold combine
  rw [ht.not_isFloat, hop]
  exact if_neg Bool.false_ne_true

/-- What a register gives as an operand of a scalar integer type has the type's width. -/
theorem rt_lt {t : Ty} (ht : ScalarInt t) (x : Fibre) (n : Nat) : (x.rt t n).toNat < 2 ^ elemWidth t := by
  obtain rfl | rfl | rfl | rfl := ht.cases
  case inl | inr.inl =>
    show ((x.rv n).setWidth 64).toNat < 2 ^ 32
    rw [BitVec.toNat_setWidth_of_le (by decide)]
    exact (x.rv n).isLt
  case inr.inr.inl | inr.inr.inr => exact (x.rx n).isLt

/-- The wrapped sum of two signed or unsigned values is the sum of their bits, modulo 2^w. -/
theorem intBits_intOf_add (signed : Bool) (w a b : Nat) : intBits w (intOf signed w a + intOf signed w b) = (a + b) % 2 ^ w := by
  have hbits (n : Nat) : intOf signed w n % 2 ^ w = (n : Int) % 2 ^ w := by
    rw [← natCast_intBits, intBits_intOf]
    push_cast
    rfl
  rw [← intBits_natCast, intBits, intBits, Int.add_emod, hbits, hbits, ← Int.add_emod, Int.natCast_add]

theorem intOp_add_scalar {t : Ty} (ht : ScalarInt t) (a b : W64) :
    intOp t (· + ·) a b = BitVec.ofNat 64 ((a.toNat + b.toNat) % 2 ^ elemWidth t) := by
  simp [intOp, zipElems, packElems, ht.elemsOf_eq_one, intBits_intOf_add, elemAt_zero]

theorem toNat_intOp_add_scalar {t : Ty} (ht : ScalarInt t) (a b : W64) :
    (intOp t (· + ·) a b).toNat = (a.toNat + b.toNat) % 2 ^ elemWidth t := by
  have hw : elemWidth t ≤ 64 := by simpa only [ht.elemsOf_eq_one, Nat.mul_one] using elems_fit t
  rw [intOp_add_scalar ht, BitVec.toNat_ofNat, Nat.mod_mod_of_dvd' (Nat.pow_dvd_pow 2 hw)]

theorem foldl_add_scalar {t : Ty} (ht : ScalarInt t) (vs : List W64) (v : W64) (hv : v.toNat < 2 ^ elemWidth t) :
    vs.foldl (intOp t (· + ·)) v = BitVec.ofNat 64 ((v.toNat + (vs.map BitVec.toNat).sum) % 2 ^ elemWidth t) := by
  induction vs generalizing v with
  | nil => simp [Nat.mod_eq_of_lt hv]
  | cons u r ih =>
    have hsum := toNat_intOp_add_scalar ht v u
    rw [List.foldl_cons, ih _ (hsum ▸ Nat.mod_lt _ (Nat.two_pow_pos _)), hsum, Nat.mod_add_mod, List.map_cons, List.sum_cons,
      Nat.add_assoc]

/-- The ADD combination of values of the type's width, which over no value is 0. -/
theorem foldInt_add {t : Ty} (ht : ScalarInt t) (vs : List W64) (hvs : ∀ v ∈ vs, v.toNat < 2 ^ elemWidth t) :
    foldInt t 0 vs = BitVec.ofNat 64 ((vs.map BitVec.toNat).sum % 2 ^ elemWidth t) := by
  cases vs with
  | nil => rfl
  | cons v r => exact foldl_add_scalar ht r v (hvs v List.mem_cons_self)

/-- The sum of what the lanes' registers hold. -/
theorem combine_add {f : AForm} (ht : ScalarInt f.ty) (scan : Bool) (g : Gang) (ls : List Nat) (h : f.mod.toNat % 8 = 0) :
    combine f scan g ls = (BitVec.ofNat 64 ((ls.map fun l => (f.va (g.lane l)).toNat).sum % 2 ^ elemWidth f.ty), 0) := by
  have hwidth (v : W64) (hv : v ∈ ls.map fun l => f.va (g.lane l)) : v.toNat < 2 ^ elemWidth f.ty := by
    obtain ⟨l, -, rfl⟩ := List.mem_map.mp hv
    exact rt_lt ht _ _
  rw [combine_int ht, h, foldInt_add ht _ hwidth, List.map_map]
  rfl

/-- The identities of MIN, MAX, AND, OR and XOR. -/
theorem foldInt_nil {t : Ty} (ht : ScalarInt t) :
    foldInt t 1 [] = BitVec.ofNat 64 (if isSigned t then 2 ^ (elemWidth t - 1) - 1 else 2 ^ elemWidth t - 1)
    ∧ foldInt t 2 [] = BitVec.ofNat 64 (if isSigned t then 2 ^ (elemWidth t - 1) else 0)
    ∧ foldInt t 3 [] = BitVec.ofNat 64 (2 ^ elemWidth t - 1) ∧ foldInt t 4 [] = 0 ∧ foldInt t 5 [] = 0 := by
  obtain rfl | rfl | rfl | rfl := ht.cases <;> decide

/-- Settles O14: the exchanges and reductions are lane operations, of which ELECT's agrees in EXEC alone; the ADD form by its sum,
the identities by the four types. -/
theorem laneExchangeAndReduction : Obligations.LaneExchangeAndReduction := by
  unfold Obligations.LaneExchangeAndReduction
  refine ⟨fun s g hg => ⟨execShfl_completes hg, execVote_completes hg, fun f => ?ballot, execElect_completes hg⟩,
    fun s g hg => ⟨fun f => ?reduce, fun f => ?scan⟩, fun f scan g ls ht => ?values⟩
  case ballot => exact ⟨predLanes f s g, laneResult_of hg _ _ _ _ rfl rfl rfl, fun k _ => getLsbD_predLanes f s g k⟩
  case reduce => exact laneResult_of hg _ _ _ _ rfl rfl rfl
  case scan => exact laneResult_of hg _ _ _ _ rfl rfl rfl
  case values =>
    obtain ⟨hmin, hmax, hand, hor, hxor⟩ := foldInt_nil ht
    refine ⟨combine_add ht scan g ls, ?_⟩
    rw [combine_int ht, List.map_nil]
    refine ⟨fun h => h ▸ hmin, fun h => h ▸ hmax, fun h => h ▸ hand, fun h => ?_⟩
    obtain h | h := h
    · rw [h, hor]
    · rw [h, hxor]

end Sys2Proof.Machine
end

/-! ### Branches, calls and returns (R153 to R157) -/

section
namespace Sys2Proof.Machine

/-! #### Legal targets and entries (R153, R154) -/

theorem bitsOf_eq_zero_iff_lt {w : Nat} (x : BitVec w) {lo n : Nat} (h : w ≤ lo + n) : bitsOf x lo n = 0 ↔ x.toNat < 2 ^ lo := by
  have hlt : x.toNat / 2 ^ lo < 2 ^ n :=
    Nat.div_lt_of_lt_mul (Nat.lt_of_lt_of_le x.isLt (Nat.pow_add .. ▸ Nat.pow_le_pow_right Nat.two_pos h))
  rw [bitsOf, Nat.mod_eq_of_lt hlt, Nat.div_eq_zero_iff_lt (Nat.two_pow_pos lo)]

theorem targetOk_iff (s : State) (x : Fibre) (t : W64) : targetOk s x t = true ↔ InCode s x t := by
  have hhigh : bitsOf t 56 8 = 0 ↔ t.toNat < 2 ^ 56 := bitsOf_eq_zero_iff_lt t (by decide)
  have hlow : bitsOf t 0 2 = t.toNat % 4 := bitsOf_zero t 2
  unfold targetOk InCode imageOf
  rw [Bool.and_eq_true, Bool.and_eq_true, beq_iff_eq, beq_iff_eq, hhigh, hlow, and_assoc, Bool.or_eq_true]
  cases s.launch? x.launch <;> simp

theorem entryOk_iff (s : State) (x : Fibre) (t : W64) (kernels : Bool) : entryOk s x t kernels = true ↔ IsEntry s x t kernels := by
  unfold entryOk IsEntry imageOf
  cases s.launch? x.launch with
  | none => rfl
  | some k => simp

/-! #### The checks before a transfer (R153 to R156) -/

theorem branchCheck_of_inCode {s : State} {t : Fibre → W64} {x : Fibre} (h : InCode s x (t x)) : branchCheck s t x = none :=
  if_pos ((targetOk_iff s x _).mpr h)

theorem branchCheck_of_not_inCode {s : State} {t : Fibre → W64} {x : Fibre} (h : ¬ InCode s x (t x)) :
    branchCheck s t x = some (t x, 0x83) :=
  if_neg (mt (targetOk_iff s x _).mp h)

theorem callCheck_of_not_inCode {s : State} {t : Fibre → W64} {x : Fibre} (hc : ¬ InCode s x (t x)) :
    callCheck s t x = some (t x, 0x83) := by
  have ht : targetOk s x (t x) = false := Bool.eq_false_iff.mpr (mt (targetOk_iff s x _).mp hc)
  rw [callCheck, ht]
  rfl

theorem callCheck_of_not_isEntry {s : State} {t : Fibre → W64} {x : Fibre} (hc : InCode s x (t x)) (he : ¬ IsEntry s x (t x) false) :
    callCheck s t x = some (t x, 0x84) := by
  have hf : entryOk s x (t x) false = false := Bool.eq_false_iff.mpr (mt (entryOk_iff s x _ _).mp he)
  rw [callCheck, (targetOk_iff s x _).mpr hc, hf]
  rfl

/-- At a legal entry a call traps exactly at the greatest depth (R155). -/
theorem callCheck_of_isEntry {s : State} {t : Fibre → W64} {x : Fibre} (hc : InCode s x (t x)) (he : IsEntry s x (t x) false) :
    callCheck s t x = if x.callers.length < 255 then none else some (t x, 0x81) := by
  rw [callCheck, (targetOk_iff s x _).mpr hc, (entryOk_iff s x _ _).mpr he]
  simp only [Bool.not_true, Bool.false_eq_true, if_false, ge_iff_le, ← Nat.not_lt, ite_not]

theorem retCheck_outermost (s : State) (outer : Bool) {x : Fibre} (h : x.callers = []) : retCheck s outer x = some (0, 0x82) := by
  rw [retCheck, h]

theorem retCheck_of_inCode {s : State} (outer : Bool) {x : Fibre} {a : Activation} {r : List Activation} (h : x.callers = a :: r)
    (hc : InCode s x a.ret) : retCheck s outer x = none := by
  have ht := (targetOk_iff s x _).mpr hc
  cases outer <;> simp [retCheck, h, ht]

theorem retCheck_of_not_inCode {s : State} {x : Fibre} {a : Activation} {r : List Activation} (h : x.callers = a :: r)
    (hc : ¬ InCode s x a.ret) : retCheck s false x = some (a.ret, 0x83) := by
  have ht : targetOk s x a.ret = false := Bool.eq_false_iff.mpr (mt (targetOk_iff s x _).mp hc)
  simp [retCheck, h, ht]

/-- While some lane is in its outermost activation, no other lane's return PC is checked (R156). -/
theorem retCheck_of_outer (s : State) {x : Fibre} (h : x.callers ≠ []) : retCheck s true x = none := by
  obtain ⟨a, r, hx⟩ := List.exists_cons_of_ne_nil h
  rw [retCheck, hx]
  rfl

/-! #### What a transfer does (R153, R155, R156) -/

theorem firstProt_eq_none {ls : List Nat} {chk : Nat → Option (W64 × Nat)} (h : ∀ l ∈ ls, chk l = none) : firstProt ls chk = none :=
  List.findSome?_eq_none_iff.mpr fun l hl => by rw [h l hl]; rfl

/-- The lanes of a mask before a given one are those below it. -/
theorem lanesOf_split {e : Mask} {l : Nat} (he : e.getLsbD l = true) :
    ∃ before after, lanesOf e = before ++ l :: after ∧ ∀ k ∈ before, k < l ∧ e.getLsbD k = true := by
  have hl : l < 32 := Nat.lt_of_not_le fun hge => Bool.false_ne_true ((BitVec.getLsbD_of_ge e l hge).symm.trans he)
  have hsorted : (lanesOf e).Pairwise (· < ·) := List.pairwise_lt_range.filter _
  obtain ⟨before, after, hsplit⟩ := List.append_of_mem ((mem_lanesOf e l).mpr ⟨hl, he⟩)
  refine ⟨before, after, hsplit, fun k hk => ⟨?_, ?_⟩⟩
  · obtain ⟨-, -, hlt⟩ := List.pairwise_append.mp (hsplit ▸ hsorted)
    exact hlt k hk l List.mem_cons_self
  · exact ((mem_lanesOf e k).mp (hsplit ▸ List.mem_append_left _ hk)).2

theorem firstProt_lowest {e : Mask} {chk : Nat → Option (W64 × Nat)} {l code : Nat} {v : W64} (he : e.getLsbD l = true)
    (hl : chk l = some (v, code)) (hbelow : ∀ k, k < l → e.getLsbD k = true → chk k = none) :
    firstProt (lanesOf e) chk = some (l, [v, BitVec.ofNat 64 code]) := by
  obtain ⟨before, after, hsplit, hb⟩ := lanesOf_split he
  refine List.findSome?_eq_some_iff.mpr ⟨before, l, after, hsplit, by rw [hl]; rfl, fun k hk => ?_⟩
  obtain ⟨hlt, hke⟩ := hb k hk
  rw [hbelow k hlt hke]
  rfl

/-- Lanes of the PC group moved to the next instruction. -/
theorem advance_lane {s : State} {g : Gang} {m : Mask} (next : W64) (hm : ∀ l, m.getLsbD l = true → (groupLanes s g).getLsbD l = true)
    (l : Nat) : (g.advance m next).lane l = if m.getLsbD l then { g.lane l with pc := next } else g.lane l :=
  mapLanes_lane g m _ l fun h => group_found s g l (hm l h)

theorem advance_found {g : Gang} (m : Mask) (next : W64) {l : Nat} (h : ∃ x, mfind g.arch.fibres l = some x) :
    ∃ x, mfind (g.advance m next).arch.fibres l = some x :=
  mapLanes_lane_found g m _ l h

/-- The part of a mask outside another one. -/
theorem getLsbD_and_not (a b : Mask) (l : Nat) : (a &&& ~~~b).getLsbD l = (a.getLsbD l && !b.getLsbD l) := by
  by_cases hl : l < 32
  · rw [BitVec.getLsbD_and, BitVec.getLsbD_not, decide_eq_true hl, Bool.true_and]
  · rw [BitVec.getLsbD_of_ge _ _ (Nat.not_lt.mp hl), BitVec.getLsbD_of_ge a _ (Nat.not_lt.mp hl), Bool.false_and]

theorem and_not_subset (a b : Mask) (l : Nat) (h : (a &&& ~~~b).getLsbD l = true) : a.getLsbD l = true := by
  rw [getLsbD_and_not, Bool.and_eq_true] at h
  exact h.1

/-- A gang with new fibres alone, charged for the instruction, is a result of lanes. -/
theorem lanesResult_of_charged {i : Instr} {s : State} {g k : Gang} {gd : Guard} {go : Nat → Fibre → Fibre}
    (hi : exec i s = .next (s.putCur (k.chargeOnce s))) (hlanes : LanesGo s g k gd go)
    (hk : k = { g with arch := { g.arch with fibres := k.arch.fibres } }) : LanesResult i s g gd go := by
  refine ⟨_, hi, fun l => (chargeOnce_lane k s l).trans (hlanes l), ?_⟩
  generalize k.arch.fibres = fs at hk
  subst hk
  unfold Gang.chargeOnce
  split <;> rfl

section
variable {s : State} {g : Gang} {gd : Guard} {i : Instr} {chk : Gang → Fibre → Option (W64 × Nat)} {go : Fibre → Fibre} (hg : Issues s g)
include hg

theorem transfer_of_checked (hok : ∀ l, (execLanes s g gd).getLsbD l = true → chk g (g.lane l) = none) :
    transfer s gd chk go
      = s.putCur (((g.advance (groupLanes s g &&& ~~~execLanes s g gd) s.cur.next).mapLanes (execLanes s g gd)
          fun _ x => go x).chargeOnce s) := by
  have hc : s.curGang? = some g := hg
  have hnone : firstProt (lanesOf (execLanes s g gd)) (fun l => chk g (g.lane l)) = none :=
    firstProt_eq_none fun l hl => hok l ((mem_lanesOf _ l).mp hl).2
  rw [transfer, hc]
  dsimp only
  rw [hnone]

theorem transfer_completes (hi : exec i s = .next (transfer s gd chk go))
    (hok : ∀ l, (execLanes s g gd).getLsbD l = true → chk g (g.lane l) = none) : LanesResult i s g gd fun _ x => go x := by
  refine lanesResult_of_charged (hi.trans (congrArg _ (transfer_of_checked hg hok))) (fun l => ?_) rfl
  have hout := and_not_subset (groupLanes s g) (execLanes s g gd)
  rw [mapLanes_lane _ _ _ _ fun he => advance_found _ _ (group_found s g l (exec_in_group s g gd l he)),
    advance_lane s.cur.next hout, getLsbD_and_not]
  cases (execLanes s g gd).getLsbD l <;> simp

theorem transfer_traps (hi : exec i s = .next (transfer s gd chk go)) {p : Nat → Prop} {l code : Nat} {v : W64}
    (hlow : LowestOf (execLanes s g gd) p l)
    (hclear : ∀ k, (execLanes s g gd).getLsbD k = true → ¬ p k → chk g (g.lane k) = none) (hl : chk g (g.lane l) = some (v, code)) :
    exec i s = .next (takeTrap s tcPROT l [v, BitVec.ofNat 64 code]) := by
  have hc : s.curGang? = some g := hg
  obtain ⟨he, -, hbelow⟩ := hlow
  have hfirst := firstProt_lowest (chk := fun l => chk g (g.lane l)) he hl fun k hk hke => hclear k hke (hbelow k hk hke)
  rw [hi, transfer, hc]
  dsimp only
  rw [hfirst]

end

/-- Settles O15: both branches are transfers whose check is R153's of every executing lane. -/
theorem branches : Obligations.Branches := by
  unfold Obligations.Branches
  intro s g hg
  have bothCases {i : Instr} {gd : Guard} (t : Fibre → W64)
      (hi : exec i s = .next (transfer s gd (fun _ => branchCheck s t) fun x => { x with pc := t x })) :
      ((∀ l, (execLanes s g gd).getLsbD l = true → InCode s (g.lane l) (t (g.lane l))) →
        LanesResult i s g gd fun _ x => { x with pc := t x })
      ∧ ∀ l, LowestOf (execLanes s g gd) (fun k => ¬ InCode s (g.lane k) (t (g.lane k))) l →
        exec i s = .next (takeTrap s tcPROT l [t (g.lane l), 0x83]) :=
    ⟨fun hok => transfer_completes hg hi fun l he => branchCheck_of_inCode (hok l he),
      fun l ⟨he, hl, hbelow⟩ => transfer_traps hg hi ⟨he, hl, hbelow⟩ (fun k _ hk => branchCheck_of_inCode (Classical.not_not.mp hk))
        (branchCheck_of_not_inCode hl)⟩
  exact ⟨fun f => bothCases (fun _ => literalTarget s f.lit) rfl, fun f => bothCases (fun x => x.rx f.a) rfl⟩

/-! #### The registers of an activation (R85, R155, R156) -/

/-- The linkage set keeps the registers below its bound. -/
theorem mget_linkage {β : Type} (d : β) (n k : Nat) (m : TMap β) : mget d (linkage n m) k = if k < n then mget d m k else d := by
  induction m with
  | nil => simp [linkage, mget]
  | cons p r ih =>
    obtain ⟨j, u⟩ := p
    rw [linkage] at ih ⊢
    by_cases hj : j = k
    · subst hj
      by_cases hn : j < n
      · simp [mget, hn]
      · rw [List.filter_cons_of_neg (by simpa using hn), ih, if_neg hn, if_neg hn]
    · by_cases hn : j < n
      · rw [List.filter_cons_of_pos (by simpa using hn), mget, if_neg hj, ih, mget, if_neg hj]
      · rw [List.filter_cons_of_neg (by simpa using hn), ih, mget, if_neg hj]

/-- Copying the registers below a bound into a file. -/
theorem mget_copyBelow {β : Type} (d : β) (f : Nat → β) (m : TMap β) (n k : Nat) :
    mget d ((List.range n).foldl (fun m i => mset m i (f i)) m) k = if k < n then f k else mget d m k := by
  induction n with
  | zero => rfl
  | succ n ih =>
    rw [List.range_succ, List.foldl_append, List.foldl_cons, List.foldl_nil, mget_mset, ih]
    by_cases hk : k = n
    · subst hk
      simp
    · have hlt : k < n + 1 ↔ k < n := by omega
      simp only [if_neg hk, hlt]

theorem call_registers (x : Fibre) (r t : W64) (n : Nat) :
    (x.call r t).rv n = (if n < 16 then x.rv n else 0) ∧ (x.call r t).rx n = (if n < 9 then x.rx n else 0) :=
  ⟨mget_linkage .., mget_linkage ..⟩

theorem return_of_cons {x : Fibre} {a : Activation} {q : List Activation} (h : x.callers = a :: q) :
    x.return = { x with
      callers := q, pc := a.ret, npc := a.nret, nbase := a.nbase, fn := a.fn
      v := (List.range 16).foldl (fun m i => mset m i (x.rv i)) a.v
      x := (List.range 9).foldl (fun m i => mset m i (x.rx i)) a.x } := by
  rw [Fibre.return, h]

theorem return_registers {x : Fibre} {a : Activation} {q : List Activation} (h : x.callers = a :: q) (n : Nat) :
    x.return.rv n = (if n < 16 then x.rv n else mget 0 a.v n) ∧ x.return.rx n = (if n < 9 then x.rx n else mget 0 a.x n) := by
  rw [return_of_cons h]
  simp only [Fibre.rv, Fibre.rx, mget_copyBelow, and_self]

theorem slide_eq (t : Option Transl) (fn : W64) (x : Fibre) : x.slide t fn = { x with nbase := (x.slide t fn).nbase } := by
  unfold Fibre.slide
  split <;> rfl

theorem slide_of_noWords {t : Option Transl} (fn : W64) (x : Fibre) (h : ∀ q, t = some q → q.words = []) : x.slide t fn = x := by
  have hnone : t.filter (fun q => q.words != []) = none := by
    cases t with
    | none => rfl
    | some q => simp [Option.filter, h q rfl]
  rw [Fibre.slide, hnone]

/-! #### CALL, CALLX and RET (R155, R156) -/

/-- What R155 asks of a call's target in a lane. -/
def CallLegal (s : State) (x : Fibre) (t : W64) : Prop := InCode s x t ∧ IsEntry s x t false ∧ x.callers.length < 255

theorem callCheck_of_legal {s : State} {t : Fibre → W64} {x : Fibre} (h : CallLegal s x (t x)) : callCheck s t x = none := by
  obtain ⟨hc, he, hd⟩ := h
  rw [callCheck_of_isEntry hc he, if_pos hd]

section
variable {s : State} {g : Gang} {gd : Guard} {i : Instr} {t : Fibre → W64} (hg : Issues s g)
  (hi : exec i s = .next (transfer s gd (fun _ => callCheck s t) fun x => callWithin s x (t x)))
include hg hi

theorem call_completes (hok : ∀ l, (execLanes s g gd).getLsbD l = true → CallLegal s (g.lane l) (t (g.lane l))) :
    LanesResult i s g gd fun _ x => callWithin s x (t x) :=
  transfer_completes hg hi fun l he => callCheck_of_legal (hok l he)

/-- The lowest lane that may not call names the first check that it fails. -/
theorem call_traps {l : Nat} (hlow : LowestOf (execLanes s g gd) (fun k => ¬ CallLegal s (g.lane k) (t (g.lane k))) l) :
    (¬ InCode s (g.lane l) (t (g.lane l)) → exec i s = .next (takeTrap s tcPROT l [t (g.lane l), 0x83]))
    ∧ (InCode s (g.lane l) (t (g.lane l)) → ¬ IsEntry s (g.lane l) (t (g.lane l)) false →
        exec i s = .next (takeTrap s tcPROT l [t (g.lane l), 0x84]))
    ∧ (InCode s (g.lane l) (t (g.lane l)) → IsEntry s (g.lane l) (t (g.lane l)) false →
        exec i s = .next (takeTrap s tcPROT l [t (g.lane l), 0x81])) := by
  have hclear : ∀ k, (execLanes s g gd).getLsbD k = true → ¬ ¬ CallLegal s (g.lane k) (t (g.lane k)) → callCheck s t (g.lane k) = none :=
    fun k _ hk => callCheck_of_legal (Classical.not_not.mp hk)
  refine ⟨fun hc => transfer_traps hg hi hlow hclear (callCheck_of_not_inCode hc),
    fun hc he => transfer_traps hg hi hlow hclear (callCheck_of_not_isEntry hc he), fun hc he => ?_⟩
  obtain ⟨-, hillegal, -⟩ := id hlow
  have hdeep : ¬ (g.lane l).callers.length < 255 := fun hd => hillegal ⟨hc, he, hd⟩
  exact transfer_traps hg hi hlow hclear ((callCheck_of_isEntry hc he).trans (if_neg hdeep))

end

/-- Whether some executing lane is in its outermost activation, as RET's check asks. -/
theorem anyOutermost_eq_false {e : Mask} {g : Gang} (h : ∀ l, e.getLsbD l = true → (g.lane l).callers ≠ []) :
    ((lanesOf e).any fun l => (g.lane l).callers == []) = false := by
  rw [List.any_eq_false]
  exact fun l hl => by simpa using h l ((mem_lanesOf e l).mp hl).2

theorem anyOutermost_eq_true {e : Mask} {g : Gang} {l : Nat} (he : e.getLsbD l = true) (h : (g.lane l).callers = []) :
    ((lanesOf e).any fun l => (g.lane l).callers == []) = true := by
  obtain ⟨before, after, hsplit, -⟩ := lanesOf_split he
  simp [hsplit, h]

section
variable {s : State} {g : Gang} (hg : Issues s g) (f : AForm)
include hg

theorem ret_completes
    (hok : ∀ l, (execLanes s g f.g).getLsbD l = true → ∃ a r, (g.lane l).callers = a :: r ∧ InCode s (g.lane l) a.ret) :
    LanesResult (.ret f) s g f.g fun _ x => x.return := by
  refine transfer_completes hg rfl fun l he => ?_
  obtain ⟨a, r, hcallers, hcode⟩ := hok l he
  exact retCheck_of_inCode _ hcallers hcode

/-- An outermost activation anywhere in EXEC comes before any bad return PC. -/
theorem ret_traps_outermost {l : Nat} (hlow : LowestOf (execLanes s g f.g) (fun k => (g.lane k).callers = []) l) :
    exec (.ret f) s = .next (takeTrap s tcPROT l [0, 0x82]) := by
  obtain ⟨he, hl, hbelow⟩ := hlow
  exact transfer_traps hg rfl ⟨he, hl, hbelow⟩
    (fun k _ hk => (congrArg (retCheck s · (g.lane k)) (anyOutermost_eq_true he hl)).trans (retCheck_of_outer s hk))
    (retCheck_outermost s _ hl)

theorem ret_traps_badReturn {l : Nat} {a : Activation} {r : List Activation}
    (hin : ∀ k, (execLanes s g f.g).getLsbD k = true → (g.lane k).callers ≠ []) (ha : (g.lane l).callers = a :: r)
    (hlow : LowestOf (execLanes s g f.g) (fun k => ∃ b q, (g.lane k).callers = b :: q ∧ ¬ InCode s (g.lane k) b.ret) l) :
    exec (.ret f) s = .next (takeTrap s tcPROT l [a.ret, 0x83]) := by
  refine transfer_traps hg rfl hlow (fun k hke hk => ?_) ?_
  · obtain ⟨b, q, hb⟩ := List.exists_cons_of_ne_nil (hin k hke)
    exact retCheck_of_inCode _ hb (Classical.not_not.mp fun hbad => hk ⟨b, q, hb, hbad⟩)
  · obtain ⟨-, ⟨b, q, hb, hbad⟩, -⟩ := hlow
    obtain ⟨rfl, -⟩ := List.cons.inj (ha.symm.trans hb)
    exact (congrArg (retCheck s · (g.lane l)) (anyOutermost_eq_false hin)).trans (retCheck_of_not_inCode ha hbad)

end

/-- Settles O16: CALL, CALLX and RET are transfers with the checks of R155 and R156; their activations keep the linkage set. -/
theorem callsAndReturns : Obligations.CallsAndReturns := by
  unfold Obligations.CallsAndReturns
  refine ⟨fun s g hg => ⟨fun f => ⟨?call, fun l => ?callTraps⟩, fun f => ?callx,
      fun f => ⟨ret_completes hg f, fun l => ret_traps_outermost hg f, fun l a r => ret_traps_badReturn hg f⟩⟩,
    fun s x t => ⟨slide_eq .., slide_of_noWords x.fn _⟩, fun x r t n => ?activation, fun x a q n h => ?resumed⟩
  case call => exact call_completes (t := fun _ => literalTarget s f.lit) hg rfl
  case callTraps => exact call_traps (t := fun _ => literalTarget s f.lit) hg rfl
  case callx => exact call_completes (t := fun x => x.rx f.a) hg rfl
  case activation =>
    obtain ⟨hv, hx⟩ := call_registers x r t n
    exact ⟨hv, hx, rfl, rfl, _, rfl, rfl, rfl, rfl⟩
  case resumed =>
    have hregs := return_registers h n
    rw [return_of_cons h] at hregs ⊢
    exact ⟨rfl, rfl, rfl, hregs⟩

end Sys2Proof.Machine
end

/-! ### Rejoin sets (R162 to R166, R170) -/

section
namespace Sys2Proof.Machine

/-! #### The set instructions but JWAIT (R164, R166) -/

theorem releases_iff (g : Gang) (j : Nat) : g.releases j = true ↔ g.arriveOf j ≠ 0 ∧ g.memberOf j &&& ~~~(g.arriveOf j) = 0 := by
  unfold Gang.releases
  simp

theorem evalSet_eq_ite (g : Gang) (j : Nat) [Decidable (g.arriveOf j ≠ 0 ∧ g.memberOf j &&& ~~~(g.arriveOf j) = 0)] :
    g.evalSet j = if g.arriveOf j ≠ 0 ∧ g.memberOf j &&& ~~~(g.arriveOf j) = 0 then g.releaseSet j else g := by
  unfold Gang.evalSet
  simp only [releases_iff]

theorem memberOf_of_ne_zero (g : Gang) {d : Nat} (hd : d ≠ 0) : g.memberOf d = mget 0 g.member d := if_neg hd

/-- A change of a set's masks alone, and the set's evaluation (R163, R164). -/
theorem setBecomes_of_masks (g : Gang) {d : Nat} (member arrive : Mask) (hd : d ≠ 0) :
    SetBecomes g (({ g with member := mset g.member d member, arrive := mset g.arrive d arrive } : Gang).evalSet d) d member arrive 0 := by
  let k : Gang := { g with member := mset g.member d member, arrive := mset g.arrive d arrive }
  have harrive : k.arriveOf d = arrive := mget_mset_same ..
  have hmember : k.memberOf d = member := (memberOf_of_ne_zero k hd).trans (mget_mset_same ..)
  have hfreed {p : Prop} {l : Nat} (hf : (0 : Mask).getLsbD l = true ∨ p) : p := hf.resolve_left (by simp)
  have hothers (j : Nat) (hj : j ≠ d) : mget 0 k.member j = mget 0 g.member j ∧ mget 0 k.arrive j = mget 0 g.arrive j :=
    ⟨mget_mset_other _ _ _ _ _ hj, mget_mset_other _ _ _ _ _ hj⟩
  show SetBecomes g (k.evalSet d) d member arrive 0
  rw [evalSet_eq_ite, harrive, hmember]
  by_cases hrel : arrive ≠ 0 ∧ member &&& ~~~arrive = 0
  · rw [if_pos hrel]
    refine ⟨rfl, mget_mset_same .., fun _ => mget_mset_same .., fun hn => absurd hrel hn, fun j hj => ?_,
      fun l hl => ⟨fun hf ha => ?_, fun hf => ?_⟩⟩
    · exact (hothers j hj).imp_right (mget_mset_other _ _ _ _ _ hj).trans
    · exact releaseSet_in k d l (harrive ▸ (hfreed hf).2) ha
    · exact releaseSet_out k d l (harrive ▸ Bool.eq_false_iff.mpr fun hA => hf (.inr ⟨hrel, hA⟩))
  · rw [if_neg hrel]
    exact ⟨rfl, mget_mset_same .., fun h => absurd h hrel, fun _ => harrive, hothers,
      fun l _ => ⟨fun hf => absurd (hfreed hf).1 hrel, fun _ => rfl⟩⟩

/-- Executing lanes changed, then the whole group moved on. -/
theorem lanesMove_mapLanes_advance (s : State) (g : Gang) (gd : Guard) (upd : Nat → Fibre → Fibre) :
    LanesMove s g ((g.mapLanes (execLanes s g gd) upd).advance (groupLanes s g) s.cur.next) gd upd := by
  intro l
  have hfound := group_found s g l
  rw [Gang.advance, mapLanes_lane _ _ _ _ fun h => mapLanes_lane_found g _ _ l (hfound h),
    mapLanes_lane _ _ _ _ fun h => hfound (exec_in_group s g gd l h)]
  by_cases he : (execLanes s g gd).getLsbD l = true
  · rw [if_pos he, if_pos he, if_pos (exec_in_group s g gd l he)]
  · rw [if_neg he, if_neg he]

section
variable {s : State} {g : Gang} (hg : Issues s g) (hu : s.inFirmware = false) (f : AForm)
include hg hu

theorem jread_completes :
    LanesResult (.jread f) s g f.g fun _ x => { x.wv f.d (if f.a = 0 then g.live else mget 0 g.member f.a) with pc := s.cur.next } := by
  have hexec : execJread f s
      = .next (s.putCur (((g.mapLanes (execLanes s g f.g) fun _ x => x.wv f.d (g.memberOf f.a)).advance
          (groupLanes s g) s.cur.next).chargeOnce s)) := by
    rw [execJread, userOp_user s _ g hu hg, retireWith_moves s _ g hg]
  exact lanesResult_of_charged hexec (lanesMove_mapLanes_advance s g f.g fun _ x => x.wv f.d (g.memberOf f.a)) rfl

/-- A set instruction with a lane executing. -/
theorem setOp_executes {i : Instr} {k : Gang → Mask → Gang} (hi : exec i s = .next (setOp s f.g k)) (he : execLanes s g f.g ≠ 0) :
    exec i s = .next (s.putCur (movedOn s g (k g (execLanes s g f.g)))) :=
  hi.trans (congrArg _ (setOp_some s g f.g k hg hu he))

/-- A set instruction with no lane executing. -/
theorem setOp_passes {i : Instr} {k : Gang → Mask → Gang} (hi : exec i s = .next (setOp s f.g k)) (he : execLanes s g f.g = 0) :
    exec i s = .next (s.putCur (movedOn s g g)) :=
  hi.trans (congrArg _ (setOp_none s g f.g k hg hu he))

/-- JCLR's three cases: no lane, no arrival, an arrival that would be left behind. -/
theorem jclr_eq :
    exec (.jclr f) s = .next (
      if execLanes s g f.g = 0 then s.putCur (movedOn s g g)
      else if g.arriveOf f.d = 0 then s.putCur (movedOn s g { g with member := mset g.member f.d 0 })
      else takeTrap s tcORPH (lowLane (execLanes s g f.g)) (orphInfos g)) := by
  show execJclr f s = _
  rw [execJclr, userOp_user s _ g hu hg]
  dsimp only
  rw [retireWith_moves s _ g hg, retireWith_moves s _ g hg]
  rfl

end

/-- Settles O18: what each instruction does to the masks, with R163's evaluation behind JQUIT and JINIT. -/
theorem rejoinSets : Obligations.RejoinSets := by
  unfold Obligations.RejoinSets
  intro s g f hg hu e d only
  refine ⟨jread_completes hg hu f, fun he => ?noLane, fun he hd => ⟨?jenter, ⟨_, setOp_executes hg hu f rfl he, ?jquit⟩,
    ⟨_, setOp_executes hg hu f rfl he, ?jinit⟩, fun ha => ?jclr, fun ha => ?orphan⟩⟩
  case noLane =>
    exact ⟨setOp_passes hg hu f rfl he, setOp_passes hg hu f rfl he, setOp_passes hg hu f rfl he,
      (jclr_eq hg hu f).trans (congrArg _ (if_pos he))⟩
  case jenter =>
    have hexec := setOp_executes (i := .jenter f) hg hu f rfl he
    rwa [memberOf_of_ne_zero g hd] at hexec
  case jquit =>
    rw [← memberOf_of_ne_zero g hd]
    exact setBecomes_of_masks g _ _ hd
  case jinit =>
    refine setBecomes_evalSet g d _ _ _ hd fun l _ hout => ?_
    rw [getLsbD_and_not, Bool.and_eq_true, Bool.not_eq_true'] at hout
    obtain ⟨-, hm⟩ := hout
    rw [BitVec.getLsbD_and, hm, Bool.and_false]
  case jclr => exact (jclr_eq hg hu f).trans (congrArg _ ((if_neg he).trans (if_pos ha)))
  case orphan => exact (jclr_eq hg hu f).trans (congrArg _ ((if_neg he).trans (if_neg ha)))

/-! #### Parking part of a group (R90, R187) -/

theorem park_lane {g : Gang} (s : State) (i : Instr) {m : Mask} (c : Cause) (va : W64) (l : Nat)
    (h : m.getLsbD l = true → ∃ x, mfind g.arch.fibres l = some x) :
    (g.park s i m c va).lane l = if m.getLsbD l then { g.lane l with status := .parked c } else g.lane l := by
  unfold Gang.park Gang.parkWith
  split
  case isTrue h0 =>
    subst h0
    simp
  case isFalse => exact mapLanes_lane g m _ l h

/-- The record of an instruction that parks after it has been charged for. -/
def parkedWait (s : State) (i : Instr) (m : Mask) (c : Cause) (va : W64) : Wait :=
  { mask := m, instr := i, pc := s.cur.pc, head := s.cur.head, next := s.cur.next, bits := s.cur.bits, cause := c, va := va, since := s.ck
    ticket := 0, pf := s.cur.pf, charged := true }

/-- Parking changes fibres and appends a record, if any lane parks. -/
theorem park_eq (g : Gang) (s : State) (i : Instr) (m : Mask) (c : Cause) (va : W64) :
    g.park s i m c va = { g with
      arch := { g.arch with fibres := (g.park s i m c va).arch.fibres }
      waits := g.waits ++ if m = 0 then [] else [parkedWait s i m c va] } := by
  unfold Gang.park Gang.parkWith
  split
  · rw [List.append_nil]
  · rfl

theorem dropWaits_append (m : Mask) (ws vs : List Wait) : dropWaits m (ws ++ vs) = dropWaits m ws ++ dropWaits m vs := by
  simp [dropWaits]

/-- An instruction all of whose lanes are released is no longer parked. -/
theorem dropWaits_of_subset {m : Mask} {w : Wait} (h : ∀ l, w.mask.getLsbD l = true → m.getLsbD l = true) : dropWaits m [w] = [] := by
  have hzero : w.mask &&& ~~~m = 0 := BitVec.eq_of_getLsbD_eq fun l _ => by
    rw [getLsbD_and_not]
    cases hw : w.mask.getLsbD l with
    | false => simp
    | true => simp [h l hw]
  simp [dropWaits, hzero]

/-! #### JWAIT (R163, R165) -/

/-- The members of EXEC, which arrive at a JWAIT. -/
def joiners (s : State) (g : Gang) (f : AForm) : Mask := execLanes s g f.g &&& g.memberOf f.a

/-- The arrivals of the set once EXEC's members have come. -/
def joinArrivals (s : State) (g : Gang) (f : AForm) : Mask := g.arriveOf f.a ||| joiners s g f

/-- The gang once the members of EXEC have parked and arrived and the others have moved on, before the set is evaluated. -/
def joined (s : State) (g : Gang) (f : AForm) : Gang :=
  let g1 := (g.advance (groupLanes s g &&& ~~~joiners s g f) s.cur.next).park s (.jwait f) (joiners s g f) (.jwait f.a) 0
  { g1 with arrive := mset g1.arrive f.a (g1.arriveOf f.a ||| joiners s g f) }

/-- The gang that a JWAIT leaves, before it is charged. -/
def afterJwait (s : State) (g : Gang) (f : AForm) : Gang := if execLanes s g f.g = 0 then joined s g f else (joined s g f).evalSet f.a

theorem exec_jwait {s : State} {g : Gang} (hg : Issues s g) (hu : s.inFirmware = false) (f : AForm) :
    exec (.jwait f) s = .next (
      if joiners s g f = 0 then s.putCur ((afterJwait s g f).chargeOnce s)
      else examine (s.putCur ((afterJwait s g f).chargeOnce s)) s.cur.core s.cur.gang) :=
  congrArg Host.Outcome.next (userOp_user s _ g hu hg)

section
variable (s : State) (g : Gang) (f : AForm)

theorem joiners_executing {l : Nat} (h : (joiners s g f).getLsbD l = true) : (execLanes s g f.g).getLsbD l = true := by
  rw [joiners, BitVec.getLsbD_and, Bool.and_eq_true] at h
  exact h.1

theorem joiners_in_group {l : Nat} (h : (joiners s g f).getLsbD l = true) : (groupLanes s g).getLsbD l = true :=
  exec_in_group s g f.g l (joiners_executing s g f h)

theorem joiners_arrive {l : Nat} (h : (joiners s g f).getLsbD l = true) : (joinArrivals s g f).getLsbD l = true := by
  rw [joinArrivals, BitVec.getLsbD_or, h, Bool.or_true]

theorem joined_lane (l : Nat) : (joined s g f).lane l =
    if (joiners s g f).getLsbD l then { g.lane l with status := .parked (.jwait f.a) }
    else if (groupLanes s g).getLsbD l then { g.lane l with pc := s.cur.next } else g.lane l := by
  have hout := and_not_subset (groupLanes s g) (joiners s g f)
  refine (park_lane s (.jwait f) (.jwait f.a) 0 l fun h => advance_found _ _ (group_found s g l (joiners_in_group s g f h))).trans ?_
  rw [advance_lane s.cur.next hout, getLsbD_and_not]
  cases (joiners s g f).getLsbD l <;> simp

theorem joined_eq : joined s g f = { g with
    arch := { g.arch with fibres := (joined s g f).arch.fibres }
    arrive := mset g.arrive f.a (joinArrivals s g f)
    waits := g.waits ++ if joiners s g f = 0 then [] else [parkedWait s (.jwait f) (joiners s g f) (.jwait f.a) 0] } := by
  have hpark := park_eq (g.advance (groupLanes s g &&& ~~~joiners s g f) s.cur.next) s (.jwait f) (joiners s g f) (.jwait f.a) 0
  unfold joined
  rw [hpark]
  rfl

theorem joined_waits :
    (joined s g f).waits = g.waits ++ if joiners s g f = 0 then [] else [parkedWait s (.jwait f) (joiners s g f) (.jwait f.a) 0] := by
  rw [joined_eq]

theorem joined_arriveOf : (joined s g f).arriveOf f.a = joinArrivals s g f := by
  rw [joined_eq]
  exact mget_mset_same ..

theorem joined_arriveOf_other {j : Nat} (hj : j ≠ f.a) : (joined s g f).arriveOf j = g.arriveOf j := by
  rw [joined_eq]
  exact mget_mset_other _ _ _ _ _ hj

/-- JWAIT leaves no lane without its fibre and gives none a new one. -/
theorem joined_absent_iff (l : Nat) : ((joined s g f).lane l).status = .absent ↔ (g.lane l).status = .absent := by
  rw [joined_lane]
  split
  case isTrue h =>
    have hgroup := joiners_in_group s g f h
    rw [groupLanes_bit, Bool.and_eq_true, Bool.and_eq_true, beq_iff_eq] at hgroup
    obtain ⟨-, -, hready⟩ := hgroup
    rw [hready]
    exact iff_of_false nofun nofun
  case isFalse => split <;> rfl

theorem joined_memberOf (j : Nat) : (joined s g f).memberOf j = g.memberOf j := by
  have hlive : (joined s g f).live = g.live := by
    unfold Gang.live Gang.lanesWhere
    exact congrArg maskOf (funext fun l => Bool.eq_iff_iff.mpr (by simp only [bne_iff_ne, ne_eq, joined_absent_iff]))
  have hmember : (joined s g f).member = g.member := by rw [joined_eq]
  unfold Gang.memberOf
  rw [hlive, hmember]

theorem joined_nextOf (l : Nat) :
    (joined s g f).nextOf l = match g.waits.find? fun w => w.mask.getLsbD l with
      | some w => w.next
      | none => if (groupLanes s g).getLsbD l then s.cur.next else (g.lane l).pc := by
  unfold Gang.nextOf
  rw [joined_waits, joined_lane, List.find?_append]
  cases g.waits.find? (fun w => w.mask.getLsbD l) with
  | some w => rfl
  | none =>
    by_cases h : (joiners s g f).getLsbD l = true
    · have hne : joiners s g f ≠ 0 := fun h0 => by simp [h0] at h
      rw [if_neg hne]
      simp [h, joiners_in_group s g f h, parkedWait]
    · have hnone : ((if joiners s g f = 0 then [] else [parkedWait s (.jwait f) (joiners s g f) (.jwait f.a) 0]).find?
          fun w => w.mask.getLsbD l) = none := by
        split <;> simp [parkedWait, h]
      rw [hnone, if_neg h]
      split <;> rfl

/-- Whether the JWAIT completes its set: a lane executes and every member has arrived (R163, R165). -/
def CompletesSet : Prop :=
  execLanes s g f.g ≠ 0 ∧ joinArrivals s g f ≠ 0 ∧ g.memberOf f.a &&& ~~~(joinArrivals s g f) = 0

theorem afterJwait_of_completes (h : CompletesSet s g f) : afterJwait s g f = (joined s g f).releaseSet f.a := by
  obtain ⟨he, hall⟩ := h
  rw [afterJwait, if_neg he, evalSet_eq_ite, joined_arriveOf, joined_memberOf, if_pos hall]

theorem afterJwait_of_waits (h : ¬ CompletesSet s g f) : afterJwait s g f = joined s g f := by
  rw [afterJwait]
  split
  · rfl
  · next he => rw [evalSet_eq_ite, joined_arriveOf, joined_memberOf, if_neg fun hall => h ⟨he, hall⟩]

/-- The release of a set changes fibres, the set's arrivals and the waits. -/
theorem afterJwait_eq : afterJwait s g f = { g with
    arch := { g.arch with fibres := (afterJwait s g f).arch.fibres }, base := { g.base with fibres := (afterJwait s g f).base.fibres }
    arrive := (afterJwait s g f).arrive, waits := (afterJwait s g f).waits } := by
  by_cases h : CompletesSet s g f
  · rw [afterJwait_of_completes s g f h, joined_eq]
    rfl
  · rw [afterJwait_of_waits s g f h, joined_eq]

/-- A JWAIT that does not complete its set: the members wait, the others go on. -/
theorem afterJwait_waiting (h : ¬ CompletesSet s g f) :
    (afterJwait s g f).arriveOf f.a = joinArrivals s g f ∧ (afterJwait s g f).base = g.base
    ∧ (∀ l, (afterJwait s g f).lane l =
        if (joiners s g f).getLsbD l then { g.lane l with status := .parked (.jwait f.a) }
        else if (groupLanes s g).getLsbD l then { g.lane l with pc := s.cur.next } else g.lane l)
    ∧ (afterJwait s g f).waits = g.waits ++ if joiners s g f = 0 then [] else [parkedWait s (.jwait f) (joiners s g f) (.jwait f.a) 0] := by
  have hbase : (joined s g f).base = g.base := by rw [joined_eq]
  rw [afterJwait_of_waits s g f h]
  exact ⟨joined_arriveOf s g f, hbase, joined_lane s g f, joined_waits s g f⟩

/-- A lane that had arrived, or arrives now, goes on after its own JWAIT. -/
theorem afterJwait_released (h : CompletesSet s g f) {l : Nat} (ha : (joinArrivals s g f).getLsbD l = true)
    (hl : (g.lane l).status ≠ .absent) :
    SameRegs ((afterJwait s g f).lane l) { g.lane l with
      status := .ready
      pc := match g.waits.find? fun w => w.mask.getLsbD l with
        | some w => w.next
        | none => if (groupLanes s g).getLsbD l then s.cur.next else (g.lane l).pc } := by
  have hin := releaseSet_in (joined s g f) f.a l (joined_arriveOf s g f ▸ ha) (mt (joined_absent_iff s g f l).mp hl)
  have hfibre (p : W64) : { (joined s g f).lane l with status := .ready, pc := p } = { g.lane l with status := .ready, pc := p } := by
    rw [joined_lane]
    split
    · rfl
    · split <;> rfl
  rw [afterJwait_of_completes s g f h]
  rwa [hfibre, joined_nextOf] at hin

theorem afterJwait_notArrived (h : CompletesSet s g f) {l : Nat} (ha : (joinArrivals s g f).getLsbD l = false) :
    (afterJwait s g f).lane l = if (groupLanes s g).getLsbD l then { g.lane l with pc := s.cur.next } else g.lane l := by
  have hj : ¬ (joiners s g f).getLsbD l = true := fun hj => Bool.false_ne_true (ha.symm.trans (joiners_arrive s g f hj))
  rw [afterJwait_of_completes s g f h, releaseSet_out _ _ _ (joined_arriveOf s g f ▸ ha), joined_lane, if_neg hj]

theorem afterJwait_released_waits (h : CompletesSet s g f) : (afterJwait s g f).waits = dropWaits (joinArrivals s g f) g.waits := by
  have hrelease : ((joined s g f).releaseSet f.a).waits = dropWaits ((joined s g f).arriveOf f.a) (joined s g f).waits := rfl
  rw [afterJwait_of_completes s g f h, hrelease, joined_arriveOf, joined_waits, dropWaits_append]
  split
  · exact List.append_nil _
  · have hparked : dropWaits (joinArrivals s g f) [parkedWait s (.jwait f) (joiners s g f) (.jwait f.a) 0] = [] :=
      dropWaits_of_subset fun l => joiners_arrive s g f
    rw [hparked, List.append_nil]

theorem afterJwait_released_arriveOf (h : CompletesSet s g f) : (afterJwait s g f).arriveOf f.a = 0 := by
  rw [afterJwait_of_completes s g f h]
  exact mget_mset_same ..

theorem afterJwait_arriveOf_other {j : Nat} (hj : j ≠ f.a) : (afterJwait s g f).arriveOf j = g.arriveOf j := by
  by_cases h : CompletesSet s g f
  · rw [afterJwait_of_completes s g f h]
    exact (mget_mset_other _ _ _ _ _ hj).trans (joined_arriveOf_other s g f hj)
  · rw [afterJwait_of_waits s g f h, joined_arriveOf_other s g f hj]

end

theorem chargeOnce_arrive (g : Gang) (s : State) : (g.chargeOnce s).arrive = g.arrive := by rw [charge_rest]
theorem chargeOnce_base (g : Gang) (s : State) : (g.chargeOnce s).base = g.base := by rw [charge_rest]
theorem chargeOnce_waits (g : Gang) (s : State) : (g.chargeOnce s).waits = g.waits := by rw [charge_rest]

/-- A gang with new fibres, arrivals and waits, once it is charged. -/
theorem chargeOnce_frame {s : State} {g k : Gang}
    (hk : k = { g with arch := { g.arch with fibres := k.arch.fibres }, base := { g.base with fibres := k.base.fibres }
                       arrive := k.arrive, waits := k.waits }) :
    k.chargeOnce s = { g with
      arch := { g.arch with fibres := (k.chargeOnce s).arch.fibres }, base := { g.base with fibres := (k.chargeOnce s).base.fibres }
      arrive := (k.chargeOnce s).arrive, waits := (k.chargeOnce s).waits
      region := { g.region with energy := (k.chargeOnce s).region.energy } } := by
  generalize k.arch.fibres = fs, k.base.fibres = bs, k.arrive = as, k.waits = ws at hk
  subst hk
  unfold Gang.chargeOnce
  split <;> rfl

/-- The examination of R170 finds nothing while no fibre waits in JWAIT, or while one waits neither there nor at a barrier. -/
theorem examine_eq_self (t : State) (c k : Nat)
    (h : ∀ g, mfind (t.core c).gangs k = some g → (∀ l, (g.lane l).jwaitSet = none)
      ∨ ∃ l, l < 32 ∧ (g.lane l).status ≠ .absent ∧ (g.lane l).jwaitSet = none ∧ (g.lane l).atBarrier = false) :
    examine t c k = t := by
  unfold examine
  cases hg : mfind (t.core c).gangs k with
  | none => rfl
  | some g =>
    dsimp only
    split
    · rfl
    · next hall =>
      obtain hnone | ⟨l, hl, halive, hset, hbar⟩ := h g hg
      · have hfind : ((lanesOf g.live).map fun l => (l, g.lane l)).find? (fun p => p.2.jwaitSet.isSome) = none := by
          simp [hnone]
        rw [hfind]
      · have hmem : l ∈ lanesOf g.live := (mem_lanesOf _ l).mpr ⟨hl, by simp [Gang.live, Gang.lanesWhere, getLsbD_maskOf, hl, halive]⟩
        have hwaits : ((lanesOf g.live).map fun l => (l, g.lane l)).all (fun p => p.2.atBarrier || p.2.jwaitSet.isSome) = true := by
          simp only [Bool.or_eq_true, Bool.not_eq_true', not_or, Bool.not_eq_false] at hall
          exact hall.2
        have hat := List.all_eq_true.mp hwaits _ (List.mem_map_of_mem hmem)
        simp [hset, hbar] at hat

/-- Settles O19: the arrival and the evaluation of R163 on one side, the examination of R170 on the other. -/
theorem joinWait : Obligations.JoinWait := by
  unfold Obligations.JoinWait
  refine ⟨fun s g f hg hu => ?_, examine_eq_self⟩
  intro e m arr rel
  have harriveOf (j : Nat) : ((afterJwait s g f).chargeOnce s).arriveOf j = (afterJwait s g f).arriveOf j := by
    rw [Gang.arriveOf, chargeOnce_arrive, Gang.arriveOf]
  refine ⟨(afterJwait s g f).chargeOnce s, exec_jwait hg hu f, chargeOnce_frame (afterJwait_eq s g f),
    fun j hj => (harriveOf j).trans (afterJwait_arriveOf_other s g f hj), ?waiting, ?released⟩
  case waiting =>
    intro hrel
    obtain ⟨ha, hb, hl, hw⟩ := afterJwait_waiting s g f hrel
    exact ⟨(harriveOf _).trans ha, (chargeOnce_base ..).trans hb, fun l => (chargeOnce_lane ..).trans (hl l),
      _, (chargeOnce_waits ..).trans hw, rfl, rfl, rfl, rfl⟩
  case released =>
    intro hrel
    refine ⟨(harriveOf _).trans (afterJwait_released_arriveOf s g f hrel), fun l _ ha hl => ?_,
      fun l ha => (chargeOnce_lane ..).trans (afterJwait_notArrived s g f hrel ha),
      (chargeOnce_waits ..).trans (afterJwait_released_waits s g f hrel)⟩
    rw [chargeOnce_lane]
    exact afterJwait_released s g f hrel ha hl

end Sys2Proof.Machine
end

/-! ### Two updates of one unit, and what an update of a slot or of memory leaves alone -/

section
namespace Sys2Proof.Machine

theorem mset_mset {β : Type} (m : List (Nat × β)) (k : Nat) (v w : β) : mset (mset m k v) k w = mset m k w := by
  induction m with
  | nil => simp [mset]
  | cons p r ih =>
    obtain ⟨j, u⟩ := p
    by_cases h : j = k
    · simp [mset, h]
    · by_cases hlt : k < j <;> simp [mset, h, hlt, ih]

/-- Two updates of one core are one. -/
theorem modCore_comp (s : State) (c : Nat) (f h : Core → Core) : (s.modCore c f).modCore c h = s.modCore c fun k => h (f k) := by
  have hcore : (s.modCore c f).core c = f (s.core c) := (core_modCore ..).trans (if_pos rfl)
  rw [State.modCore, hcore, State.modCore, State.modCore, State.setCore, State.setCore, State.setCore, mset_mset]

theorem modCore_congr {s : State} {c : Nat} {f h : Core → Core} (e : f (s.core c) = h (s.core c)) : s.modCore c f = s.modCore c h := by
  rw [State.modCore, e, State.modCore]

theorem modCore_ite (s : State) (c : Nat) (p : Prop) [Decidable p] (f h : Core → Core) :
    (s.modCore c fun k => if p then f k else h k) = if p then s.modCore c f else s.modCore c h := by
  split <;> rfl

theorem core_keeps {s t : State} (h : t.cores = s.cores) (c : Nat) : t.core c = s.core c := congrArg (mget Core.reset · c) h

theorem modSlot_rest (k : Core) (n : Nat) (f : UserSlot → UserSlot) :
    k.modSlot n f = { k with slot0 := (k.modSlot n f).slot0, slot1 := (k.modSlot n f).slot1 } := by
  unfold Core.modSlot
  split <;> rfl

theorem slotFor_lt_two {k : Core} {ctx n : Nat} (h : k.slotFor ctx = some n) : n < 2 := by
  unfold Core.slotFor at h
  split at h
  · cases h; decide
  · split at h
    · cases h; decide
    · cases h

theorem gang_ne_fwSlot {s : State} (hu : s.inFirmware = false) : s.cur.gang ≠ fwSlot := by simpa [State.inFirmware] using hu

theorem modGang_of_found {s : State} {c n : Nat} {x : Gang} (f : Gang → Gang) (h : s.gang? c n = some x) : s.modGang c n f = s.setGang c n (f x) := by
  rw [State.modGang, h]

/-- What every step of a fold keeps, the fold keeps. -/
theorem foldl_keeps {α β : Type} (p : State → β) (f : State → α → State) (h : ∀ t a, p (f t a) = p t) (l : List α) (s : State) :
    p (l.foldl f s) = p s := by
  induction l generalizing s with
  | nil => rfl
  | cons a r ih => rw [List.foldl_cons, ih, h]

theorem wrBytes_mem (s : State) (a : Nat) (bs : List Byte) : (s.wrBytes a bs).mem = memWrite s.mem a bs := rfl

theorem wrBytes_modCore_rest (s : State) (a : Nat) (bs : List Byte) (c : Nat) (f : Core → Core) :
    (s.wrBytes a bs).modCore c f = { s with cores := ((s.wrBytes a bs).modCore c f).cores, mem := memWrite s.mem a bs } := rfl

end Sys2Proof.Machine
end

/-! ### Trap entry and trap records (R305, R306) -/

section
namespace Sys2Proof.Machine

/-! #### Little-endian fields (R5) -/

theorem leBytes_length (n v : Nat) : (leBytes n v).length = n := by simp [leBytes]

theorem leBytes_one (v : Nat) : leBytes 1 v = [BitVec.ofNat 8 v] := by simp [leBytes]

theorem leBytes_succ (n v : Nat) : leBytes (n + 1) v = BitVec.ofNat 8 v :: leBytes n (v / 2 ^ 8) := by
  have hdiv (i : Nat) : v / 2 ^ (8 * (i + 1)) = v / 2 ^ 8 / 2 ^ (8 * i) := by rw [Nat.div_div_eq_div_mul, ← Nat.pow_add, Nat.mul_succ, Nat.add_comm]
  simp [leBytes, List.range_succ_eq_map, hdiv]

theorem ofLe_leBytes (n v : Nat) : ofLe (leBytes n v) = v % 2 ^ (8 * n) := by
  induction n generalizing v with
  | zero => simp [leBytes, ofLe, Nat.mod_one]
  | succ n ih => rw [leBytes_succ, ofLe, ih, BitVec.toNat_ofNat, Nat.mul_succ, Nat.add_comm (8 * n), Nat.pow_add, Nat.mod_mul]

/-- Numbers of given widths in bytes, one after another. -/
def packFields (fs : List (Nat × Nat)) : List Byte := fs.flatMap fun p => leBytes p.1 p.2

def fieldsWidth (fs : List (Nat × Nat)) : Nat := (fs.map Prod.fst).sum

theorem packFields_length (fs : List (Nat × Nat)) : (packFields fs).length = fieldsWidth fs := by
  simp [packFields, fieldsWidth, leBytes_length]

theorem fieldsWidth_append (a b : List (Nat × Nat)) : fieldsWidth (a ++ b) = fieldsWidth a + fieldsWidth b := by
  simp [fieldsWidth]

/-- A field reads back at the place that the widths before it give. -/
theorem leAt_packFields (before after : List (Nat × Nat)) (w v : Nat) :
    leAt (packFields (before ++ (w, v) :: after)) (fieldsWidth before) w = v % 2 ^ (8 * w) := by
  have hsplit : packFields (before ++ (w, v) :: after) = packFields before ++ (leBytes w v ++ packFields after) := by simp [packFields]
  rw [leAt, hsplit, List.drop_left' (packFields_length before), List.take_left' (leBytes_length w v), ofLe_leBytes]

/-! #### The layout of a record (R306) -/

/-- Bytes 19:0 of a record: code, flags, PC and job. -/
def headFields (r : TrapRec) : List (Nat × Nat) :=
  [(1, r.code.toNat), (1, (if r.notice then 1 else 0) + (if r.deferred then 2 else 0)), (6, 0), (8, r.pc.toNat), (4, r.job)]

/-- Bytes 39:20: the launch and what names the fibre. -/
def nameFields (r : TrapRec) : List (Nat × Nat) :=
  match r.name with
  | .launched x y z f => [(4, r.launchNo), (4, x), (4, y), (4, z), (4, f)]
  | .spawned n | .service n => [(4, 0xFFFFFFFF), (8, n % 2 ^ 48), (8, 0)]

/-- The info words, from byte 56 on. -/
def infoFields (r : TrapRec) : List (Nat × Nat) := (List.range 9).map fun i => (8, (r.infos.getD i 0).toNat)

def recordFields (r : TrapRec) : List (Nat × Nat) := headFields r ++ (nameFields r ++ ((8, r.time.toNat) :: (8, 0) :: infoFields r))

theorem recordBytes_eq (r : TrapRec) : recordBytes r = packFields (recordFields r) := by
  have hzero : leBytes 8 0 = leBytes 4 0 ++ leBytes 4 0 := rfl
  unfold recordBytes recordFields headFields nameFields infoFields packFields
  cases r.name <;> simp [leBytes_one, hzero, List.flatMap_map]

theorem nameFields_width (r : TrapRec) : fieldsWidth (nameFields r) = 20 := by
  unfold nameFields
  cases r.name <;> rfl

theorem recordBytes_length (r : TrapRec) : (recordBytes r).length = 128 := by
  rw [recordBytes_eq, packFields_length, recordFields, fieldsWidth_append, fieldsWidth_append, nameFields_width]
  rfl

/-- A field of a record, at the place that the fields before it give. -/
theorem leAt_recordBytes {r : TrapRec} (before after : List (Nat × Nat)) {w v at_ : Nat} (hr : recordFields r = before ++ (w, v) :: after)
    (hat : fieldsWidth before = at_) : leAt (recordBytes r) at_ w = v % 2 ^ (8 * w) := by
  rw [recordBytes_eq, hr, ← hat, leAt_packFields]

theorem split_of_getElem? {α : Type} {l : List α} {k : Nat} {a : α} (h : l[k]? = some a) : l = l.take k ++ a :: l.drop (k + 1) := by
  obtain ⟨hk, rfl⟩ := List.getElem?_eq_some_iff.mp h
  rw [List.getElem_cons_drop, List.take_append_drop]

/-- Field number `k` of a record. -/
theorem leAt_recordBytes_field {r : TrapRec} (k : Nat) {w v at_ : Nat} (hr : (recordFields r)[k]? = some (w, v))
    (hat : fieldsWidth ((recordFields r).take k) = at_) : leAt (recordBytes r) at_ w = v % 2 ^ (8 * w) :=
  leAt_recordBytes _ _ (split_of_getElem? hr) hat

theorem infoFields_getElem? (r : TrapRec) {k : Nat} (hk : k < 9) : (infoFields r)[k]? = some (8, (r.infos.getD k 0).toNat) := by
  simp [infoFields, hk]

theorem infoFields_take_width (r : TrapRec) {k : Nat} (hk : k < 9) : fieldsWidth ((infoFields r).take k) = 8 * k := by
  have hwidths : ((infoFields r).take k).map Prod.fst = List.replicate k 8 := by
    rw [infoFields, ← List.map_take, List.take_range, Nat.min_eq_left (Nat.le_of_lt hk), List.map_map]
    exact List.map_const'.trans (congrArg (List.replicate · 8) List.length_range)
  rw [fieldsWidth, hwidths, List.sum_replicate_nat, Nat.mul_comm]

theorem leAt_recordBytes_info (r : TrapRec) {k : Nat} (hk : k < 9) : leAt (recordBytes r) (56 + 8 * k) 8 = (r.infos.getD k 0).toNat := by
  have hfields : recordFields r = (headFields r ++ (nameFields r ++ (8, r.time.toNat) :: (8, 0) :: (infoFields r).take k))
      ++ (8, (r.infos.getD k 0).toNat) :: (infoFields r).drop (k + 1) := by
    rw [recordFields]
    conv => lhs; rw [split_of_getElem? (infoFields_getElem? r hk)]
    simp only [List.append_assoc, List.cons_append]
  have hat : fieldsWidth (headFields r ++ (nameFields r ++ (8, r.time.toNat) :: (8, 0) :: (infoFields r).take k)) = 56 + 8 * k := by
    rw [fieldsWidth_append, fieldsWidth_append, nameFields_width, ← infoFields_take_width r hk]
    simp only [fieldsWidth, headFields, List.map_cons, List.sum_cons, List.map_nil, List.sum_nil]
    omega
  rw [leAt_recordBytes _ _ hfields hat, Nat.mod_eq_of_lt (BitVec.isLt _)]

theorem recordFields_assoc (r : TrapRec) :
    recordFields r = headFields r ++ nameFields r ++ (8, r.time.toNat) :: (8, 0) :: infoFields r := (List.append_assoc ..).symm

theorem leAt_recordBytes_launched {r : TrapRec} {l x y z f : Nat} (h : nameFields r = [(4, l), (4, x), (4, y), (4, z), (4, f)]) :
    let b := recordBytes r
    leAt b 20 4 = l % 2 ^ 32 ∧ leAt b 24 4 = x % 2 ^ 32 ∧ leAt b 28 4 = y % 2 ^ 32 ∧ leAt b 32 4 = z % 2 ^ 32 ∧ leAt b 36 4 = f % 2 ^ 32 := by
  have hfield (k : Nat) {w v at_ : Nat} := leAt_recordBytes_field (r := r) k (w := w) (v := v) (at_ := at_)
  rw [recordFields, h] at hfield
  exact ⟨hfield 5 rfl rfl, hfield 6 rfl rfl, hfield 7 rfl rfl, hfield 8 rfl rfl, hfield 9 rfl rfl⟩

theorem leAt_recordBytes_spawned {r : TrapRec} {l m : Nat} (h : nameFields r = [(4, l), (8, m), (8, 0)]) :
    let b := recordBytes r
    leAt b 20 4 = l % 2 ^ 32 ∧ leAt b 24 8 = m % 2 ^ 64 ∧ leAt b 32 8 = 0 := by
  have hfield (k : Nat) {w v at_ : Nat} := leAt_recordBytes_field (r := r) k (w := w) (v := v) (at_ := at_)
  rw [recordFields, h] at hfield
  exact ⟨hfield 5 rfl rfl, hfield 6 rfl rfl, hfield 7 (v := 0) rfl rfl⟩

/-- Where each field of a record stands (R306). -/
theorem recordLayout (r : TrapRec) :
    let b := recordBytes r
    b.length = 128 ∧ leAt b 0 1 = r.code.toNat
    ∧ leAt b 1 1 = (if r.notice then 1 else 0) + (if r.deferred then 2 else 0) ∧ leAt b 2 6 = 0 ∧ leAt b 8 8 = r.pc.toNat
    ∧ leAt b 16 4 = r.job % 2 ^ 32 ∧ leAt b 40 8 = r.time.toNat ∧ leAt b 48 8 = 0
    ∧ (∀ k, k < 9 → leAt b (56 + 8 * k) 8 = (r.infos.getD k 0).toNat)
    ∧ (∀ x y z f, r.name = .launched x y z f →
        leAt b 20 4 = r.launchNo % 2 ^ 32 ∧ leAt b 24 4 = x % 2 ^ 32 ∧ leAt b 28 4 = y % 2 ^ 32 ∧ leAt b 32 4 = z % 2 ^ 32
        ∧ leAt b 36 4 = f % 2 ^ 32)
    ∧ ∀ n, r.name = .spawned n → leAt b 20 4 = 0xFFFFFFFF ∧ leAt b 24 8 = n % 2 ^ 48 ∧ leAt b 32 8 = 0 := by
  have hbyte : r.code.toNat % 2 ^ (8 * 1) = r.code.toNat := Nat.mod_eq_of_lt r.code.isLt
  have hword (x : W64) : x.toNat % 2 ^ (8 * 8) = x.toNat := Nat.mod_eq_of_lt x.isLt
  have hflags : ((if r.notice then 1 else 0) + (if r.deferred then 2 else 0)) % 2 ^ (8 * 1)
      = (if r.notice then 1 else 0) + (if r.deferred then 2 else 0) := by
    cases r.notice <;> cases r.deferred <;> rfl
  have hwidth : fieldsWidth (headFields r ++ nameFields r) = 40 := by rw [fieldsWidth_append, nameFields_width]; rfl
  have hpad : recordFields r = (headFields r ++ nameFields r ++ [(8, r.time.toNat)]) ++ (8, 0) :: infoFields r := by
    rw [recordFields_assoc]
    simp
  refine ⟨recordBytes_length r, (leAt_recordBytes_field 0 rfl rfl).trans hbyte, (leAt_recordBytes_field 1 rfl rfl).trans hflags,
    leAt_recordBytes_field 2 (v := 0) rfl rfl, (leAt_recordBytes_field 3 rfl rfl).trans (hword r.pc), leAt_recordBytes_field 4 rfl rfl,
    (leAt_recordBytes _ _ (recordFields_assoc r) hwidth).trans (hword r.time),
    leAt_recordBytes _ _ (v := 0) hpad (by rw [fieldsWidth_append, hwidth]; rfl), fun k => leAt_recordBytes_info r,
    fun x y z f hn => leAt_recordBytes_launched (by rw [nameFields, hn]), fun n hn => ?_⟩
  have hname : nameFields r = [(4, 0xFFFFFFFF), (8, n % 2 ^ 48), (8, 0)] := by rw [nameFields, hn]
  obtain ⟨hlaunch, hserial, hzero⟩ := leAt_recordBytes_spawned hname
  exact ⟨hlaunch.trans (Nat.mod_eq_of_lt (by decide)), hserial.trans (by omega), hzero⟩

/-! #### Trap entry (R305) -/

theorem freeEntry_of_lowest {valid : BitVec 64} {i : Nat} (hi : i < 64) (hfree : valid.getLsbD i = false)
    (hheld : ∀ j, j < i → valid.getLsbD j = true) : freeEntry valid = some i :=
  List.find?_range_eq_some.mpr ⟨by simp [hfree], List.mem_range.mpr hi, fun j hj => by simp [hheld j hj]⟩

theorem freeEntry_of_full : freeEntry (BitVec.allOnes 64) = none := by decide

/-- A core once a record stands in entry `i` of slot `n` (R305). -/
def Core.withRecord (k : Core) (n i : Nat) : Core :=
  { k.modSlot n fun u => { u with trapvalid := u.trapvalid ||| BitVec.ofNat 64 (2 ^ i) } with event := k.event ||| BitVec.ofNat 5 (2 ^ n) }

theorem withRecord_gangs (k : Core) (n i : Nat) : (k.withRecord n i).gangs = k.gangs := by
  rw [Core.withRecord, modSlot_rest]

theorem withRecord_slotOf (k : Core) {n : Nat} (hn : n < 2) (i : Nat) (gs : TMap Gang) : ({ k.withRecord n i with gangs := gs } : Core).slotOf n
    = { k.slotOf n with trapvalid := (k.slotOf n).trapvalid ||| BitVec.ofNat 64 (2 ^ i) } := by
  match n, hn with
  | 0, _ | 1, _ => rfl

theorem writeRecord_withRecord {s : State} {c ctx n i : Nat} (r : TrapRec) (hn : (s.core c).slotFor ctx = some n)
    (hi : freeEntry ((s.core c).slotOf n).trapvalid = some i) :
    writeRecord s c ctx r = some (i, (s.wrBytes (fwPhys ((s.core c).slotOf n).trapbase + 128 * i) (recordBytes r)).modCore c fun k => k.withRecord n i) := by
  rw [writeRecord_writes s c ctx r n i hn hi]
  have hevent (k : Core) (f : UserSlot → UserSlot) : (k.modSlot n f).event = k.event := by rw [modSlot_rest]
  simp only [hevent, Core.withRecord]

/-- The state once a record stands in entry `i` of slot `n` of the issuing core. -/
def recorded (s : State) (r : TrapRec) (n i : Nat) : State :=
  (s.wrBytes (fwPhys (s.curCore.slotOf n).trapbase + 128 * i) (recordBytes r)).modCore s.cur.core fun k => k.withRecord n i

theorem recorded_issues {s : State} {g : Gang} (r : TrapRec) (n i : Nat) (hg : Issues s g) (hu : s.inFirmware = false) :
    Issues (recorded s r n i) g := by
  have hne := gang_ne_fwSlot hu
  unfold Issues State.curGang? State.gang? at hg ⊢
  rw [if_neg hne] at hg
  rw [if_neg (show (recorded s r n i).cur.gang ≠ fwSlot from hne), ← hg]
  have hcore : (recorded s r n i).core s.cur.core = (s.core s.cur.core).withRecord n i := (core_modCore ..).trans (if_pos rfl)
  exact congrArg (mfind · s.cur.gang) ((congrArg Core.gangs hcore).trans (withRecord_gangs ..))

/-- The record of a trap at the issuing instruction, named by a lane. -/
abbrev issueRecord (s : State) (g : Gang) (code : BitVec 8) (lane : Nat) (infos : List W64) : TrapRec :=
  trapRecord s g (g.lane lane) code false false s.cur.pc infos

/-- How a gang stands that a trap at the issuing instruction stops. -/
def stopOf (s : State) (g : Gang) (code : BitVec 8) (lane : Nat) (infos : List W64) (entry : Option Nat) : Stop :=
  { record := issueRecord s g code lane infos, entry := entry, lanes := groupLanes s g, resume := s.cur.next }

/-- The state once a gang of the issuing core has stopped with a record in entry `i` of slot `n`. -/
theorem putCur_recorded {s : State} (hu : s.inFirmware = false) (r : TrapRec) (n i : Nat) (x : Gang) :
    (recorded s r n i).putCur x = (s.wrBytes (fwPhys (s.curCore.slotOf n).trapbase + 128 * i) (recordBytes r)).modCore s.cur.core fun k =>
      { k.withRecord n i with gangs := mset k.gangs s.cur.gang x } := by
  have hput : (recorded s r n i).putCur x
      = (recorded s r n i).modCore s.cur.core fun k => { k with gangs := mset k.gangs s.cur.gang x } := if_neg (gang_ne_fwSlot hu)
  rw [hput, recorded, modCore_comp]
  simp only [withRecord_gangs]

theorem putCur_recorded_core {s : State} (hu : s.inFirmware = false) (r : TrapRec) (n i : Nat) (x : Gang) (c : Nat) :
    ((recorded s r n i).putCur x).core c
      = if c = s.cur.core then { s.curCore.withRecord n i with gangs := mset s.curCore.gangs s.cur.gang x } else s.core c := by
  rw [putCur_recorded hu, core_modCore]
  rfl

theorem putCur_recorded_curCore {s : State} (hu : s.inFirmware = false) (r : TrapRec) (n i : Nat) (x : Gang) :
    ((recorded s r n i).putCur x).curCore = { s.curCore.withRecord n i with gangs := mset s.curCore.gangs s.cur.gang x } := by
  have hcur : ((recorded s r n i).putCur x).cur = s.cur := by rw [putCur_recorded hu]; rfl
  rw [State.curCore, hcur, putCur_recorded_core hu, if_pos rfl]

theorem putCur_recorded_mem {s : State} (hu : s.inFirmware = false) (r : TrapRec) (n i : Nat) (x : Gang) :
    ((recorded s r n i).putCur x).mem = memWrite s.mem (fwPhys (s.curCore.slotOf n).trapbase + 128 * i) (recordBytes r) := by
  rw [putCur_recorded hu, modCore_mem, wrBytes_mem]

theorem putCur_recorded_rest {s : State} (hu : s.inFirmware = false) (r : TrapRec) (n i : Nat) (x : Gang) :
    (recorded s r n i).putCur x = { s with
      cores := ((recorded s r n i).putCur x).cores
      mem := memWrite s.mem (fwPhys (s.curCore.slotOf n).trapbase + 128 * i) (recordBytes r) } := by
  rw [putCur_recorded hu]
  exact wrBytes_modCore_rest ..

section
variable {s : State} {g : Gang} {code : BitVec 8} {lane n : Nat} {infos : List W64} (hg : Issues s g) (hu : s.inFirmware = false)
  (hc : code ≠ tcECC) (hy : g.member4 = none) (hn : s.curCore.slotFor g.ctx = some n) (hr : g.region.instrs = 0)
  (hnat : g.inNative = true → g.replay = true)
include hg hu hc hy hn hr hnat

/-- With every entry held the record is pending, and memory is as it was (R305). -/
theorem takeTrap_pends (hfull : (s.curCore.slotOf n).trapvalid = BitVec.allOnes 64) :
    takeTrap s code lane infos = s.putCur { g with stop := some (stopOf s g code lane infos none) } := by
  have hw : writeRecord s s.cur.core g.ctx (issueRecord s g code lane infos) = none :=
    writeRecord_full s _ _ _ (.inr ⟨n, hn, (congrArg freeEntry hfull).trans freeEntry_of_full⟩)
  rw [takeTrap_stops s code lane infos g hc hu hg hr hnat, stopGang_pending s _ _ _ _ _ g hg hy hw, modGang_of_found _ hg]
  rfl

/-- With a free entry the record is written there, and the gang stops (R305). -/
theorem takeTrap_writes {i : Nat} (hi : freeEntry (s.curCore.slotOf n).trapvalid = some i) :
    takeTrap s code lane infos = (recorded s (issueRecord s g code lane infos) n i).putCur
      { g with stop := some (stopOf s g code lane infos (some i)) } := by
  have hw := writeRecord_withRecord (issueRecord s g code lane infos) hn hi
  have hcur := recorded_issues (issueRecord s g code lane infos) n i hg hu
  rw [takeTrap_stops s code lane infos g hc hu hg hr hnat, stopGang_written s _ _ _ _ _ g i _ hg hy hw]
  exact modGang_of_found _ hcur

end

/-- Settles O22: trap entry by where `takeTrap` goes, and the layout of a record from its fields. -/
theorem trapEntryAndRecord : Obligations.TrapEntryAndRecord := by
  unfold Obligations.TrapEntryAndRecord
  refine ⟨fun s g code lane n infos hg hu hc hy hn => ⟨fun hr hnat => ⟨fun i hi hfree hheld => ?writes, fun hfull => ?pends⟩, fun hr => ?rollsBack⟩,
    recordLayout⟩
  case writes =>
    rw [takeTrap_writes hg hu hc hy hn hr hnat (freeEntry_of_lowest hi hfree hheld)]
    refine ⟨putCur_recorded_rest hu _ n i _, recordBytes_length _, fun a ha => ?_, curGang_putCur _ _ (gang_ne_fwSlot hu), ?_, ?_, fun c hc => ?_⟩
    · rw [putCur_recorded_mem hu]
      exact memWrite_other _ _ _ _ (by rwa [recordBytes_length])
    · rw [putCur_recorded_curCore hu]
      exact withRecord_slotOf _ (slotFor_lt_two hn) ..
    · rw [putCur_recorded_curCore hu]
      rfl
    · rw [putCur_recorded_core hu, if_neg hc]
  case pends => exact takeTrap_pends hg hu hc hy hn hr hnat hfull
  case rollsBack => exact ⟨takeTrap_rollsBack s code lane infos g hc hu hg hr, takeTrap_aborts s lane infos g hu hg hr⟩

end Sys2Proof.Machine
end

/-! ### The privileged instructions of the firmware fibre (R57, R292, R316) -/

section
namespace Sys2Proof.Machine

/-- Replacing the firmware fibre's gang changes the fibre, its flags and what it waits for. -/
theorem putCur_firmware {s : State} (h : s.cur.gang = 32) (x : Gang) :
    s.putCur x = s.modCore s.cur.core fun k => { k with fw := x.lane 0, fwFlags := x.arch.fflags, fwWait := x.waits.head? } := if_pos h

theorem chargeOnce_arch (g : Gang) (s : State) : (g.chargeOnce s).arch = g.arch := by rw [charge_rest]

section
variable {s : State} {gd : Guard} (h : FirmwareRuns s gd)
include h

theorem FirmwareRuns.inFirmware : s.inFirmware = true := beq_iff_eq.mpr h.1

theorem FirmwareRuns.issues : Issues s s.curCore.fwGang := if_pos h.1

/-- The firmware fibre is lane 0, the one lane of its gang. -/
theorem FirmwareRuns.lane_zero_in_group : (groupLanes s s.curCore.fwGang).getLsbD 0 = true := by
  refine Decidable.byContradiction fun hout => h.2 (BitVec.eq_of_getLsbD_eq fun l _ => (Bool.eq_false_iff.mpr fun he => ?_).trans BitVec.getLsbD_zero.symm)
  have hgroup := exec_in_group s _ gd l he
  obtain ⟨x, hx⟩ := group_found s _ l hgroup
  have hl : l = 0 := Decidable.byContradiction fun hne => by simp [Core.fwGang, mfind, Ne.symm hne] at hx
  exact hout (hl ▸ hgroup)

theorem FirmwareRuns.retireWith_id : retireWith s id = fwMoved s := by
  have hin := h.lane_zero_in_group
  rw [retireWith_moves s id _ h.issues, id_eq, putCur_firmware h.1, fwMoved]
  refine modCore_congr ?_
  have hlane : ((s.curCore.fwGang.advance (groupLanes s s.curCore.fwGang) s.cur.next).chargeOnce s).lane 0
      = { s.curCore.fw with pc := s.cur.next } := by
    rw [chargeOnce_lane, advance_lane s.cur.next fun _ hl => hl, if_pos hin]
    rfl
  rw [hlane, chargeOnce_arch, chargeOnce_waits]
  have hwaits : (s.curCore.fwGang.advance (groupLanes s s.curCore.fwGang) s.cur.next).waits.head? = s.curCore.fwWait := Option.head?_toList
  rw [hwaits]
  rfl

/-- A privileged instruction acts, where the firmware fibre passes its guard. -/
theorem FirmwareRuns.privOp_acts (k : Gang → State) :
    (privOp s gd fun g => if execLanes s g gd = 0 then retireWith s id else k g) = k s.curCore.fwGang :=
  (privOp_firmware s gd _ _ h.inFirmware h.issues).trans (if_neg h.2)

theorem FirmwareRuns.privileged_acts (act : Gang → Fibre → State → State) :
    privileged s gd act = act s.curCore.fwGang s.curCore.fw (fwMoved s) :=
  (h.privOp_acts fun g => act g (g.lane 0) (retireWith s id)).trans (by rw [h.retireWith_id]; rfl)

theorem FirmwareRuns.takeTrap_prot (lane : Nat) (infos : List W64) : takeTrap s tcPROT lane infos = fwTrap s 0x08 infos :=
  takeTrap_firmware s _ lane infos (by decide) h.inFirmware

end

theorem fwMoved_curCore (s : State) : (fwMoved s).curCore = { s.curCore with fw := { s.curCore.fw with pc := s.cur.next } } :=
  (core_modCore ..).trans (if_pos rfl)

end Sys2Proof.Machine
end

/-! ### Return from a trap (R247, R308) -/

section
namespace Sys2Proof.Machine

/-! #### A gang that goes on -/

theorem resumeGang_stays (g : Gang) (st : Stop) : resumeGang g st false = { g with stop := none } := rfl

theorem resumeGang_deferred (g : Gang) {st : Stop} (h : st.record.deferred = true) : resumeGang g st true = { g with stop := none } := by
  unfold resumeGang
  rw [h]
  rfl

/-- The lanes that ERET mode 0 moves past the reported instruction. -/
def resumedLanes (g : Gang) (st : Stop) : Mask := st.lanes &&& g.live

theorem resumeGang_passes (g : Gang) {st : Stop} (h : st.record.deferred = false) :
    resumeGang g st true = (({ g with stop := none }.release (resumedLanes g st)).mapBoth st.lanes
      fun _ f => if f.status == FStat.absent then f else { f with pc := st.resume }) := by
  unfold resumeGang
  rw [h]
  rfl

/-- Resuming changes fibres and waits, and lifts the stop. -/
theorem resumeGang_rest (g : Gang) (st : Stop) (after : Bool) :
    (resumeGang g st after).deferred = g.deferred ∧ (resumeGang g st after).block = g.block ∧ (resumeGang g st after).stop = none := by
  unfold resumeGang
  dsimp only
  split <;> exact ⟨rfl, rfl, rfl⟩

theorem base_found_of (g : Gang) {l : Nat} (h : (g.base.lane l).status ≠ .absent) : ∃ x, mfind g.base.fibres l = some x :=
  found_of { g with arch := g.base } l h

/-- The fibre at the commit point in a lane, after an operation on the lanes of a mask. -/
theorem mapBoth_base_lane (g : Gang) (m : Mask) (f : Nat → Fibre → Fibre) {l : Nat} (h : ∃ x, mfind g.base.fibres l = some x) :
    (g.mapBoth m f).base.lane l = if m.getLsbD l then f l (g.base.lane l) else g.base.lane l :=
  mapLanes_lane { g with arch := g.base } m f l fun _ => h

section
variable {g : Gang} {st : Stop} {l : Nat} (hd : st.record.deferred = false)
include hd

theorem resumeGang_lane_out (hl : st.lanes.getLsbD l = false) : (resumeGang g st true).lane l = g.lane l := by
  have hout : (resumedLanes g st).getLsbD l = false := by rw [resumedLanes, BitVec.getLsbD_and, hl, Bool.false_and]
  rw [resumeGang_passes g hd, mapBoth_lane_out _ _ _ _ hl, release_lane_out _ _ _ hout]
  rfl

variable (h32 : l < 32) (ha : (g.lane l).status ≠ .absent) (hl : st.lanes.getLsbD l = true)
include h32 ha hl

omit hd in
theorem resumedLanes_bit : (resumedLanes g st).getLsbD l = true := by
  simp [resumedLanes, hl, Gang.live, Gang.lanesWhere, getLsbD_maskOf, h32, ha]

theorem resumeGang_lane_in : (resumeGang g st true).lane l = { g.lane l with status := .ready, pc := st.resume } := by
  have hreleased := release_lane_in { g with stop := none } _ l (resumedLanes_bit h32 ha hl) ha
  have hfound := found_of ({ g with stop := none }.release (resumedLanes g st)) l (by rw [hreleased]; simp)
  rw [resumeGang_passes g hd, mapBoth_lane _ _ _ _ fun _ => hfound, if_pos hl, hreleased]
  rfl

/-- The resume address holds at the commit point too, so that a later rollback keeps it. -/
theorem resumeGang_base_pc (hb : (g.base.lane l).status ≠ .absent) : ((resumeGang g st true).base.lane l).pc = st.resume := by
  have hin := resumedLanes_bit h32 ha hl
  have hreleased : (({ g with stop := none } : Gang).release (resumedLanes g st)).base.lane l
      = { g.base.lane l with status := .ready, pc := ({ g with stop := none } : Gang).nextOf l } :=
    (mapBoth_base_lane { g with stop := none } _ _ (base_found_of g hb)).trans (if_pos hin)
  have hkept := base_found_of (({ g with stop := none } : Gang).release (resumedLanes g st)) (l := l) (by rw [hreleased]; simp)
  rw [resumeGang_passes g hd, mapBoth_base_lane _ _ _ hkept, if_pos hl, hreleased]
  rfl

end

/-! #### ERET -/

/-- The state with an entry of the issuing core's trap table free again. -/
def entryFreed (s : State) (n i : Nat) : State :=
  s.modCore s.cur.core fun k => k.modSlot n fun u => { u with trapvalid := u.trapvalid &&& ~~~(BitVec.ofNat 64 (2 ^ i)) }

theorem entryFreed_gang {s : State} (n i slot : Nat) {g : Gang} (hs : slot ≠ 32) (h : mfind s.curCore.gangs slot = some g) :
    (entryFreed s n i).gang? s.cur.core slot = some g := by
  rw [entryFreed, State.gang?, if_neg (show slot ≠ fwSlot from hs), core_modCore, if_pos rfl, modSlot_rest]
  exact h

/-- The phases of a gang's block, if it has one, evaluated again. -/
def evalBlock (s : State) (c : Nat) (b : Option Nat) : State :=
  match b with
  | some u => evalPhases s c u
  | none => s

theorem resumeStopped_eq {s : State} {c slot : Nat} {g : Gang} (st : Stop) (after : Bool) (hs : slot ≠ fwSlot) (hg : s.gang? c slot = some g) :
    resumeStopped s c slot st after =
      if g.deferred ≠ [] then takeDeferred (s.setGang c slot (resumeGang g st after)) c slot
      else examine (evalBlock (s.setGang c slot (resumeGang g st after)) c g.block) c slot := by
  obtain ⟨hdeferred, hblock, -⟩ := resumeGang_rest g st after
  have hback : (s.setGang c slot (resumeGang g st after)).gang? c slot = some (resumeGang g st after) :=
    (gang_setGang s c slot c slot _ hs hs).trans (if_pos ⟨rfl, rfl⟩)
  unfold resumeStopped
  rw [modGang_of_found _ hg]
  dsimp only
  rw [hback]
  dsimp only
  rw [hdeferred, hblock]
  rfl

/-- What ERET does by its mode to the gang whose record it has freed. -/
def eretOn (s : State) (mode c slot : Nat) (g : Gang) (st : Stop) : State :=
  match mode with
  | 0 => resumeStopped s c slot st true
  | 1 => resumeStopped s c slot st false
  | 2 => killGang s c slot g st.record
  | _ => s.modGang c slot fun x => { x with stop := some { st with entry := some 64 } }

theorem eretOn_of_lt_two (s : State) {mode : Nat} (hm : mode < 2) (c slot : Nat) (g : Gang) (st : Stop) :
    eretOn s mode c slot g st = resumeStopped s c slot st (mode == 0) := by
  match mode, hm with
  | 0, _ | 1, _ => rfl

section
variable {s : State} {ctx i : Nat} (mode n : Nat)

theorem doEret_unmatched (h : stoppedAt s.curCore ctx i = none) : doEret s mode ctx n i = entryFreed s n i := by
  unfold doEret
  dsimp only
  rw [show stoppedAt (s.core s.cur.core) ctx i = none from h]
  rfl

theorem doEret_matched {slot : Nat} {g : Gang} {st : Stop} (h : stoppedAt s.curCore ctx i = some (slot, g)) (hst : g.stop = some st) :
    doEret s mode ctx n i = eretOn (entryFreed s n i) mode s.cur.core slot g st := by
  unfold doEret
  dsimp only
  rw [show stoppedAt (s.core s.cur.core) ctx i = some (slot, g) from h]
  dsimp only
  rw [hst]
  rfl

end

/-- The slot and the entry that an ERET names. -/
abbrev eretSlot (s : State) (f : AForm) : Nat := (s.curCore.fw.rv f.a).toNat / 2 ^ 8 % 2
abbrev eretEntry (s : State) (f : AForm) : Nat := (s.curCore.fw.rv f.a).toNat % 2 ^ 6

section
variable {s : State} (f : AForm) (h : FirmwareRuns s f.g)
include h

/-- ERET's own checks, then its effect on the record and the gang. -/
theorem exec_eret :
    let u := s.curCore.slotOf (eretSlot s f)
    exec (.eret f) s = .next (
      if u.state = .empty ∨ !u.trapvalid.getLsbD (eretEntry s f) then fwTrap s 0x08 [(s.curCore.fw.rv f.a).setWidth 64, 0x90]
      else doEret (fwMoved s) (f.mod.toNat % 4) u.ctx.toNat (eretSlot s f) (eretEntry s f)) := by
  refine (congrArg Host.Outcome.next (h.privOp_acts _)).trans ?_
  dsimp only
  rw [h.takeTrap_prot, h.retireWith_id, bitsOf_zero, bitsOf_zero]
  rfl

theorem exec_eret_of_held (hu : (s.curCore.slotOf (eretSlot s f)).state ≠ .empty)
    (hv : (s.curCore.slotOf (eretSlot s f)).trapvalid.getLsbD (eretEntry s f) = true) :
    exec (.eret f) s = .next (doEret (fwMoved s) (f.mod.toNat % 4) (s.curCore.slotOf (eretSlot s f)).ctx.toNat (eretSlot s f) (eretEntry s f)) :=
  (exec_eret f h).trans (congrArg Host.Outcome.next (if_neg (not_or.mpr ⟨hu, by rw [hv]; decide⟩)))

end

theorem fwMoved_stoppedAt (s : State) (ctx i : Nat) : stoppedAt (fwMoved s).curCore ctx i = stoppedAt s.curCore ctx i := by
  rw [fwMoved_curCore]
  rfl

/-- Settles O25: ERET by its checks and its mode, and what resuming does to each lane. -/
theorem trapReturn : Obligations.TrapReturn := by
  unfold Obligations.TrapReturn
  refine ⟨fun s f h => ⟨fun hclear => ?clear, fun hu hv => ⟨fun hnone => ?unmatched, fun slot g st hat hst hfind hslot => ?matched⟩⟩,
    fun g st l h32 ha => ⟨resumeGang_stays g st, (resumeGang_rest g st true).2.2, fun hd => by rw [resumeGang_deferred g hd]; rfl,
      fun hd hl => ?passed, fun hd hl => resumeGang_lane_out hd hl⟩⟩
  case clear =>
    exact (exec_eret f h).trans (congrArg Host.Outcome.next (if_pos (hclear.imp id fun hv => by rw [hv]; rfl)))
  case unmatched =>
    exact (exec_eret_of_held f h hu hv).trans (congrArg Host.Outcome.next (doEret_unmatched _ _ ((fwMoved_stoppedAt s _ _).trans hnone)))
  case matched =>
    have hgang := entryFreed_gang (s := fwMoved s) (eretSlot s f) (eretEntry s f) slot hslot
      ((congrArg (mfind · slot) (congrArg Core.gangs (fwMoved_curCore s))).trans hfind)
    have heret := (exec_eret_of_held f h hu hv).trans
      (congrArg Host.Outcome.next (doEret_matched (f.mod.toNat % 4) _ ((fwMoved_stoppedAt s _ _).trans hat) hst))
    refine ⟨fun hm hd => ?examined, fun hm hd => ?deferred, fun hm => ?killed, fun hm => ?left⟩
    case examined =>
      rw [heret, eretOn_of_lt_two _ hm, resumeStopped_eq st _ hslot hgang, if_neg (not_not_intro hd)]
      rfl
    case deferred =>
      rw [heret, eretOn_of_lt_two _ hm, resumeStopped_eq st _ hslot hgang, if_pos hd]
      rfl
    case killed =>
      rw [heret, hm]
      rfl
    case left =>
      rw [heret, hm]
      exact congrArg Host.Outcome.next (modGang_of_found _ hgang)
  case passed =>
    have hlane := resumeGang_lane_in hd h32 ha hl
    exact ⟨by rw [hlane], by rw [hlane], resumeGang_base_pc hd h32 ha hl⟩

end Sys2Proof.Machine
end

/-! ### ECLR, HALT, WFI, CTXSV, CTXLD and TLBINV (R304, R309, R312, R316) -/

section
namespace Sys2Proof.Machine

/-! #### The firmware fibre parks (R316) -/

theorem putCur_fwPark {s : State} (h : s.cur.gang = 32) (i : Instr) (c : Cause) :
    s.putCur (s.curCore.fwGang.park s i 1 c 0) = s.modCore s.cur.core fun k =>
      { k with fw := { k.fw with status := .parked c }, fwWait := k.fwWait.or (some (parkedWait s i 1 c 0)) } := by
  rw [putCur_firmware h]
  refine modCore_congr ?_
  have hlane : (s.curCore.fwGang.park s i 1 c 0).lane 0 = { s.curCore.fw with status := .parked c } :=
    (park_lane s i c 0 0 fun _ => ⟨_, rfl⟩).trans (if_pos rfl)
  have hwaits : (s.curCore.fwGang.park s i 1 c 0).waits.head? = s.curCore.fwWait.or (some (parkedWait s i 1 c 0)) := by
    rw [park_eq]
    cases hw : s.curCore.fwWait <;> simp [Core.fwGang, hw]
  rw [hlane, hwaits, park_eq]
  rfl

section
variable {s : State} (f : AForm) (h : FirmwareRuns s f.g)
include h

theorem exec_eclr :
    let n := (s.curCore.fw.rv f.a).toNat % 2
    let u := s.curCore.slotOf n
    exec (.eclr f) s = .next ((fwMoved s).modCore s.cur.core fun k =>
      let k1 := { k with fw := k.fw.wx f.d (BitVec.ofNat 64 (if u.state = .empty then 0 else u.energy.toNat)) }
      if f.mod.getLsbD 0 = true ∨ u.state = .empty then k1 else k1.modSlot n fun w => { w with energy := 0 }) := by
  refine (congrArg Host.Outcome.next (h.privileged_acts _)).trans ?_
  dsimp only
  rw [bitsOf_zero, modCore_ite]
  exact congrArg Host.Outcome.next (ite_congr rfl (fun _ => rfl) fun _ => modCore_comp ..)

theorem exec_halt : exec (.halt f) s = .next ((fwMoved s).modCore s.cur.core fun k => { k with halted := true }) :=
  congrArg Host.Outcome.next (h.privileged_acts _)

theorem exec_wfi_eq : exec (.wfi f) s = .next (
    if s.curCore.event &&& (s.curCore.fw.rv f.a).setWidth 5 ≠ 0 then fwMoved s
    else s.modCore s.cur.core fun k =>
      { k with fw := { k.fw with status := .parked .result }, fwWait := k.fwWait.or (some (parkedWait s (.wfi f) 1 .result 0)) }) := by
  rw [← putCur_fwPark h.1]
  exact congrArg Host.Outcome.next (h.privileged_acts _)

theorem exec_wfi_of_event (hset : s.curCore.event &&& (s.curCore.fw.rv f.a).setWidth 5 ≠ 0) : exec (.wfi f) s = .next (fwMoved s) := by
  rw [exec_wfi_eq f h, if_pos hset]

theorem exec_wfi_of_none (hclear : s.curCore.event &&& (s.curCore.fw.rv f.a).setWidth 5 = 0) :
    ∃ w, exec (.wfi f) s = .next (s.modCore s.cur.core fun k =>
        { k with fw := { k.fw with status := .parked .result }, fwWait := k.fwWait.or (some w) })
      ∧ w.mask = 1 ∧ w.instr = .wfi f ∧ w.next = s.cur.next := by
  refine ⟨parkedWait s (.wfi f) 1 .result 0, ?_, rfl, rfl, rfl⟩
  rw [exec_wfi_eq f h, if_neg (not_not_intro hclear)]

end

/-! #### Saving a context (R309, R493) -/

theorem fwAddrOk_iff (s : State) (a : W64) : fwAddrOk s a = true ↔ OwnAddr s a := by
  have hhigh : bitsOf a 52 12 = 0 ↔ a.toNat < 2 ^ 52 := bitsOf_eq_zero_iff_lt a (by decide)
  have hpkg (h : a.toNat < 2 ^ 52) : bitsOf a 48 4 = a.toNat / 2 ^ 48 := Nat.mod_eq_of_lt (by omega)
  unfold fwAddrOk OwnAddr
  rw [Bool.and_eq_true, Bool.and_eq_true, beq_iff_eq, beq_iff_eq, beq_iff_eq, hhigh, and_assoc]
  exact and_congr_right fun hlt => by rw [hpkg hlt]; rfl

theorem live_iff (u : UserSlot) : u.live = true ↔ u.state = .running ∨ u.state = .resident := by
  simp [UserSlot.live]

theorem live_eq_false {u : UserSlot} (hrun : u.state ≠ .running) (hres : u.state ≠ .resident) : u.live = false :=
  Bool.eq_false_iff.mpr (mt (live_iff u).mp (not_or.mpr ⟨hrun, hres⟩))

theorem fwAddrOk_eq_false {s : State} {a : W64} (h : ¬ OwnAddr s a) : fwAddrOk s a = false :=
  Bool.eq_false_iff.mpr (mt (fwAddrOk_iff s a).mp h)

theorem undoRegion_cur (s : State) (c g : Nat) (back : Gang → Gang) : (undoRegion s c g back).cur = s.cur := by
  unfold undoRegion
  cases s.gang? c g with
  | none => rfl
  | some x =>
    dsimp only
    rw [modCore_cur, setGang_cur, State.unrecord]
    exact foldl_keeps State.cur _ (fun _ _ => modDie_cur ..) x.region.reads s

theorem dissolveYoke_cur (s : State) (c : Nat) : (dissolveYoke s c).cur = s.cur := by
  unfold dissolveYoke
  exact foldl_keeps State.cur _ (fun _ _ => modGang_cur ..) _ s

theorem stopContext_cur (s : State) (c ctx : Nat) : (stopContext s c ctx).cur = s.cur := by
  unfold stopContext
  extract_lets mine s1 s2
  have h1 : s1.cur = s.cur := foldl_keeps State.cur _ (fun t q => by
    rw [modGang_cur]
    split
    · rfl
    · exact undoRegion_cur ..) mine s
  have h2 : s2.cur = s1.cur := by
    unfold s2
    split
    · exact dissolveYoke_cur ..
    · rfl
  exact h2.trans h1

theorem sameMem_stopContext (s : State) (c ctx : Nat) : SameMem s (stopContext s c ctx) := by
  unfold stopContext
  extract_lets mine s1 s2
  have h1 : SameMem s s1 := sameMem_foldl _ _ (fun t q => by
    refine SameMem.trans ?_ (sameMem_modGang _ _ _ _)
    split
    · exact SameMem.rfl' t
    · exact sameMem_undoRegion ..) s
  have h2 : SameMem s1 s2 := by
    unfold s2
    split
    · exact sameMem_dissolveYoke ..
    · exact SameMem.rfl' s1
  exact (h1.trans h2).trans ⟨rfl, rfl⟩

theorem switchTo_none_running (k : Core) : (k.switchTo none).running = none := by
  unfold Core.switchTo
  split
  case isTrue h => exact h
  case isFalse => rfl

/-- A core whose slot `n` is being saved by a move. -/
def Core.startSave (k : Core) (n : Nat) (m : Move) : Core :=
  let k1 := if k.running = some n then k.switchTo none else k
  { k1.modSlot n fun v => { v with state := .saving } with moves := k1.moves ++ [m] }

theorem startSave_slot (k : Core) {n : Nat} (hn : n < 2) (m : Move) : ((k.startSave n m).slotOf n).state = .saving := by
  match n, hn with
  | 0, _ | 1, _ => rfl

theorem startSave_running (k : Core) (n : Nat) (m : Move) : (k.startSave n m).running ≠ some n := by
  have hrun (k1 : Core) : ({ k1.modSlot n fun v => { v with state := .saving } with moves := k1.moves ++ [m] } : Core).running = k1.running := by
    rw [modSlot_rest]
  rw [Core.startSave, hrun]
  split
  case isTrue => rw [switchTo_none_running]; exact (Option.some_ne_none n).symm
  case isFalse h => exact h

theorem mem_startSave_moves (k : Core) (n : Nat) (m : Move) : m ∈ (k.startSave n m).moves := List.mem_append_right _ List.mem_cons_self

/-- The slot that a CTXSV or CTXLD names. -/
abbrev moveSlot (s : State) (f : AForm) : Nat := (s.curCore.fw.rv f.b).toNat % 2

/-- The move that a CTXSV starts. -/
def saveMove (s : State) (f : AForm) : Move :=
  { slot := moveSlot s f, saving := true, addr := s.curCore.fw.rx f.a
    until_ := s.ck + (saveSize s s.cur.core (s.curCore.slotOf (moveSlot s f)).ctx.toNat + 255) / 256 }

section
variable {s : State} (f : AForm) (h : FirmwareRuns s f.g)
include h

theorem exec_ctxsv_eq :
    let fw := s.curCore.fw
    let n := moveSlot s f
    let u := s.curCore.slotOf n
    exec (.ctxsv f) s = .next (
      if !u.live then fwTrap s 0x08 [fw.rx f.a, 0x91, (fw.rv f.b).setWidth 64]
      else if (fw.rx f.a).toNat % 2 ^ 16 ≠ 0 then fwTrap s 0x08 [fw.rx f.a, 0x92, (fw.rv f.b).setWidth 64]
      else if !fwAddrOk s (fw.rx f.a) then fwTrap s 0x08 (protInfos (fw.rx f.a) 1 0x01)
      else (stopContext (fwMoved s) s.cur.core u.ctx.toNat).modCore s.cur.core fun k => k.startSave n (saveMove s f)) := by
  refine (congrArg Host.Outcome.next (h.privOp_acts _)).trans ?_
  dsimp only
  rw [h.takeTrap_prot, h.takeTrap_prot, h.takeTrap_prot, h.retireWith_id, bitsOf_zero, bitsOf_zero]
  rfl

theorem exec_ctxsv_of_quiet (hrun : (s.curCore.slotOf (moveSlot s f)).state ≠ .running)
    (hres : (s.curCore.slotOf (moveSlot s f)).state ≠ .resident) :
    exec (.ctxsv f) s = .next (fwTrap s 0x08 [s.curCore.fw.rx f.a, 0x91, (s.curCore.fw.rv f.b).setWidth 64]) :=
  (exec_ctxsv_eq f h).trans (congrArg Host.Outcome.next (if_pos (by rw [live_eq_false hrun hres]; rfl)))

section
variable (hlive : (s.curCore.slotOf (moveSlot s f)).live = true)
include hlive

/-- The two checks after the slot's, for a slot that holds a context. -/
theorem exec_ctxsv_of_live : exec (.ctxsv f) s = .next (
      if (s.curCore.fw.rx f.a).toNat % 2 ^ 16 ≠ 0 then fwTrap s 0x08 [s.curCore.fw.rx f.a, 0x92, (s.curCore.fw.rv f.b).setWidth 64]
      else if !fwAddrOk s (s.curCore.fw.rx f.a) then fwTrap s 0x08 (protInfos (s.curCore.fw.rx f.a) 1 0x01)
      else (stopContext (fwMoved s) s.cur.core (s.curCore.slotOf (moveSlot s f)).ctx.toNat).modCore s.cur.core fun k =>
        k.startSave (moveSlot s f) (saveMove s f)) :=
  (exec_ctxsv_eq f h).trans (congrArg Host.Outcome.next (if_neg (by rw [hlive]; decide)))

theorem exec_ctxsv_of_misaligned (halign : (s.curCore.fw.rx f.a).toNat % 2 ^ 16 ≠ 0) :
    exec (.ctxsv f) s = .next (fwTrap s 0x08 [s.curCore.fw.rx f.a, 0x92, (s.curCore.fw.rv f.b).setWidth 64]) :=
  (exec_ctxsv_of_live f h hlive).trans (congrArg Host.Outcome.next (if_pos halign))

variable (halign : (s.curCore.fw.rx f.a).toNat % 2 ^ 16 = 0)
include halign

theorem exec_ctxsv_of_foreign (hown : ¬ OwnAddr s (s.curCore.fw.rx f.a)) :
    exec (.ctxsv f) s = .next (fwTrap s 0x08 (protInfos (s.curCore.fw.rx f.a) 1 0x01)) :=
  (exec_ctxsv_of_live f h hlive).trans (congrArg Host.Outcome.next
    ((if_neg (not_not_intro halign)).trans (if_pos (by rw [fwAddrOk_eq_false hown]; rfl))))

/-- A save that starts (R309): the slot, the running context, the move, and memory. -/
theorem exec_ctxsv_starts (hown : OwnAddr s (s.curCore.fw.rx f.a)) :
    ∃ t m, exec (.ctxsv f) s = .next t ∧ (t.curCore.slotOf (moveSlot s f)).state = .saving
      ∧ t.curCore.running ≠ some (moveSlot s f) ∧ m ∈ t.curCore.moves
      ∧ m.slot = moveSlot s f ∧ m.saving = true ∧ m.addr = s.curCore.fw.rx f.a ∧ t.mem = s.mem := by
  have hcore (c ctx : Nat) (k : Core → Core) :
      ((stopContext (fwMoved s) c ctx).modCore s.cur.core k).curCore = k ((stopContext (fwMoved s) c ctx).core s.cur.core) := by
    rw [State.curCore, modCore_cur, stopContext_cur]
    exact (core_modCore ..).trans (if_pos rfl)
  have haddr := (fwAddrOk_iff s _).mpr hown
  have hstarts := (exec_ctxsv_of_live f h hlive).trans (congrArg Host.Outcome.next
    ((if_neg (not_not_intro halign)).trans (if_neg (by rw [haddr]; decide))))
  refine ⟨_, saveMove s f, hstarts, ?_, ?_, ?_, rfl, rfl, rfl, (sameMem_stopContext (fwMoved s) _ _).1⟩
  · rw [hcore]
    exact startSave_slot _ (Nat.mod_lt _ Nat.two_pos) _
  · rw [hcore]
    exact startSave_running _ _ _
  · rw [hcore]
    exact mem_startSave_moves ..

end

/-! #### Loading a context (R312, R493) -/

omit h in
theorem headerOk_iff (s : State) (addr : W64) (other : Option Nat) : headerOk s addr other = true ↔
    s.rd (fwPhys addr) 4 = 0x46545843 ∧ s.rd (fwPhys addr + 6) 1 = Config.stepping.toNat ∧ s.rd (fwPhys addr + 7) 1 = 0
    ∧ s.rd (fwPhys addr + 4) 2 < 4096 ∧ (∀ b, b < 40 → memByte s.mem (fwPhys addr + 24 + b) = 0) ∧ other ≠ some (s.rd (fwPhys addr + 4) 2) := by
  simp [headerOk, memRead, and_assoc]

/-- The context that a slot's neighbour holds. -/
def otherCtx (u : UserSlot) : Option Nat := if u.occupied then some u.ctx.toNat else none

omit h in
theorem otherCtx_ne {u : UserSlot} {x : Nat} (hu : u.state = .empty ∨ u.ctx.toNat ≠ x) : otherCtx u ≠ some x := by
  unfold otherCtx
  split
  case isTrue hocc => exact fun hx => hu.elim (bne_iff_ne.mp hocc) fun hne => hne (Option.some.inj hx)
  case isFalse => exact (Option.some_ne_none x).symm

/-- The move that a CTXLD starts. -/
def loadMove (s : State) (f : AForm) : Move :=
  { slot := moveSlot s f, saving := false, addr := s.curCore.fw.rx f.a
    until_ := s.ck + (s.rd (fwPhys (s.curCore.fw.rx f.a) + 8) 8 + 255) / 256 }

theorem exec_ctxld_eq :
    let fw := s.curCore.fw
    let n := moveSlot s f
    exec (.ctxld f) s = .next (
      if !fwAddrOk s (fw.rx f.a) then fwTrap s 0x08 (protInfos (fw.rx f.a) 0 0x01)
      else if (s.curCore.slotOf n).occupied ∨ !headerOk s (fw.rx f.a) (otherCtx (s.curCore.slotOf (1 - n))) then
        fwTrap s 0x08 [fw.rx f.a, 0x93, (fw.rv f.b).setWidth 64]
      else (fwMoved s).modCore s.cur.core fun k =>
        { k.modSlot n fun v => { v with state := .loading, ctx := BitVec.ofNat 12 (s.rd (fwPhys (fw.rx f.a) + 4) 2) } with
          moves := k.moves ++ [loadMove s f] }) := by
  refine (congrArg Host.Outcome.next (h.privOp_acts _)).trans ?_
  dsimp only
  rw [h.takeTrap_prot, h.takeTrap_prot, h.retireWith_id, bitsOf_zero]
  rfl

theorem exec_ctxld_of_foreign (hown : ¬ OwnAddr s (s.curCore.fw.rx f.a)) :
    exec (.ctxld f) s = .next (fwTrap s 0x08 (protInfos (s.curCore.fw.rx f.a) 0 0x01)) :=
  (exec_ctxld_eq f h).trans (congrArg Host.Outcome.next (if_pos (by rw [fwAddrOk_eq_false hown]; rfl)))

section
variable (hown : OwnAddr s (s.curCore.fw.rx f.a))
include hown

theorem exec_ctxld_of_refused (hbad : (s.curCore.slotOf (moveSlot s f)).state ≠ .empty ∨ s.rd (fwPhys (s.curCore.fw.rx f.a)) 4 ≠ 0x46545843
      ∨ s.rd (fwPhys (s.curCore.fw.rx f.a) + 6) 1 ≠ Config.stepping.toNat) :
    exec (.ctxld f) s = .next (fwTrap s 0x08 [s.curCore.fw.rx f.a, 0x93, (s.curCore.fw.rv f.b).setWidth 64]) := by
  refine (exec_ctxld_eq f h).trans (congrArg Host.Outcome.next ((if_neg (by rw [(fwAddrOk_iff s _).mpr hown]; decide)).trans (if_pos ?_)))
  refine hbad.imp bne_iff_ne.mpr fun hheader => ?_
  rw [Bool.not_eq_true', Bool.eq_false_iff]
  intro hok
  obtain ⟨hmagic, hstep, -⟩ := (headerOk_iff s _ _).mp hok
  exact hheader.elim (fun hne => hne hmagic) fun hne => hne hstep

/-- A load that starts (R312): the slot is empty and the header matches. -/
theorem exec_ctxld_starts (hempty : (s.curCore.slotOf (moveSlot s f)).state = .empty)
    (hmagic : s.rd (fwPhys (s.curCore.fw.rx f.a)) 4 = 0x46545843) (hstep : s.rd (fwPhys (s.curCore.fw.rx f.a) + 6) 1 = Config.stepping.toNat)
    (hzero : s.rd (fwPhys (s.curCore.fw.rx f.a) + 7) 1 = 0) (hctx : s.rd (fwPhys (s.curCore.fw.rx f.a) + 4) 2 < 4096)
    (hpad : ∀ b, b < 40 → memByte s.mem (fwPhys (s.curCore.fw.rx f.a) + 24 + b) = 0)
    (hother : (s.curCore.slotOf (1 - moveSlot s f)).state = .empty
      ∨ (s.curCore.slotOf (1 - moveSlot s f)).ctx.toNat ≠ s.rd (fwPhys (s.curCore.fw.rx f.a) + 4) 2) :
    ∃ m, exec (.ctxld f) s = .next ((fwMoved s).modCore s.cur.core fun k =>
        { k.modSlot (moveSlot s f) fun v =>
            { v with state := .loading, ctx := BitVec.ofNat 12 (s.rd (fwPhys (s.curCore.fw.rx f.a) + 4) 2) } with moves := k.moves ++ [m] })
      ∧ m.slot = moveSlot s f ∧ m.saving = false ∧ m.addr = s.curCore.fw.rx f.a := by
  have hok := (headerOk_iff s (s.curCore.fw.rx f.a) (otherCtx (s.curCore.slotOf (1 - moveSlot s f)))).mpr
    ⟨hmagic, hstep, hzero, hctx, hpad, otherCtx_ne hother⟩
  have hfits : ¬ ((s.curCore.slotOf (moveSlot s f)).occupied
      ∨ !headerOk s (s.curCore.fw.rx f.a) (otherCtx (s.curCore.slotOf (1 - moveSlot s f)))) :=
    not_or.mpr ⟨fun hocc => bne_iff_ne.mp hocc hempty, by rw [hok]; decide⟩
  exact ⟨loadMove s f, (exec_ctxld_eq f h).trans (congrArg Host.Outcome.next
    ((if_neg (by rw [(fwAddrOk_iff s _).mpr hown]; decide)).trans (if_neg hfits))), rfl, rfl, rfl⟩

end
end

/-! #### Invalidating translations (R316, R356) -/

theorem core_mapCores (s : State) (f : Core → Core) (c : Nat) : (s.mapCores f).core c = ((mfind s.cores c).map f).getD Core.reset := by
  rw [State.core, mget_eq_mfind, State.mapCores, mfind_map fun _ => f]

/-- No TLB holds an entry of a range that was dropped. -/
theorem dropTlbs_tlb (s : State) (tenant base len : Nat) (all : Bool) (c : Nat) {e : TlbEntry} (he : e ∈ ((dropTlbs s tenant base len all).core c).tlb)
    (ht : e.tenant = tenant) : all = false ∧ overlaps e.va e.size base len = false := by
  rw [dropTlbs, core_mapCores] at he
  cases hc : mfind s.cores c with
  | none => rw [hc] at he; exact nomatch he
  | some k =>
    rw [hc] at he
    have hkept := (List.mem_filter.mp he).2
    simpa [ht] using hkept

theorem modStream_cores (s : State) (p t : Nat) (r : Bool) (f : Stream → Stream) :
    (s.modStream p t r f).cores = s.cores ∧ (s.modStream p t r f).cur = s.cur := by
  unfold State.modStream
  extract_lets is
  split <;> exact ⟨rfl, rfl⟩

theorem transmit_cores (s : State) (p : Packet) : (s.transmit p).cores = s.cores ∧ (s.transmit p).cur = s.cur := by
  unfold State.transmit
  split
  · exact modStream_cores ..
  · exact modStream_cores s _ _ _ _

theorem send_cores (s : State) (p : Packet) : (s.send p).cores = s.cores ∧ (s.send p).cur = s.cur := by
  unfold State.send
  extract_lets q s1
  obtain ⟨hcores, hcur⟩ : s1.cores = s.cores ∧ s1.cur = s.cur := modStream_cores ..
  obtain ⟨hcores', hcur'⟩ := transmit_cores s1 q
  exact ⟨hcores'.trans hcores, hcur'.trans hcur⟩

theorem sendMgmt_cores (s : State) (dst : Nat) (b : Mgmt) : (s.sendMgmt dst b).cores = s.cores ∧ (s.sendMgmt dst b).cur = s.cur :=
  send_cores s _

theorem holdAck_cores (s : State) (tag : Nat) (v : Invalidation) : (holdAck s tag v).cores = s.cores ∧ (holdAck s tag v).cur = s.cur
    ∧ (holdAck s tag v).mem = s.mem := by
  unfold holdAck
  split <;> exact ⟨rfl, rfl, rfl⟩

theorem invalidateHere_keeps (s : State) (v : Invalidation) :
    (invalidateHere s v).cores = (dropTlbs s v.tenant v.base.toNat v.len.toNat v.all).cores
    ∧ (invalidateHere s v).cur = s.cur ∧ (invalidateHere s v).mem = s.mem := ⟨rfl, rfl, rfl⟩

/-- The invalidation that TLBINV asks of every package. -/
def Invalidation.asked (s : State) (f : CForm) : Invalidation :=
  { tenant := (s.curCore.fw.rv f.c).toNat % 4096, base := s.curCore.fw.rx f.a, len := s.curCore.fw.rx f.b, all := f.mod.getLsbD 0
    acks := BitVec.ofNat 16 (s.peers.foldl (fun m p => m + 2 ^ p) 0) }

/-- The state with the firmware fibre parked at a TLBINV, before any translation is dropped. -/
def invalidating (s : State) (f : CForm) : State :=
  s.modCore s.cur.core fun k =>
    { k with fw := { k.fw with status := .parked .tlb }, fwWait := k.fwWait.or (some (parkedWait s (.tlbinv f) 1 .tlb 0))
             inval := some { Invalidation.asked s f with acks := (Invalidation.asked s f).acks ||| ownAck s (Invalidation.asked s f) } }

/-- The translations dropped here, and every other package asked. -/
def invalidated (s : State) (f : CForm) : State :=
  let v := Invalidation.asked s f
  s.peers.foldl (fun u p => u.sendMgmt p (.invalidate v.tenant v.base v.len v.all s.cur.core))
    (invalidateHere (holdAck (invalidating s f) s.cur.core v) v)

theorem exec_tlbinv_eq {s : State} (f : CForm) (h : FirmwareRuns s f.g) :
    exec (.tlbinv f) s = .next (if !f.mod.getLsbD 0 ∧ s.curCore.fw.rx f.b = 0 then fwMoved s else invalidated s f) := by
  refine (congrArg Host.Outcome.next (h.privileged_acts _)).trans ?_
  dsimp only
  rw [putCur_fwPark h.1, modCore_comp, bitsOf_zero]
  rfl

section
variable (s : State) (f : CForm)

theorem invalidated_keeps : (invalidated s f).cores = (dropTlbs (holdAck (invalidating s f) s.cur.core (Invalidation.asked s f))
      (Invalidation.asked s f).tenant (Invalidation.asked s f).base.toNat (Invalidation.asked s f).len.toNat (Invalidation.asked s f).all).cores
    ∧ (invalidated s f).cur = s.cur ∧ (invalidated s f).mem = s.mem := by
  obtain ⟨-, hcur, hmem⟩ := holdAck_cores (invalidating s f) s.cur.core (Invalidation.asked s f)
  obtain ⟨hcores', hcur', hmem'⟩ := invalidateHere_keeps (holdAck (invalidating s f) s.cur.core (Invalidation.asked s f)) (Invalidation.asked s f)
  exact ⟨(foldl_keeps State.cores _ (fun t p => (sendMgmt_cores t p _).1) s.peers _).trans hcores',
    (foldl_keeps State.cur _ (fun t p => (sendMgmt_cores t p _).2) s.peers _).trans (hcur'.trans hcur),
    (foldl_keeps State.mem _ (fun t p => (sameMem_sendMgmt t p _).1) s.peers _).trans (hmem'.trans hmem)⟩

theorem invalidated_tlb (c : Nat) {e : TlbEntry} (he : e ∈ ((invalidated s f).core c).tlb) (ht : e.tenant = (Invalidation.asked s f).tenant) :
    (Invalidation.asked s f).all = false
    ∧ overlaps e.va e.size (Invalidation.asked s f).base.toNat (Invalidation.asked s f).len.toNat = false := by
  rw [core_keeps (invalidated_keeps s f).1] at he
  exact dropTlbs_tlb _ _ _ _ _ c he ht

theorem invalidated_curCore : (invalidated s f).curCore.fw.status = .parked .tlb ∧ (invalidated s f).curCore.inval
    = some { Invalidation.asked s f with acks := (Invalidation.asked s f).acks ||| ownAck s (Invalidation.asked s f) } := by
  obtain ⟨hcores, hcur, -⟩ := invalidated_keeps s f
  obtain ⟨hheld, -, -⟩ := holdAck_cores (invalidating s f) s.cur.core (Invalidation.asked s f)
  have hfound := (congrArg (mfind · s.cur.core) hheld).trans (mfind_mset_same s.cores s.cur.core _)
  rw [State.curCore, hcur, core_keeps hcores, dropTlbs, core_mapCores, hfound]
  exact ⟨rfl, rfl⟩

end

section
variable {s : State} (f : CForm) (h : FirmwareRuns s f.g)
include h

theorem exec_tlbinv_of_nothing (hall : f.mod.getLsbD 0 = false) (hlen : s.curCore.fw.rx f.b = 0) : exec (.tlbinv f) s = .next (fwMoved s) := by
  rw [exec_tlbinv_eq f h, if_pos ⟨by rw [hall]; rfl, hlen⟩]

theorem exec_tlbinv_of_range (hsome : f.mod.getLsbD 0 = true ∨ s.curCore.fw.rx f.b ≠ 0) : ∃ t v, exec (.tlbinv f) s = .next t
    ∧ t.curCore.fw.status = .parked .tlb ∧ t.curCore.inval = some v ∧ v.tenant = (s.curCore.fw.rv f.c).toNat % 4096
    ∧ v.base = s.curCore.fw.rx f.a ∧ v.len = s.curCore.fw.rx f.b ∧ v.all = f.mod.getLsbD 0 ∧ t.mem = s.mem
    ∧ ∀ c e, e ∈ (t.core c).tlb → e.tenant = v.tenant → v.all = false ∧ overlaps e.va e.size v.base.toNat v.len.toNat = false := by
  have hneg : ¬ ((!f.mod.getLsbD 0) = true ∧ s.curCore.fw.rx f.b = 0) := fun ⟨hall, hlen⟩ =>
    hsome.elim (fun ha => by rw [ha] at hall; exact Bool.noConfusion hall) fun hl => hl hlen
  obtain ⟨hstatus, hinval⟩ := invalidated_curCore s f
  exact ⟨invalidated s f, _, by rw [exec_tlbinv_eq f h, if_neg hneg], hstatus, hinval, rfl, rfl, rfl, rfl, (invalidated_keeps s f).2.2,
    fun c e => invalidated_tlb s f c⟩

end

/-- Settles O26: each instruction by its own equation, CTXSV and CTXLD along their checks. -/
theorem firmwareInstructions : Obligations.FirmwareInstructions := by
  unfold Obligations.FirmwareInstructions
  refine fun s => ⟨fun f h => ⟨exec_eclr f h, exec_halt f h, exec_wfi_of_event f h, exec_wfi_of_none f h⟩,
    fun f h => ⟨exec_ctxsv_of_quiet f h, fun hu => exec_ctxsv_of_misaligned f h ((live_iff _).mpr hu),
      fun hu => exec_ctxsv_of_foreign f h ((live_iff _).mpr hu), fun hu => exec_ctxsv_starts f h ((live_iff _).mpr hu),
      exec_ctxld_of_foreign f h, exec_ctxld_of_refused f h, exec_ctxld_starts f h⟩,
    fun f h => ⟨exec_tlbinv_of_nothing f h, exec_tlbinv_of_range f h⟩⟩

end Sys2Proof.Machine
end
